-- ==== Sys2Proof/Word.lean ====
section
/-! DEFINITION. The words of the machine and their plainest arithmetic. -/

namespace Sys2Proof

/-- A byte. -/
abbrev Byte := BitVec 8
/-- A 32-bit element of a vector register, or an instruction word (R34). -/
abbrev W32 := BitVec 32
/-- The contents of an s-register, and an address while it is computed. -/
abbrev W64 := BitVec 64
/-- A lane mask: bit l is lane l (R15). The thirty-two words and the summary word are views of it. -/
abbrev Mask := BitVec 1024

end Sys2Proof
end

