-- ==== Sys2Proof/Syntax.lean ====
section
/-! DEFINITION. The instructions of Lemnar-1 and the steps of the HN-920: ONE constructor for each row of
spec/opcode_table.json. The fields of an instruction word keep the letters of the table and are the bits of
the word (R38 to R41); the arguments of a step of the device, its firmware or its host say which team, core,
request or record it concerns (the agenda of Machine/State.lean names them). -/

namespace Sys2Proof

/-- Where a store performed at home comes from (R205, R210): a request held in a core's miss tracker, or one
128-byte line written by a copy engine. -/
inductive StoreSource where
  | tracker (core req : Nat)
  | copyLine (copy line : Nat)
  deriving DecidableEq, Repr, Inhabited

/-- Where an atomic performed at home comes from (R204): one line's part of a long-latency word, or a request
of RED or an ATX store in a core's miss tracker. -/
inductive AtomicSource where
  | word (team word part : Nat)
  | tracker (core req : Nat)
  deriving DecidableEq, Repr, Inhabited

/-- A barrier of a launch (R247). -/
inductive BarRef where
  | wg (grid wg num : Nat)
  | cl (grid cluster num : Nat)
  | grid (grid num : Nat)
  deriving DecidableEq, Repr, Inhabited

/-- How a collective ends at this member (R417, R418): the contributions received from every other rank, in
ascending rank and as f32 or raw element bits, or the reason it failed. -/
inductive CollOutcome where
  | received (blocks : List (List (BitVec 32)))
  | peerHalted
  | link
  | mismatch
  | peerFailed
  deriving DecidableEq, Repr, Inhabited

/-- A bind record (R265). -/
structure BindRec where
  lnum : Nat
  ctx : Nat
  teams : Nat
  succ : Bool
  restore : Bool
  hold : Bool
  wg : Nat
  ways : Nat
  slots : List Nat
  deriving DecidableEq, Repr, Inhabited

/-- One firmware image as the boot ROM finds it (R422): whether its signatures verify and its security version
is high enough, and its SHA-384 digest. -/
structure BootImage where
  accepted : Bool
  version : Nat
  digest : BitVec 384
  deriving DecidableEq, Repr, Inhabited

/-- An instruction of Lemnar-1, or one indivisible step of the device, its firmware or its host; the rows without
operands stand last. -/
inductive Instr where
  /-- CLAUSE (R43). -/
  | clause (w : BitVec 12) (a b : BitVec 4) (l : BitVec 6)
  /-- HINT_IMM (R51). -/
  | hintImm (p : BitVec 22)
  /-- HINT_SCHED (R52). -/
  | hintSched (r a b y : BitVec 1)
  /-- HINT_MOD (R53). -/
  | hintMod (c : BitVec 2) (f s e : BitVec 1) (m : BitVec 2)
  /-- HINT_SRC3 (R54). -/
  | hintSrc3 (c : BitVec 2) (r : BitVec 6)
  /-- HINT_GUARD (R55). -/
  | hintGuard (i : BitVec 1) (m : BitVec 3)
  /-- BRA (R80). -/
  | bra (o : BitVec 26)
  /-- BRC (R81). -/
  | brc (s : BitVec 6) (c : BitVec 3) (o : BitVec 17)
  /-- BRD (R86). -/
  | brd (m : BitVec 3) (p : BitVec 1) (o : BitVec 22)
  /-- MARKJ (R85). -/
  | markj (o : BitVec 26)
  /-- CALL (R80). -/
  | call (o : BitVec 26)
  /-- CALLR (R82). -/
  | callr (a : BitVec 6)
  /-- ENTER (R92). -/
  | enter (i : BitVec 8)
  /-- TRAP (R93). -/
  | trap (c : BitVec 8)
  /-- SRD (R95). -/
  | srd (d : BitVec 6) (n : BitVec 14)
  /-- SWR (R95). -/
  | swr (a : BitVec 6) (n : BitVec 14)
  /-- TIME (R393). -/
  | time (d : BitVec 6)
  /-- CLK (R101). -/
  | clk (d : BitVec 6)
  /-- TREC (R400). -/
  | trec (a : BitVec 6) (k : BitVec 8)
  /-- ICINV (R236). -/
  | icinv (a b : BitVec 6) (s : BitVec 3)
  /-- RCLR (R391). -/
  | rclr (a b : BitVec 6)
  /-- LNCH (R254). -/
  | lnch (d a : BitVec 6)
  /-- CONTSET (R361). -/
  | contset (a : BitVec 6)
  /-- SADD (R71). -/
  | sadd (d a b : BitVec 6) (k : BitVec 2) (t : BitVec 3)
  /-- SSUB (R71). -/
  | ssub (d a b : BitVec 6) (k : BitVec 2) (t : BitVec 3)
  /-- SMUL (R71). -/
  | smul (d a b : BitVec 6) (k : BitVec 2) (t : BitVec 3)
  /-- SMULH (R71). -/
  | smulh (d a b : BitVec 6) (k : BitVec 2) (t : BitVec 3)
  /-- SAND (R71). -/
  | sand (d a b : BitVec 6) (k : BitVec 2) (t : BitVec 3)
  /-- SOR (R71). -/
  | sor (d a b : BitVec 6) (k : BitVec 2) (t : BitVec 3)
  /-- SXOR (R71). -/
  | sxor (d a b : BitVec 6) (k : BitVec 2) (t : BitVec 3)
  /-- SSEL (R71). -/
  | ssel (d a b : BitVec 6) (k : BitVec 2) (t : BitVec 3)
  /-- SSHL (R71). -/
  | sshl (d a b : BitVec 6) (k : BitVec 2) (t : BitVec 3)
  /-- SSHR (R71). -/
  | sshr (d a b : BitVec 6) (k : BitVec 2) (t : BitVec 3)
  /-- SSAR (R71). -/
  | ssar (d a b : BitVec 6) (k : BitVec 2) (t : BitVec 3)
  /-- SCMP (R71). -/
  | scmp (d a b : BitVec 6) (k : BitVec 2) (t : BitVec 3)
  /-- SMIN (R71). -/
  | smin (d a b : BitVec 6) (k : BitVec 2) (t : BitVec 3)
  /-- SMAX (R71). -/
  | smax (d a b : BitVec 6) (k : BitVec 2) (t : BitVec 3)
  /-- SMOV (R71). -/
  | smov (d b : BitVec 6) (k : BitVec 2) (t : BitVec 3)
  /-- SDIV (R72). -/
  | sdiv (d a b : BitVec 6) (k : BitVec 2) (t : BitVec 3)
  /-- SMOVI (R74). -/
  | smovi (d : BitVec 6) (i : BitVec 14)
  /-- SADDI (R74). -/
  | saddi (d a : BitVec 6) (i : BitVec 14)
  /-- AADD (R77). -/
  | aadd (d a b : BitVec 6) (k : BitVec 2)
  /-- ASUB (R77). -/
  | asub (d a b : BitVec 6) (k : BitVec 2)
  /-- ASHL (R77). -/
  | ashl (d a b : BitVec 6) (k : BitVec 2)
  /-- AMOV (R77). -/
  | amov (d a b : BitVec 6)
  /-- AMOV_A (R77). -/
  | amovA (d b : BitVec 6)
  /-- ASET (R78). -/
  | aset (d a : BitVec 6) (i : BitVec 14)
  /-- AVEC (R79). -/
  | avec (d a : BitVec 6) (t : BitVec 3)
  /-- ABASE (R77). -/
  | abase (d a : BitVec 6)
  /-- ASTR (R77). -/
  | astr (d a : BitVec 6)
  /-- AOFF (R77). -/
  | aoff (d a b : BitVec 6) (k : BitVec 2)
  /-- VADD (R107). -/
  | vadd (d a b : BitVec 6) (k : BitVec 2) (g : BitVec 1) (t : BitVec 3)
  /-- VSUB (R107). -/
  | vsub (d a b : BitVec 6) (k : BitVec 2) (g : BitVec 1) (t : BitVec 3)
  /-- VMUL (R107). -/
  | vmul (d a b : BitVec 6) (k : BitVec 2) (g : BitVec 1) (t : BitVec 3)
  /-- VMULH (R107). -/
  | vmulh (d a b : BitVec 6) (k : BitVec 2) (g : BitVec 1) (t : BitVec 3)
  /-- VMAD (R107). -/
  | vmad (d a b : BitVec 6) (k : BitVec 2) (g : BitVec 1) (t : BitVec 3)
  /-- VSADD (R107). -/
  | vsadd (d a b : BitVec 6) (k : BitVec 2) (g : BitVec 1) (t : BitVec 3)
  /-- VSSUB (R107). -/
  | vssub (d a b : BitVec 6) (k : BitVec 2) (g : BitVec 1) (t : BitVec 3)
  /-- VABSD (R107). -/
  | vabsd (d a b : BitVec 6) (k : BitVec 2) (g : BitVec 1) (t : BitVec 3)
  /-- VAND (R107). -/
  | vand (d a b : BitVec 6) (k : BitVec 2) (g : BitVec 1) (t : BitVec 3)
  /-- VOR (R107). -/
  | vor (d a b : BitVec 6) (k : BitVec 2) (g : BitVec 1) (t : BitVec 3)
  /-- VXOR (R107). -/
  | vxor (d a b : BitVec 6) (k : BitVec 2) (g : BitVec 1) (t : BitVec 3)
  /-- VANDN (R107). -/
  | vandn (d a b : BitVec 6) (k : BitVec 2) (g : BitVec 1) (t : BitVec 3)
  /-- VSHL (R107). -/
  | vshl (d a b : BitVec 6) (k : BitVec 2) (g : BitVec 1) (t : BitVec 3)
  /-- VSHR (R107). -/
  | vshr (d a b : BitVec 6) (k : BitVec 2) (g : BitVec 1) (t : BitVec 3)
  /-- VSAR (R107). -/
  | vsar (d a b : BitVec 6) (k : BitVec 2) (g : BitVec 1) (t : BitVec 3)
  /-- VROT (R107). -/
  | vrot (d a b : BitVec 6) (k : BitVec 2) (g : BitVec 1) (t : BitVec 3)
  /-- VMIN (R107). -/
  | vmin (d a b : BitVec 6) (k : BitVec 2) (g : BitVec 1) (t : BitVec 3)
  /-- VMAX (R107). -/
  | vmax (d a b : BitVec 6) (k : BitVec 2) (g : BitVec 1) (t : BitVec 3)
  /-- VSEL (R107). -/
  | vsel (d a b : BitVec 6) (k : BitVec 2) (g : BitVec 1) (t : BitVec 3)
  /-- VMOV (R107). -/
  | vmov (d b : BitVec 6) (k : BitVec 2) (g : BitVec 1) (t : BitVec 3)
  /-- VCLZ (R107). -/
  | vclz (d a : BitVec 6) (g : BitVec 1) (t : BitVec 3)
  /-- VPOP (R107). -/
  | vpop (d a : BitVec 6) (g : BitVec 1) (t : BitVec 3)
  /-- VBREV (R107). -/
  | vbrev (d a : BitVec 6) (g : BitVec 1) (t : BitVec 3)
  /-- VBFE (R109). -/
  | vbfe (d a b : BitVec 6) (k : BitVec 2) (g : BitVec 1) (t : BitVec 3)
  /-- VBFI (R109). -/
  | vbfi (d a b : BitVec 6) (k : BitVec 2) (g : BitVec 1) (t : BitVec 3)
  /-- VCVTI (R110). -/
  | vcvti (d a : BitVec 6) (s : BitVec 3) (g : BitVec 1) (t : BitVec 3)
  /-- VLANE (R111). -/
  | vlane (d a : BitVec 6) (g : BitVec 1)
  /-- VDIV (R108). -/
  | vdiv (d a b : BitVec 6) (k : BitVec 2) (g : BitVec 1) (t : BitVec 3)
  /-- VCMP (R113). -/
  | vcmp (c m : BitVec 3) (a b : BitVec 6) (k : BitVec 2) (g : BitVec 1) (t : BitVec 3)
  /-- FADD (R117). -/
  | fadd (d a b : BitVec 6) (k : BitVec 2) (g : BitVec 1) (t : BitVec 3)
  /-- FSUB (R117). -/
  | fsub (d a b : BitVec 6) (k : BitVec 2) (g : BitVec 1) (t : BitVec 3)
  /-- FMUL (R117). -/
  | fmul (d a b : BitVec 6) (k : BitVec 2) (g : BitVec 1) (t : BitVec 3)
  /-- FFMA (R117). -/
  | ffma (d a b : BitVec 6) (k : BitVec 2) (g : BitVec 1) (t : BitVec 3)
  /-- FMIN (R118). -/
  | fmin (d a b : BitVec 6) (k : BitVec 2) (g : BitVec 1) (t : BitVec 3)
  /-- FMAX (R118). -/
  | fmax (d a b : BitVec 6) (k : BitVec 2) (g : BitVec 1) (t : BitVec 3)
  /-- FCPSGN (R118). -/
  | fcpsgn (d a b : BitVec 6) (k : BitVec 2) (g : BitVec 1) (t : BitVec 3)
  /-- FRND (R118). -/
  | frnd (d a : BitVec 6) (g : BitVec 1) (t : BitVec 3)
  /-- FRCP (R120). -/
  | frcp (d a : BitVec 6) (g : BitVec 1) (t : BitVec 3)
  /-- FRSQ (R120). -/
  | frsq (d a : BitVec 6) (g : BitVec 1) (t : BitVec 3)
  /-- FSQRT (R117). -/
  | fsqrt (d a : BitVec 6) (g : BitVec 1) (t : BitVec 3)
  /-- FDIV (R117). -/
  | fdiv (d a b : BitVec 6) (k : BitVec 2) (g : BitVec 1) (t : BitVec 3)
  /-- FEXP2 (R120). -/
  | fexp2 (d a : BitVec 6) (g : BitVec 1) (t : BitVec 3)
  /-- FLOG2 (R120). -/
  | flog2 (d a : BitVec 6) (g : BitVec 1) (t : BitVec 3)
  /-- FSIN (R120). -/
  | fsin (d a : BitVec 6) (g : BitVec 1) (t : BitVec 3)
  /-- FCOS (R120). -/
  | fcos (d a : BitVec 6) (g : BitVec 1) (t : BitVec 3)
  /-- FCMP (R122). -/
  | fcmp (c m : BitVec 3) (a b : BitVec 6) (k : BitVec 2) (g : BitVec 1) (t : BitVec 3)
  /-- FCVT (R123). -/
  | fcvt (d a : BitVec 6) (s : BitVec 3) (g : BitVec 1) (t : BitVec 3)
  /-- CVTI (R123). -/
  | cvti (d a : BitVec 6) (s : BitVec 3) (g : BitVec 1) (t : BitVec 3)
  /-- CVTF (R123). -/
  | cvtf (d a : BitVec 6) (s : BitVec 3) (g : BitVec 1) (t : BitVec 3)
  /-- FCLASS (R124). -/
  | fclass (d a : BitVec 6) (g : BitVec 1) (t : BitVec 3)
  /-- VSHUF (R128). -/
  | vshuf (d a b : BitVec 6) (k : BitVec 2) (g : BitVec 1) (t : BitVec 3)
  /-- VBCAST (R128). -/
  | vbcast (d a : BitVec 6) (g : BitVec 1) (t : BitVec 3)
  /-- VSCAN (R129). -/
  | vscan (d a : BitVec 6) (x f : BitVec 1) (o : BitVec 3) (g : BitVec 1) (t : BitVec 3)
  /-- VRED (R129). -/
  | vred (d a : BitVec 6) (f : BitVec 1) (o : BitVec 3) (g : BitVec 1) (t : BitVec 3)
  /-- MAND (R126). -/
  | mand (d a b : BitVec 6)
  /-- MOR (R126). -/
  | mor (d a b : BitVec 6)
  /-- MXOR (R126). -/
  | mxor (d a b : BitVec 6)
  /-- MNOT (R126). -/
  | mnot (d a : BitVec 6)
  /-- MPOP (R126). -/
  | mpop (d a : BitVec 6)
  /-- MFIRST (R126). -/
  | mfirst (d a : BitVec 6)
  /-- MTOS (R126). -/
  | mtos (d a k : BitVec 6)
  /-- STOM (R126). -/
  | stom (d a k : BitVec 6)
  /-- REGROUP (R132). -/
  | regroup (d a b : BitVec 6) (n : BitVec 4) (g : BitVec 1)
  /-- VVOTE (R130). -/
  | vvote (d a : BitVec 6) (k : BitVec 2)
  /-- VLDG (R213). -/
  | vldg (v b i : BitVec 6) (k j g : BitVec 1) (w : BitVec 3) (f c : BitVec 1)
  /-- VSTG (R213). -/
  | vstg (v b i : BitVec 6) (k j g : BitVec 1) (w : BitVec 3) (c : BitVec 1)
  /-- VLDS (R217). -/
  | vlds (v b i : BitVec 6) (k j g : BitVec 1) (w : BitVec 3) (f c : BitVec 1)
  /-- VSTS (R217). -/
  | vsts (v b i : BitVec 6) (k j g : BitVec 1) (w : BitVec 3) (c : BitVec 1)
  /-- SLD (R219). -/
  | sld (d a : BitVec 6) (o : BitVec 13) (f : BitVec 1)
  /-- SST (R219). -/
  | sst (d a : BitVec 6) (o : BitVec 13)
  /-- ATOM (R244). -/
  | atom (v o : BitVec 6) (b : BitVec 5) (p : BitVec 3) (r : BitVec 2) (s : BitVec 3) (f : BitVec 1)
  /-- ATOM64 (R244). -/
  | atom64 (v o : BitVec 6) (b : BitVec 5) (p : BitVec 3) (r : BitVec 2) (s : BitVec 3) (f : BitVec 1)
  /-- ATOMF (R245). -/
  | atomf (v o : BitVec 6) (b : BitVec 5) (p : BitVec 3) (r : BitVec 2) (s : BitVec 3) (f : BitVec 1)
  /-- FENCE (R199). -/
  | fence (s : BitVec 1) (p : BitVec 3) (o : BitVec 2)
  /-- WAITL (R252). -/
  | waitl (a b : BitVec 6) (w : BitVec 1)
  /-- PREF (R226). -/
  | pref (a : BitVec 6) (t : BitVec 2) (n : BitVec 8)
  /-- TLD (R221). -/
  | tld (d a b : BitVec 6) (f : BitVec 1) (w : BitVec 3) (k : BitVec 1)
  /-- TEX (R223). -/
  | tex (d a b : BitVec 6) (f p : BitVec 1)
  /-- TEXG (R224). -/
  | texg (d a b : BitVec 6) (f : BitVec 1) (n : BitVec 2)
  /-- TQRY (R224). -/
  | tqry (d b : BitVec 6) (f : BitVec 1)
  /-- STMAP (R228). -/
  | stmap (a b : BitVec 6) (n : BitVec 8)
  /-- STFLUSH (R229). -/
  | stflush (n : BitVec 8)
  /-- STUNMAP (R229). -/
  | stunmap (n : BitVec 8)
  /-- STQRY (R230). -/
  | stqry (d : BitVec 6) (n : BitVec 8)
  /-- CPY (R232). -/
  | cpy (a b : BitVec 6) (d : BitVec 2)
  /-- CPY2D (R232). -/
  | cpy2d (a b : BitVec 6) (d : BitVec 2)
  /-- CPYB (R233). -/
  | cpyb (d : BitVec 6)
  /-- CPYW (R233). -/
  | cpyw (a : BitVec 6)
  /-- BAR (R248). -/
  | bar (l : BitVec 2) (n : BitVec 3)
  /-- BARA (R249). -/
  | bara (l : BitVec 2) (n : BitVec 3)
  /-- BARW (R248). -/
  | barw (l : BitVec 2) (n : BitVec 3)
  /-- BARQ (R251). -/
  | barq (d : BitVec 6) (l : BitVec 2) (n : BitVec 3)
  /-- STREAM (R318). -/
  | stream (d a : BitVec 6)
  /-- QPOP (R324). -/
  | qpop (d a : BitVec 6) (f : BitVec 1)
  /-- QSTAT (R325). -/
  | qstat (d a : BitVec 6)
  /-- QCLOSE (R326). -/
  | qclose (a : BitVec 6)
  /-- MGANG (R298). -/
  | mgang (a : BitVec 6)
  /-- MMA (R302). -/
  | mma (a b : BitVec 6) (n : BitVec 1)
  /-- MDRAIN (R309). -/
  | mdrain (a b : BitVec 6) (f n : BitVec 1) (k : BitVec 2) (z s : BitVec 1)
  /-- MZERO (R312). -/
  | mzero (n : BitVec 1)
  /-- MACCRD (R313). -/
  | maccrd (d a : BitVec 6) (f n : BitVec 1)
  /-- MACCWR (R313). -/
  | maccwr (d a : BitVec 6) (n : BitVec 1)
  /-- MFMT (R315). -/
  | mfmt (a b : BitVec 6)
  /-- MQRY (R316). -/
  | mqry (d : BitVec 6) (n : BitVec 1)
  /-- LFSET (R144). -/
  | lfset (a b : BitVec 6) (c : BitVec 1)
  /-- LFSPAN (R145). -/
  | lfspan (d a b : BitVec 6)
  /-- LFINT (R149). -/
  | lfint (d a b : BitVec 6) (w l : BitVec 1)
  /-- LFZ (R146). -/
  | lfz (d a : BitVec 6) (r : BitVec 1)
  /-- LFOUT (R150). -/
  | lfout (d a b : BitVec 6) (p : BitVec 1) (s : BitVec 2)
  /-- MSHDEC (R153). -/
  | mshdec (d a b : BitVec 6)
  /-- QMERGE (R152). -/
  | qmerge (d a b : BitVec 6)
  /-- LFQRY (R151). -/
  | lfqry (d a : BitVec 6) (f : BitVec 3)
  /-- TRACE (R341). -/
  | trace (d a b : BitVec 6) (f : BitVec 1)
  /-- TRRES (R342). -/
  | trres (d : BitVec 6) (f : BitVec 1)
  /-- TRGET (R344). -/
  | trget (d : BitVec 6) (f : BitVec 1) (s : BitVec 2)
  /-- TRHIT (R345). -/
  | trhit (d a : BitVec 6)
  /-- TRSAVE (R346). -/
  | trsave (a b : BitVec 6) (p x : BitVec 1)
  /-- TRLOAD (R347). -/
  | trload (d a b : BitVec 6) (p i x : BitVec 1)
  /-- COLL (R417). -/
  | coll (d a : BitVec 6)
  /-- COLLW (R417). -/
  | collw (d a : BitVec 6) (t : BitVec 1)
  /-- KVFORK (R238). -/
  | kvfork (d a b : BitVec 6)
  /-- KVFREE (R238). -/
  | kvfree (d a b : BitVec 6)
  /-- RED (R244). -/
  | red (v o : BitVec 6) (b : BitVec 5) (p : BitVec 3) (r : BitVec 2) (s : BitVec 3)
  /-- ATX_XCHG32 (R244). -/
  | atxXchg32 (v o : BitVec 6) (b : BitVec 5) (r : BitVec 2) (s : BitVec 3) (f : BitVec 1)
  /-- ATX_CAS32 (R244). -/
  | atxCas32 (v o : BitVec 6) (b : BitVec 5) (r : BitVec 2) (s : BitVec 3) (f : BitVec 1)
  /-- ATX_LD32 (R244). -/
  | atxLd32 (v o : BitVec 6) (b : BitVec 5) (r : BitVec 2) (s : BitVec 3) (f : BitVec 1)
  /-- ATX_ST32 (R244). -/
  | atxSt32 (v o : BitVec 6) (b : BitVec 5) (r : BitVec 2) (s : BitVec 3)
  /-- ATX_XCHG64 (R244). -/
  | atxXchg64 (v o : BitVec 6) (b : BitVec 5) (r : BitVec 2) (s : BitVec 3) (f : BitVec 1)
  /-- ATX_CAS64 (R244). -/
  | atxCas64 (v o : BitVec 6) (b : BitVec 5) (r : BitVec 2) (s : BitVec 3) (f : BitVec 1)
  /-- ATX_LD64 (R244). -/
  | atxLd64 (v o : BitVec 6) (b : BitVec 5) (r : BitVec 2) (s : BitVec 3) (f : BitVec 1)
  /-- ATX_ST64 (R244). -/
  | atxSt64 (v o : BitVec 6) (b : BitVec 5) (r : BitVec 2) (s : BitVec 3)
  /-- LONG_LATENCY_COMPLETION (R42). -/
  | longLatencyCompletion (team word : Nat)
  /-- STORE_AT_HOME (R205). -/
  | storeAtHome (src : StoreSource)
  /-- LOAD_AT_HOME (R193). -/
  | loadAtHome (team word part : Nat)
  /-- ATOMIC_AT_HOME (R204). -/
  | atomicAtHome (src : AtomicSource)
  /-- FENCE_TOKEN (R206). -/
  | fenceToken (wave path : Nat)
  /-- FENCE_TOKEN_ACK (R206). -/
  | fenceTokenAck (wave path : Nat)
  /-- L1_INVALIDATE (R174). -/
  | l1Invalidate (core line : Nat)
  /-- STASH_RECALL (R182). -/
  | stashRecall (core line : Nat)
  /-- WAITL_TIMEOUT (R253). -/
  | waitlTimeout (team : Nat)
  /-- TEAM_PROMOTION (R268). -/
  | teamPromotion (team : Nat)
  /-- TIDE_PROBE (R272). -/
  | tideProbe (core origin : Nat)
  /-- TIDE_PROBE_RETURN (R272). -/
  | tideProbeReturn (core probe : Nat)
  /-- BARRIER_PHASE_COMPLETION (R247). -/
  | barrierPhaseCompletion (bar : BarRef)
  /-- BARRIER_TOKEN (R249). -/
  | barrierToken (bar : BarRef) (team : Nat)
  /-- REGROUP_EXCHANGE (R132). -/
  | regroupExchange (wg mask : Nat)
  /-- MMA_COMPLETION (R303). -/
  | mmaCompletion (team : Nat) (acc : BitVec 1)
  /-- STREAM_ENTRY_PUSH (R323). -/
  | streamEntryPush (core queue : Nat)
  /-- COPY_COMPLETION (R234). -/
  | copyCompletion (copy : Nat)
  /-- COLLECTIVE_COMPLETION (R416). -/
  | collectiveCompletion (coll : Nat) (outcome : CollOutcome)
  /-- COLLECTIVE_TIMEOUT (R418). -/
  | collectiveTimeout (coll : Nat)
  /-- COLLECTIVE_HALT (R419). -/
  | collectiveHalt (coll : Nat)
  /-- COLLECTIVE_RESUME (R419). -/
  | collectiveResume (coll : Nat)
  /-- HALT_LIMIT_EXPIRY (R419). -/
  | haltLimitExpiry (coll : Nat)
  /-- NOTIFICATION_WRITE (R259). -/
  | notificationWrite (ctx : Nat) (value : BitVec 64)
  /-- LAUNCH_VALIDATION (R257). -/
  | launchValidation (grid : Nat)
  /-- DEPENDENCE_POLL (R261). -/
  | dependencePoll (grid : Nat)
  /-- GRID_START (R26). -/
  | gridStart (grid : Nat)
  /-- BIND_RECORD (R266). -/
  | bindRecord (core : Nat) (rec : BindRec)
  /-- GROUP_START (R267). -/
  | groupStart (grid group : Nat)
  /-- TEAM_START (R25). -/
  | teamStart (team : Nat)
  /-- GRID_COMPLETION (R261). -/
  | gridCompletion (grid : Nat)
  /-- PREEMPTION_DECISION (R365). -/
  | preemptionDecision (ctx : Nat) (cores : List Nat)
  /-- DRAIN_DEADLINE (R365). -/
  | drainDeadline (ctx die : Nat)
  /-- SAVE_COMPLETE (R366). -/
  | saveComplete (ctx die : Nat)
  /-- SAVE_DEADLINE (R365). -/
  | saveDeadline (ctx : Nat)
  /-- CONTEXT_RESTORE (R369). -/
  | contextRestore (core : Nat) (rec : BindRec)
  /-- TRACE_SAMPLE (R401). -/
  | traceSample (core port : Nat)
  /-- WRINGER_FRAME (R404). -/
  | wringerFrame (die : Nat)
  /-- TIME_SYNC_EXCHANGE (R392). -/
  | timeSyncExchange (die reading bound : Nat)
  /-- DOMAIN_TIME_EXCHANGE (R392). -/
  | domainTimeExchange (slew bound : Nat) (locked : Bool)
  /-- HOST_ACCESS (R207). -/
  | hostAccess (addr : Nat) (bytes : List (BitVec 8)) (write : Bool)
  /-- SHORELINE_LINK_FAILURE (R420). -/
  | shorelineLinkFailure (dieA dieB : Nat)
  /-- FABRIC_ROUTE_LOSS (R414). -/
  | fabricRouteLoss (module : Nat)
  /-- THERMAL_THROTTLE (R424). -/
  | thermalThrottle (die mhz : Nat)
  /-- MODULE_RESET (R422). -/
  | moduleReset (images : List BootImage)
  /-- REGISTER_WRITE (R407). -/
  | registerWrite (offset value : Nat)
  /-- WORD_NOT_AN_INSTRUCTION (R63). -/
  | wordNotAnInstruction (w : BitVec 32)
  /-- SAMPLER_INVALIDATION (R159). -/
  | samplerInvalidation (wave core : Nat)
  /-- INSTRUCTION_CACHE_INVALIDATION (R236). -/
  | instructionCacheInvalidation (wave core : Nat)
  /-- STORE_ACKNOWLEDGEMENT (R179). -/
  | storeAcknowledgement (core req : Nat)
  /-- WATCH_REPORT (R399). -/
  | watchReport (report : Nat)
  /-- WAKE_WITHOUT_NOTICE (R253). -/
  | wakeWithoutNotice (team : Nat)
  /-- STALL_ACCOUNT_CLOCK (R271). -/
  | stallAccountClock (core port : Nat)
  /-- DVFS_CLOCK_CHANGE (R424). -/
  | dvfsClockChange (die mhz : Nat)
  /-- JOIN (R87). -/
  | join
  /-- RET (R82). -/
  | ret
  /-- EXIT (R88). -/
  | exit
  /-- NOP (R91). -/
  | nop
  /-- YIELD (R91). -/
  | yield
  /-- SEAM (R92). -/
  | seam
  /-- LEAVE (R92). -/
  | leave
  /-- BKPT (R93). -/
  | bkpt
  /-- ISYNC (R94). -/
  | isync
  /-- CRESUME (R361). -/
  | cresume
  /-- RACE_EPOCH_ADVANCE (R380). -/
  | raceEpochAdvance
  /-- THERMAL_SHUTDOWN (R424). -/
  | thermalShutdown
  /-- RESYNC (R413). -/
  | resync
  /-- START (R409). -/
  | start
  /-- CTXNEW (R411). -/
  | ctxnew
  /-- CTXFREE (R408). -/
  | ctxfree
  /-- QREG (R408). -/
  | qreg
  /-- INVAL (R170). -/
  | inval
  /-- RESIDENT (R173). -/
  | resident
  /-- HALT (R395). -/
  | halt
  /-- RELEASE (R395). -/
  | release
  /-- GROUP (R415). -/
  | group
  /-- KEYLOAD (R423). -/
  | keyload
  /-- ATTEST (R423). -/
  | attest
  /-- SINKRST (R404). -/
  | sinkrst
  deriving DecidableEq, Repr, Inhabited

end Sys2Proof
end

