-- ==== Sys2Proof/Machine/Info.lean ====
section
/-! DEFINITION. What the description of each instruction word says of the word itself: the registers it reads and
writes, the fields and types it accepts, the hints it takes and its place in its clause (R36 to R55, R62 to R67,
and the chapters of each family). The checks of ILLEGAL, the region contract (R352) and the hazard check (R48)
all read this one table. -/

namespace Sys2Proof.Machine

/-- The register classes (R41, R353). -/
inductive RC where
  | v | s | a | m | i | q
  deriving DecidableEq, Repr, Inhabited

/-- A use of `cnt` registers of a class, from number `num` on. -/
structure Use where
  cls : RC
  num : Nat
  cnt : Nat := 1
  deriving DecidableEq, Repr, Inhabited

/-- The sets of R352: one bit for every register of v0-v63, s0-s63, a0-a31, m0-m7 and i0-i3. -/
abbrev RegSet := BitVec 172

/-- The first bit of a class in a register set. -/
def RC.base : RC → Nat
  | .v => 0 | .s => 64 | .a => 128 | .m => 160 | .i => 168 | .q => 172

/-- How many registers a class has; `vregs` is the launch's count (R41). -/
def RC.size (vregs : Nat) : RC → Nat
  | .v => vregs | .s => 64 | .a => 32 | .m => 8 | .i => 4 | .q => 8

/-- The code of a class in a CONTRACT record (R353). -/
def RC.code : RC → Nat
  | .v => 0 | .s => 1 | .a => 2 | .m => 3 | .i => 4 | .q => 5

/-- The bits of one use in a register set. -/
def Use.set (u : Use) : RegSet :=
  if u.cls = .q then 0
  else (BitVec.ofNat 172 (2 ^ u.cnt - 1)) <<< (u.cls.base + u.num)

/-- The bits of a list of uses. -/
def useSet (l : List Use) : RegSet := l.foldl (fun r u => r ||| u.set) 0

/-- Whether SAT applies to a word (R73, R112, R119). -/
inductive SatRule where
  | no
  | yes
  | badType
  deriving DecidableEq, Repr, Inhabited

/-- What is known of a word before it runs. -/
structure Info where
  /-- registers read, the third source apart -/
  reads : List Use := []
  /-- registers written by the word in the region it issues in -/
  writes : List Use := []
  /-- registers written at the word's own completion seam (R352) -/
  seamWrites : List Use := []
  /-- register numbers with the multiple they must be of (detail 0x06) -/
  align : List (Nat × Nat) := []
  /-- a reserved code (detail 0x03) -/
  bad3 : Bool := false
  /-- a field value that must be zero, or out of its range (detail 0x04) -/
  bad4 : Bool := false
  /-- a TY, W, ORD, SCOPE or BK that is not accepted (detail 0x07) -/
  bad7 : Bool := false
  /-- a register field outside its class that `reads` and `writes` do not show (detail 0x05) -/
  bad5 : Bool := false
  /-- SETA or SETB of 12 to 14 in a header (detail 0x0B) -/
  badB : Bool := false
  /-- registers a hint word names, limited by R41 as if read -/
  named : List Use := []
  /-- must be the last word of its clause (detail 0x08) -/
  last : Bool := false
  /-- a clause header -/
  header : Bool := false
  /-- a hint word -/
  hint : Bool := false
  /-- the flag choice of a long-latency word (R44) -/
  fs : Option (BitVec 1) := none
  /-- the word's own immediate: its width and whether it is signed (R51) -/
  imm : Option (Nat × Bool) := none
  /-- the own bits of that immediate -/
  own : Nat := 0
  /-- the widened immediate above which the word is refused (R92) -/
  immMax : Option Nat := none
  /-- RM and RMEN apply (R114) -/
  rm : Bool := false
  /-- FTZ applies -/
  ftz : Bool := false
  sat : SatRule := .no
  /-- CACHE applies (R53) -/
  cache : Bool := false
  /-- HINT.SCHED does not apply (R142, R220) -/
  noSched : Bool := false
  /-- no HINT.MOD applies, be all its fields zero (R142, R301, R339) -/
  noMod : Bool := false
  /-- a format M word with CP = 1 -/
  streaming : Bool := false
  /-- the third source as it stands without a hint, and the classes a SRC3 hint may name (R54) -/
  third : Option (Use × List RC) := none
  /-- the G bit, in a word that has one (R55) -/
  guard : Option (BitVec 1) := none
  /-- swept in passes (R17) -/
  vector : Bool := false
  /-- the feature of the feature vector that the word's major needs (R410) -/
  feature : Option Nat := none
  deriving Repr

/-- The detail codes a word fails by its own fields (R66). Every register of a pair or a group is counted as one that the
word names, also where the first is not aligned, so that a tail past the end of its class (s64 of a TIME or an SDIV with D = 63, an
odd pair at vregs - 1) gives 0x05. (DESIGN CHOICE, log entry 72) -/
def Info.details (f : Info) (vregs : Nat) : List Nat :=
  let uses := f.reads ++ f.writes ++ f.seamWrites ++ f.named ++ (match f.third with | some (u, _) => [u] | none => [])
  (if f.bad3 then [0x03] else []) ++ (if f.bad4 then [0x04] else []) ++
  (if f.bad5 || uses.any (fun u => decide (u.cls.size vregs < u.num + u.cnt)) then [0x05] else []) ++
  (if f.align.any (fun p => decide (p.1 % p.2 ≠ 0)) then [0x06] else []) ++
  (if f.bad7 then [0x07] else []) ++ (if f.badB then [0x0B] else [])

/-! ### Building blocks -/

/-- Bit widths of a 32-bit or 64-bit element: how many registers a value of an integer type takes (R103). -/
def intCnt (t : BitVec 3) : Nat := if t = 2 ∨ t = 3 ∨ t = 7 then 2 else 1

/-- The same for a float type. -/
def fltCnt (t : BitVec 3) : Nat := if t = 3 then 2 else 1

/-- A pair or group must start at a multiple of its size (R41). -/
def alignOf (n : BitVec 6) (cnt : Nat) : List (Nat × Nat) := if cnt ≤ 1 then [] else [(n.toNat, cnt)]

/-- The registers that the B operand of a vector word reads (R103). -/
def useB (b : BitVec 6) (k : BitVec 2) (cnt : Nat) : List Use :=
  if k = 0 then [⟨.v, b.toNat, cnt⟩] else if k = 1 then [⟨.s, b.toNat, 1⟩] else if k = 2 then [⟨.a, b.toNat, 1⟩] else []

/-- The immediate of a B field. -/
def immB (k : BitVec 2) : Option (Nat × Bool) := if k = 3 then some (6, true) else none

/-- A scalar word of majors 0x0A to 0x0D (R69). -/
def infoScalar (d a b : BitVec 6) (k : BitVec 2) (t : BitVec 3) : Info :=
  { reads := ⟨.s, a.toNat, 1⟩ :: (if k = 1 then [⟨.s, b.toNat, 1⟩] else []), writes := [⟨.s, d.toNat, 1⟩],
    bad7 := t = 4 ∨ t = 5 ∨ k = 0 ∨ k = 2, imm := immB k, own := b.toNat }

/-- SADD and SSUB take SAT on the types .s32, .n32, .s64 and .n64 (R73). -/
def satScalar (t : BitVec 3) : SatRule := if t.ult 4 then .yes else .badType

/-- The registers that the B operand of an affine word names (R39, R77): under a BK that the word does not accept, none. -/
def useAffine (b : BitVec 6) (k : BitVec 2) (takesA : Bool) : List Use :=
  if k = 1 then [⟨.s, b.toNat, 1⟩] else if k = 2 ∧ takesA then [⟨.a, b.toNat, 1⟩] else []

/-- An affine word with a B operand (R76, R77). As in a scalar word, B names no register under a BK that is not accepted, so that the word
reports 0x07 alone. (DESIGN CHOICE, log entry 72) -/
def infoAffine (d a b : BitVec 6) (k : BitVec 2) (takesA : Bool) : Info :=
  { reads := ⟨.a, a.toNat, 1⟩ :: useAffine b k takesA, writes := [⟨.a, d.toNat, 1⟩],
    bad7 := k = 0 || (k = 2 && !takesA), imm := immB k, own := b.toNat }

/-- A vector word of two operands (R103 to R105). -/
def infoVec (cnt : Nat) (ok : Bool) (d a b : BitVec 6) (k : BitVec 2) (g : BitVec 1) : Info :=
  { reads := ⟨.v, a.toNat, cnt⟩ :: useB b k cnt, writes := [⟨.v, d.toNat, cnt⟩],
    align := alignOf d cnt ++ alignOf a cnt ++ (if k = 0 then alignOf b cnt else []),
    bad7 := !ok, imm := immB k, own := b.toNat, guard := some g, vector := true }

/-- A vector word of one operand. -/
def infoVec1 (cd ca : Nat) (ok : Bool) (d a : BitVec 6) (g : BitVec 1) : Info :=
  { reads := [⟨.v, a.toNat, ca⟩], writes := [⟨.v, d.toNat, cd⟩], align := alignOf d cd ++ alignOf a ca,
    bad7 := !ok, guard := some g, vector := true }

/-- The types of R106. -/
def tyArith (t : BitVec 3) : Bool := t.ult 6
def tyLow (t : BitVec 3) : Bool := t.ult 4
def tyBits (t : BitVec 3) : Bool := t = 6 ∨ t = 7
def tyCmp (t : BitVec 3) : Bool := t.ult 4 || t = 6 || t = 7

/-- The third source of a vector word (R104). -/
def thirdV (d : BitVec 6) (cnt : Nat) : Option (Use × List RC) := some (⟨.v, d.toNat, cnt⟩, [.v, .s, .a])

/-- An integer word of two operands. -/
def infoInt (ok : Bool) (d a b : BitVec 6) (k : BitVec 2) (g : BitVec 1) (t : BitVec 3) : Info :=
  infoVec (intCnt t) ok d a b k g

/-- SAT on VADD, VSUB and VMAD: types s and n (R112). -/
def infoIntSat (d a b : BitVec 6) (k : BitVec 2) (g : BitVec 1) (t : BitVec 3) : Info :=
  { infoInt (tyArith t) d a b k g t with sat := .yes }

/-- A float word of two operands (R117). -/
def infoFlt (d a b : BitVec 6) (k : BitVec 2) (g : BitVec 1) (t : BitVec 3) : Info :=
  { infoVec (fltCnt t) (tyLow t) d a b k g with ftz := true }

/-- A float word of one operand. -/
def infoFlt1 (ok : Bool) (d a : BitVec 6) (g : BitVec 1) (t : BitVec 3) : Info :=
  { infoVec1 (fltCnt t) (fltCnt t) ok d a g with ftz := true }

/-- A mask word (R125, R126). -/
def infoMask (cd : RC) (d : BitVec 6) (ca : RC) (a : BitVec 6) : Info :=
  { reads := [⟨ca, a.toNat, 1⟩], writes := [⟨cd, d.toNat, 1⟩] }

/-- How many registers an access width takes (R215). -/
def widthCnt (w : BitVec 3) : Nat := if w = 3 then 2 else if w = 4 then 4 else 1

/-- The address operands of a format M word (R214). -/
def infoAddr (b i : BitVec 6) (k j : BitVec 1) : List Use :=
  (if k = 0 then ⟨.s, b.toNat, 1⟩ else ⟨.a, b.toNat, 1⟩) :: (if j = 0 then [⟨.v, i.toNat, 1⟩] else [])

/-- A vector load (R213 to R218). -/
def infoLoad (v b i : BitVec 6) (k j g : BitVec 1) (w : BitVec 3) (f c : BitVec 1) : Info :=
  { reads := infoAddr b i k j, writes := [⟨.v, v.toNat, widthCnt w⟩], align := alignOf v (widthCnt w), bad7 := w = 7,
    imm := if j = 1 then some (6, true) else none, own := i.toNat, fs := some f, cache := true, streaming := c = 1,
    guard := some g, vector := true }

/-- A vector store. -/
def infoStore (v b i : BitVec 6) (k j g : BitVec 1) (w : BitVec 3) (c : BitVec 1) : Info :=
  { reads := ⟨.v, v.toNat, widthCnt w⟩ :: infoAddr b i k j, align := alignOf v (widthCnt w),
    bad7 := w = 5 ∨ w = 6 ∨ w = 7,
    imm := if j = 1 then some (6, true) else none, own := i.toNat, cache := true, streaming := c = 1,
    guard := some g, vector := true }

/-- An atomic word (R242, R243): `nr` registers of operand, `nw` written, `al` the alignment of VD. -/
def infoAtomic (v o : BitVec 6) (b : BitVec 5) (nr nw al : Nat) (bad7 bad3 : Bool) (fs : Option (BitVec 1)) : Info :=
  { reads := (if nr = 0 then [] else [⟨.v, v.toNat, nr⟩]) ++ [⟨.v, o.toNat, 1⟩, ⟨.a, b.toNat, 1⟩],
    seamWrites := if nw = 0 then [] else [⟨.v, v.toNat, nw⟩], align := alignOf v al, bad7 := bad7, bad3 := bad3, fs := fs,
    cache := true, vector := true }

/-- SCOPE 110 and 111 are not accepted (R40). -/
def badScope (s : BitVec 3) : Bool := s = 6 ∨ s = 7

/-- A uniform word that reads and writes s-registers. -/
def infoUni (reads writes : List (BitVec 6)) : Info :=
  { reads := reads.map (fun r => ⟨.s, r.toNat, 1⟩), writes := writes.map (fun r => ⟨.s, r.toNat, 1⟩) }

/-- A barrier word (R248). -/
def infoBar (l : BitVec 2) (n : BitVec 3) : Info :=
  { bad7 := l = 3, bad4 := (l = 1 ∧ 3 < n.toNat) ∨ (l = 2 ∧ 1 < n.toNat) }

/-- The system registers an SRD reads (R95, R96). -/
def sysAssigned (n : Nat) : Bool :=
  [0x0000, 0x0001, 0x0002, 0x0003, 0x0100, 0x0101, 0x0200, 0x0210, 0x0220, 0x0400, 0x0401, 0x0410, 0x0500, 0x0501,
   0x0502, 0x0600, 0x0601, 0x0602, 0x0700, 0x0701, 0x0702, 0x0703, 0x0704, 0x0800, 0x0801, 0x0802, 0x0803, 0x0804,
   0x0900, 0x0908].contains n
  || (0x0708 ≤ n && n ≤ 0x070F) || (0x0808 ≤ n && n ≤ 0x080F)
  || (0x0910 ≤ n && n ≤ 0x092F && (n - 0x0910) % 4 < 3) || (0x0940 ≤ n && n ≤ 0x0948) || (0x0950 ≤ n && n ≤ 0x095B)

/-- The registers whose fields are not all RO (R97, R100, R156, R314, R338): an SWR to any other traps (R95). -/
def sysWritable (n : Nat) : Bool :=
  [0x0000, 0x0400, 0x0401, 0x0410, 0x0500, 0x0501, 0x0502, 0x0602].contains n

/-- The registers of FCVT (R123): those of the destination and those of the source. -/
def fcvtCnt (t s : BitVec 3) : Nat × Nat :=
  if s = 0 ∧ (t = 1 ∨ t = 2) then (1, 2)
  else if t = 0 ∧ (s = 1 ∨ s = 2) then (2, 1)
  else (fltCnt t, fltCnt s)

/-- The combinations FCVT accepts. -/
def fcvtOk (t s : BitVec 3) : Bool :=
  t.ult 4 && s.ult 4 && t != s && !((t = 3 && (s = 1 || s = 2)) || (s = 3 && (t = 1 || t = 2)))

/-- The types that VSCAN and VRED accept (R129). -/
def scanOk (f : BitVec 1) (o : BitVec 3) (t : BitVec 3) : Bool :=
  if o.ult 3 then t.ult 4 else f = 0 && (t = 6 || t = 7)

/-- How many registers an element of VSCAN or VRED takes. -/
def scanCnt (f : BitVec 1) (t : BitVec 3) : Nat := if f = 1 then fltCnt t else intCnt t

/-- The one table: what the chapters say of each word. A step of the device, its firmware or its host is no word. HINT.IMM does not apply
to ICINV, whose IMM8 holds a code (R51, R236). (DESIGN CHOICE, log entry 72) -/
def info : Instr → Info
  | .clause _ a b _ => { header := true, badB := (12 ≤ a.toNat ∧ a.toNat ≤ 14) ∨ (12 ≤ b.toNat ∧ b.toNat ≤ 14) }
  | .hintImm _ => { hint := true }
  | .hintSched _ _ _ _ => { hint := true }
  | .hintMod c _ _ _ _ => { hint := true, bad3 := c = 3 }
  | .hintSrc3 c r => { hint := true, bad3 := c = 3, named := if c = 0 then [⟨.v, r.toNat, 1⟩] else if c = 2 then [⟨.a, r.toNat, 1⟩] else [] }
  | .hintGuard _ _ => { hint := true }
  | .bra _ => { last := true }
  | .brc s c _ => { infoUni [s] [] with last := true, bad3 := c = 7 }
  | .brd m _ _ => { reads := [⟨.m, m.toNat, 1⟩], last := true }
  | .markj _ => {}
  | .call _ => { infoUni [] [63] with last := true }
  | .join => { last := true }
  | .ret => { infoUni [63] [] with last := true }
  | .callr a => { infoUni [a] [63] with last := true }
  | .exit => { last := true }
  | .nop => {}
  | .yield => {}
  | .seam => {}
  | .enter i => { imm := some (8, false), own := i.toNat, immMax := some 0xFFFF }
  | .leave => {}
  | .bkpt => {}
  | .trap _ => {}
  | .isync => { last := true }
  | .srd d n => { infoUni [] [d] with bad3 := !sysAssigned n.toNat }
  | .swr a n => { infoUni [a] [] with bad3 := !sysWritable n.toNat }
  | .time d => { infoUni [] [] with writes := [⟨.s, d.toNat, 2⟩], align := alignOf d 2 }
  | .clk d => infoUni [] [d]
  | .trec a _ => infoUni [a] []
  | .icinv a b s => { infoUni [a, b] [] with bad7 := 4 < s.toNat }
  | .rclr a b => infoUni [a, b] []
  | .lnch d a => infoUni [a] [d]
  | .contset a => infoUni [a] []
  | .cresume => { last := true }
  | .sadd d a b k t => { infoScalar d a b k t with sat := satScalar t }
  | .ssub d a b k t => { infoScalar d a b k t with sat := satScalar t }
  | .smul d a b k t => infoScalar d a b k t
  | .smulh d a b k t => infoScalar d a b k t
  | .sand d a b k t => infoScalar d a b k t
  | .sor d a b k t => infoScalar d a b k t
  | .sxor d a b k t => infoScalar d a b k t
  | .ssel d a b k t => { infoScalar d a b k t with third := some (⟨.s, d.toNat, 1⟩, [.s]) }
  | .sshl d a b k t => infoScalar d a b k t
  | .sshr d a b k t => infoScalar d a b k t
  | .ssar d a b k t => infoScalar d a b k t
  | .scmp d a b k t => infoScalar d a b k t
  | .smin d a b k t => infoScalar d a b k t
  | .smax d a b k t => infoScalar d a b k t
  | .smov d b k t => { infoScalar d 0 b k t with reads := if k = 1 then [⟨.s, b.toNat, 1⟩] else [] }
  | .sdiv d a b k t => { infoScalar d a b k t with writes := [⟨.s, d.toNat, 2⟩], align := alignOf d 2 }
  | .smovi d i => { infoUni [] [d] with imm := some (14, true), own := i.toNat }
  | .saddi d a i => { infoUni [a] [d] with imm := some (14, true), own := i.toNat }
  | .aadd d a b k => infoAffine d a b k true
  | .asub d a b k => infoAffine d a b k true
  | .ashl d a b k => infoAffine d a b k false
  | .amov d a b => { reads := [⟨.s, a.toNat, 1⟩, ⟨.s, b.toNat, 1⟩], writes := [⟨.a, d.toNat, 1⟩] }
  | .amovA d b => { reads := [⟨.a, b.toNat, 1⟩], writes := [⟨.a, d.toNat, 1⟩] }
  | .aset d a i => { reads := [⟨.s, a.toNat, 1⟩], writes := [⟨.a, d.toNat, 1⟩], imm := some (14, true), own := i.toNat }
  | .avec d a t => { reads := [⟨.a, a.toNat, 1⟩], writes := [⟨.v, d.toNat, if t = 7 then 2 else 1⟩], align := alignOf d (if t = 7 then 2 else 1), bad7 := t ≠ 0 ∧ t ≠ 7, vector := true }
  | .abase d a => { reads := [⟨.a, a.toNat, 1⟩], writes := [⟨.s, d.toNat, 1⟩] }
  | .astr d a => { reads := [⟨.a, a.toNat, 1⟩], writes := [⟨.s, d.toNat, 1⟩] }
  | .aoff d a b k => infoAffine d a b k false
  | .vadd d a b k g t => infoIntSat d a b k g t
  | .vsub d a b k g t => infoIntSat d a b k g t
  | .vmul d a b k g t => infoInt (tyArith t) d a b k g t
  | .vmulh d a b k g t => infoInt (tyArith t) d a b k g t
  | .vmad d a b k g t => { infoIntSat d a b k g t with third := thirdV d (intCnt t) }
  | .vsadd d a b k g t => infoInt (tyArith t) d a b k g t
  | .vssub d a b k g t => infoInt (tyArith t) d a b k g t
  | .vabsd d a b k g t => infoInt (tyArith t) d a b k g t
  | .vand d a b k g t => infoInt (tyBits t) d a b k g t
  | .vor d a b k g t => infoInt (tyBits t) d a b k g t
  | .vxor d a b k g t => infoInt (tyBits t) d a b k g t
  | .vandn d a b k g t => infoInt (tyBits t) d a b k g t
  | .vshl d a b k g t => infoInt (tyBits t) d a b k g t
  | .vshr d a b k g t => infoInt (tyBits t) d a b k g t
  | .vsar d a b k g t => infoInt (tyBits t) d a b k g t
  | .vrot d a b k g t => infoInt (tyBits t) d a b k g t
  | .vmin d a b k g t => infoInt (tyArith t) d a b k g t
  | .vmax d a b k g t => infoInt (tyArith t) d a b k g t
  | .vsel d a b k g t => { infoInt (tyBits t) d a b k g t with third := thirdV d (intCnt t) }
  | .vmov d b k g t => { infoInt (tyBits t) d 0 b k g t with reads := useB b k (intCnt t) }
  | .vclz d a g t => infoVec1 (intCnt t) (intCnt t) (tyBits t) d a g
  | .vpop d a g t => infoVec1 (intCnt t) (intCnt t) (tyBits t) d a g
  | .vbrev d a g t => infoVec1 (intCnt t) (intCnt t) (tyBits t) d a g
  | .vbfe d a b k g t => infoInt (tyLow t) d a b k g t
  | .vbfi d a b k g t => { infoInt (tyBits t) d a b k g t with third := thirdV d (intCnt t) }
  | .vcvti d a s g t => { infoVec1 (intCnt t) (intCnt s) (tyLow t && tyLow s) d a g with sat := .yes }
  | .vlane d a g => { reads := [⟨.m, a.toNat, 1⟩], writes := [⟨.v, d.toNat, 1⟩], guard := some g, vector := true }
  | .vdiv d a b k g t => { infoInt (tyLow t) d a b k g t with writes := [⟨.v, d.toNat, 2 * intCnt t⟩], align := alignOf d (2 * intCnt t) ++ alignOf a (intCnt t) ++ (if k = 0 then alignOf b (intCnt t) else []) }
  | .vcmp c m a b k g t => { infoInt (tyCmp t) 0 a b k g t with bad3 := c = 7, writes := [⟨.m, m.toNat, 1⟩], align := alignOf a (intCnt t) ++ (if k = 0 then alignOf b (intCnt t) else []) }
  | .fadd d a b k g t => { infoFlt d a b k g t with rm := true, sat := .yes }
  | .fsub d a b k g t => { infoFlt d a b k g t with rm := true, sat := .yes }
  | .fmul d a b k g t => { infoFlt d a b k g t with rm := true, sat := .yes }
  | .ffma d a b k g t => { infoFlt d a b k g t with rm := true, sat := .yes, third := thirdV d (fltCnt t) }
  | .fmin d a b k g t => infoFlt d a b k g t
  | .fmax d a b k g t => infoFlt d a b k g t
  | .fcpsgn d a b k g t => { infoFlt d a b k g t with ftz := false }
  | .frnd d a g t => { infoFlt1 (tyLow t) d a g t with rm := true }
  | .frcp d a g t => infoFlt1 (t.ult 3) d a g t
  | .frsq d a g t => infoFlt1 (t.ult 3) d a g t
  | .fsqrt d a g t => { infoFlt1 (tyLow t) d a g t with rm := true }
  | .fdiv d a b k g t => { infoFlt d a b k g t with rm := true }
  | .fexp2 d a g t => infoFlt1 (t.ult 3) d a g t
  | .flog2 d a g t => infoFlt1 (t.ult 3) d a g t
  | .fsin d a g t => infoFlt1 (t.ult 3) d a g t
  | .fcos d a g t => infoFlt1 (t.ult 3) d a g t
  | .fcmp _ m a b k g t => { infoFlt 0 a b k g t with bad7 := t ≠ 0 ∧ t ≠ 3, writes := [⟨.m, m.toNat, 1⟩], align := alignOf a (fltCnt t) ++ (if k = 0 then alignOf b (fltCnt t) else []) }
  | .fcvt d a s g t => { infoVec1 (fcvtCnt t s).1 (fcvtCnt t s).2 (fcvtOk t s) d a g with rm := true, ftz := true, sat := .yes }
  | .cvti d a s g t => { infoVec1 (intCnt t) (fltCnt s) (tyLow t && (s = 0 || s = 3)) d a g with rm := true, ftz := true }
  | .cvtf d a s g t => { infoVec1 (fltCnt t) (intCnt s) (tyLow s && (t = 0 || t = 3)) d a g with rm := true, ftz := true }
  | .fclass d a g t => infoVec1 1 (fltCnt t) (tyLow t) d a g
  | .vshuf d a b k g t => infoInt (tyBits t) d a b k g t
  | .vbcast d a g t => infoVec1 (intCnt t) (intCnt t) (tyBits t) d a g
  | .vscan d a _ f o g t => { infoVec1 (scanCnt f t) (scanCnt f t) (scanOk f o t) d a g with bad3 := 5 < o.toNat, rm := f = 1, ftz := f = 1 }
  | .vred d a f o g t => { infoVec1 1 (scanCnt f t) (scanOk f o t) d a g with bad3 := 5 < o.toNat, rm := f = 1, ftz := f = 1, writes := [⟨.s, d.toNat, 1⟩], align := alignOf a (scanCnt f t) }
  | .mand d a b => { reads := [⟨.m, a.toNat, 1⟩, ⟨.m, b.toNat, 1⟩], writes := [⟨.m, d.toNat, 1⟩] }
  | .mor d a b => { reads := [⟨.m, a.toNat, 1⟩, ⟨.m, b.toNat, 1⟩], writes := [⟨.m, d.toNat, 1⟩] }
  | .mxor d a b => { reads := [⟨.m, a.toNat, 1⟩, ⟨.m, b.toNat, 1⟩], writes := [⟨.m, d.toNat, 1⟩] }
  | .mnot d a => infoMask .m d .m a
  | .mpop d a => infoMask .s d .m a
  | .mfirst d a => infoMask .s d .m a
  | .mtos d a k => { infoMask .s d .m a with bad4 := 15 < k.toNat }
  | .stom d a k => { infoMask .m d .s a with bad4 := 15 < k.toNat }
  | .regroup d a b n _ => { reads := [⟨.v, a.toNat, 1⟩, ⟨.v, d.toNat, n.toNat + 1⟩, ⟨.m, b.toNat, 1⟩], seamWrites := [⟨.v, d.toNat, n.toNat + 1⟩, ⟨.m, b.toNat, 1⟩], vector := true }
  | .vvote d a k => { reads := [⟨.v, a.toNat, 1⟩], writes := [if k = 2 then ⟨.m, d.toNat, 1⟩ else ⟨.s, d.toNat, 1⟩], vector := true }
  | .vldg v b i k j g w f c => infoLoad v b i k j g w f c
  | .vstg v b i k j g w c => infoStore v b i k j g w c
  | .vlds v b i k j g w f c => infoLoad v b i k j g w f c
  | .vsts v b i k j g w c => infoStore v b i k j g w c
  | .sld d a o f => { infoUni [a] [d] with imm := some (13, true), own := o.toNat, fs := some f }
  | .sst d a o => { infoUni [d, a] [] with imm := some (13, true), own := o.toNat }
  | .atom v o b _ _ s f => infoAtomic v o b 1 1 1 (badScope s) false (some f)
  | .atom64 v o b _ _ s f => infoAtomic v o b 2 2 2 (badScope s) false (some f)
  | .atomf v o b p _ s f => infoAtomic v o b 1 1 1 (badScope s) (4 < p.toNat) (some f)
  | .fence _ p _ => { bad7 := badScope p }
  | .waitl a b _ => infoUni [a, b] []
  | .pref a t _ => { infoUni [a] [] with bad7 := t = 3 }
  | .tld d a b f w k => { reads := ⟨.a, a.toNat, 1⟩ :: (if k = 0 then [⟨.v, b.toNat, 1⟩] else []), writes := [⟨.v, d.toNat, widthCnt w⟩], align := alignOf d (widthCnt w), bad7 := w = 7, fs := some f, cache := true, vector := true, noSched := true }
  | .tex d a b f _ => { reads := [⟨.v, a.toNat, 2⟩, ⟨.s, b.toNat, 1⟩], writes := [⟨.v, d.toNat, 4⟩], align := alignOf d 4 ++ alignOf a 2, fs := some f, cache := true, vector := true, noSched := true }
  | .texg d a b f _ => { reads := [⟨.v, a.toNat, 2⟩, ⟨.s, b.toNat, 1⟩], writes := [⟨.v, d.toNat, 4⟩], align := alignOf d 4 ++ alignOf a 2, fs := some f, cache := true, vector := true, noSched := true }
  | .tqry d b f => { reads := [⟨.s, b.toNat, 1⟩], writes := [⟨.v, d.toNat, 1⟩], fs := some f, cache := true, vector := true, noSched := true }
  | .stmap a b n => { infoUni [a, b] [] with bad4 := 7 < n.toNat }
  | .stflush n => { bad4 := 7 < n.toNat ∧ n ≠ 255 }
  | .stunmap n => { bad4 := 7 < n.toNat ∧ n ≠ 255 }
  | .stqry d n => { infoUni [] [] with writes := [⟨.s, d.toNat, 2⟩], align := alignOf d 2, bad4 := 7 < n.toNat }
  | .cpy a b _ => { reads := [⟨.s, a.toNat, 2⟩, ⟨.s, b.toNat, 1⟩], align := alignOf a 2 }
  | .cpy2d a b _ => { reads := [⟨.s, a.toNat, 2⟩, ⟨.s, b.toNat, 2⟩], align := alignOf a 2 ++ alignOf b 2 }
  | .cpyb d => infoUni [] [d]
  | .cpyw a => infoUni [a] []
  | .bar l n => infoBar l n
  | .bara l n => infoBar l n
  | .barw l n => infoBar l n
  | .barq d l n => { infoBar l n with writes := [⟨.s, d.toNat, 1⟩] }
  | .stream d a => { reads := [⟨.q, d.toNat, 1⟩, ⟨.s, a.toNat, 1⟩] }
  | .qpop d a f => { reads := [⟨.q, a.toNat, 1⟩], seamWrites := [⟨.v, d.toNat, 1⟩], fs := some f, vector := true }
  | .qstat d a => { reads := [⟨.q, a.toNat, 1⟩], writes := [⟨.s, d.toNat, 1⟩] }
  | .qclose a => { reads := [⟨.q, a.toNat, 1⟩] }
  | .mgang a => infoUni [a] []
  | .mma a b _ => { reads := [⟨.s, a.toNat, 2⟩, ⟨.s, b.toNat, 2⟩], align := alignOf a 2 ++ alignOf b 2, noMod := true }
  | .mdrain a b f _ k _ _ => { reads := ⟨.s, b.toNat, 1⟩ :: (if k = 2 then [] else [⟨.s, a.toNat, 1⟩]), bad4 := k = 2 ∧ a ≠ 0, bad7 := k = 3, fs := some f }
  | .mzero _ => {}
  | .maccrd d a f _ => { reads := [⟨.s, a.toNat, 1⟩], writes := [⟨.v, d.toNat, 1⟩], fs := some f, vector := true }
  | .maccwr d a _ => { reads := [⟨.v, d.toNat, 1⟩, ⟨.s, a.toNat, 1⟩], vector := true }
  | .mfmt a b => infoUni [a, b] []
  | .mqry d _ => infoUni [] [d]
  | .lfset a b _ => { reads := [⟨.s, a.toNat, 1⟩, ⟨.s, b.toNat, 2⟩], align := alignOf b 2, feature := some 2, noSched := true, noMod := true }
  | .lfspan d a b => { reads := [⟨.s, a.toNat, 1⟩, ⟨.a, b.toNat, 1⟩], writes := [⟨.i, d.toNat, 1⟩], vector := true, feature := some 2, noSched := true, noMod := true }
  | .lfint d a b w l => { reads := ⟨.i, a.toNat, 1⟩ :: (if w = 1 then [] else [⟨.s, b.toNat, 1⟩]), writes := [⟨.v, d.toNat, 1⟩], bad4 := w = 1 ∧ b ≠ 0, bad7 := w = 1 ∧ l = 1, vector := true, feature := some 2, noSched := true, noMod := true }
  | .lfz d a _ => { reads := [⟨.i, d.toNat, 1⟩, ⟨.a, a.toNat, 1⟩], seamWrites := [⟨.i, d.toNat, 1⟩], cache := true, vector := true, feature := some 2, noSched := true }
  | .lfout d a b _ s => { reads := [⟨.v, d.toNat, if s = 1 then 2 else 1⟩, ⟨.i, a.toNat, 1⟩, ⟨.a, b.toNat, 1⟩], seamWrites := [⟨.i, a.toNat, 1⟩], align := alignOf d (if s = 1 then 2 else 1), bad7 := s = 3, cache := true, vector := true, feature := some 2, noSched := true }
  | .mshdec d a b => { infoUni [a, b] [d] with feature := some 2, noSched := true, noMod := true }
  | .qmerge d a b => { reads := [⟨.i, d.toNat, 1⟩, ⟨.i, a.toNat, 1⟩, ⟨.s, b.toNat, 1⟩], seamWrites := [⟨.i, d.toNat, 1⟩, ⟨.i, a.toNat, 1⟩], vector := true, feature := some 2, noSched := true, noMod := true }
  | .lfqry d a _ => { reads := [⟨.i, a.toNat, 1⟩], writes := [⟨.v, d.toNat, 1⟩], vector := true, feature := some 2, noSched := true, noMod := true }
  | .trace d a b f => { reads := [⟨.v, a.toNat, 8⟩, ⟨.s, b.toNat, 2⟩], seamWrites := [⟨.v, d.toNat, 4⟩], align := alignOf d 4 ++ alignOf a 8 ++ alignOf b 2, fs := some f, vector := true, feature := some 3, noMod := true }
  | .trres d f => { seamWrites := [⟨.v, d.toNat, 4⟩], align := alignOf d 4, fs := some f, vector := true, feature := some 3, noMod := true }
  | .trget d f s => { writes := [⟨.v, d.toNat, 2⟩], align := alignOf d 2, bad7 := s = 3, fs := some f, vector := true, feature := some 3, noMod := true }
  | .trhit d a => { reads := [⟨.v, a.toNat, 3⟩], writes := [⟨.v, d.toNat + 1, 3⟩], align := alignOf d 4, vector := true, feature := some 3, noMod := true }
  | .trsave a b _ x => { reads := ⟨.a, a.toNat, 1⟩ :: (if x = 1 then [⟨.v, b.toNat, 1⟩] else []), bad4 := x = 0 ∧ b ≠ 0, vector := true, feature := some 3, noMod := true }
  | .trload d a b _ i x => { reads := ⟨.a, a.toNat, 1⟩ :: ((if i = 1 then [⟨.v, b.toNat, 1⟩] else []) ++ (if x = 1 then [⟨.s, d.toNat, 1⟩] else [])), bad4 := (i = 0 ∧ b ≠ 0) ∨ (x = 0 ∧ d ≠ 0) ∨ (x = 1 ∧ i = 0), vector := true, feature := some 3, noMod := true }
  | .coll d a => infoUni [a] [d]
  | .collw d a _ => infoUni [a] [d]
  | .kvfork d a b => infoUni [a, b] [d]
  | .kvfree d a b => infoUni [a, b] [d]
  | .red v o b _ r s => infoAtomic v o b 1 0 1 (badScope s || r = 1 || r = 3) false none
  | .atxXchg32 v o b _ s f => infoAtomic v o b 1 1 1 (badScope s) false (some f)
  | .atxCas32 v o b _ s f => infoAtomic v o b 2 1 2 (badScope s) false (some f)
  | .atxLd32 v o b r s f => infoAtomic v o b 0 1 1 (badScope s || r = 2 || r = 3) false (some f)
  | .atxSt32 v o b r s => infoAtomic v o b 1 0 1 (badScope s || r = 1 || r = 3) false none
  | .atxXchg64 v o b _ s f => infoAtomic v o b 2 2 2 (badScope s) false (some f)
  | .atxCas64 v o b _ s f => infoAtomic v o b 4 2 4 (badScope s) false (some f)
  | .atxLd64 v o b r s f => infoAtomic v o b 0 2 2 (badScope s || r = 2 || r = 3) false (some f)
  | .atxSt64 v o b r s => infoAtomic v o b 2 0 2 (badScope s || r = 1 || r = 3) false none
  | .longLatencyCompletion _ _ => {}
  | .storeAtHome _ => {}
  | .loadAtHome _ _ _ => {}
  | .atomicAtHome _ => {}
  | .fenceToken _ _ => {}
  | .fenceTokenAck _ _ => {}
  | .l1Invalidate _ _ => {}
  | .stashRecall _ _ => {}
  | .waitlTimeout _ => {}
  | .teamPromotion _ => {}
  | .tideProbe _ _ => {}
  | .tideProbeReturn _ _ => {}
  | .barrierPhaseCompletion _ => {}
  | .barrierToken _ _ => {}
  | .regroupExchange _ _ => {}
  | .mmaCompletion _ _ => {}
  | .streamEntryPush _ _ => {}
  | .copyCompletion _ => {}
  | .collectiveCompletion _ _ => {}
  | .collectiveTimeout _ => {}
  | .collectiveHalt _ => {}
  | .collectiveResume _ => {}
  | .haltLimitExpiry _ => {}
  | .notificationWrite _ _ => {}
  | .launchValidation _ => {}
  | .dependencePoll _ => {}
  | .gridStart _ => {}
  | .bindRecord _ _ => {}
  | .groupStart _ _ => {}
  | .teamStart _ => {}
  | .gridCompletion _ => {}
  | .preemptionDecision _ _ => {}
  | .drainDeadline _ _ => {}
  | .saveComplete _ _ => {}
  | .saveDeadline _ => {}
  | .contextRestore _ _ => {}
  | .raceEpochAdvance => {}
  | .traceSample _ _ => {}
  | .wringerFrame _ => {}
  | .timeSyncExchange _ _ _ => {}
  | .domainTimeExchange _ _ _ => {}
  | .hostAccess _ _ _ => {}
  | .shorelineLinkFailure _ _ => {}
  | .fabricRouteLoss _ => {}
  | .thermalThrottle _ _ => {}
  | .thermalShutdown => {}
  | .moduleReset _ => {}
  | .registerWrite _ _ => {}
  | .resync => {}
  | .start => {}
  | .ctxnew => {}
  | .ctxfree => {}
  | .qreg => {}
  | .inval => {}
  | .resident => {}
  | .halt => {}
  | .release => {}
  | .group => {}
  | .keyload => {}
  | .attest => {}
  | .sinkrst => {}
  | .wordNotAnInstruction _ => {}
  | .samplerInvalidation _ _ => {}
  | .instructionCacheInvalidation _ _ => {}
  | .storeAcknowledgement _ _ => {}
  | .watchReport _ => {}
  | .wakeWithoutNotice _ => {}
  | .stallAccountClock _ _ => {}
  | .dvfsClockChange _ _ => {}

end Sys2Proof.Machine
end

