-- ==== Sys2Proof/Decode.lean ====
section
/-! DEFINITION. The decoder of instruction words, total on any bytes, and after it the encoder. Both are written
from the field positions of the opcode table (R38 to R41, R62 to R66). -/

namespace Sys2Proof

/-- Bits `lo` to `lo + n - 1` of a word. -/
abbrev fld (w : W32) (lo n : Nat) : BitVec n := w.extractLsb' lo n

/-- What the opcode map reads in a word of a listed code, whatever stands in the fields it does not use: the
instruction, and whether an unused or reserved field is not zero (detail 0x04) or a fixed TY or BK differs
(detail 0x07) (R66). -/
structure Row where
  ins : Instr
  bad4 : Bool := false
  bad7 : Bool := false
  deriving DecidableEq, Repr

/-- The rows of majors 0x01 to 0x09 (R62). -/
def lookupControl (w : W32) : Option Row :=
  if fld w 26 6 = 1#6 then
    some { ins := .clause (fld w 14 12) (fld w 10 4) (fld w 6 4) (fld w 0 6) }
  else if fld w 26 6 = 2#6 then
    if fld w 22 4 = 0#4 then some { ins := .hintImm (fld w 0 22) }
    else if fld w 22 4 = 1#4 then some { ins := .hintSched (fld w 3 1) (fld w 2 1) (fld w 1 1) (fld w 0 1), bad4 := fld w 4 18 != 0#18 }
    else if fld w 22 4 = 2#4 then some { ins := .hintMod (fld w 5 2) (fld w 4 1) (fld w 3 1) (fld w 2 1) (fld w 0 2), bad4 := fld w 7 15 != 0#15 }
    else if fld w 22 4 = 3#4 then some { ins := .hintSrc3 (fld w 6 2) (fld w 0 6), bad4 := fld w 8 14 != 0#14 }
    else if fld w 22 4 = 4#4 then some { ins := .hintGuard (fld w 3 1) (fld w 0 3), bad4 := fld w 4 18 != 0#18 }
    else none
  else if fld w 26 6 = 3#6 then
    some { ins := .bra (fld w 0 26) }
  else if fld w 26 6 = 4#6 then
    some { ins := .brc (fld w 20 6) (fld w 17 3) (fld w 0 17) }
  else if fld w 26 6 = 5#6 then
    some { ins := .brd (fld w 23 3) (fld w 22 1) (fld w 0 22) }
  else if fld w 26 6 = 6#6 then
    some { ins := .markj (fld w 0 26) }
  else if fld w 26 6 = 7#6 then
    some { ins := .call (fld w 0 26) }
  else if fld w 26 6 = 8#6 then
    if fld w 20 6 = 0#6 then some { ins := .join, bad4 := fld w 0 20 != 0#20 }
    else if fld w 20 6 = 1#6 then some { ins := .ret, bad4 := fld w 0 20 != 0#20 }
    else if fld w 20 6 = 2#6 then some { ins := .callr (fld w 14 6), bad4 := fld w 0 14 != 0#14 }
    else if fld w 20 6 = 3#6 then some { ins := .exit, bad4 := fld w 0 20 != 0#20 }
    else if fld w 20 6 = 4#6 then some { ins := .nop, bad4 := fld w 0 20 != 0#20 }
    else if fld w 20 6 = 5#6 then some { ins := .yield, bad4 := fld w 0 20 != 0#20 }
    else if fld w 20 6 = 6#6 then some { ins := .seam, bad4 := fld w 0 20 != 0#20 }
    else if fld w 20 6 = 7#6 then some { ins := .enter (fld w 0 8), bad4 := fld w 8 12 != 0#12 }
    else if fld w 20 6 = 8#6 then some { ins := .leave, bad4 := fld w 0 20 != 0#20 }
    else if fld w 20 6 = 9#6 then some { ins := .bkpt, bad4 := fld w 0 20 != 0#20 }
    else if fld w 20 6 = 10#6 then some { ins := .trap (fld w 0 8), bad4 := fld w 8 12 != 0#12 }
    else if fld w 20 6 = 11#6 then some { ins := .isync, bad4 := fld w 0 20 != 0#20 }
    else none
  else if fld w 26 6 = 9#6 then
    if fld w 20 6 = 0#6 then some { ins := .srd (fld w 14 6) (fld w 0 14) }
    else if fld w 20 6 = 1#6 then some { ins := .swr (fld w 14 6) (fld w 0 14) }
    else if fld w 20 6 = 2#6 then some { ins := .time (fld w 14 6), bad4 := fld w 0 14 != 0#14 }
    else if fld w 20 6 = 3#6 then some { ins := .clk (fld w 14 6), bad4 := fld w 0 14 != 0#14 }
    else if fld w 20 6 = 4#6 then some { ins := .trec (fld w 14 6) (fld w 0 8), bad4 := fld w 8 6 != 0#6 }
    else if fld w 20 6 = 5#6 then some { ins := .icinv (fld w 14 6) (fld w 8 6) (fld w 0 3), bad4 := fld w 3 5 != 0#5 }
    else if fld w 20 6 = 6#6 then some { ins := .rclr (fld w 14 6) (fld w 8 6), bad4 := fld w 0 8 != 0#8 }
    else if fld w 20 6 = 7#6 then some { ins := .lnch (fld w 14 6) (fld w 8 6), bad4 := fld w 0 8 != 0#8 }
    else if fld w 20 6 = 8#6 then some { ins := .contset (fld w 14 6), bad4 := fld w 0 14 != 0#14 }
    else if fld w 20 6 = 9#6 then some { ins := .cresume, bad4 := fld w 0 20 != 0#20 }
    else none
  else none

/-- The rows of majors 0x0A to 0x12 (R62). -/
def lookupScalar (w : W32) : Option Row :=
  if fld w 26 6 = 10#6 then
    if fld w 0 2 = 0#2 then some { ins := .sadd (fld w 20 6) (fld w 14 6) (fld w 8 6) (fld w 6 2) (fld w 2 3), bad4 := fld w 5 1 != 0#1 }
    else if fld w 0 2 = 1#2 then some { ins := .ssub (fld w 20 6) (fld w 14 6) (fld w 8 6) (fld w 6 2) (fld w 2 3), bad4 := fld w 5 1 != 0#1 }
    else if fld w 0 2 = 2#2 then some { ins := .smul (fld w 20 6) (fld w 14 6) (fld w 8 6) (fld w 6 2) (fld w 2 3), bad4 := fld w 5 1 != 0#1 }
    else if fld w 0 2 = 3#2 then some { ins := .smulh (fld w 20 6) (fld w 14 6) (fld w 8 6) (fld w 6 2) (fld w 2 3), bad4 := fld w 5 1 != 0#1 }
    else none
  else if fld w 26 6 = 11#6 then
    if fld w 0 2 = 0#2 then some { ins := .sand (fld w 20 6) (fld w 14 6) (fld w 8 6) (fld w 6 2) (fld w 2 3), bad4 := fld w 5 1 != 0#1 }
    else if fld w 0 2 = 1#2 then some { ins := .sor (fld w 20 6) (fld w 14 6) (fld w 8 6) (fld w 6 2) (fld w 2 3), bad4 := fld w 5 1 != 0#1 }
    else if fld w 0 2 = 2#2 then some { ins := .sxor (fld w 20 6) (fld w 14 6) (fld w 8 6) (fld w 6 2) (fld w 2 3), bad4 := fld w 5 1 != 0#1 }
    else if fld w 0 2 = 3#2 then some { ins := .ssel (fld w 20 6) (fld w 14 6) (fld w 8 6) (fld w 6 2) (fld w 2 3), bad4 := fld w 5 1 != 0#1 }
    else none
  else if fld w 26 6 = 12#6 then
    if fld w 0 2 = 0#2 then some { ins := .sshl (fld w 20 6) (fld w 14 6) (fld w 8 6) (fld w 6 2) (fld w 2 3), bad4 := fld w 5 1 != 0#1 }
    else if fld w 0 2 = 1#2 then some { ins := .sshr (fld w 20 6) (fld w 14 6) (fld w 8 6) (fld w 6 2) (fld w 2 3), bad4 := fld w 5 1 != 0#1 }
    else if fld w 0 2 = 2#2 then some { ins := .ssar (fld w 20 6) (fld w 14 6) (fld w 8 6) (fld w 6 2) (fld w 2 3), bad4 := fld w 5 1 != 0#1 }
    else if fld w 0 2 = 3#2 then some { ins := .scmp (fld w 20 6) (fld w 14 6) (fld w 8 6) (fld w 6 2) (fld w 2 3), bad4 := fld w 5 1 != 0#1 }
    else none
  else if fld w 26 6 = 13#6 then
    if fld w 0 2 = 0#2 then some { ins := .smin (fld w 20 6) (fld w 14 6) (fld w 8 6) (fld w 6 2) (fld w 2 3), bad4 := fld w 5 1 != 0#1 }
    else if fld w 0 2 = 1#2 then some { ins := .smax (fld w 20 6) (fld w 14 6) (fld w 8 6) (fld w 6 2) (fld w 2 3), bad4 := fld w 5 1 != 0#1 }
    else if fld w 0 2 = 2#2 then some { ins := .smov (fld w 20 6) (fld w 8 6) (fld w 6 2) (fld w 2 3), bad4 := fld w 14 6 != 0#6 || fld w 5 1 != 0#1 }
    else if fld w 0 2 = 3#2 then some { ins := .sdiv (fld w 20 6) (fld w 14 6) (fld w 8 6) (fld w 6 2) (fld w 2 3), bad4 := fld w 5 1 != 0#1 }
    else none
  else if fld w 26 6 = 14#6 then
    some { ins := .smovi (fld w 20 6) (fld w 0 14), bad4 := fld w 14 6 != 0#6 }
  else if fld w 26 6 = 15#6 then
    some { ins := .saddi (fld w 20 6) (fld w 14 6) (fld w 0 14) }
  else if fld w 26 6 = 16#6 then
    if fld w 0 2 = 0#2 then some { ins := .aadd (fld w 20 6) (fld w 14 6) (fld w 8 6) (fld w 6 2), bad4 := fld w 5 1 != 0#1, bad7 := fld w 2 3 != 0#3 }
    else if fld w 0 2 = 1#2 then some { ins := .asub (fld w 20 6) (fld w 14 6) (fld w 8 6) (fld w 6 2), bad4 := fld w 5 1 != 0#1, bad7 := fld w 2 3 != 0#3 }
    else if fld w 0 2 = 2#2 then some { ins := .ashl (fld w 20 6) (fld w 14 6) (fld w 8 6) (fld w 6 2), bad4 := fld w 5 1 != 0#1, bad7 := fld w 2 3 != 0#3 }
    else if fld w 6 2 = 2#2 then some { ins := .amovA (fld w 20 6) (fld w 8 6), bad4 := fld w 14 6 != 0#6 || fld w 5 1 != 0#1, bad7 := fld w 6 2 != 2#2 || fld w 2 3 != 0#3 }
    else some { ins := .amov (fld w 20 6) (fld w 14 6) (fld w 8 6), bad4 := fld w 5 1 != 0#1, bad7 := fld w 6 2 != 1#2 || fld w 2 3 != 0#3 }
  else if fld w 26 6 = 17#6 then
    some { ins := .aset (fld w 20 6) (fld w 14 6) (fld w 0 14) }
  else if fld w 26 6 = 18#6 then
    if fld w 0 2 = 0#2 then some { ins := .avec (fld w 20 6) (fld w 14 6) (fld w 2 3), bad4 := fld w 8 6 != 0#6 || fld w 6 2 != 0#2 || fld w 5 1 != 0#1 }
    else if fld w 0 2 = 1#2 then some { ins := .abase (fld w 20 6) (fld w 14 6), bad4 := fld w 8 6 != 0#6 || fld w 6 2 != 0#2 || fld w 5 1 != 0#1, bad7 := fld w 2 3 != 0#3 }
    else if fld w 0 2 = 2#2 then some { ins := .astr (fld w 20 6) (fld w 14 6), bad4 := fld w 8 6 != 0#6 || fld w 6 2 != 0#2 || fld w 5 1 != 0#1, bad7 := fld w 2 3 != 0#3 }
    else if fld w 0 2 = 3#2 then some { ins := .aoff (fld w 20 6) (fld w 14 6) (fld w 8 6) (fld w 6 2), bad4 := fld w 5 1 != 0#1, bad7 := fld w 2 3 != 0#3 }
    else none
  else none

/-- The rows of majors 0x13 to 0x1A (R62). -/
def lookupVector (w : W32) : Option Row :=
  if fld w 26 6 = 19#6 then
    if fld w 0 2 = 0#2 then some { ins := .vadd (fld w 20 6) (fld w 14 6) (fld w 8 6) (fld w 6 2) (fld w 5 1) (fld w 2 3) }
    else if fld w 0 2 = 1#2 then some { ins := .vsub (fld w 20 6) (fld w 14 6) (fld w 8 6) (fld w 6 2) (fld w 5 1) (fld w 2 3) }
    else if fld w 0 2 = 2#2 then some { ins := .vmul (fld w 20 6) (fld w 14 6) (fld w 8 6) (fld w 6 2) (fld w 5 1) (fld w 2 3) }
    else if fld w 0 2 = 3#2 then some { ins := .vmulh (fld w 20 6) (fld w 14 6) (fld w 8 6) (fld w 6 2) (fld w 5 1) (fld w 2 3) }
    else none
  else if fld w 26 6 = 20#6 then
    if fld w 0 2 = 0#2 then some { ins := .vmad (fld w 20 6) (fld w 14 6) (fld w 8 6) (fld w 6 2) (fld w 5 1) (fld w 2 3) }
    else if fld w 0 2 = 1#2 then some { ins := .vsadd (fld w 20 6) (fld w 14 6) (fld w 8 6) (fld w 6 2) (fld w 5 1) (fld w 2 3) }
    else if fld w 0 2 = 2#2 then some { ins := .vssub (fld w 20 6) (fld w 14 6) (fld w 8 6) (fld w 6 2) (fld w 5 1) (fld w 2 3) }
    else if fld w 0 2 = 3#2 then some { ins := .vabsd (fld w 20 6) (fld w 14 6) (fld w 8 6) (fld w 6 2) (fld w 5 1) (fld w 2 3) }
    else none
  else if fld w 26 6 = 21#6 then
    if fld w 0 2 = 0#2 then some { ins := .vand (fld w 20 6) (fld w 14 6) (fld w 8 6) (fld w 6 2) (fld w 5 1) (fld w 2 3) }
    else if fld w 0 2 = 1#2 then some { ins := .vor (fld w 20 6) (fld w 14 6) (fld w 8 6) (fld w 6 2) (fld w 5 1) (fld w 2 3) }
    else if fld w 0 2 = 2#2 then some { ins := .vxor (fld w 20 6) (fld w 14 6) (fld w 8 6) (fld w 6 2) (fld w 5 1) (fld w 2 3) }
    else if fld w 0 2 = 3#2 then some { ins := .vandn (fld w 20 6) (fld w 14 6) (fld w 8 6) (fld w 6 2) (fld w 5 1) (fld w 2 3) }
    else none
  else if fld w 26 6 = 22#6 then
    if fld w 0 2 = 0#2 then some { ins := .vshl (fld w 20 6) (fld w 14 6) (fld w 8 6) (fld w 6 2) (fld w 5 1) (fld w 2 3) }
    else if fld w 0 2 = 1#2 then some { ins := .vshr (fld w 20 6) (fld w 14 6) (fld w 8 6) (fld w 6 2) (fld w 5 1) (fld w 2 3) }
    else if fld w 0 2 = 2#2 then some { ins := .vsar (fld w 20 6) (fld w 14 6) (fld w 8 6) (fld w 6 2) (fld w 5 1) (fld w 2 3) }
    else if fld w 0 2 = 3#2 then some { ins := .vrot (fld w 20 6) (fld w 14 6) (fld w 8 6) (fld w 6 2) (fld w 5 1) (fld w 2 3) }
    else none
  else if fld w 26 6 = 23#6 then
    if fld w 0 2 = 0#2 then some { ins := .vmin (fld w 20 6) (fld w 14 6) (fld w 8 6) (fld w 6 2) (fld w 5 1) (fld w 2 3) }
    else if fld w 0 2 = 1#2 then some { ins := .vmax (fld w 20 6) (fld w 14 6) (fld w 8 6) (fld w 6 2) (fld w 5 1) (fld w 2 3) }
    else if fld w 0 2 = 2#2 then some { ins := .vsel (fld w 20 6) (fld w 14 6) (fld w 8 6) (fld w 6 2) (fld w 5 1) (fld w 2 3) }
    else if fld w 0 2 = 3#2 then some { ins := .vmov (fld w 20 6) (fld w 8 6) (fld w 6 2) (fld w 5 1) (fld w 2 3), bad4 := fld w 14 6 != 0#6 }
    else none
  else if fld w 26 6 = 24#6 then
    if fld w 0 2 = 0#2 then some { ins := .vclz (fld w 20 6) (fld w 14 6) (fld w 5 1) (fld w 2 3), bad4 := fld w 8 6 != 0#6 || fld w 6 2 != 0#2 }
    else if fld w 0 2 = 1#2 then some { ins := .vpop (fld w 20 6) (fld w 14 6) (fld w 5 1) (fld w 2 3), bad4 := fld w 8 6 != 0#6 || fld w 6 2 != 0#2 }
    else if fld w 0 2 = 2#2 then some { ins := .vbrev (fld w 20 6) (fld w 14 6) (fld w 5 1) (fld w 2 3), bad4 := fld w 8 6 != 0#6 || fld w 6 2 != 0#2 }
    else if fld w 0 2 = 3#2 then some { ins := .vbfe (fld w 20 6) (fld w 14 6) (fld w 8 6) (fld w 6 2) (fld w 5 1) (fld w 2 3) }
    else none
  else if fld w 26 6 = 25#6 then
    if fld w 0 2 = 0#2 then some { ins := .vbfi (fld w 20 6) (fld w 14 6) (fld w 8 6) (fld w 6 2) (fld w 5 1) (fld w 2 3) }
    else if fld w 0 2 = 1#2 then some { ins := .vcvti (fld w 20 6) (fld w 14 6) (fld w 8 3) (fld w 5 1) (fld w 2 3), bad7 := fld w 11 3 != 0#3 || fld w 6 2 != 3#2 }
    else if fld w 0 2 = 2#2 then some { ins := .vlane (fld w 20 6) (fld w 14 6) (fld w 5 1), bad4 := fld w 8 6 != 0#6 || fld w 6 2 != 0#2, bad7 := fld w 2 3 != 0#3 }
    else if fld w 0 2 = 3#2 then some { ins := .vdiv (fld w 20 6) (fld w 14 6) (fld w 8 6) (fld w 6 2) (fld w 5 1) (fld w 2 3) }
    else none
  else if fld w 26 6 = 26#6 then
    if fld w 0 2 = 0#2 then some { ins := .vcmp (fld w 23 3) (fld w 20 3) (fld w 14 6) (fld w 8 6) (fld w 6 2) (fld w 5 1) (fld w 2 3) }
    else none
  else none

/-- The rows of majors 0x1B to 0x24 (R62). FCMP with FN other than 0 is a reserved code (0x03), as R113 says of VCMP. (DESIGN CHOICE, log
entry 72) -/
def lookupFloat (w : W32) : Option Row :=
  if fld w 26 6 = 27#6 then
    if fld w 0 2 = 0#2 then some { ins := .fadd (fld w 20 6) (fld w 14 6) (fld w 8 6) (fld w 6 2) (fld w 5 1) (fld w 2 3) }
    else if fld w 0 2 = 1#2 then some { ins := .fsub (fld w 20 6) (fld w 14 6) (fld w 8 6) (fld w 6 2) (fld w 5 1) (fld w 2 3) }
    else if fld w 0 2 = 2#2 then some { ins := .fmul (fld w 20 6) (fld w 14 6) (fld w 8 6) (fld w 6 2) (fld w 5 1) (fld w 2 3) }
    else if fld w 0 2 = 3#2 then some { ins := .ffma (fld w 20 6) (fld w 14 6) (fld w 8 6) (fld w 6 2) (fld w 5 1) (fld w 2 3) }
    else none
  else if fld w 26 6 = 28#6 then
    if fld w 0 2 = 0#2 then some { ins := .fmin (fld w 20 6) (fld w 14 6) (fld w 8 6) (fld w 6 2) (fld w 5 1) (fld w 2 3) }
    else if fld w 0 2 = 1#2 then some { ins := .fmax (fld w 20 6) (fld w 14 6) (fld w 8 6) (fld w 6 2) (fld w 5 1) (fld w 2 3) }
    else if fld w 0 2 = 2#2 then some { ins := .fcpsgn (fld w 20 6) (fld w 14 6) (fld w 8 6) (fld w 6 2) (fld w 5 1) (fld w 2 3) }
    else if fld w 0 2 = 3#2 then some { ins := .frnd (fld w 20 6) (fld w 14 6) (fld w 5 1) (fld w 2 3), bad4 := fld w 8 6 != 0#6 || fld w 6 2 != 0#2 }
    else none
  else if fld w 26 6 = 29#6 then
    if fld w 0 2 = 0#2 then some { ins := .frcp (fld w 20 6) (fld w 14 6) (fld w 5 1) (fld w 2 3), bad4 := fld w 8 6 != 0#6 || fld w 6 2 != 0#2 }
    else if fld w 0 2 = 1#2 then some { ins := .frsq (fld w 20 6) (fld w 14 6) (fld w 5 1) (fld w 2 3), bad4 := fld w 8 6 != 0#6 || fld w 6 2 != 0#2 }
    else if fld w 0 2 = 2#2 then some { ins := .fsqrt (fld w 20 6) (fld w 14 6) (fld w 5 1) (fld w 2 3), bad4 := fld w 8 6 != 0#6 || fld w 6 2 != 0#2 }
    else if fld w 0 2 = 3#2 then some { ins := .fdiv (fld w 20 6) (fld w 14 6) (fld w 8 6) (fld w 6 2) (fld w 5 1) (fld w 2 3) }
    else none
  else if fld w 26 6 = 30#6 then
    if fld w 0 2 = 0#2 then some { ins := .fexp2 (fld w 20 6) (fld w 14 6) (fld w 5 1) (fld w 2 3), bad4 := fld w 8 6 != 0#6 || fld w 6 2 != 0#2 }
    else if fld w 0 2 = 1#2 then some { ins := .flog2 (fld w 20 6) (fld w 14 6) (fld w 5 1) (fld w 2 3), bad4 := fld w 8 6 != 0#6 || fld w 6 2 != 0#2 }
    else if fld w 0 2 = 2#2 then some { ins := .fsin (fld w 20 6) (fld w 14 6) (fld w 5 1) (fld w 2 3), bad4 := fld w 8 6 != 0#6 || fld w 6 2 != 0#2 }
    else if fld w 0 2 = 3#2 then some { ins := .fcos (fld w 20 6) (fld w 14 6) (fld w 5 1) (fld w 2 3), bad4 := fld w 8 6 != 0#6 || fld w 6 2 != 0#2 }
    else none
  else if fld w 26 6 = 31#6 then
    if fld w 0 2 = 0#2 then some { ins := .fcmp (fld w 23 3) (fld w 20 3) (fld w 14 6) (fld w 8 6) (fld w 6 2) (fld w 5 1) (fld w 2 3) }
    else none
  else if fld w 26 6 = 32#6 then
    if fld w 0 2 = 0#2 then some { ins := .fcvt (fld w 20 6) (fld w 14 6) (fld w 8 3) (fld w 5 1) (fld w 2 3), bad7 := fld w 11 3 != 0#3 || fld w 6 2 != 3#2 }
    else if fld w 0 2 = 1#2 then some { ins := .cvti (fld w 20 6) (fld w 14 6) (fld w 8 3) (fld w 5 1) (fld w 2 3), bad7 := fld w 11 3 != 0#3 || fld w 6 2 != 3#2 }
    else if fld w 0 2 = 2#2 then some { ins := .cvtf (fld w 20 6) (fld w 14 6) (fld w 8 3) (fld w 5 1) (fld w 2 3), bad7 := fld w 11 3 != 0#3 || fld w 6 2 != 3#2 }
    else if fld w 0 2 = 3#2 then some { ins := .fclass (fld w 20 6) (fld w 14 6) (fld w 5 1) (fld w 2 3), bad4 := fld w 8 6 != 0#6 || fld w 6 2 != 0#2 }
    else none
  else if fld w 26 6 = 33#6 then
    if fld w 0 2 = 0#2 then some { ins := .vshuf (fld w 20 6) (fld w 14 6) (fld w 8 6) (fld w 6 2) (fld w 5 1) (fld w 2 3) }
    else if fld w 0 2 = 1#2 then some { ins := .vbcast (fld w 20 6) (fld w 14 6) (fld w 5 1) (fld w 2 3), bad4 := fld w 8 6 != 0#6 || fld w 6 2 != 0#2 }
    else if fld w 0 2 = 2#2 then some { ins := .vscan (fld w 20 6) (fld w 14 6) (fld w 12 1) (fld w 11 1) (fld w 8 3) (fld w 5 1) (fld w 2 3), bad4 := fld w 13 1 != 0#1, bad7 := fld w 6 2 != 3#2 }
    else if fld w 0 2 = 3#2 then some { ins := .vred (fld w 20 6) (fld w 14 6) (fld w 11 1) (fld w 8 3) (fld w 5 1) (fld w 2 3), bad4 := fld w 12 2 != 0#2, bad7 := fld w 6 2 != 3#2 }
    else none
  else if fld w 26 6 = 34#6 then
    if fld w 0 2 = 0#2 then some { ins := .mand (fld w 20 6) (fld w 14 6) (fld w 8 6), bad4 := fld w 5 1 != 0#1, bad7 := fld w 6 2 != 0#2 || fld w 2 3 != 0#3 }
    else if fld w 0 2 = 1#2 then some { ins := .mor (fld w 20 6) (fld w 14 6) (fld w 8 6), bad4 := fld w 5 1 != 0#1, bad7 := fld w 6 2 != 0#2 || fld w 2 3 != 0#3 }
    else if fld w 0 2 = 2#2 then some { ins := .mxor (fld w 20 6) (fld w 14 6) (fld w 8 6), bad4 := fld w 5 1 != 0#1, bad7 := fld w 6 2 != 0#2 || fld w 2 3 != 0#3 }
    else if fld w 0 2 = 3#2 then some { ins := .mnot (fld w 20 6) (fld w 14 6), bad4 := fld w 8 6 != 0#6 || fld w 6 2 != 0#2 || fld w 5 1 != 0#1, bad7 := fld w 2 3 != 0#3 }
    else none
  else if fld w 26 6 = 35#6 then
    if fld w 0 2 = 0#2 then some { ins := .mpop (fld w 20 6) (fld w 14 6), bad4 := fld w 8 6 != 0#6 || fld w 6 2 != 0#2 || fld w 5 1 != 0#1, bad7 := fld w 2 3 != 0#3 }
    else if fld w 0 2 = 1#2 then some { ins := .mfirst (fld w 20 6) (fld w 14 6), bad4 := fld w 8 6 != 0#6 || fld w 6 2 != 0#2 || fld w 5 1 != 0#1, bad7 := fld w 2 3 != 0#3 }
    else if fld w 0 2 = 2#2 then some { ins := .mtos (fld w 20 6) (fld w 14 6) (fld w 8 6), bad4 := fld w 5 1 != 0#1, bad7 := fld w 6 2 != 3#2 || fld w 2 3 != 0#3 }
    else if fld w 0 2 = 3#2 then some { ins := .stom (fld w 20 6) (fld w 14 6) (fld w 8 6), bad4 := fld w 5 1 != 0#1, bad7 := fld w 6 2 != 3#2 || fld w 2 3 != 0#3 }
    else none
  else if fld w 26 6 = 36#6 then
    if fld w 0 2 = 0#2 then some { ins := .regroup (fld w 20 6) (fld w 14 6) (fld w 8 6) (fld w 3 4) (fld w 2 1), bad4 := fld w 7 1 != 0#1 }
    else if fld w 0 2 = 1#2 then some { ins := .vvote (fld w 20 6) (fld w 14 6) (fld w 2 2), bad4 := fld w 4 10 != 0#10 }
    else none
  else none

/-- The rows of majors 0x25 to 0x32 (R62). -/
def lookupMemory (w : W32) : Option Row :=
  if fld w 26 6 = 37#6 then
    some { ins := .vldg (fld w 20 6) (fld w 14 6) (fld w 8 6) (fld w 7 1) (fld w 6 1) (fld w 5 1) (fld w 2 3) (fld w 1 1) (fld w 0 1) }
  else if fld w 26 6 = 38#6 then
    some { ins := .vstg (fld w 20 6) (fld w 14 6) (fld w 8 6) (fld w 7 1) (fld w 6 1) (fld w 5 1) (fld w 2 3) (fld w 0 1), bad4 := fld w 1 1 != 0#1 }
  else if fld w 26 6 = 39#6 then
    some { ins := .vlds (fld w 20 6) (fld w 14 6) (fld w 8 6) (fld w 7 1) (fld w 6 1) (fld w 5 1) (fld w 2 3) (fld w 1 1) (fld w 0 1) }
  else if fld w 26 6 = 40#6 then
    some { ins := .vsts (fld w 20 6) (fld w 14 6) (fld w 8 6) (fld w 7 1) (fld w 6 1) (fld w 5 1) (fld w 2 3) (fld w 0 1), bad4 := fld w 1 1 != 0#1 }
  else if fld w 26 6 = 41#6 then
    some { ins := .sld (fld w 20 6) (fld w 14 6) (fld w 1 13) (fld w 0 1) }
  else if fld w 26 6 = 42#6 then
    some { ins := .sst (fld w 20 6) (fld w 14 6) (fld w 1 13), bad4 := fld w 0 1 != 0#1 }
  else if fld w 26 6 = 43#6 then
    some { ins := .atom (fld w 20 6) (fld w 14 6) (fld w 9 5) (fld w 6 3) (fld w 4 2) (fld w 1 3) (fld w 0 1) }
  else if fld w 26 6 = 44#6 then
    some { ins := .atom64 (fld w 20 6) (fld w 14 6) (fld w 9 5) (fld w 6 3) (fld w 4 2) (fld w 1 3) (fld w 0 1) }
  else if fld w 26 6 = 45#6 then
    some { ins := .atomf (fld w 20 6) (fld w 14 6) (fld w 9 5) (fld w 6 3) (fld w 4 2) (fld w 1 3) (fld w 0 1) }
  else if fld w 26 6 = 46#6 then
    if fld w 20 6 = 0#6 then some { ins := .fence (fld w 7 1) (fld w 2 3) (fld w 0 2), bad4 := fld w 8 12 != 0#12 || fld w 5 2 != 0#2 }
    else if fld w 20 6 = 1#6 then some { ins := .waitl (fld w 14 6) (fld w 8 6) (fld w 0 1), bad4 := fld w 1 7 != 0#7 }
    else if fld w 20 6 = 2#6 then some { ins := .pref (fld w 14 6) (fld w 8 2) (fld w 0 8), bad4 := fld w 10 4 != 0#4 }
    else none
  else if fld w 26 6 = 47#6 then
    if fld w 0 2 = 0#2 then some { ins := .tld (fld w 20 6) (fld w 14 6) (fld w 8 6) (fld w 7 1) (fld w 4 3) (fld w 3 1), bad4 := fld w 2 1 != 0#1 }
    else if fld w 0 2 = 1#2 then some { ins := .tex (fld w 20 6) (fld w 14 6) (fld w 8 6) (fld w 7 1) (fld w 6 1), bad4 := fld w 2 4 != 0#4 }
    else if fld w 0 2 = 2#2 then some { ins := .texg (fld w 20 6) (fld w 14 6) (fld w 8 6) (fld w 7 1) (fld w 4 2), bad4 := fld w 6 1 != 0#1 || fld w 2 2 != 0#2 }
    else if fld w 0 2 = 3#2 then some { ins := .tqry (fld w 20 6) (fld w 8 6) (fld w 7 1), bad4 := fld w 14 6 != 0#6 || fld w 2 5 != 0#5 }
    else none
  else if fld w 26 6 = 48#6 then
    if fld w 20 6 = 0#6 then some { ins := .stmap (fld w 14 6) (fld w 8 6) (fld w 0 8) }
    else if fld w 20 6 = 1#6 then some { ins := .stflush (fld w 0 8), bad4 := fld w 8 12 != 0#12 }
    else if fld w 20 6 = 2#6 then some { ins := .stunmap (fld w 0 8), bad4 := fld w 8 12 != 0#12 }
    else if fld w 20 6 = 3#6 then some { ins := .stqry (fld w 14 6) (fld w 0 8), bad4 := fld w 8 6 != 0#6 }
    else none
  else if fld w 26 6 = 49#6 then
    if fld w 20 6 = 0#6 then some { ins := .cpy (fld w 14 6) (fld w 8 6) (fld w 0 2), bad4 := fld w 2 6 != 0#6 }
    else if fld w 20 6 = 1#6 then some { ins := .cpy2d (fld w 14 6) (fld w 8 6) (fld w 0 2), bad4 := fld w 2 6 != 0#6 }
    else if fld w 20 6 = 2#6 then some { ins := .cpyb (fld w 14 6), bad4 := fld w 0 14 != 0#14 }
    else if fld w 20 6 = 3#6 then some { ins := .cpyw (fld w 14 6), bad4 := fld w 0 14 != 0#14 }
    else none
  else if fld w 26 6 = 50#6 then
    if fld w 20 6 = 0#6 then some { ins := .bar (fld w 6 2) (fld w 0 3), bad4 := fld w 8 12 != 0#12 || fld w 3 3 != 0#3 }
    else if fld w 20 6 = 1#6 then some { ins := .bara (fld w 6 2) (fld w 0 3), bad4 := fld w 8 12 != 0#12 || fld w 3 3 != 0#3 }
    else if fld w 20 6 = 2#6 then some { ins := .barw (fld w 6 2) (fld w 0 3), bad4 := fld w 8 12 != 0#12 || fld w 3 3 != 0#3 }
    else if fld w 20 6 = 3#6 then some { ins := .barq (fld w 14 6) (fld w 6 2) (fld w 0 3), bad4 := fld w 8 6 != 0#6 || fld w 3 3 != 0#3 }
    else none
  else none

/-- The rows of majors 0x33 to 0x3A (R62). -/
def lookupEngine (w : W32) : Option Row :=
  if fld w 26 6 = 51#6 then
    if fld w 0 2 = 0#2 then some { ins := .stream (fld w 20 6) (fld w 14 6), bad4 := fld w 2 12 != 0#12 }
    else if fld w 0 2 = 1#2 then some { ins := .qpop (fld w 20 6) (fld w 14 6) (fld w 7 1), bad4 := fld w 8 6 != 0#6 || fld w 2 5 != 0#5 }
    else if fld w 0 2 = 2#2 then some { ins := .qstat (fld w 20 6) (fld w 14 6), bad4 := fld w 2 12 != 0#12 }
    else if fld w 0 2 = 3#2 then some { ins := .qclose (fld w 14 6), bad4 := fld w 20 6 != 0#6 || fld w 2 12 != 0#12 }
    else none
  else if fld w 26 6 = 52#6 then
    if fld w 0 2 = 0#2 then some { ins := .mgang (fld w 14 6), bad4 := fld w 20 6 != 0#6 || fld w 2 12 != 0#12 }
    else if fld w 0 2 = 1#2 then some { ins := .mma (fld w 14 6) (fld w 8 6) (fld w 6 1), bad4 := fld w 20 6 != 0#6 || fld w 7 1 != 0#1 || fld w 2 4 != 0#4 }
    else if fld w 0 2 = 2#2 then some { ins := .mdrain (fld w 14 6) (fld w 8 6) (fld w 7 1) (fld w 6 1) (fld w 4 2) (fld w 3 1) (fld w 2 1), bad4 := fld w 20 6 != 0#6 }
    else if fld w 0 2 = 3#2 then some { ins := .mzero (fld w 6 1), bad4 := fld w 7 19 != 0#19 || fld w 2 4 != 0#4 }
    else none
  else if fld w 26 6 = 53#6 then
    if fld w 0 2 = 0#2 then some { ins := .maccrd (fld w 20 6) (fld w 14 6) (fld w 7 1) (fld w 6 1), bad4 := fld w 8 6 != 0#6 || fld w 2 4 != 0#4 }
    else if fld w 0 2 = 1#2 then some { ins := .maccwr (fld w 20 6) (fld w 14 6) (fld w 6 1), bad4 := fld w 7 7 != 0#7 || fld w 2 4 != 0#4 }
    else if fld w 0 2 = 2#2 then some { ins := .mfmt (fld w 14 6) (fld w 8 6), bad4 := fld w 20 6 != 0#6 || fld w 2 6 != 0#6 }
    else if fld w 0 2 = 3#2 then some { ins := .mqry (fld w 20 6) (fld w 6 1), bad4 := fld w 7 13 != 0#13 || fld w 2 4 != 0#4 }
    else none
  else if fld w 26 6 = 54#6 then
    if fld w 0 2 = 0#2 then some { ins := .lfset (fld w 14 6) (fld w 8 6) (fld w 2 1), bad4 := fld w 20 6 != 0#6 || fld w 3 5 != 0#5 }
    else if fld w 0 2 = 1#2 then some { ins := .lfspan (fld w 20 6) (fld w 14 6) (fld w 8 6), bad4 := fld w 2 6 != 0#6 }
    else if fld w 0 2 = 2#2 then some { ins := .lfint (fld w 20 6) (fld w 14 6) (fld w 8 6) (fld w 3 1) (fld w 2 1), bad4 := fld w 4 4 != 0#4 }
    else if fld w 0 2 = 3#2 then some { ins := .lfz (fld w 20 6) (fld w 14 6) (fld w 2 1), bad4 := fld w 3 11 != 0#11 }
    else none
  else if fld w 26 6 = 55#6 then
    if fld w 0 2 = 0#2 then some { ins := .lfout (fld w 20 6) (fld w 14 6) (fld w 8 6) (fld w 4 1) (fld w 2 2), bad4 := fld w 5 3 != 0#3 }
    else if fld w 0 2 = 1#2 then some { ins := .mshdec (fld w 20 6) (fld w 14 6) (fld w 8 6), bad4 := fld w 2 6 != 0#6 }
    else if fld w 0 2 = 2#2 then some { ins := .qmerge (fld w 20 6) (fld w 14 6) (fld w 8 6), bad4 := fld w 2 6 != 0#6 }
    else if fld w 0 2 = 3#2 then some { ins := .lfqry (fld w 20 6) (fld w 14 6) (fld w 2 3), bad4 := fld w 5 9 != 0#9 }
    else none
  else if fld w 26 6 = 56#6 then
    if fld w 0 2 = 0#2 then some { ins := .trace (fld w 20 6) (fld w 14 6) (fld w 8 6) (fld w 7 1), bad4 := fld w 2 5 != 0#5 }
    else if fld w 0 2 = 1#2 then some { ins := .trres (fld w 20 6) (fld w 7 1), bad4 := fld w 8 12 != 0#12 || fld w 2 5 != 0#5 }
    else if fld w 0 2 = 2#2 then some { ins := .trget (fld w 20 6) (fld w 7 1) (fld w 2 2), bad4 := fld w 8 12 != 0#12 || fld w 4 3 != 0#3 }
    else if fld w 0 2 = 3#2 then some { ins := .trhit (fld w 20 6) (fld w 14 6), bad4 := fld w 2 12 != 0#12 }
    else none
  else if fld w 26 6 = 57#6 then
    if fld w 0 2 = 0#2 then some { ins := .trsave (fld w 14 6) (fld w 8 6) (fld w 4 1) (fld w 3 1), bad4 := fld w 20 6 != 0#6 || fld w 5 3 != 0#3 || fld w 2 1 != 0#1 }
    else if fld w 0 2 = 1#2 then some { ins := .trload (fld w 20 6) (fld w 14 6) (fld w 8 6) (fld w 4 1) (fld w 3 1) (fld w 2 1), bad4 := fld w 5 3 != 0#3 }
    else none
  else if fld w 26 6 = 58#6 then
    if fld w 0 2 = 0#2 then some { ins := .coll (fld w 20 6) (fld w 14 6), bad4 := fld w 2 12 != 0#12 }
    else if fld w 0 2 = 1#2 then some { ins := .collw (fld w 20 6) (fld w 14 6) (fld w 2 1), bad4 := fld w 3 11 != 0#11 }
    else if fld w 0 2 = 2#2 then some { ins := .kvfork (fld w 20 6) (fld w 14 6) (fld w 8 6), bad4 := fld w 2 6 != 0#6 }
    else if fld w 0 2 = 3#2 then some { ins := .kvfree (fld w 20 6) (fld w 14 6) (fld w 8 6), bad4 := fld w 2 6 != 0#6 }
    else none
  else none

/-- The rows of majors 0x3B to 0x3C (R62). FS = 1 in a form without a flag (RED, st32, st64) gives detail 0x07, as R242 says of FS, and not
the 0x04 of an unused field. (DESIGN CHOICE, log entry 72) -/
def lookupHome (w : W32) : Option Row :=
  if fld w 26 6 = 59#6 then
    some { ins := .red (fld w 20 6) (fld w 14 6) (fld w 9 5) (fld w 6 3) (fld w 4 2) (fld w 1 3), bad7 := fld w 0 1 != 0#1 }
  else if fld w 26 6 = 60#6 then
    if fld w 6 3 = 0#3 then some { ins := .atxXchg32 (fld w 20 6) (fld w 14 6) (fld w 9 5) (fld w 4 2) (fld w 1 3) (fld w 0 1) }
    else if fld w 6 3 = 1#3 then some { ins := .atxCas32 (fld w 20 6) (fld w 14 6) (fld w 9 5) (fld w 4 2) (fld w 1 3) (fld w 0 1) }
    else if fld w 6 3 = 2#3 then some { ins := .atxLd32 (fld w 20 6) (fld w 14 6) (fld w 9 5) (fld w 4 2) (fld w 1 3) (fld w 0 1) }
    else if fld w 6 3 = 3#3 then some { ins := .atxSt32 (fld w 20 6) (fld w 14 6) (fld w 9 5) (fld w 4 2) (fld w 1 3), bad7 := fld w 0 1 != 0#1 }
    else if fld w 6 3 = 4#3 then some { ins := .atxXchg64 (fld w 20 6) (fld w 14 6) (fld w 9 5) (fld w 4 2) (fld w 1 3) (fld w 0 1) }
    else if fld w 6 3 = 5#3 then some { ins := .atxCas64 (fld w 20 6) (fld w 14 6) (fld w 9 5) (fld w 4 2) (fld w 1 3) (fld w 0 1) }
    else if fld w 6 3 = 6#3 then some { ins := .atxLd64 (fld w 20 6) (fld w 14 6) (fld w 9 5) (fld w 4 2) (fld w 1 3) (fld w 0 1) }
    else if fld w 6 3 = 7#3 then some { ins := .atxSt64 (fld w 20 6) (fld w 14 6) (fld w 9 5) (fld w 4 2) (fld w 1 3), bad7 := fld w 0 1 != 0#1 }
    else none
  else none

/-- The row that the major opcode and the code of a word name (R62); none for a code that the map reserves. -/
def lookup (w : W32) : Option Row :=
  if fld w 26 6 < 10#6 then lookupControl w
  else if fld w 26 6 < 19#6 then lookupScalar w
  else if fld w 26 6 < 27#6 then lookupVector w
  else if fld w 26 6 < 37#6 then lookupFloat w
  else if fld w 26 6 < 51#6 then lookupMemory w
  else if fld w 26 6 < 59#6 then lookupEngine w
  else lookupHome w

/-- Why a word is no instruction (R63 to R66). -/
inductive Reject where
  | permanentlyIllegal
  | reservedMajor
  | reservedCode
  | fieldNotZero
  | typeNotAccepted
  | truncated
  deriving DecidableEq, Repr

/-- The instruction that a word stands for, or why it stands for none. -/
def decodeWord (w : W32) : Except Reject Instr :=
  if fld w 26 6 = 0#6 ∨ fld w 26 6 = 63#6 then .error .permanentlyIllegal
  else if fld w 26 6 = 61#6 ∨ fld w 26 6 = 62#6 then .error .reservedMajor
  else match lookup w with
    | none => .error .reservedCode
    | some r => if r.bad4 then .error .fieldNotZero else if r.bad7 then .error .typeNotAccepted else .ok r.ins

/-- Four bytes of memory as an instruction word: little-endian (R2, R34). -/
def wordOfBytes (b0 b1 b2 b3 : Byte) : W32 := b3 ++ b2 ++ b1 ++ b0

/-- Decode the word at the head of a list of bytes. -/
def decode : List Byte → Except Reject (Instr × List Byte)
  | b0 :: b1 :: b2 :: b3 :: rest =>
    match decodeWord (wordOfBytes b0 b1 b2 b3) with
    | .ok i => .ok (i, rest)
    | .error e => .error e
  | _ => .error .truncated

/-- What the machine runs when it has fetched a word: the instruction, or the row for words that are none. -/
def fetched (w : W32) : Instr :=
  match decodeWord w with
  | .ok i => i
  | .error _ => .wordNotAnInstruction w

/-- The detail codes that a word fails on its own bits alone (R63 to R66): those of its major and code, of its
fixed fields, and, where its code names a row, of that row's fields. -/
def wordDetails (vregs : Nat) (w : W32) : List Nat :=
  if fld w 26 6 = 0#6 ∨ fld w 26 6 = 63#6 then [0x01]
  else if fld w 26 6 = 61#6 ∨ fld w 26 6 = 62#6 then [0x02]
  else match lookup w with
    | none => [0x03]
    | some r => (if r.bad4 then [0x04] else []) ++ (if r.bad7 then [0x07] else []) ++
        (Machine.info r.ins).details vregs

/-- The bytes of a word as memory holds them, the first at the lowest address (R2). -/
def bytesOfWord (w : W32) : List Byte := [fld w 0 8, fld w 8 8, fld w 16 8, fld w 24 8]

/-- The instruction the decoder reads from a word whose bits the opcode table numbers (bit 0 the least
significant bit of the first word); a word shorter than 32 bits has zeros above. -/
def decodeTableWord (nbits w : Nat) : Option Instr :=
  if nbits = 0 then none
  else match decode (bytesOfWord (BitVec.ofNat 32 (w % 2 ^ nbits))) with
    | .ok (i, _) => some i
    | .error _ => none

/-- The word of an instruction, written from the same field positions; a step of the device, its firmware or its
host has no word. -/
def encode : Instr → Option W32
  | .clause w a b l => some (1#6 ++ w ++ a ++ b ++ l)
  | .hintImm p => some (32#10 ++ p)
  | .hintSched r a b y => some (8650752#28 ++ r ++ a ++ b ++ y)
  | .hintMod c f s e m => some (1114112#25 ++ c ++ f ++ s ++ e ++ m)
  | .hintSrc3 c r => some (573440#24 ++ c ++ r)
  | .hintGuard i m => some (9437184#28 ++ i ++ m)
  | .bra o => some (3#6 ++ o)
  | .brc s c o => some (4#6 ++ s ++ c ++ o)
  | .brd m p o => some (5#6 ++ m ++ p ++ o)
  | .markj o => some (6#6 ++ o)
  | .call o => some (7#6 ++ o)
  | .join => some (536870912#32)
  | .ret => some (537919488#32)
  | .callr a => some (514#12 ++ a ++ 0#14)
  | .exit => some (540016640#32)
  | .nop => some (541065216#32)
  | .yield => some (542113792#32)
  | .seam => some (543162368#32)
  | .enter i => some (2125824#24 ++ i)
  | .leave => some (545259520#32)
  | .bkpt => some (546308096#32)
  | .trap c => some (2138112#24 ++ c)
  | .isync => some (548405248#32)
  | .srd d n => some (576#12 ++ d ++ n)
  | .swr a n => some (577#12 ++ a ++ n)
  | .time d => some (578#12 ++ d ++ 0#14)
  | .clk d => some (579#12 ++ d ++ 0#14)
  | .trec a k => some (580#12 ++ a ++ 0#6 ++ k)
  | .icinv a b s => some (581#12 ++ a ++ b ++ 0#5 ++ s)
  | .rclr a b => some (582#12 ++ a ++ b ++ 0#8)
  | .lnch d a => some (583#12 ++ d ++ a ++ 0#8)
  | .contset a => some (584#12 ++ a ++ 0#14)
  | .cresume => some (613416960#32)
  | .sadd d a b k t => some (10#6 ++ d ++ a ++ b ++ k ++ 0#1 ++ t ++ 0#2)
  | .ssub d a b k t => some (10#6 ++ d ++ a ++ b ++ k ++ 0#1 ++ t ++ 1#2)
  | .smul d a b k t => some (10#6 ++ d ++ a ++ b ++ k ++ 0#1 ++ t ++ 2#2)
  | .smulh d a b k t => some (10#6 ++ d ++ a ++ b ++ k ++ 0#1 ++ t ++ 3#2)
  | .sand d a b k t => some (11#6 ++ d ++ a ++ b ++ k ++ 0#1 ++ t ++ 0#2)
  | .sor d a b k t => some (11#6 ++ d ++ a ++ b ++ k ++ 0#1 ++ t ++ 1#2)
  | .sxor d a b k t => some (11#6 ++ d ++ a ++ b ++ k ++ 0#1 ++ t ++ 2#2)
  | .ssel d a b k t => some (11#6 ++ d ++ a ++ b ++ k ++ 0#1 ++ t ++ 3#2)
  | .sshl d a b k t => some (12#6 ++ d ++ a ++ b ++ k ++ 0#1 ++ t ++ 0#2)
  | .sshr d a b k t => some (12#6 ++ d ++ a ++ b ++ k ++ 0#1 ++ t ++ 1#2)
  | .ssar d a b k t => some (12#6 ++ d ++ a ++ b ++ k ++ 0#1 ++ t ++ 2#2)
  | .scmp d a b k t => some (12#6 ++ d ++ a ++ b ++ k ++ 0#1 ++ t ++ 3#2)
  | .smin d a b k t => some (13#6 ++ d ++ a ++ b ++ k ++ 0#1 ++ t ++ 0#2)
  | .smax d a b k t => some (13#6 ++ d ++ a ++ b ++ k ++ 0#1 ++ t ++ 1#2)
  | .smov d b k t => some (13#6 ++ d ++ 0#6 ++ b ++ k ++ 0#1 ++ t ++ 2#2)
  | .sdiv d a b k t => some (13#6 ++ d ++ a ++ b ++ k ++ 0#1 ++ t ++ 3#2)
  | .smovi d i => some (14#6 ++ d ++ 0#6 ++ i)
  | .saddi d a i => some (15#6 ++ d ++ a ++ i)
  | .aadd d a b k => some (16#6 ++ d ++ a ++ b ++ k ++ 0#6)
  | .asub d a b k => some (16#6 ++ d ++ a ++ b ++ k ++ 1#6)
  | .ashl d a b k => some (16#6 ++ d ++ a ++ b ++ k ++ 2#6)
  | .amov d a b => some (16#6 ++ d ++ a ++ b ++ 67#8)
  | .amovA d b => some (16#6 ++ d ++ 0#6 ++ b ++ 131#8)
  | .aset d a i => some (17#6 ++ d ++ a ++ i)
  | .avec d a t => some (18#6 ++ d ++ a ++ 0#9 ++ t ++ 0#2)
  | .abase d a => some (18#6 ++ d ++ a ++ 1#14)
  | .astr d a => some (18#6 ++ d ++ a ++ 2#14)
  | .aoff d a b k => some (18#6 ++ d ++ a ++ b ++ k ++ 3#6)
  | .vadd d a b k g t => some (19#6 ++ d ++ a ++ b ++ k ++ g ++ t ++ 0#2)
  | .vsub d a b k g t => some (19#6 ++ d ++ a ++ b ++ k ++ g ++ t ++ 1#2)
  | .vmul d a b k g t => some (19#6 ++ d ++ a ++ b ++ k ++ g ++ t ++ 2#2)
  | .vmulh d a b k g t => some (19#6 ++ d ++ a ++ b ++ k ++ g ++ t ++ 3#2)
  | .vmad d a b k g t => some (20#6 ++ d ++ a ++ b ++ k ++ g ++ t ++ 0#2)
  | .vsadd d a b k g t => some (20#6 ++ d ++ a ++ b ++ k ++ g ++ t ++ 1#2)
  | .vssub d a b k g t => some (20#6 ++ d ++ a ++ b ++ k ++ g ++ t ++ 2#2)
  | .vabsd d a b k g t => some (20#6 ++ d ++ a ++ b ++ k ++ g ++ t ++ 3#2)
  | .vand d a b k g t => some (21#6 ++ d ++ a ++ b ++ k ++ g ++ t ++ 0#2)
  | .vor d a b k g t => some (21#6 ++ d ++ a ++ b ++ k ++ g ++ t ++ 1#2)
  | .vxor d a b k g t => some (21#6 ++ d ++ a ++ b ++ k ++ g ++ t ++ 2#2)
  | .vandn d a b k g t => some (21#6 ++ d ++ a ++ b ++ k ++ g ++ t ++ 3#2)
  | .vshl d a b k g t => some (22#6 ++ d ++ a ++ b ++ k ++ g ++ t ++ 0#2)
  | .vshr d a b k g t => some (22#6 ++ d ++ a ++ b ++ k ++ g ++ t ++ 1#2)
  | .vsar d a b k g t => some (22#6 ++ d ++ a ++ b ++ k ++ g ++ t ++ 2#2)
  | .vrot d a b k g t => some (22#6 ++ d ++ a ++ b ++ k ++ g ++ t ++ 3#2)
  | .vmin d a b k g t => some (23#6 ++ d ++ a ++ b ++ k ++ g ++ t ++ 0#2)
  | .vmax d a b k g t => some (23#6 ++ d ++ a ++ b ++ k ++ g ++ t ++ 1#2)
  | .vsel d a b k g t => some (23#6 ++ d ++ a ++ b ++ k ++ g ++ t ++ 2#2)
  | .vmov d b k g t => some (23#6 ++ d ++ 0#6 ++ b ++ k ++ g ++ t ++ 3#2)
  | .vclz d a g t => some (24#6 ++ d ++ a ++ 0#8 ++ g ++ t ++ 0#2)
  | .vpop d a g t => some (24#6 ++ d ++ a ++ 0#8 ++ g ++ t ++ 1#2)
  | .vbrev d a g t => some (24#6 ++ d ++ a ++ 0#8 ++ g ++ t ++ 2#2)
  | .vbfe d a b k g t => some (24#6 ++ d ++ a ++ b ++ k ++ g ++ t ++ 3#2)
  | .vbfi d a b k g t => some (25#6 ++ d ++ a ++ b ++ k ++ g ++ t ++ 0#2)
  | .vcvti d a s g t => some (25#6 ++ d ++ a ++ 0#3 ++ s ++ 3#2 ++ g ++ t ++ 1#2)
  | .vlane d a g => some (25#6 ++ d ++ a ++ 0#8 ++ g ++ 2#5)
  | .vdiv d a b k g t => some (25#6 ++ d ++ a ++ b ++ k ++ g ++ t ++ 3#2)
  | .vcmp c m a b k g t => some (26#6 ++ c ++ m ++ a ++ b ++ k ++ g ++ t ++ 0#2)
  | .fadd d a b k g t => some (27#6 ++ d ++ a ++ b ++ k ++ g ++ t ++ 0#2)
  | .fsub d a b k g t => some (27#6 ++ d ++ a ++ b ++ k ++ g ++ t ++ 1#2)
  | .fmul d a b k g t => some (27#6 ++ d ++ a ++ b ++ k ++ g ++ t ++ 2#2)
  | .ffma d a b k g t => some (27#6 ++ d ++ a ++ b ++ k ++ g ++ t ++ 3#2)
  | .fmin d a b k g t => some (28#6 ++ d ++ a ++ b ++ k ++ g ++ t ++ 0#2)
  | .fmax d a b k g t => some (28#6 ++ d ++ a ++ b ++ k ++ g ++ t ++ 1#2)
  | .fcpsgn d a b k g t => some (28#6 ++ d ++ a ++ b ++ k ++ g ++ t ++ 2#2)
  | .frnd d a g t => some (28#6 ++ d ++ a ++ 0#8 ++ g ++ t ++ 3#2)
  | .frcp d a g t => some (29#6 ++ d ++ a ++ 0#8 ++ g ++ t ++ 0#2)
  | .frsq d a g t => some (29#6 ++ d ++ a ++ 0#8 ++ g ++ t ++ 1#2)
  | .fsqrt d a g t => some (29#6 ++ d ++ a ++ 0#8 ++ g ++ t ++ 2#2)
  | .fdiv d a b k g t => some (29#6 ++ d ++ a ++ b ++ k ++ g ++ t ++ 3#2)
  | .fexp2 d a g t => some (30#6 ++ d ++ a ++ 0#8 ++ g ++ t ++ 0#2)
  | .flog2 d a g t => some (30#6 ++ d ++ a ++ 0#8 ++ g ++ t ++ 1#2)
  | .fsin d a g t => some (30#6 ++ d ++ a ++ 0#8 ++ g ++ t ++ 2#2)
  | .fcos d a g t => some (30#6 ++ d ++ a ++ 0#8 ++ g ++ t ++ 3#2)
  | .fcmp c m a b k g t => some (31#6 ++ c ++ m ++ a ++ b ++ k ++ g ++ t ++ 0#2)
  | .fcvt d a s g t => some (32#6 ++ d ++ a ++ 0#3 ++ s ++ 3#2 ++ g ++ t ++ 0#2)
  | .cvti d a s g t => some (32#6 ++ d ++ a ++ 0#3 ++ s ++ 3#2 ++ g ++ t ++ 1#2)
  | .cvtf d a s g t => some (32#6 ++ d ++ a ++ 0#3 ++ s ++ 3#2 ++ g ++ t ++ 2#2)
  | .fclass d a g t => some (32#6 ++ d ++ a ++ 0#8 ++ g ++ t ++ 3#2)
  | .vshuf d a b k g t => some (33#6 ++ d ++ a ++ b ++ k ++ g ++ t ++ 0#2)
  | .vbcast d a g t => some (33#6 ++ d ++ a ++ 0#8 ++ g ++ t ++ 1#2)
  | .vscan d a x f o g t => some (33#6 ++ d ++ a ++ 0#1 ++ x ++ f ++ o ++ 3#2 ++ g ++ t ++ 2#2)
  | .vred d a f o g t => some (33#6 ++ d ++ a ++ 0#2 ++ f ++ o ++ 3#2 ++ g ++ t ++ 3#2)
  | .mand d a b => some (34#6 ++ d ++ a ++ b ++ 0#8)
  | .mor d a b => some (34#6 ++ d ++ a ++ b ++ 1#8)
  | .mxor d a b => some (34#6 ++ d ++ a ++ b ++ 2#8)
  | .mnot d a => some (34#6 ++ d ++ a ++ 3#14)
  | .mpop d a => some (35#6 ++ d ++ a ++ 0#14)
  | .mfirst d a => some (35#6 ++ d ++ a ++ 1#14)
  | .mtos d a k => some (35#6 ++ d ++ a ++ k ++ 194#8)
  | .stom d a k => some (35#6 ++ d ++ a ++ k ++ 195#8)
  | .regroup d a b n g => some (36#6 ++ d ++ a ++ b ++ 0#1 ++ n ++ g ++ 0#2)
  | .vvote d a k => some (36#6 ++ d ++ a ++ 0#10 ++ k ++ 1#2)
  | .vldg v b i k j g w f c => some (37#6 ++ v ++ b ++ i ++ k ++ j ++ g ++ w ++ f ++ c)
  | .vstg v b i k j g w c => some (38#6 ++ v ++ b ++ i ++ k ++ j ++ g ++ w ++ 0#1 ++ c)
  | .vlds v b i k j g w f c => some (39#6 ++ v ++ b ++ i ++ k ++ j ++ g ++ w ++ f ++ c)
  | .vsts v b i k j g w c => some (40#6 ++ v ++ b ++ i ++ k ++ j ++ g ++ w ++ 0#1 ++ c)
  | .sld d a o f => some (41#6 ++ d ++ a ++ o ++ f)
  | .sst d a o => some (42#6 ++ d ++ a ++ o ++ 0#1)
  | .atom v o b p r s f => some (43#6 ++ v ++ o ++ b ++ p ++ r ++ s ++ f)
  | .atom64 v o b p r s f => some (44#6 ++ v ++ o ++ b ++ p ++ r ++ s ++ f)
  | .atomf v o b p r s f => some (45#6 ++ v ++ o ++ b ++ p ++ r ++ s ++ f)
  | .fence s p o => some (12058624#24 ++ s ++ 0#2 ++ p ++ o)
  | .waitl a b w => some (2945#12 ++ a ++ b ++ 0#7 ++ w)
  | .pref a t n => some (2946#12 ++ a ++ 0#4 ++ t ++ n)
  | .tld d a b f w k => some (47#6 ++ d ++ a ++ b ++ f ++ w ++ k ++ 0#3)
  | .tex d a b f p => some (47#6 ++ d ++ a ++ b ++ f ++ p ++ 1#6)
  | .texg d a b f n => some (47#6 ++ d ++ a ++ b ++ f ++ 0#1 ++ n ++ 2#4)
  | .tqry d b f => some (47#6 ++ d ++ 0#6 ++ b ++ f ++ 3#7)
  | .stmap a b n => some (3072#12 ++ a ++ b ++ n)
  | .stflush n => some (12587008#24 ++ n)
  | .stunmap n => some (12591104#24 ++ n)
  | .stqry d n => some (3075#12 ++ d ++ 0#6 ++ n)
  | .cpy a b d => some (3136#12 ++ a ++ b ++ 0#6 ++ d)
  | .cpy2d a b d => some (3137#12 ++ a ++ b ++ 0#6 ++ d)
  | .cpyb d => some (3138#12 ++ d ++ 0#14)
  | .cpyw a => some (3139#12 ++ a ++ 0#14)
  | .bar l n => some (13107200#24 ++ l ++ 0#3 ++ n)
  | .bara l n => some (13111296#24 ++ l ++ 0#3 ++ n)
  | .barw l n => some (13115392#24 ++ l ++ 0#3 ++ n)
  | .barq d l n => some (3203#12 ++ d ++ 0#6 ++ l ++ 0#3 ++ n)
  | .stream d a => some (51#6 ++ d ++ a ++ 0#14)
  | .qpop d a f => some (51#6 ++ d ++ a ++ 0#6 ++ f ++ 1#7)
  | .qstat d a => some (51#6 ++ d ++ a ++ 2#14)
  | .qclose a => some (3264#12 ++ a ++ 3#14)
  | .mgang a => some (3328#12 ++ a ++ 0#14)
  | .mma a b n => some (3328#12 ++ a ++ b ++ 0#1 ++ n ++ 1#6)
  | .mdrain a b f n k z s => some (3328#12 ++ a ++ b ++ f ++ n ++ k ++ z ++ s ++ 2#2)
  | .mzero n => some (27262976#25 ++ n ++ 3#6)
  | .maccrd d a f n => some (53#6 ++ d ++ a ++ 0#6 ++ f ++ n ++ 0#6)
  | .maccwr d a n => some (53#6 ++ d ++ a ++ 0#7 ++ n ++ 1#6)
  | .mfmt a b => some (3392#12 ++ a ++ b ++ 2#8)
  | .mqry d n => some (53#6 ++ d ++ 0#13 ++ n ++ 3#6)
  | .lfset a b c => some (3456#12 ++ a ++ b ++ 0#5 ++ c ++ 0#2)
  | .lfspan d a b => some (54#6 ++ d ++ a ++ b ++ 1#8)
  | .lfint d a b w l => some (54#6 ++ d ++ a ++ b ++ 0#4 ++ w ++ l ++ 2#2)
  | .lfz d a r => some (54#6 ++ d ++ a ++ 0#11 ++ r ++ 3#2)
  | .lfout d a b p s => some (55#6 ++ d ++ a ++ b ++ 0#3 ++ p ++ s ++ 0#2)
  | .mshdec d a b => some (55#6 ++ d ++ a ++ b ++ 1#8)
  | .qmerge d a b => some (55#6 ++ d ++ a ++ b ++ 2#8)
  | .lfqry d a f => some (55#6 ++ d ++ a ++ 0#9 ++ f ++ 3#2)
  | .trace d a b f => some (56#6 ++ d ++ a ++ b ++ f ++ 0#7)
  | .trres d f => some (56#6 ++ d ++ 0#12 ++ f ++ 1#7)
  | .trget d f s => some (56#6 ++ d ++ 0#12 ++ f ++ 0#3 ++ s ++ 2#2)
  | .trhit d a => some (56#6 ++ d ++ a ++ 3#14)
  | .trsave a b p x => some (3648#12 ++ a ++ b ++ 0#3 ++ p ++ x ++ 0#3)
  | .trload d a b p i x => some (57#6 ++ d ++ a ++ b ++ 0#3 ++ p ++ i ++ x ++ 1#2)
  | .coll d a => some (58#6 ++ d ++ a ++ 0#14)
  | .collw d a t => some (58#6 ++ d ++ a ++ 0#11 ++ t ++ 1#2)
  | .kvfork d a b => some (58#6 ++ d ++ a ++ b ++ 2#8)
  | .kvfree d a b => some (58#6 ++ d ++ a ++ b ++ 3#8)
  | .red v o b p r s => some (59#6 ++ v ++ o ++ b ++ p ++ r ++ s ++ 0#1)
  | .atxXchg32 v o b r s f => some (60#6 ++ v ++ o ++ b ++ 0#3 ++ r ++ s ++ f)
  | .atxCas32 v o b r s f => some (60#6 ++ v ++ o ++ b ++ 1#3 ++ r ++ s ++ f)
  | .atxLd32 v o b r s f => some (60#6 ++ v ++ o ++ b ++ 2#3 ++ r ++ s ++ f)
  | .atxSt32 v o b r s => some (60#6 ++ v ++ o ++ b ++ 3#3 ++ r ++ s ++ 0#1)
  | .atxXchg64 v o b r s f => some (60#6 ++ v ++ o ++ b ++ 4#3 ++ r ++ s ++ f)
  | .atxCas64 v o b r s f => some (60#6 ++ v ++ o ++ b ++ 5#3 ++ r ++ s ++ f)
  | .atxLd64 v o b r s f => some (60#6 ++ v ++ o ++ b ++ 6#3 ++ r ++ s ++ f)
  | .atxSt64 v o b r s => some (60#6 ++ v ++ o ++ b ++ 7#3 ++ r ++ s ++ 0#1)
  | .longLatencyCompletion _ _ => none
  | .storeAtHome _ => none
  | .loadAtHome _ _ _ => none
  | .atomicAtHome _ => none
  | .fenceToken _ _ => none
  | .fenceTokenAck _ _ => none
  | .l1Invalidate _ _ => none
  | .stashRecall _ _ => none
  | .waitlTimeout _ => none
  | .teamPromotion _ => none
  | .tideProbe _ _ => none
  | .tideProbeReturn _ _ => none
  | .barrierPhaseCompletion _ => none
  | .barrierToken _ _ => none
  | .regroupExchange _ _ => none
  | .mmaCompletion _ _ => none
  | .streamEntryPush _ _ => none
  | .copyCompletion _ => none
  | .collectiveCompletion _ _ => none
  | .collectiveTimeout _ => none
  | .collectiveHalt _ => none
  | .collectiveResume _ => none
  | .haltLimitExpiry _ => none
  | .notificationWrite _ _ => none
  | .launchValidation _ => none
  | .dependencePoll _ => none
  | .gridStart _ => none
  | .bindRecord _ _ => none
  | .groupStart _ _ => none
  | .teamStart _ => none
  | .gridCompletion _ => none
  | .preemptionDecision _ _ => none
  | .drainDeadline _ _ => none
  | .saveComplete _ _ => none
  | .saveDeadline _ => none
  | .contextRestore _ _ => none
  | .raceEpochAdvance => none
  | .traceSample _ _ => none
  | .wringerFrame _ => none
  | .timeSyncExchange _ _ _ => none
  | .domainTimeExchange _ _ _ => none
  | .hostAccess _ _ _ => none
  | .shorelineLinkFailure _ _ => none
  | .fabricRouteLoss _ => none
  | .thermalThrottle _ _ => none
  | .thermalShutdown => none
  | .moduleReset _ => none
  | .registerWrite _ _ => none
  | .resync => none
  | .start => none
  | .ctxnew => none
  | .ctxfree => none
  | .qreg => none
  | .inval => none
  | .resident => none
  | .halt => none
  | .release => none
  | .group => none
  | .keyload => none
  | .attest => none
  | .sinkrst => none
  | .wordNotAnInstruction _ => none
  | .samplerInvalidation _ _ => none
  | .instructionCacheInvalidation _ _ => none
  | .storeAcknowledgement _ _ => none
  | .watchReport _ => none
  | .wakeWithoutNotice _ => none
  | .stallAccountClock _ _ => none
  | .dvfsClockChange _ _ => none

/-- The word that a trap record shows for an instruction (R357). -/
def Instr.word : Instr → W32
  | .wordNotAnInstruction w => w
  | i => (encode i).getD 0

end Sys2Proof
end

