-- ==== Sys2Proof/Config.lean ====
section
/-! DEFINITION. What the spec leaves to the part, and the values it leaves free. A free value has no body: nothing
can be proved about which value it is. -/

namespace Sys2Proof.Config

/-- FREE. A choice the spec leaves to the hardware: at the n-th step of the run, for a key that tells the choices of
one step apart (log entry 2). -/
opaque freeBit : Nat → Nat → Bool

/-- FREE. A number the spec leaves open (clocks that pass, how far an agent has come) (log entry 2). -/
opaque freeNat : Nat → Nat → Nat

/-- FREE. A byte the spec leaves unspecified (log entry 2). -/
opaque freeByte : Nat → Nat → Byte

/-- FREE. A 32-bit register value the spec leaves unspecified (log entry 2). -/
opaque freeWord : Nat → Nat → W32

/-- FREE. The walk level that a record shows for a PROTECT that no walk raised (log entry 9). -/
opaque noWalkLevel : BitVec 4

/-- FREE. The kind of access that a record shows for a PROTECT of a word whose check is of no kind that the spec codes
(log entry 9). -/
opaque noKind : BitVec 4

/-- FREE. How the part lays out a section of a save area whose inside the spec leaves to it (R367): a byte of it, from what the section
holds (log entry 49). -/
opaque saveImage {α : Type} (kind : Nat) (content : α) (i : Nat) : Byte

/-- The part's fixed functions of R120, by number (0 FRCP, 1 FRSQ, 2 FEXP2, 3 FLOG2, 4 FSIN, 5 FCOS): the f32 result
for the f32 bits of the input, with flushing or without (log entry 7). -/
opaque special : Nat → W32 → Bool → W32

/-- FREE. The scale code that a producer writes for a block in a format whose largest magnitude is zero (log entry 11). -/
opaque noMaxScale : Byte

/-- How many bytes a key blob has, and the part's opening of one (R423): the AES-256 key, or none when it fails to open
(log entry 8). -/
opaque keyBlobBytes : Nat
opaque keyBlob : List Byte → Option (BitVec 256)

/-- The part's signed attestation report over the nonce and, in this order, MODID, FEAT, FEATACC, TIME, its bound, the nine
measurements and their security versions (R423) (log entry 8). -/
opaque report : List Byte → List Nat → List Byte

end Sys2Proof.Config
end

