-- ==== Sys2Proof/Machine/Flags.lean ====
section
/-! DEFINITION. Floating-point arithmetic by exact rationals and one rounding, with the STATUS flags each operation
raises (R114 to R124). -/

namespace Sys2Proof.Machine

/-- A binary interchange format: width of the exponent and of the trailing significand (R114). -/
structure FFmt where
  e : Nat
  m : Nat
  deriving DecidableEq, Repr, Inhabited

def f32 : FFmt := ⟨8, 23⟩
def f16 : FFmt := ⟨5, 10⟩
def bf16 : FFmt := ⟨8, 7⟩
def f64 : FFmt := ⟨11, 52⟩

def FFmt.bias (f : FFmt) : Nat := 2 ^ (f.e - 1) - 1
def FFmt.width (f : FFmt) : Nat := 1 + f.e + f.m
/-- The sign bit as a number. -/
def FFmt.signBit (f : FFmt) : Nat := 2 ^ (f.e + f.m)
/-- +Inf. -/
def FFmt.inf (f : FFmt) : Nat := (2 ^ f.e - 1) * 2 ^ f.m
/-- The greatest finite value. -/
def FFmt.maxFinite (f : FFmt) : Nat := f.inf - 1
/-- The canonical quiet NaN (R115). -/
def FFmt.nan (f : FFmt) : Nat := f.inf + 2 ^ (f.m - 1)
/-- 1.0. -/
def FFmt.one (f : FFmt) : Nat := f.bias * 2 ^ f.m

/-- The five sticky flags, in the order of STATUS bits [9:5] (R97): NV, DZ, OF, UF, NX. -/
abbrev FFlags := BitVec 5
def flagNV : FFlags := 16
def flagDZ : FFlags := 8
def flagOF : FFlags := 4
def flagUF : FFlags := 2
def flagNX : FFlags := 1

/-- A result with the flags it raises. -/
abbrev FRes := Nat × FFlags

/-- What bits stand for; a finite value is ± mant · 2^exp. -/
inductive FVal where
  | nan (signaling : Bool)
  | inf (neg : Bool)
  | fin (neg : Bool) (mant : Nat) (exp : Int)
  deriving DecidableEq, Repr, Inhabited

/-- Read the bits of a format; under flushing a subnormal reads as a zero of its sign (R114). -/
def FFmt.read (f : FFmt) (ftz : Bool) (b : Nat) : FVal :=
  let neg := (b / f.signBit) % 2 == 1
  let ex := (b / 2 ^ f.m) % 2 ^ f.e
  let fr := b % 2 ^ f.m
  if ex = 2 ^ f.e - 1 then
    if fr = 0 then .inf neg else .nan (fr < 2 ^ (f.m - 1))
  else if ex = 0 then .fin neg (if ftz then 0 else fr) (1 - (f.bias : Int) - f.m)
  else .fin neg (2 ^ f.m + fr) ((ex : Int) - f.bias - f.m)

def FVal.isNaN : FVal → Bool
  | .nan _ => true
  | _ => false

def FVal.isSNaN : FVal → Bool
  | .nan s => s
  | _ => false

def FVal.isZero : FVal → Bool
  | .fin _ 0 _ => true
  | _ => false

def FVal.neg : FVal → Bool
  | .nan _ => false
  | .inf n => n
  | .fin n _ _ => n

/-- Bits with a sign. -/
def FFmt.signed (f : FFmt) (neg : Bool) (b : Nat) : Nat := if neg then f.signBit + b else b

/-- Whether a magnitude i + r/d rounds up (0 RNE, 1 RZ, 2 RU, 3 RD). -/
def roundsUp (rm : BitVec 2) (neg : Bool) (i r d : Nat) : Bool :=
  if rm = 0 then decide (d < 2 * r) || (decide (2 * r = d) && i % 2 == 1)
  else if rm = 1 then false
  else if rm = 2 then !neg && decide (0 < r)
  else neg && decide (0 < r)

/-- num / (den · 2^q) as a quotient and a remainder over a divisor. -/
def scaleDiv (num den : Nat) (q : Int) : Nat × Nat × Nat :=
  match q with
  | .ofNat k => (num / (den * 2 ^ k), num % (den * 2 ^ k), den * 2 ^ k)
  | .negSucc k => ((num * 2 ^ (k + 1)) / den, (num * 2 ^ (k + 1)) % den, den)

/-- The greatest e with 2^e ≤ num/den, both positive. -/
def ratLog2 (num den : Nat) : Int :=
  let e : Int := (num.log2 : Int) - den.log2
  let ge : Bool := match e with
    | .ofNat k => decide (den * 2 ^ k ≤ num)
    | .negSucc k => decide (den ≤ num * 2 ^ (k + 1))
  if ge then e else e - 1

/-- ROUNDING. The bits of the exact magnitude num/den of a sign, rounded once; tininess is detected after rounding,
and a subnormal result is flushed under flushing (R114, R116). -/
def FFmt.round (f : FFmt) (rm : BitVec 2) (ftz neg : Bool) (num den : Nat) : FRes :=
  if num = 0 then (f.signed neg 0, 0)
  else
    let e := ratLog2 num den
    let emin : Int := 1 - (f.bias : Int)
    let q := (if e < emin then emin else e) - f.m
    let (i, r, d) := scaleDiv num den q
    let i' := if roundsUp rm neg i r d then i + 1 else i
    let inexact := decide (r ≠ 0)
    let (ip, rp, dp) := scaleDiv num den (e - f.m)
    let ip' := if roundsUp rm neg ip rp dp then ip + 1 else ip
    let tiny := decide (e < emin) && (decide (e < emin - 1) || decide (ip' < 2 ^ (f.m + 1)))
    let (i2, q2) := if i' = 2 ^ (f.m + 1) then (2 ^ f.m, q + 1) else (i', q)
    if i2 < 2 ^ f.m then
      if ftz && decide (i2 ≠ 0) then (f.signed neg 0, flagUF ||| flagNX)
      else (f.signed neg i2, if inexact then flagUF ||| flagNX else 0)
    else
      let be := (q2 + f.m + f.bias).toNat
      if 2 ^ f.e - 1 ≤ be then
        let toInf := rm = 0 ∨ (rm = 2 ∧ !neg) ∨ (rm = 3 ∧ neg)
        (f.signed neg (if toInf then f.inf else f.maxFinite), flagOF ||| flagNX)
      else
        (f.signed neg (be * 2 ^ f.m + (i2 - 2 ^ f.m)), (if inexact then flagNX else 0) ||| (if tiny && inexact then flagUF else 0))

/-- A signed exact value mant · 2^exp, rounded; `zneg` is the sign of an exact zero. -/
def FFmt.roundInt (f : FFmt) (rm : BitVec 2) (ftz zneg : Bool) (mant : Int) (exp : Int) : FRes :=
  if mant = 0 then (f.signed zneg 0, 0)
  else match exp with
    | .ofNat k => f.round rm ftz (decide (mant < 0)) (mant.natAbs * 2 ^ k) 1
    | .negSucc k => f.round rm ftz (decide (mant < 0)) mant.natAbs (2 ^ (k + 1))

/-- NaN operands: the canonical NaN, with NV for a signalling one (R115). -/
def FFmt.nanOf (f : FFmt) (l : List FVal) : FRes := (f.nan, if l.any FVal.isSNaN then flagNV else 0)

/-- The invalid operation. -/
def FFmt.invalid (f : FFmt) : FRes := (f.nan, flagNV)

/-- A finite value as a signed mantissa. -/
def signedMant (neg : Bool) (m : Nat) : Int := if neg then -(m : Int) else m

/-- The sign of the exact sum zero: that of both when equal, else + except under RD. -/
def zeroSign (rm : BitVec 2) (a b : Bool) : Bool := if a = b then a else rm = 3

/-- Sum of two exact values. -/
def addExact (m1 : Int) (e1 : Int) (m2 : Int) (e2 : Int) : Int × Int :=
  let e := if e1 ≤ e2 then e1 else e2
  (m1 * 2 ^ (e1 - e).toNat + m2 * 2 ^ (e2 - e).toNat, e)

def FFmt.addV (f : FFmt) (rm : BitVec 2) (ftz : Bool) (x y : FVal) : FRes :=
  match x, y with
  | .nan _, _ => f.nanOf [x, y]
  | _, .nan _ => f.nanOf [x, y]
  | .inf a, .inf b => if a = b then (f.signed a f.inf, 0) else f.invalid
  | .inf a, .fin _ _ _ => (f.signed a f.inf, 0)
  | .fin _ _ _, .inf b => (f.signed b f.inf, 0)
  | .fin a m1 e1, .fin b m2 e2 =>
    let (m, e) := addExact (signedMant a m1) e1 (signedMant b m2) e2
    f.roundInt rm ftz (zeroSign rm a b) m e

def FVal.negate : FVal → FVal
  | .nan s => .nan s
  | .inf n => .inf (!n)
  | .fin n m e => .fin (!n) m e

def FFmt.add (f : FFmt) (rm : BitVec 2) (ftz : Bool) (x y : Nat) : FRes := f.addV rm ftz (f.read ftz x) (f.read ftz y)
def FFmt.sub (f : FFmt) (rm : BitVec 2) (ftz : Bool) (x y : Nat) : FRes :=
  f.addV rm ftz (f.read ftz x) (f.read ftz y).negate

def FFmt.mul (f : FFmt) (rm : BitVec 2) (ftz : Bool) (x y : Nat) : FRes :=
  let u := f.read ftz x
  let v := f.read ftz y
  match u, v with
  | .nan _, _ => f.nanOf [u, v]
  | _, .nan _ => f.nanOf [u, v]
  | .inf a, .inf b => (f.signed (a != b) f.inf, 0)
  | .inf a, .fin b m _ => if m = 0 then f.invalid else (f.signed (a != b) f.inf, 0)
  | .fin a m _, .inf b => if m = 0 then f.invalid else (f.signed (a != b) f.inf, 0)
  | .fin a m1 e1, .fin b m2 e2 => f.roundInt rm ftz (a != b) (signedMant (a != b) (m1 * m2)) (e1 + e2)

/-- x·y + c with one rounding; a zero times an infinity is invalid whatever c holds (R118). -/
def FFmt.fma (f : FFmt) (rm : BitVec 2) (ftz : Bool) (x y c : Nat) : FRes :=
  let u := f.read ftz x
  let v := f.read ftz y
  let w := f.read ftz c
  let invalidProduct : Bool := match u, v with
    | .inf _, .fin _ 0 _ => true
    | .fin _ 0 _, .inf _ => true
    | _, _ => false
  if invalidProduct then f.invalid
  else if u.isNaN || v.isNaN || w.isNaN then f.nanOf [u, v, w]
  else
    let pn := u.neg != v.neg
    match u, v, w with
    | .fin _ m1 e1, .fin _ m2 e2, .fin c m3 e3 =>
      let (m, e) := addExact (signedMant pn (m1 * m2)) (e1 + e2) (signedMant c m3) e3
      f.roundInt rm ftz (zeroSign rm pn c) m e
    | .fin _ _ _, .fin _ _ _, .inf c => (f.signed c f.inf, 0)
    | _, _, .inf c => if pn = c then (f.signed c f.inf, 0) else f.invalid
    | _, _, _ => (f.signed pn f.inf, 0)

/-- Divide two exact magnitudes m1·2^e1 by m2·2^e2. -/
def FFmt.divExact (f : FFmt) (rm : BitVec 2) (ftz neg : Bool) (m1 : Nat) (e1 : Int) (m2 : Nat) (e2 : Int) : FRes :=
  match e1 - e2 with
  | .ofNat k => f.round rm ftz neg (m1 * 2 ^ k) m2
  | .negSucc k => f.round rm ftz neg m1 (m2 * 2 ^ (k + 1))

def FFmt.div (f : FFmt) (rm : BitVec 2) (ftz : Bool) (x y : Nat) : FRes :=
  let u := f.read ftz x
  let v := f.read ftz y
  match u, v with
  | .nan _, _ => f.nanOf [u, v]
  | _, .nan _ => f.nanOf [u, v]
  | .inf _, .inf _ => f.invalid
  | .inf a, .fin b _ _ => (f.signed (a != b) f.inf, 0)
  | .fin a _ _, .inf b => (f.signed (a != b) 0, 0)
  | .fin a m1 e1, .fin b m2 e2 =>
    if m2 = 0 then (if m1 = 0 then f.invalid else (f.signed (a != b) f.inf, flagDZ))
    else f.divExact rm ftz (a != b) m1 e1 m2 e2

/-- Integer square root, a bit at a time from bit k - 1 down. -/
def isqrtAux (n : Nat) : Nat → Nat → Nat
  | 0, s => s
  | k + 1, s => if (s + 2 ^ k) * (s + 2 ^ k) ≤ n then isqrtAux n k (s + 2 ^ k) else isqrtAux n k s

def isqrt (n : Nat) : Nat := isqrtAux n (n.log2 / 2 + 1) 0

def FFmt.sqrt (f : FFmt) (rm : BitVec 2) (ftz : Bool) (x : Nat) : FRes :=
  match f.read ftz x with
  | .nan s => f.nanOf [.nan s]
  | .inf n => if n then f.invalid else (f.inf, 0)
  | .fin n m e =>
    if m = 0 then (f.signed n 0, 0)
    else if n then f.invalid
    else
      let p := 2 * (f.m + 4)
      let (m', e') : Nat × Int := if e % 2 = 0 then (m, e) else (2 * m, e - 1)
      let big := m' * 2 ^ (2 * p)
      let s := isqrt big
      let sticky := if s * s = big then 0 else 1
      f.roundInt rm ftz false ((2 * s + sticky : Nat) : Int) (e' / 2 - p - 1)

/-- Order of two finite or infinite values. -/
def FVal.lt : FVal → FVal → Bool
  | .nan _, _ => false
  | _, .nan _ => false
  | .inf a, .inf b => a && !b
  | .inf a, .fin _ _ _ => a
  | .fin _ _ _, .inf b => !b
  | .fin a m1 e1, .fin b m2 e2 => decide ((addExact (signedMant a m1) e1 (-(signedMant b m2)) e2).1 < 0)

/-- Equality as numbers: +0 equals -0. -/
def FVal.eq (x y : FVal) : Bool := !x.isNaN && !y.isNaN && !x.lt y && !y.lt x

/-- The bits a value that passed the input flush stands for. -/
def FFmt.flushIn (f : FFmt) (ftz : Bool) (b : Nat) : Nat :=
  if ftz && decide ((b / 2 ^ f.m) % 2 ^ f.e = 0) then f.signed ((b / f.signBit) % 2 == 1) 0 else b % 2 ^ f.width

/-- minimumNumber (`max = false`) and maximumNumber, -0 below +0 (R118). -/
def FFmt.minMax (f : FFmt) (max ftz : Bool) (x y : Nat) : FRes :=
  let u := f.read ftz x
  let v := f.read ftz y
  let nv := if u.isSNaN || v.isSNaN then flagNV else 0
  if u.isNaN && v.isNaN then (f.nan, nv)
  else if u.isNaN then (f.flushIn ftz y, nv)
  else if v.isNaN then (f.flushIn ftz x, nv)
  else
    let xLess := u.lt v || (u.eq v && u.neg && !v.neg)
    (f.flushIn ftz (if xLess != max then x else y), nv)

/-- x with the sign of y (R118). -/
def FFmt.copySign (f : FFmt) (x y : Nat) : FRes :=
  ((x % f.signBit) + (if (y / f.signBit) % 2 = 1 then f.signBit else 0), 0)

/-- An exact value rounded to an integer. -/
def roundToInt (rm : BitVec 2) (neg : Bool) (m : Nat) (e : Int) : Nat × Bool :=
  let (i, r, d) := scaleDiv m 1 (-e)
  (if roundsUp rm neg i r d then i + 1 else i, decide (r ≠ 0))

/-- roundToIntegral, which never sets NX (R118). -/
def FFmt.rnd (f : FFmt) (rm : BitVec 2) (ftz : Bool) (x : Nat) : FRes :=
  match f.read ftz x with
  | .nan s => f.nanOf [.nan s]
  | .inf n => (f.signed n f.inf, 0)
  | .fin n m e =>
    if m = 0 then (f.signed n 0, 0)
    else ((f.roundInt rm false n (signedMant n (roundToInt rm n m e).1) 0).1, 0)

/-- Clamp to the range +0.0 to 1.0 (R119). -/
def FFmt.saturate (f : FFmt) (b : Nat) : Nat :=
  match f.read false b with
  | .nan _ => 0
  | .inf n => if n then 0 else f.one
  | .fin n m e => if n || m = 0 then 0 else if (FVal.fin false 1 0).lt (.fin n m e) then f.one else b

/-- A conversion between formats (R123). -/
def FFmt.convert (f g : FFmt) (rm : BitVec 2) (ftz : Bool) (x : Nat) : FRes :=
  match f.read ftz x with
  | .nan s => g.nanOf [.nan s]
  | .inf n => (g.signed n g.inf, 0)
  | .fin n m e => g.roundInt rm ftz n (signedMant n m) e

/-- An integer in a float format. -/
def FFmt.ofInt (f : FFmt) (rm : BitVec 2) (ftz : Bool) (i : Int) : FRes := f.roundInt rm ftz false i 0

/-- A float value to an integer between two limits: NaN gives 0 and NV, a value outside gives the nearest limit and
NV (R123). -/
def FFmt.toInt (f : FFmt) (rm : BitVec 2) (ftz : Bool) (lo hi : Int) (x : Nat) : Int × FFlags :=
  match f.read ftz x with
  | .nan _ => (0, flagNV)
  | .inf n => (if n then lo else hi, flagNV)
  | .fin n m e =>
    let (i, inexact) := roundToInt rm n m e
    let v := signedMant n i
    if v < lo then (lo, flagNV) else if hi < v then (hi, flagNV) else (v, if inexact then flagNX else 0)

/-- The class bit of FCLASS (R124). -/
def FFmt.classOf (f : FFmt) (x : Nat) : Nat :=
  match f.read false x with
  | .nan s => if s then 2 ^ 8 else 2 ^ 9
  | .inf n => if n then 1 else 2 ^ 7
  | .fin n m _ =>
    if m = 0 then (if n then 2 ^ 3 else 2 ^ 4)
    else if m < 2 ^ f.m then (if n then 2 ^ 2 else 2 ^ 5)
    else (if n then 2 else 2 ^ 6)

/-- The conditions of FCMP by code, with NV for olt to oge on any NaN and otherwise on a signalling one (R122). -/
def FFmt.compare (f : FFmt) (c : BitVec 3) (ftz : Bool) (x y : Nat) : Bool × FFlags :=
  let u := f.read ftz x
  let v := f.read ftz y
  let un := u.isNaN || v.isNaN
  let res : Bool :=
    if c = 0 then u.eq v
    else if c = 1 then !un && !u.eq v
    else if c = 2 then u.lt v
    else if c = 3 then !un && !v.lt u
    else if c = 4 then v.lt u
    else if c = 5 then !un && !u.lt v
    else if c = 6 then un
    else !un
  let relational := c = 2 ∨ c = 3 ∨ c = 4 ∨ c = 5
  (res, if (relational ∧ un) ∨ u.isSNaN ∨ v.isSNaN then flagNV else 0)

/-! ### The special functions (R120, R121)

Exact values are enclosed by fixed-point series with `fxBits` fractional bits; the part's own function is taken where
its result lies within the bound of R120, and the correctly rounded value stands where it does not. -/

def fxBits : Nat := 192
def fxOne : Int := 2 ^ fxBits

/-- Product of two fixed-point numbers. -/
def fxMul (a b : Int) : Int := (a * b) / fxOne

/-- Σ term_k with term_{k+1} = term_k · t / ((a·k + b)(a·k + c)). -/
def fxSeries (t : Int) (den : Nat → Int) : Nat → Nat → Int → Int → Int
  | 0, _, _, acc => acc
  | n + 1, k, term, acc =>
    let next := fxMul term t / den k
    fxSeries t den n (k + 1) next (acc + next)

/-- ln 2 = Σ 1/(k·2^k). -/
def fxLn2 : Int := (List.range fxBits).foldl (fun a k => a + fxOne / (((k + 1 : Nat) : Int) * 2 ^ (k + 1))) 0

/-- arctan(1/n) by its series. -/
def fxAtanInv (n : Nat) : Int :=
  (List.range 100).foldl (fun a k => a + (if k % 2 = 0 then 1 else -1) * (fxOne / ((2 * k + 1 : Nat) * (n : Int) ^ (2 * k + 1)))) 0

/-- π by Machin's formula. -/
def fxPi : Int := 4 * (4 * fxAtanInv 5 - fxAtanInv 239)

/-- 2^x for a fixed-point x in [0, 1). -/
def fxExp2 (x : Int) : Int :=
  fxSeries (fxMul x fxLn2) (fun k => (k + 1 : Nat)) 60 0 fxOne fxOne

/-- log₂ of the rational m/2^s in [1, 2). -/
def fxLog2 (m s : Nat) : Int :=
  let z := (fxOne * ((m : Int) - 2 ^ s)) / ((m : Int) + 2 ^ s)
  let z2 := fxMul z z
  let sum := ((List.range 70).foldl (fun (p : Int × Int) k => (fxMul p.1 z2, p.2 + p.1 / ((2 * k + 1 : Nat) : Int))) (z, 0)).2
  (2 * sum * fxOne) / fxLn2

/-- sin t for a fixed-point t. -/
def fxSin (t : Int) : Int :=
  fxSeries (-(fxMul t t)) (fun k => ((2 * k + 2) * (2 * k + 3) : Nat)) 60 0 t t

/-- cos t. -/
def fxCos (t : Int) : Int :=
  fxSeries (-(fxMul t t)) (fun k => ((2 * k + 1) * (2 * k + 2) : Nat)) 60 0 fxOne fxOne

/-- An exact value enclosed: mant · 2^exp with an error of at most 2^-32 of a unit in the last place of mant, or
exactly so. -/
structure Enclosed where
  mant : Int
  exp : Int
  exact : Bool
  deriving DecidableEq, Repr, Inhabited

/-- The exact value of a function of R120 at the finite input ± m·2^e, m not 0. -/
def specialValue (fn : Nat) (neg : Bool) (m : Nat) (e : Int) : Enclosed :=
  if fn = 0 then
    -- 1/x
    let k := m.log2 + 100
    ⟨signedMant neg (2 ^ k / m), -e - k, 2 ^ k % m = 0⟩
  else if fn = 1 then
    let (m', e') : Nat × Int := if e % 2 = 0 then (m, e) else (2 * m, e - 1)
    let k := m'.log2 + 200
    let n := 2 ^ (2 * k) / m'
    let s := isqrt n
    ⟨(s : Int), -(e' / 2) - k, s * s * m' = 2 ^ (2 * k)⟩
  else if fn = 2 then
    -- 2^x, x = n + f
    let x : Int := signedMant neg m
    if 12 ≤ e + m.log2 then ⟨1, if neg then -100000 else 100000, false⟩
    else if e < -180 then ⟨fxOne + (if neg then -1 else 1), -fxBits, false⟩
    else
      let fx : Int := match e + fxBits with
        | .ofNat k => x * 2 ^ k
        | .negSucc k => x / 2 ^ (k + 1)
      let n := fx / fxOne
      let f := fx % fxOne
      if f = 0 then ⟨1, n, true⟩ else ⟨fxExp2 f, n - fxBits, false⟩
  else if fn = 3 then
    let l := m.log2
    let ip : Int := e + l
    if m = 2 ^ l then ⟨ip, 0, true⟩ else ⟨ip * fxOne + fxLog2 m l, -fxBits, false⟩
  else
    -- turns, reduced to (-1/2, 1/2]
    let x : Int := signedMant neg m
    let (num, den) : Int × Nat := match e with
      | .ofNat k => (x * 2 ^ k, 1)
      | .negSucc k => (x, 2 ^ (k + 1))
    let r0 := num % (den : Int)
    let r := if (den : Int) < 2 * r0 then r0 - den else r0
    let t := (2 * fxPi * r) / (den : Int)
    if (4 * r) % (den : Int) = 0 then
      let q := ((4 * r) / (den : Int)) % 4
      let v : Int := if fn = 4 then (if q = 1 then 1 else if q = 3 then -1 else 0)
        else (if q = 0 then 1 else if q = 2 then -1 else 0)
      ⟨v, 0, true⟩
    else ⟨if fn = 4 then fxSin t else fxCos t, -fxBits, false⟩

/-- Whether the bits of a format lie within a bound of an enclosed value: `k` units in the last place of the format, or, where `k`
is 0, 2^-22. -/
def FFmt.within (f : FFmt) (k : Nat) (v : Enclosed) (b : Nat) : Bool :=
  match f.read false b with
  | .fin n m e =>
    let (dm, de) := addExact (signedMant n m) e (-v.mant) v.exp
    let ev : Int := v.mant.natAbs.log2 + v.exp
    let emin : Int := 1 - f.bias
    let ulpE : Int := (if ev < emin then emin else ev) - f.m
    let (bm, be) : Int × Int := if k = 0 then (2 ^ 31 - 1, -22 - 31) else (k * 2 ^ 31 - 1, ulpE - 31)
    let dd := addExact (dm.natAbs : Int) de (-bm) be
    decide (dd.1 ≤ 0)
  | _ => false

/-- The value that a special function returns on f32 for a finite input that is not zero: the part's own value where it lies within
the bound of R120, and the nearest where it does not; exact results of R121 stand. -/
def specialWide (fn : Nat) (ftz : Bool) (b : Nat) (n : Bool) (m : Nat) (e : Int) (v : Enclosed) : Nat :=
  let inUnit := decide (fn = 3) && !(FVal.fin n m e).lt (.fin false 1 (-1)) && !(FVal.fin false 2 0).lt (.fin n m e)
  let own := (Config.special fn (BitVec.ofNat 32 b) ftz).toNat
  let (near, nearFlags) := f32.roundInt 0 false (fn = 4 && n) v.mant v.exp
  let listed := v.exact && (nearFlags = 0) && (fn = 2 || 4 ≤ fn || b = f32.one)
  let k := if 4 ≤ fn ∨ (fn = 3 ∧ inUnit) then 0 else if fn = 0 then 1 else 2
  if listed || near = f32.inf || !f32.within k v own then near else own

/-- A special function on a finite input that is not zero, its f32 bits `b` (R120): a half is computed in f32 and rounded by RNE, and
where that is not within 1 ulp of the half format, the nearest value stands. NX is set exactly when the value returned is not the
exact one, OF for an infinity, and UF when the result is subnormal or flushed. -/
def FFmt.specialFin (f : FFmt) (fn : Nat) (ftz : Bool) (b : Nat) (n : Bool) (m : Nat) (e : Int) : FRes :=
  let v := specialValue fn n m e
  let wide := specialWide fn ftz b n m e v
  let r0 :=
    if f = f32 then wide
    else
      let h := (f32.convert f 0 false wide).1
      if f.within 1 v h then h else (f.roundInt 0 false (fn = 4 && n) v.mant v.exp).1
  let sub := decide (r0 % f.signBit ≠ 0) && decide ((r0 / 2 ^ f.m) % 2 ^ f.e = 0)
  let r := if ftz && sub then f.signed (r0 / f.signBit % 2 == 1) 0 else r0
  let exactly : Bool := match f.read false r with
    | .fin n' m' e' => v.exact && decide ((addExact (signedMant n' m') e' (-v.mant) v.exp).1 = 0)
    | _ => false
  (r, (if exactly then 0 else flagNX) ||| (if r % f.signBit = f.inf then flagOF else 0) ||| (if sub then flagUF else 0))

/-- A special function (R120), with the special inputs of R121. -/
def FFmt.special (f : FFmt) (fn : Nat) (ftz : Bool) (x : Nat) : FRes :=
  match f.read ftz x with
  | .nan s => f.nanOf [.nan s]
  | .inf n =>
    if fn = 0 then (f.signed n 0, 0)
    else if fn = 1 then (if n then f.invalid else (0, 0))
    else if fn = 2 then (if n then 0 else f.inf, 0)
    else if fn = 3 then (if n then f.invalid else (f.inf, 0))
    else f.invalid
  | .fin n m e =>
    if m = 0 then
      if fn = 0 then (f.signed n f.inf, flagDZ)
      else if fn = 1 then (f.signed n f.inf, flagDZ)
      else if fn = 2 then (f.one, 0)
      else if fn = 3 then (f.signed true f.inf, flagDZ)
      else if fn = 4 then (f.signed n 0, 0)
      else (f.one, 0)
    else if n && (fn = 1 || fn = 3) then f.invalid
    else f.specialFin fn ftz (f.convert f32 0 false x).1 n m e

end Sys2Proof.Machine
end

