-- ==== Sys2Proof/Machine/Exact.lean ====
section
/-! DEFINITION. Exact values: rationals with the special values of IEEE 754, and their one rounding (R114, R223, R285,
R293). -/

namespace Sys2Proof.Machine

/-- The exact value of a finite number. -/
def FVal.rat : FVal → Rat
  | .fin n m e => (if n then -1 else 1) * (m : Rat) * (2 : Rat) ^ e
  | _ => 0

/-- An exact value rounded once; `zneg` is the sign of an exact zero. -/
def FFmt.roundRat (f : FFmt) (rm : BitVec 2) (ftz zneg : Bool) (q : Rat) : FRes :=
  if q = 0 then (f.signed zneg 0, 0) else f.round rm ftz (decide (q < 0)) q.num.natAbs q.den

/-- The nearest integer, ties to even. -/
def roundEven (q : Rat) : Int :=
  let f := q.floor
  let d := q - f
  if d < 1 / 2 then f else if 1 / 2 < d then f + 1 else if f % 2 = 0 then f else f + 1

/-- A number with its sign (which a zero has too), an infinity, or no number. -/
inductive XVal where
  | num (q : Rat) (neg : Bool)
  | inf (neg : Bool)
  | nan
  deriving DecidableEq, Repr, Inhabited

/-- A float as an exact value. -/
def XVal.ofF : FVal → XVal
  | .nan _ => .nan
  | .inf n => .inf n
  | .fin n m e => .num (FVal.fin n m e).rat n

/-- The exact value of f32 bits. -/
def XVal.ofF32 (x : W32) : XVal := .ofF (f32.read false x.toNat)

def XVal.isNan : XVal → Bool
  | .nan => true
  | _ => false

def XVal.isInf (n : Bool) : XVal → Bool
  | .inf m => m == n
  | _ => false

def XVal.neg : XVal → Bool
  | .num _ n => n
  | .inf n => n
  | .nan => false

def XVal.rat : XVal → Rat
  | .num q _ => q
  | _ => 0

/-- IEEE multiplication, exact. -/
def XVal.mul : XVal → XVal → XVal
  | .nan, _ => .nan
  | _, .nan => .nan
  | .inf n, .inf m => .inf (n != m)
  | .inf n, .num q m => if q = 0 then .nan else .inf (n != m)
  | .num q m, .inf n => if q = 0 then .nan else .inf (n != m)
  | .num q n, .num r m => .num (q * r) (n != m)

/-- An exact sum: no number where a term is none, or where infinities of both signs meet; an exact zero is +0, but −0
where every term is −0. -/
def XVal.sum (l : List XVal) : XVal :=
  if l.any XVal.isNan ∨ (l.any (XVal.isInf true) ∧ l.any (XVal.isInf false)) then .nan
  else if l.any (XVal.isInf true) then .inf true
  else if l.any (XVal.isInf false) then .inf false
  else
    let q := l.foldl (fun r x => r + x.rat) 0
    .num q (if q = 0 then !l.isEmpty && l.all XVal.neg else decide (q < 0))

/-- The bits of a format, rounded once. -/
def XVal.bits (f : FFmt) (rm : BitVec 2) : XVal → Nat
  | .nan => f.nan
  | .inf n => f.signed n f.inf
  | .num q n => (f.roundRat rm false n q).1

/-- The f32 bits of a value, rounded by RNE. -/
def XVal.f32 (x : XVal) : W32 := BitVec.ofNat 32 (x.bits Machine.f32 0)

/-- Order of exact values; no number is below no number. -/
def XVal.le : XVal → XVal → Bool
  | .nan, _ => false
  | _, .nan => false
  | .inf true, _ => true
  | _, .inf false => true
  | .num q _, .num r _ => decide (q ≤ r)
  | .inf false, _ => false
  | _, .inf true => false

/-- The exact value of f32 bits, where they are finite. -/
def finite32 (x : W32) : Option Rat :=
  match f32.read false x.toNat with
  | .fin n m e => some (FVal.fin n m e).rat
  | _ => none

/-- f32 comparisons of bits. -/
def lt32 (x y : W32) : Bool := (f32.read false x.toNat).lt (f32.read false y.toNat)
def le32 (x y : W32) : Bool :=
  let u := f32.read false x.toNat
  let v := f32.read false y.toNat
  !u.isNaN && !v.isNaN && !v.lt u

end Sys2Proof.Machine
end

