-- ==== Sys2Proof/Machine/Map.lean ====
section
/-! DEFINITION. A finite map from numbers to plain data, in one canonical form: keys strictly rising and, where a
value is written with `set`, no entry equal to the value that an unlisted key reads as. Memory, register files
and every table of the machine are such maps. -/

namespace Sys2Proof.Machine

/-- A map from numbers to `α`; a key that is not listed reads as `d`. -/
structure SMap {α : Type} (d : α) where
  entries : List (Nat × α)
  deriving DecidableEq, Repr

/-- The value listed for a key, or the given one. -/
def listGet {α : Type} (d : α) (k : Nat) : List (Nat × α) → α
  | [] => d
  | (j, v) :: r => if j = k then v else listGet d k r

/-- Put a value at a key of a list whose keys rise. -/
def listPut {α : Type} (k : Nat) (v : α) : List (Nat × α) → List (Nat × α)
  | [] => [(k, v)]
  | (j, u) :: r => if k < j then (k, v) :: (j, u) :: r else if k = j then (k, v) :: r else (j, u) :: listPut k v r

/-- Drop a key. -/
def listDrop {α : Type} (k : Nat) : List (Nat × α) → List (Nat × α)
  | [] => []
  | (j, u) :: r => if j = k then r else (j, u) :: listDrop k r

/-- The map that lists nothing. -/
def SMap.empty {α : Type} {d : α} : SMap d := ⟨[]⟩

/-- What a key reads as. -/
def SMap.get {α : Type} {d : α} (m : SMap d) (k : Nat) : α := listGet d k m.entries

/-- Write a value; writing the value an unlisted key reads as removes the entry. -/
def SMap.set {α : Type} [DecidableEq α] {d : α} (m : SMap d) (k : Nat) (v : α) : SMap d :=
  if v = d then ⟨listDrop k m.entries⟩ else ⟨listPut k v m.entries⟩

/-- Write a record, which stays listed whatever it holds. -/
def SMap.put {α : Type} {d : α} (m : SMap d) (k : Nat) (v : α) : SMap d := ⟨listPut k v m.entries⟩

/-- Remove a key. -/
def SMap.drop {α : Type} {d : α} (m : SMap d) (k : Nat) : SMap d := ⟨listDrop k m.entries⟩

/-- The listed keys, in order. -/
def SMap.keys {α : Type} {d : α} (m : SMap d) : List Nat := m.entries.map Prod.fst

/-- The listed values, in order of their keys. -/
def SMap.values {α : Type} {d : α} (m : SMap d) : List α := m.entries.map Prod.snd

/-- Change what a key holds. -/
def SMap.modify {α : Type} {d : α} (m : SMap d) (k : Nat) (f : α → α) : SMap d := m.put k (f (m.get k))

/-- Keys rise strictly from a bound on. -/
def risingFrom {α : Type} : Nat → List (Nat × α) → Bool
  | _, [] => true
  | b, (k, _) :: r => decide (b ≤ k) && risingFrom (k + 1) r

/-- The canonical form. -/
def SMap.wf {α : Type} [DecidableEq α] {d : α} (m : SMap d) : Bool :=
  risingFrom 0 m.entries && m.entries.all (fun e => decide (e.2 ≠ d))

end Sys2Proof.Machine
end

