-- ==== Sys2Proof/Machine/State.lean ====
section
/-! DEFINITION. The state of the whole module as plain data: teams, workgroups, grids, contexts, cores, dies, home
slices and the hub, with the work in progress of every engine, and the machine right after reset. -/

namespace Sys2Proof.Machine

/-! ### Teams -/

/-- A point in a team's program order (R35, R350): the next word, the header of the clause that holds it, and the
words of the clause still to issue, 0 where a header must come next. -/
structure ClausePos where
  pc : W64 := 0
  left : Nat := 0
  hdr : W64 := 0
  setA : BitVec 4 := 15
  setB : BitVec 4 := 15
  deriving DecidableEq, Repr, Inhabited

/-- An entry of the divergence stack (R84). -/
structure DivEntry where
  rejoin : Bool
  target : W64
  mask : Mask
  deriving DecidableEq, Repr, Inhabited

/-- What a seam records and a rollback restores (R350, R354). The stacks hold their top first. -/
structure Flow where
  pos : ClausePos := {}
  active : Mask := 0
  dstack : List DivEntry := []
  rstack : List (BitVec 16) := []
  rovf : Nat := 0
  deriving DecidableEq, Repr, Inhabited

/-- The payload of HINT.MOD (R53). -/
structure ModHint where
  cache : BitVec 2 := 0
  ftz : BitVec 1 := 0
  sat : BitVec 1 := 0
  rmen : BitVec 1 := 0
  rm : BitVec 2 := 0
  deriving DecidableEq, Repr, Inhabited

/-- The hints of the run before the next word (R50). -/
structure Hints where
  imms : List (BitVec 22) := []
  sched : Option (BitVec 4) := none
  modh : Option ModHint := none
  src3 : Option (BitVec 2 × BitVec 6) := none
  guard : Option (BitVec 1 × BitVec 3) := none
  deriving DecidableEq, Repr, Inhabited

/-- An i-register in one lane (R140). -/
structure IReg where
  status : W32 := 0
  mask : W64 := 0
  px : W32 := 0
  py : W32 := 0
  deriving DecidableEq, Repr, Inhabited

/-- The registers of a team (R25): v by register*1024 + lane, i likewise; a as base and stride. -/
structure Regs where
  s : SMap (0#64) := .empty
  v : SMap (0#32) := .empty
  ab : SMap (0#64) := .empty
  as : SMap (0#32) := .empty
  m : SMap (0#1024) := .empty
  i : SMap ({} : IReg) := .empty
  deriving DecidableEq, Repr, Inhabited

/-- An entry of the acquired table (R376): a team (0), its workgroup (1), its cluster (2) or its grid (3). -/
structure Acq where
  kind : Nat
  ident : BitVec 24
  clock : Nat
  deriving DecidableEq, Repr, Inhabited

/-- A release record of a line (R377). -/
structure RelRec where
  pairs : List Acq := []
  ovf : Bool := false
  lost : Bool := false
  deriving DecidableEq, Repr, Inhabited

/-- What travels with a request (R370, R376, R388, R394): who made it and what that team knew at its issue. -/
structure Who where
  uid : Nat := 0
  ident : BitVec 24 := 0
  ctx : Nat := 0
  lnum : Nat := 0
  wg : Nat := 0
  clk : Nat := 0
  floors : Nat × Nat × Nat := (0, 0, 0)
  acq : List Acq := []
  lenient : Bool := false
  race : Nat := 0
  pc : W64 := 0
  regions : W64 := 0
  engine : Bool := false
  stamp : Option Nat := none
  deriving DecidableEq, Repr, Inhabited

/-- The element an access of one lane touches: its byte offset in the line and its size (R192). -/
structure Elem where
  lane : Nat
  /-- where the value goes: the first register, or the first 32-bit piece of what the word gathers -/
  idx : Nat := 0
  off : Nat
  size : Nat
  /-- store data, the operand of an atomic, or the new value of a compare-and-swap -/
  x : BitVec 128 := 0
  /-- the expected value of a compare-and-swap -/
  e : W64 := 0
  deriving DecidableEq, Repr, Inhabited

/-- The operations a home slice performs on an element (R244, R245, R146). -/
inductive AtomicOp where
  | add | smin | smax | nmin | nmax | and | or | xor
  | fadd32 | fmin32 | fmax32 | faddh | faddb
  | xchg | cas | ld | st
  | depth
  deriving DecidableEq, Repr, Inhabited

/-- A store request in a core's miss tracker: one line of one pass (R178, R179, R197), or a RED or ATX store. -/
structure StoreReq where
  id : Nat
  uid : Nat := 0
  seq : Nat := 0
  line : Nat := 0
  va : W64 := 0
  elems : List Elem := []
  op : Option AtomicOp := none
  rel : Bool := false
  who : Who := {}
  checked : Bool := false
  performed : Bool := false
  /-- kept back until every request of its word has passed its check (R386) -/
  held : Bool := false
  /-- its pass has not issued (R20) -/
  later : Bool := false
  kv : Bool := false
  rc : Bool := false
  /-- the word that it belongs to -/
  word : W32 := 0
  /-- its word completes when it has been performed (R143, R147) -/
  fin : Bool := false
  deriving DecidableEq, Repr, Inhabited

/-- One line's part of a load or of an atomic that returns a value (R178, R193). -/
structure Part where
  line : Nat
  va : W64
  elems : List Elem
  rc : Bool := false
  kv : Bool := false
  checked : Bool := false
  fixed : Bool := false
  /-- its pass has issued (R20) -/
  issued : Bool := true
  /-- its line takes an entry of the miss tracker (R179) -/
  entry : Bool := false
  deriving DecidableEq, Repr, Inhabited

/-- A fault of one element: cause, detail and address. -/
structure EFault where
  cause : Nat
  detail : Nat := 0
  addr : W64 := 0
  deriving DecidableEq, Repr, Inhabited

/-- The kinds of long-latency words (R44, R49). -/
inductive LongKind where
  | load | stash | scalar | atomic | sampler | qpop | mdrain | maccrd | trace | trres | trget
  /-- the reads of a word that waits for their values -/
  | gather
  deriving DecidableEq, Repr, Inhabited

/-- An outstanding long-latency word (R42, R47). -/
structure LongWord where
  id : Nat
  kind : LongKind := .load
  seq : Nat := 0
  word : W32 := 0
  pc : W64 := 0
  flag : Nat := 0
  /-- destination registers, each whole -/
  dests : RegSet := 0
  /-- lane, register and value of each write to be made at completion; a scalar word writes lane 0 of `sdest` -/
  results : List (Nat × Nat × W32) := []
  /-- lane, piece and value of what a word reads before it computes: texels, and what an interlocked word waits for -/
  raw : List (Nat × Nat × W32) := []
  sdest : Option (Nat × W64) := none
  parts : List Part := []
  op : Option AtomicOp := none
  ord : BitVec 2 := 0
  /-- the release wave that its requests wait for, and the request number below which the core's stores come first
  (R239) -/
  wave : Option Nat := none
  upto : Nat := 0
  /-- the first register, the count of registers and the sign extension of a load -/
  reg : Nat := 0
  width : BitVec 3 := 0
  /-- the place that the word's completion seam stands for -/
  after : Flow := {}
  who : Who := {}
  /-- release records read, with whether each was lost or overflowed (R378) -/
  merged : List RelRec := []
  /-- what its walks have read of the leaves that they test: a lane, the first address, and the bytes from there on in one line (R348) -/
  bufs : List (Nat × Nat × List Byte) := []
  /-- destination lines that an engine still has to write for the word (R210): a virtual line number, or 2^60 plus the
  line number of a stash -/
  lines : List Nat := []
  /-- work that the word's kind keeps: operand registers and options as they were at issue -/
  args : List W64 := []
  mask : Mask := 0
  /-- an error that ends the word with a trap at its completion seam (R343): cause, lane, node, address -/
  err : Option (Nat × Nat × Nat × W64) := none
  /-- the detail of that error (R357) -/
  errDetail : Nat := 0
  /-- the address whose fault holds its engine until a residency signal (R172) -/
  held : Option W64 := none
  /-- the lanes of its destinations, by the register's bit in a register set, that an interlocked word, or the completion of
  another word, has written since (R47) -/
  rewritten : SMap (0#1024) := .empty
  /-- no longer cancellable (R49) -/
  begun : Bool := false
  /-- once its accesses have begun they are finished before any rollback (R147, R155) -/
  fin : Bool := false
  deriving DecidableEq, Repr, Inhabited

/-- The trap a word asks for (R355, R357). -/
structure TrapReq where
  cause : Nat := 0
  detail : Nat := 0
  addr : W64 := 0
  lane : Nat := 0xFFFF
  word : W32 := 0
  pc : W64 := 0
  aux : W32 := 0
  /-- 0 rollback, 1 in place, 2 at seam (R355) -/
  cls : Nat := 0
  regions : W64 := 0
  deriving DecidableEq, Repr, Inhabited

/-- A handler or continuation frame (R358, R362). -/
structure Frame where
  pos : ClausePos
  active : Mask
  dstack : List DivEntry
  /-- the arrival of the region that the frame was entered from (R249) -/
  arrived : Option (Nat × Nat × Nat) := none
  deriving DecidableEq, Repr, Inhabited

/-- What a team whose word has issued but not completed is waiting in. -/
inductive Wait where
  | none
  /-- a release wave that the word sent (R206, R239) -/
  | wave (id : Nat)
  /-- BAR or BARW: level, number, and the phase that must complete -/
  | barrier (level num phase : Nat)
  /-- an MMA latch (R302): accumulator, mask and the four operand registers -/
  | latch (acc mask : Nat) (ops : List W64)
  /-- a REGROUP rendezvous (R132): D, A, B and OPT -/
  | regroup (d a b opt : Nat)
  /-- WAITL asleep (R252) -/
  | monitor
  /-- QPOP of a port since a clock of its die (R272), or QCLOSE since 0 -/
  | queue (port since : Nat)
  /-- requests of the word await their checks or their values (R45, R386): the number of its outstanding word, or of its
  stores -/
  | access (id : Nat)
  /-- invalidations that the word has sent (R159, R236), and the clock of its die from which it may complete (R160) -/
  | invalidation (id clk : Nat)
  /-- the residency signal for an address whose fault holds a write-back (R229) -/
  | resident (va : W64)
  /-- an STUNMAP with lines still to unmap (R229) -/
  | unmap
  deriving DecidableEq, Repr, Inhabited

/-- A copy of a shared block in progress (R188): its context, the entry's address, the old and the new block, and how many of its
steps have been made: the new block taken, the block copied, its count set, the entry changed. -/
structure KvOp where
  ctx : Nat
  entry : Nat
  old : Nat
  new : Nat
  step : Nat := 0
  deriving DecidableEq, Repr, Inhabited

/-- What a team is (R30, R33, R363, R395). -/
inductive Phase where
  | unbound
  /-- bound; waits for its start or for a group start (R266, R267) -/
  | held
  | running
  /-- waits for a residency signal (R363) -/
  | replay
  /-- stopped by a halt (R395) -/
  | halted
  /-- retired; the slot is kept for an inherited range (R29) or for its workgroup -/
  | retired
  /-- its grid has ended (R359) -/
  | stopped
  deriving DecidableEq, Repr, Inhabited

/-- Where a team is bound and for what (R9, R98). -/
structure Place where
  grid : Nat := 0
  wg : Nat := 0
  idx : Nat := 0
  ctx : Nat := 0
  width : Nat := 32
  vregs : Nat := 4
  gen : Nat := 0
  started : Nat := 0
  deriving DecidableEq, Repr, Inhabited

/-- System registers of the team that hold bits (R97, R100, R156, R314, R338). -/
structure TeamSys where
  status : W64 := 0
  lfrate : W64 := 1
  lfsticky : W64 := 0
  lfqtol : W64 := 0
  gangmask : BitVec 16 := 0
  gangidx : BitVec 3 := 0
  mseed : W64 := 0
  trspill : W64 := 0
  trcfg : W64 := 0
  trroot : W64 := 0
  deriving DecidableEq, Repr, Inhabited

/-- Traps, frames and the continuation (R357 to R364). -/
structure TeamTrap where
  cause : Nat := 0
  valid : Bool := false
  record : List W64 := []
  handler : Option Frame := none
  cont : Option Frame := none
  contpc : W64 := 0
  contFault : W64 := 0
  resident : Bool := false
  contPending : Bool := false
  pending : Option TrapReq := none
  watch : Option TrapReq := none
  fault : Option (Nat × W64) := none
  deriving DecidableEq, Repr, Inhabited

/-- Race clock and knowledge (R375 to R379, R390). -/
structure TeamRace where
  clock : Nat := 1
  sat : Bool := false
  floorWg : Nat := 0
  floorCl : Nat := 0
  floorGrid : Nat := 0
  acq : List Acq := []
  level : Nat := 0
  lsat : Bool := false
  summarised : Nat := 0
  unplaced : Nat := 0
  pending : List RelRec := []
  fence : Option Nat := none
  deriving DecidableEq, Repr, Inhabited

/-- A batch of copies (R233): its number and its copies. -/
structure Batch where
  num : Nat
  copies : List Nat
  deriving DecidableEq, Repr, Inhabited

/-- Copies of the team (R231 to R235). -/
structure TeamCopy where
  last : Nat := 0
  open_ : List Nat := []
  batches : List Batch := []
  colls : Nat := 0
  deriving DecidableEq, Repr, Inhabited

/-- The triangle setup of the span unit (R135, R136). -/
structure LfSetup where
  views : Nat
  verts : List (Int × Int)
  w : List W32
  d : List Int
  idx : List Nat
  /-- A, B, C, D and F of edges 0, 1 and 2 -/
  edges : List (List Int)
  desc : List W64 := []
  deriving DecidableEq, Repr, Inhabited

/-- A saved walk that the word it belongs to may claim (R349): its address, word and mask, the states that its lanes had
reached with those still walking, the hits committed and the failures met so far. -/
structure SavedWalk where
  pc : W64
  word : W32
  mask : Mask
  lanes : SMap (0#512)
  parts : List Part
  hits : List (Nat × Nat × W32)
  err : Option (Nat × Nat × Nat × W64)
  errDetail : Nat
  deriving DecidableEq, Repr

/-- Traversal state by lane, in the 64 bytes of R335: as it is now, and as it stood when the outstanding walk issued; and
a saved walk. -/
structure TeamTrav where
  lanes : SMap (0#512) := .empty
  old : SMap (0#512) := .empty
  saved : Option SavedWalk := none
  deriving DecidableEq, Repr, Inhabited

/-- A team slot (R20 to R25). The values of a slot that no team is bound to are the model's. (DESIGN CHOICE, log entry 4) -/
structure Team where
  phase : Phase := .unbound
  flow : Flow := {}
  hints : Hints := {}
  place : Place := {}
  regs : Regs := {}
  flags : SMap (0 : Nat) := .empty
  words : List LongWord := []
  nextSeq : Nat := 0
  wait : Wait := .none
  stall : Option Nat := none
  /-- clocks for which it has been eligible without issuing, and since when it is promoted (R268) -/
  eligible : Nat := 0
  promoted : Option Nat := none
  /-- the step of its latest issue, or of its start (R268) -/
  lastIssue : Nat := 0
  /-- the requests of its core's miss tracker that it has observed (R201): those numbered below the first, and those listed -/
  seenUpto : Nat := 0
  observed : List Nat := []
  /-- the accesses of the word that it issues have begun, and are finished before any rollback (R147, R155, R246, R366) -/
  finishing : Bool := false
  seam : Flow := {}
  seamCnt : W32 := 0
  /-- words numbered below this were issued before the recorded seam -/
  seamSeq : Nat := 0
  wr : RegSet := 0
  rbw : RegSet := 0
  sys : TeamSys := {}
  trap : TeamTrap := {}
  race : TeamRace := {}
  copy : TeamCopy := {}
  lf : Option LfSetup := none
  trav : TeamTrav := {}
  /-- phase, plus one, of the team's last arrival at barrier level*8 + num (R248) -/
  arrivals : SMap (0 : Nat) := .empty
  /-- an arrival of the current region that no seam has followed yet: level, number, phase (R249) -/
  arrived : Option (Nat × Nat × Nat) := none
  /-- an armed monitor (R252): its line, the clock at which it was armed, and whether a wake event has come -/
  mon : Option (Nat × Nat × Bool) := none
  /-- lines the team has fetched or prefetched and may still run from (R94), by virtual address -/
  prefetch : SMap ([] : List Byte) := .empty
  /-- the line it now runs from, unless a transfer has just been made (R237) -/
  line : Option Nat := none
  /-- a stopped matrix operation of a slice that the team has released, until it is reported: its row and its fault -/
  mstop : Option (Nat × EFault) := none
  /-- why the requests of the word it issues fail: cause, lane, address, AUX (R188, R386) -/
  fail : Option (Nat × Nat × W64 × W32) := none
  deriving DecidableEq, Repr, Inhabited

/-! ### Workgroups, grids and contexts -/

/-- A barrier (R247, R249). -/
structure Bar where
  phase : Nat := 0
  arrived : List Nat := []
  /-- the greatest clock that an arrival of the open phase carries, and that of the phase before -/
  max : Nat := 0
  lastMax : Nat := 0
  /-- arrivals of a grid barrier on their way to its combining point: team and clock -/
  tokens : List (Nat × Nat) := []
  deriving DecidableEq, Repr, Inhabited

/-- A mapped stash range (R181, R228): per line 0 when invalid, else 1 plus the mask of its dirty sectors. -/
structure StRange where
  mapped : Bool := false
  gbase : W64 := 0
  soff : Nat := 0
  lines : Nat := 0
  state : SMap (0 : Nat) := .empty
  /-- the physical line of each line that is valid -/
  pas : SMap (0 : Nat) := .empty
  /-- the lines, from the first on, that an STUNMAP in progress has unmapped (R229) -/
  gone : Nat := 0
  deriving DecidableEq, Repr, Inhabited

/-- A bound workgroup (R9, R180, R247, R317). -/
structure Wg where
  bound : Bool := false
  grid : Nat := 0
  index : Nat := 0
  core : Nat := 0
  slots : List Nat := []
  ways : Nat := 0
  succ : Bool := false
  hold : Bool := false
  /-- the retired workgroup whose slots it has taken, and whether it has been restored but not started: what a withdrawal gives back
  (R29, R267) -/
  pred : Option Nat := none
  restored : Bool := false
  retired : List Nat := []
  /-- slots whose teams a failed link has stopped and freed (R420) -/
  gone : List Nat := []
  /-- its teams are in the context's save area (R366) -/
  saved : Bool := false
  stash : SMap (0#8) := .empty
  ranges : SMap ({} : StRange) := .empty
  bars : SMap ({} : Bar) := .empty
  ports : SMap (0 : Nat) := .empty
  deriving DecidableEq, Repr, Inhabited

/-- The fields of a launch record (R256). -/
structure LaunchRec where
  entry : Nat := 0
  kind : Nat := 0
  cluster : Nat := 1
  teams : Nat := 1
  vregs : Nat := 4
  width : Nat := 32
  race : Nat := 0
  cont : Nat := 0
  gx : Nat := 0
  gy : Nat := 0
  gz : Nat := 0
  stash : Nat := 0
  param : Nat := 0
  payload : Nat := 0
  depth : Nat := 0
  inhBase : Nat := 0
  inhCnt : Nat := 0
  traph : Nat := 0
  fmttab : Nat := 0
  compl : Nat := 0
  sigval : Nat := 0
  cscope : Nat := 0
  ndep : Nat := 0
  deps : List (Nat × Nat) := []
  footwg : Nat := 0
  /-- every byte marked 0, and every limit on a field taken alone, holds -/
  wellFormed : Bool := true
  deriving DecidableEq, Repr, Inhabited

/-- How far a grid has come (R255 to R263). -/
inductive GridPhase where
  | none | queued | waiting | ready | running | done
  deriving DecidableEq, Repr, Inhabited

/-- A grid (R9, R26, R261). -/
structure Grid where
  phase : GridPhase := .none
  ctx : Nat := 0
  lnum : Nat := 0
  addr : Nat := 0
  fromHost : Bool := true
  launch : LaunchRec := {}
  params : List W64 := []
  bound : List Nat := []
  retired : List Nat := []
  /-- wg of each retired workgroup whose slots an inherited range holds (R29) -/
  heldWgs : List Nat := []
  status : Nat := 0
  cause : Nat := 0
  /-- its place in the order of acceptance (R276) -/
  accepted : Nat := 0
  /-- its parameter block and its format table have been read; the entries of the table that are still to be written (R281) -/
  loading : Bool := false
  table : List (Nat × W64) := []
  /-- the step at which its dependences were satisfied (R158) -/
  started : Nat := 0
  /-- the requests of miss trackers that its retired teams had observed and that were not performed yet (R201, R261) -/
  carried : List Nat := []
  clBars : SMap ({} : Bar) := .empty
  gridBars : SMap ({} : Bar) := .empty
  deriving DecidableEq, Repr, Inhabited

/-- A submission queue (R259). -/
structure SubQueue where
  registered : Bool := false
  base : Nat := 0
  cap : Nat := 0
  head : Nat := 0
  deriving DecidableEq, Repr, Inhabited

/-- A watchpoint (R397). -/
structure Watch where
  addr : W64 := 0
  val : W64 := 0
  ctl : W64 := 0
  deriving DecidableEq, Repr, Inhabited

/-- A fault whose region the driver has not signalled resident (R172). -/
structure PendFault where
  va : W64
  kind : Nat
  level : Nat
  loc : Nat
  merged : Nat := 0
  time : W64 := 0
  written : Option Nat := none
  /-- its range has been signalled before its record could be written -/
  resolved : Bool := false
  deriving DecidableEq, Repr, Inhabited

/-- What a context block gives (R411). -/
structure CtxCfg where
  root : Nat := 0
  faultRing : Nat := 0
  faultCap : Nat := 0
  drain : Nat := 50
  save : Nat := 30
  saveArea : Nat := 0
  trapLog : Nat := 0
  raceLog : Nat := 0
  errLog : Nat := 0
  sink : Nat := 0
  kv : Nat := 0
  partBase : Nat := 0
  partSz : Nat := 0
  partN : Nat := 0
  hazard : Bool := false
  rm : BitVec 2 := 0
  ftz : Bool := false
  hlimit : Nat := 1
  collTmo : Nat := 1
  deriving DecidableEq, Repr, Inhabited

/-- Pre-emption of a context in progress (R365): its cores, the time at which its step began, or its deadline passed, by the
synchronised time of each die, and the dies whose cores have written their areas. -/
inductive Ladder where
  | none
  | drain (cores : List Nat) (since : List Nat)
  | save (cores : List Nat) (done : List Nat) (since : List Nat)
  | saved (cores : List Nat)
  deriving DecidableEq, Repr, Inhabited

/-- A context: 0 free, 1 running, 2 halted, 3 resetting (R411, R413). -/
structure Ctx where
  state : Nat := 0
  cfg : CtxCfg := {}
  fmt : SMap (0#64) := .empty
  fmtGen : W64 := 0
  fmtOld : SMap (0#64) := .empty
  queues : SMap ({} : SubQueue) := .empty
  launchQ : List Nat := []
  nextLnum : Nat := 0
  watch : SMap ({} : Watch) := .empty
  dbgctl : W64 := 0
  groups : SMap ([] : List Nat) := .empty
  errs : Nat := 0
  faults : List PendFault := []
  ladder : Ladder := .none
  /-- when it was last halted -/
  haltedAt : Nat := 0
  deriving DecidableEq, Repr, Inhabited

/-! ### Cores, dies, engines -/

/-- A queue and the stream bound to it (R317 to R327). -/
structure Queue where
  bound : Bool := false
  wg : Nat := 0
  /-- the team that started it, with its place in that team's program order, and the request number below which its
  core's stores come first (R209) -/
  uid : Nat := 0
  owner : Nat := 0
  seq : Nat := 0
  upto : Nat := 0
  /-- bits of an output element -/
  ebits : Nat := 0
  prog : List Byte := []
  table : SMap (0#64) := .empty
  dict : List (BitVec 64) := []
  key : BitVec 256 := 0
  who : Who := {}
  entries : List (List Byte) := []
  /-- output elements emitted, and the bits of the entry being filled, least significant first -/
  next : Nat := 0
  bits : List Bool := []
  /-- elements emitted to a scatter, and the destination lines written -/
  outs : List Nat := []
  doneLines : List Nat := []
  /-- bits of the output not yet a whole byte of the checksum, and the running checksum -/
  crcBits : List Bool := []
  crc : W32 := 0xFFFFFFFF
  pushed : Nat := 0
  darn : Bool := false
  darnFree : Bool := false
  held : Option W64 := none
  /-- the output element and the fault of a stop -/
  stop : Option (Nat × EFault) := none
  reported : Bool := false
  closing : Bool := false
  ended : Bool := false
  /-- since which clock of its die, plus one, a push has found it full -/
  blocked : Nat := 0
  /-- its grid or context has ended (R359, R368) -/
  abandoned : Bool := false
  deriving DecidableEq, Repr, Inhabited

/-- A matrix operation on one accumulator (R303, R305): the number of the gang's operation, the places of the members'
words in their program orders, and the request number below which their core's stores come first (R279). -/
structure MatOp where
  busy : Bool := false
  gang : Nat := 0
  seq : Nat := 0
  seqs : List (Nat × Nat) := []
  upto : Nat := 0
  /-- operand B once it has been read, row by row -/
  b : Option (List XVal) := none
  /-- the current generations when it started (R290) -/
  gens : W64 := 0
  row : Nat := 128
  opA : W64 × W64 := (0, 0)
  opB : W64 × W64 := (0, 0)
  member : Nat := 0
  table : SMap (0#64) := .empty
  held : Option W64 := none
  /-- the row and the fault of a stop, until it is reported -/
  stop : Option (Nat × EFault) := none
  who : Who := {}
  /-- the format indices that the pages of operands A and B name, once they are known: what it holds (R290, R303) -/
  idxA : Option Nat := none
  idxB : Option Nat := none
  deriving DecidableEq, Repr, Inhabited

/-- A matrix slice (R297). -/
structure Slice where
  owner : Option Nat := none
  acc0 : SMap (0#32) := .empty
  acc1 : SMap (0#32) := .empty
  press : SMap (0#16) := .empty
  pvalid : Bool := false
  pfmt : BitVec 6 := 0
  op0 : MatOp := {}
  op1 : MatOp := {}
  deriving DecidableEq, Repr, Inhabited

/-- A release wave (R206) or an invalidation round: the paths, by die (0 to 7), 8 for Valkovor ports and 9 for the
host agent, still to be delivered and to be acknowledged, the request numbers below which they cover, and the cores
that have still to invalidate (R159, R236). -/
structure Wave where
  id : Nat
  uid : Nat := 0
  core : Nat := 0
  upto : Nat := 0
  deliver : List Nat := []
  ack : List Nat := []
  cores : List Nat := []
  range : Option (W64 × Nat) := none
  deriving DecidableEq, Repr, Inhabited

/-- A leaf or a table entry that a translation cache holds (R169, R170): its context, the first address that it serves, its level
and the entry itself. -/
structure TlbEntry where
  ctx : Nat
  va : Nat
  level : Nat
  leaf : W64
  deriving DecidableEq, Repr, Inhabited

/-- A tide probe (R272): the node that sent it, since when, plus one, that node has been blocked, and the paths by which copies of it have
come back. -/
structure TideProbe where
  origin : Nat
  since : Nat
  returned : List (List Nat) := []
  deriving DecidableEq, Repr, Inhabited

/-- Bytes of a line of memory that a write has replaced, and the step of that write: what a sampler read may still return (R158). -/
structure OldBytes where
  step : Nat
  pa : Nat
  bytes : List Byte
  deriving DecidableEq, Repr, Inhabited

/-- A core (R21, R169, R174, R179, R253, R297, R317). -/
structure Core where
  tracker : List StoreReq := []
  /-- the passes that the miss tracker and the span unit have refused, in the order of refusal (R269): a slot, with the entries
  that its pass needs -/
  trackWait : List (Nat × Nat) := []
  spanWait : List Nat := []
  /-- the clock, plus one, at which the span unit accepted its latest pass (R143) -/
  spanAt : Nat := 0
  /-- the clock from which each port is free (R19) -/
  ports : SMap (0 : Nat) := .empty
  /-- the leaves that its own translation cache holds (R169) -/
  tlb : List TlbEntry := []
  /-- lines that its L1 holds (R174) -/
  l1 : List Nat := []
  /-- the lines that the sampler cache holds, the latest first, and the step of its latest invalidation (R158, R159) -/
  sampler : List Nat := []
  samplerAt : Nat := 0
  icache : SMap ([] : List Byte) := .empty
  queues : SMap ({} : Queue) := .empty
  slices : SMap ({} : Slice) := .empty
  gens : SMap (0 : Nat) := .empty
  ways : Nat := 0
  /-- ports: bins, reasons, idle (R405): port*32 + 0 to 8, + 9 to 19, + 20 -/
  account : SMap (0 : Nat) := .empty
  /-- tide probes on their way (R272), and for each node the clock, plus one, at which it sent its latest -/
  probes : List TideProbe := []
  probed : SMap (0 : Nat) := .empty
  /-- the clock, plus one, of each port's latest sample, and the sample period then (R401) -/
  sampled : SMap ((0, 0) : Nat × Nat) := .empty
  journal : SMap ((0, 0, 0, 0) : Nat × Nat × W64 × W64) := .empty
  deriving DecidableEq, Repr, Inhabited

/-- A trace record (R401). -/
structure TraceRec where
  kind : Nat
  flags : Nat := 0
  loc : Nat := 0
  data : W32 := 0
  pc : W64 := 0
  regions : W64 := 0
  payload : W64 := 0
  time : Nat := 0
  bound : Nat := 0
  deriving DecidableEq, Repr, Inhabited

/-- A die (R101, R189, R191, R392, R403, R424). (DESIGN CHOICE, log entry 6: its TIME at reset) -/
structure Die where
  clk : Nat := 0
  time : Nat := 0
  bound : Nat := 12
  mhz : Nat := 1600
  tlb : List TlbEntry := []
  shBase : Nat := 0
  shLen : Nat := 0
  sink : Nat := 0
  sinkStopped : Bool := false
  errLog : Nat := 0
  soft : Nat := 0
  hard : Nat := 0
  darns : Nat := 0
  trace : List TraceRec := []
  frames : Nat := 0
  drops : Nat := 0
  recDrops : Nat := 0
  deriving DecidableEq, Repr, Inhabited

/-- An asynchronous copy (R231 to R234). -/
structure Copy where
  active : Bool := false
  /-- the slot that issued it, and the team, which may move while its copies run (R234): workgroup*16 + index -/
  uid : Nat := 0
  owner : Nat := 0
  gid : Nat := 0
  wg : Nat := 0
  dir : Nat := 0
  dst : W64 := 0
  src : W64 := 0
  rows : Nat := 0
  rowBytes : Nat := 0
  srcPitch : Nat := 0
  dstPitch : Nat := 0
  /-- the team's word number at issue, and the request number below which its core's stores come first (R209) -/
  seq : Nat := 0
  upto : Nat := 0
  doneLines : List Nat := []
  who : Who := {}
  held : Option W64 := none
  /-- a failure that no CPYW has reported yet (R234) -/
  failed : Option EFault := none
  /-- its grid or context has ended; its destination bytes are unspecified (R359, R368) -/
  abandoned : Bool := false
  deriving DecidableEq, Repr, Inhabited

/-- A collective in flight, or ended and not yet read (R416 to R419). -/
structure Coll where
  uid : Nat := 0
  owner : Nat := 0
  gid : Nat := 0
  ctx : Nat := 0
  num : Nat := 0
  desc : List Byte := []
  /-- this member's rank, the members, and the bytes of its destination and of its residual area -/
  rank : Nat := 0
  members : Nat := 1
  dstLen : Nat := 0
  resLen : Nat := 0
  /-- the team's place in its program order at issue, and the request number below which its core's stores come
  first (R209) -/
  seq : Nat := 0
  upto : Nat := 0
  /-- the entry of WIRE -/
  wire : W64 := 0
  status : Nat := 1
  start : Nat := 0
  frozen : Bool := false
  who : Who := {}
  held : Option W64 := none
  /-- a local fault -/
  stop : Option EFault := none
  /-- once every contribution has come: the pieces of lines of its destination that are still to be written, and the new residuals
  (R295, R418) -/
  todo : Option (List (Nat × List Byte)) := none
  resNew : List Byte := []
  /-- its grid or context has ended (R359, R368) -/
  abandoned : Bool := false
  deriving DecidableEq, Repr, Inhabited

/-- What a slot generation served (R379). -/
structure BindNote where
  ctx : Nat
  lnum : Nat
  wg : Nat
  cluster : Nat
  epoch : Nat
  deriving DecidableEq, Repr, Inhabited

/-- A report of a firing on its way to the core of its team (R399). -/
structure WatchNote where
  uid : Nat
  gen : Nat
  trap : TrapReq
  deriving DecidableEq, Repr, Inhabited

/-- BAR0 and what START sets (R407, R409, R413, R422, R424). -/
structure Hub where
  started : Bool := false
  featacc : Nat := 0
  cmdBase : Nat := 0
  cmdCap : Nat := 0
  cmdTail : Nat := 0
  cmdHead : Nat := 0
  mbox : Nat := 0
  mboxGo : Bool := false
  bootstat : Nat := 0
  modid : Nat := 0
  timeLock : Bool := false
  c0 : List Nat := []
  cap : Nat := 0
  deriving DecidableEq, Repr, Inhabited

/-- The rest of the module: links, power, keys, time lock, epoch (R380, R392, R413, R422 to R424). -/
structure Module where
  epoch : Nat := 0
  /-- shoreline links that have failed, as die pairs -/
  linksDown : List (Nat × Nat) := []
  /-- modules that no route reaches (R414) -/
  routesDown : List Nat := []
  msix : List Nat := []
  keys : SMap ((0, 0) : Nat × Nat) := .empty
  dlock : Bool := false
  dbound : Nat := 0xFFFFFFFF
  /-- measurement slots: 0 the hub, 1 + d die d; and the security versions of the images (R422) -/
  boot : SMap (0#384) := .empty
  versions : SMap (0 : Nat) := .empty
  /-- the capacity of each record ring, read when the ring was named (R412), by its address -/
  ringCaps : SMap (0 : Nat) := .empty
  powered : Bool := true
  deriving DecidableEq, Repr, Inhabited

/-- Which agent moves next: a team's slot issues, or another step happens. (DESIGN CHOICE, log entry 1) -/
inductive Act where
  | issue (uid : Nat)
  | event (i : Instr)
  deriving DecidableEq, Repr, Inhabited

/-! ### The machine -/

/-- The module. Keys: a team by (die*12 + core)*64 + slot; a core by die*12 + core; a grid by ctx*2^32 + launch
number; a workgroup by its grid's key*2^32 + linear index; a saved team by its context*2^16 + slot key, a saved queue or slice
by its context*2^16 + core*8 + number; memory by physical address (R163), with the
die-direct address of each DRAM byte. -/
structure State where
  cur : Nat := 0
  agenda : List Act := []
  freeCtr : Nat := 0
  /-- the time by which the errors of the dies' synchronised times are measured, in units of 0.25 ns (R392) -/
  now : Nat := 0
  teams : SMap ({} : Team) := .empty
  wgs : SMap ({} : Wg) := .empty
  grids : SMap ({} : Grid) := .empty
  ctxs : SMap ({} : Ctx) := .empty
  cores : SMap ({} : Core) := .empty
  dies : SMap ({} : Die) := .empty
  /-- bytes of memory; a byte that nothing has written reads as 0xFF (log entry 3) -/
  mem : SMap (0xFF#8) := .empty
  /-- what the writes of memory have replaced, the latest first (R158) -/
  past : List OldBytes := []
  check : SMap (0#128) := .empty
  release : SMap ({} : RelRec) := .empty
  waves : List Wave := []
  nextId : Nat := 0
  copies : SMap ({} : Copy) := .empty
  colls : SMap ({} : Coll) := .empty
  binds : SMap (none : Option BindNote) := .empty
  watches : SMap (none : Option WatchNote) := .empty
  savedTeams : SMap (none : Option Team) := .empty
  savedQueues : SMap (none : Option Queue) := .empty
  savedSlices : SMap (none : Option Slice) := .empty
  /-- for each line, the sectors that its home slice has filled, and 256 times those that are dirty there (R176) -/
  sectors : SMap (0 : Nat) := .empty
  /-- what holds uncorrectable data, by unit and place: sectors of DRAM and of home slices, lines of L1 and of the sampler cache, sectors of stashes,
  registers and translation caches; and the errors counted on each sector of DRAM so far (R190, R191) -/
  bad : SMap (false : Bool) := .empty
  errs : SMap (0 : Nat) := .empty
  /-- copies of shared blocks in progress (R188) -/
  kvOps : List KvOp := []
  hub : Hub := {}
  mod : Module := {}
  deriving DecidableEq, Repr, Inhabited

/-- The canonical form of memory: addresses strictly rising, no byte equal to what an unlisted address reads as. -/
abbrev Memory.wf (s : State) : Prop := s.mem.wf = true

/-- The machine right after module reset (R407, R422): nothing bound, no context, no command taken, memory with
nothing listed; a field that no rule gives a value has the one of its structure. (DESIGN CHOICE, log entry 5) -/
def State.reset : State := {}

/-- Why a step of the model stops with a fault. -/
inductive Fault where
  /-- Raised by `step` when a thermal shutdown has powered the module down: no step follows (R424). Safe: the spec gives
  no step after it but a module reset, which the agenda may still hold. -/
  | poweredDown
  deriving DecidableEq, Repr, Inhabited

/-- Why the model has no meaning for a step. -/
inductive Refusal where
  /-- Raised by an arm of `exec` whose instruction has no meaning yet, with its mnemonic. Safe: nothing is claimed of
  it. -/
  | notModelled (mnemonic : String)
  deriving DecidableEq, Repr, Inhabited

end Sys2Proof.Machine
end

