-- ==== Sys2Proof/Machine/Access.lean ====
section
/-! DEFINITION. Reading and writing the parts of State: the current team and its registers, the slots, cores and dies
around it, and the counter of free values. -/

namespace Sys2Proof.Machine

/-! ### Places -/

/-- The core of a slot key. -/
def coreOf (uid : Nat) : Nat := uid / 64
/-- The slot of a slot key (R21). -/
def slotOf (uid : Nat) : Nat := uid % 64
/-- The port of a slot: n div 8 (R21). -/
def portOf (uid : Nat) : Nat := slotOf uid / 8
/-- The die of a core key. -/
def dieOfCore (core : Nat) : Nat := core / 12
/-- The die of a slot key. -/
def dieOf (uid : Nat) : Nat := dieOfCore (coreOf uid)
/-- The slot keys of a core. -/
def uidsOf (core : Nat) : List Nat := (List.range 64).map (fun n => core * 64 + n)
/-- The cores of a die. -/
def coresOfDie (die : Nat) : List Nat := (List.range 12).map (fun n => die * 12 + n)
/-- Every core of the module. -/
def allCores : List Nat := List.range 96
/-- The key of a grid. -/
def gridKey (ctx lnum : Nat) : Nat := ctx * 2 ^ 32 + lnum
/-- The key of a workgroup. -/
def wgKey (grid wg : Nat) : Nat := grid * 2 ^ 32 + wg

/-! ### Records of State -/

/-- The team whose word issues. -/
def State.team (s : State) : Team := s.teams.get s.cur

/-- Put the current team. -/
def State.setTeam (s : State) (t : Team) : State := { s with teams := s.teams.put s.cur t }

/-- Put any team. -/
def State.putTeam (s : State) (uid : Nat) (t : Team) : State := { s with teams := s.teams.put uid t }

/-- Change any team. -/
def State.modTeam (s : State) (uid : Nat) (f : Team → Team) : State := s.putTeam uid (f (s.teams.get uid))

def State.putCore (s : State) (k : Nat) (c : Core) : State := { s with cores := s.cores.put k c }
def State.modCore (s : State) (k : Nat) (f : Core → Core) : State := s.putCore k (f (s.cores.get k))
def State.putDie (s : State) (k : Nat) (d : Die) : State := { s with dies := s.dies.put k d }
def State.modDie (s : State) (k : Nat) (f : Die → Die) : State := s.putDie k (f (s.dies.get k))
def State.putWg (s : State) (k : Nat) (w : Wg) : State := { s with wgs := s.wgs.put k w }
def State.modWg (s : State) (k : Nat) (f : Wg → Wg) : State := s.putWg k (f (s.wgs.get k))
def State.putGrid (s : State) (k : Nat) (g : Grid) : State := { s with grids := s.grids.put k g }
def State.modGrid (s : State) (k : Nat) (f : Grid → Grid) : State := s.putGrid k (f (s.grids.get k))
def State.putCtx (s : State) (k : Nat) (c : Ctx) : State := { s with ctxs := s.ctxs.put k c }
def State.modCtx (s : State) (k : Nat) (f : Ctx → Ctx) : State := s.putCtx k (f (s.ctxs.get k))
def State.putCopy (s : State) (k : Nat) (c : Copy) : State := { s with copies := s.copies.put k c }
def State.putColl (s : State) (k : Nat) (c : Coll) : State := { s with colls := s.colls.put k c }

/-- The workgroup key of a team. -/
def Team.wgKey (t : Team) : Nat := Machine.wgKey t.place.grid t.place.wg

/-- What names a team wherever it stands: its workgroup and its index. -/
def Team.key (t : Team) : Nat := t.wgKey * 16 + t.place.idx

/-- The current team's grid. -/
def State.gridOf (s : State) (t : Team) : Grid := s.grids.get t.place.grid
/-- The current team's workgroup. -/
def State.wgOf (s : State) (t : Team) : Wg := s.wgs.get t.wgKey
/-- The current team's context. -/
def State.ctxOf (s : State) (t : Team) : Ctx := s.ctxs.get t.place.ctx

/-- Cluster size of a grid, at least 1. -/
def Grid.k (g : Grid) : Nat := if g.launch.cluster = 0 then 1 else g.launch.cluster
/-- The cluster of a team (R9). -/
def State.clusterOf (s : State) (t : Team) : Nat := t.place.wg / (s.gridOf t).k

/-- A fresh number for a request, a copy, a wave or a word. -/
def State.fresh (s : State) : Nat × State := (s.nextId, { s with nextId := s.nextId + 1 })

/-- The hardware's choice for a key, of a purpose that tells the choices of one step apart (log entry 2). -/
def State.choice (s : State) (purpose key : Nat) : Bool := Config.freeBit s.freeCtr (key * 16 + purpose)

/-- Begin a step: its free values are new ones. -/
def State.begin_ (s : State) : State := { s with freeCtr := s.freeCtr + 1 }

/-- Let clocks of a die pass. The time by which errors are measured advances, and the die's synchronised time runs at a rate of its
own, no further ahead of it than the die's bound (R101, R392). Errors come as they do: some are corrected and counted (R189), others
leave data uncorrectable (R190). (DESIGN CHOICE, log entries 15 and 69) (DEDUCED, log entry 59) -/
def State.tick (s : State) (die : Nat) : State :=
  let now := s.now + 1 + Config.freeNat s.freeCtr 2
  { s with
    now := now,
    dies := s.dies.modify die (fun d =>
      let t := d.time + 1 + Config.freeNat s.freeCtr 1
      { d with clk := d.clk + Config.freeNat s.freeCtr 0,
               time := if t ≤ now + d.bound then t else if d.time < now + d.bound then now + d.bound else d.time,
               soft := d.soft + Config.freeNat s.freeCtr 3 }),
    bad := if s.choice 10 0 then s.bad.set (Config.freeNat s.freeCtr 4) true else s.bad }

/-- A port is free again: the clock of its die has reached the end of its latest pass (R19, R20). -/
def State.portFree (s : State) (uid : Nat) : State :=
  let c := (s.cores.get (coreOf uid)).ports.get (portOf uid)
  let d := s.dies.get (dieOf uid)
  if d.clk < c then s.putDie (dieOf uid) { d with clk := c } else s

/-- A port is taken for a number of clocks. -/
def State.occupy (s : State) (uid clocks : Nat) : State :=
  s.modCore (coreOf uid) (fun c => { c with ports := c.ports.set (portOf uid) ((s.dies.get (dieOf uid)).clk + clocks) })

/-- A pass of a team, or a word that is not swept, has issued: it is the team's latest issue, its count of eligible clocks ends, and
its port is taken (R19, R20, R268). -/
def State.issued (s : State) (uid clocks : Nat) : State :=
  (s.modTeam uid (fun t => { t with lastIssue := s.freeCtr, eligible := 0, promoted := none })).occupy uid clocks

/-- A team gives its place in the wait orders of its core up (R269). -/
def State.leaveWaits (s : State) (uid : Nat) : State :=
  let c := s.cores.get (coreOf uid)
  if c.trackWait.any (fun x => x.1 == uid) || c.spanWait.contains uid then
    s.putCore (coreOf uid) { c with trackWait := c.trackWait.filter (fun x => x.1 ≠ uid), spanWait := c.spanWait.filter (· ≠ uid) }
  else s

/-! ### Uncorrectable data (R190, R191) -/

/-- The key under which State.bad lists a place: of DRAM a sector. (DESIGN CHOICE, log entry 69) -/
def errKey (unit x : Nat) : Nat := x * 8 + unit
def dramKey (sec : Nat) : Nat := errKey 0 sec
/-- A sector in its home slice. -/
def l2Key (sec : Nat) : Nat := errKey 1 sec
/-- A line of a core's L1, and of its sampler cache. -/
def l1Key (core line : Nat) : Nat := errKey 2 (line * 128 + core)
def samplerKey (core line : Nat) : Nat := errKey 3 (line * 128 + core)
/-- A register of a slot, by its bit in a register set. -/
def regKey (uid bit : Nat) : Nat := errKey 4 (uid * 256 + bit)
/-- An entry of a die's translation cache, by the 64 KiB page of the address. -/
def tlbKey (die page : Nat) : Nat := errKey 5 (page * 8 + die)
/-- A row of an accumulator of a slice (R305). -/
def accKey (core slice acc row : Nat) : Nat := errKey 7 (((core * 8 + slice) * 2 + acc) * 128 + row)
/-- A sector of a workgroup's stash. -/
def stashKey (wg sec : Nat) : Nat := errKey 6 (wg * 2 ^ 20 + sec)

/-! ### Masks -/

/-- Lanes 0 to width - 1. -/
def fullMask (width : Nat) : Mask := BitVec.ofNat 1024 (2 ^ width - 1)

/-- The lanes of a mask, ascending. -/
def lanesOf (width : Nat) (m : Mask) : List Nat := (List.range width).filter (fun l => m.getLsbD l)

/-- How many lanes of a width a mask sets. -/
def popMask (width : Nat) (m : Mask) : Nat := (lanesOf width m).length

/-- Mask word j (R15). -/
def maskWord (m : Mask) (j : Nat) : W32 := m.extractLsb' (32 * j) 32

/-- The summary word: bit j is 1 exactly when word j is not zero (R15). -/
def maskSummary (m : Mask) : W32 :=
  (List.range 32).foldl (fun r j => if maskWord m j = 0 then r else r ||| (1 <<< j)) 0

/-- The non-zero words of a mask, ascending: its passes (R17). -/
def passesOf (m : Mask) : List Nat := (List.range 32).filter (fun j => maskWord m j ≠ 0)

/-- A mask from a predicate on lanes. -/
def maskOf (width : Nat) (p : Nat → Bool) : Mask :=
  (List.range width).foldl (fun r l => if p l then r ||| (1 <<< l) else r) 0

/-! ### Registers -/

def Regs.readS (r : Regs) (n : Nat) : W64 := r.s.get n
def Regs.writeS (r : Regs) (n : Nat) (x : W64) : Regs := { r with s := r.s.set n x }
/-- The key of an element of a v- or i-register. -/
def laneKey (n l : Nat) : Nat := n * 1024 + l
def Regs.readV (r : Regs) (n l : Nat) : W32 := r.v.get (laneKey n l)
def Regs.writeV (r : Regs) (n l : Nat) (x : W32) : Regs := { r with v := r.v.set (laneKey n l) x }
def Regs.readI (r : Regs) (n l : Nat) : IReg := r.i.get (laneKey n l)
def Regs.writeI (r : Regs) (n l : Nat) (x : IReg) : Regs := { r with i := r.i.set (laneKey n l) x }
def Regs.readM (r : Regs) (n : Nat) : Mask := r.m.get n
/-- A write of a mask register leaves lanes at or above the width clear (R15). -/
def Regs.writeM (r : Regs) (width n : Nat) (x : Mask) : Regs := { r with m := r.m.set n (x &&& fullMask width) }
def Regs.readABase (r : Regs) (n : Nat) : W64 := r.ab.get n
def Regs.readAStride (r : Regs) (n : Nat) : W32 := r.as.get n
def Regs.writeA (r : Regs) (n : Nat) (base : W64) (stride : W32) : Regs :=
  { r with ab := r.ab.set n base, as := r.as.set n stride }
/-- The value an a-register gives lane l: base + l·sext64(stride) mod 2^64 (R76). -/
def Regs.aLane (r : Regs) (n l : Nat) : W64 := r.ab.get n + BitVec.ofNat 64 l * (r.as.get n).signExtend 64

/-- A pair of v-registers as 64 bits, v[n] the low half (R103). -/
def Regs.readV64 (r : Regs) (n l : Nat) : W64 := (r.readV (n + 1) l) ++ (r.readV n l)
def Regs.writeV64 (r : Regs) (n l : Nat) (x : W64) : Regs :=
  (r.writeV n l (x.extractLsb' 0 32)).writeV (n + 1) l (x.extractLsb' 32 32)

/-- Change the registers of a team. -/
def Team.withRegs (t : Team) (f : Regs → Regs) : Team := { t with regs := f t.regs }

/-- Change the registers of the current team. -/
def State.withRegs (s : State) (f : Regs → Regs) : State := s.setTeam (s.team.withRegs f)

/-- The width of the current team. -/
def State.width (s : State) : Nat := s.team.place.width

/-! ### Region identifiers, identity, time stamps -/

/-- The top four region identifiers, the top in bits [63:48] (R394). -/
def regionsOf (f : Flow) : W64 :=
  let at_ (k : Nat) : BitVec 16 := f.rstack.getD k 0
  at_ 0 ++ at_ 1 ++ at_ 2 ++ at_ 3

/-- TEAMLOC (R98). -/
def teamloc (uid gen : Nat) : W64 :=
  let core := coreOf uid
  BitVec.ofNat 64 (portOf uid) <<< 24 ||| BitVec.ofNat 64 (dieOfCore core) <<< 21
    ||| BitVec.ofNat 64 (core % 12) <<< 17 ||| BitVec.ofNat 64 (slotOf uid) <<< 10 ||| BitVec.ofNat 64 (gen % 1024)

/-- The race identity: TEAMLOC[23:0] (R98). -/
def identOf (uid gen : Nat) : BitVec 24 := (teamloc uid gen).extractLsb' 0 24

/-- The slot key that an identity names. -/
def uidOfIdent (i : BitVec 24) : Nat :=
  ((i.extractLsb' 21 3).toNat * 12 + (i.extractLsb' 17 4).toNat) * 64 + (i.extractLsb' 10 7).toNat

/-- The synchronised time of a die: never behind the time by which its error is measured by more than its bound (R208, R392). -/
def State.stampTime (s : State) (die : Nat) : Nat :=
  let d := s.dies.get die
  if d.time + d.bound < s.now then s.now - d.bound else d.time
def State.stampBound (s : State) (die : Nat) : Nat := (s.dies.get die).bound

/-- WHERE of fault and trace records: die [15:13], core [12:9], slot or engine [8:0] (R172, R401). -/
def whereOf (uid : Nat) : Nat := dieOf uid * 2 ^ 13 + (coreOf uid % 12) * 2 ^ 9 + slotOf uid

/-- What a request of a team carries (R370, R371). -/
def State.whoOf (s : State) (uid : Nat) : Who :=
  let t := s.teams.get uid
  let g := s.grids.get t.place.grid
  { uid := uid, ident := identOf uid t.place.gen, ctx := t.place.ctx, lnum := g.lnum, wg := t.place.wg,
    clk := t.race.clock, floors := (t.race.floorWg, t.race.floorCl, t.race.floorGrid), acq := t.race.acq,
    lenient := t.race.level ≠ 0 || t.race.lsat, race := g.launch.race, pc := t.flow.pos.pc,
    regions := regionsOf t.flow, stamp := t.race.fence }

/-- Advance a race clock by a release-class operation (R370, R375). -/
def TeamRace.advance (r : TeamRace) : TeamRace :=
  if r.clock < 0xFFFFFF then { r with clock := r.clock + 1 } else { r with sat := true, lsat := true }

/-! ### Little-endian bytes -/

/-- The number that bytes spell, the first byte lowest (R2). -/
def leNat : List Byte → Nat
  | [] => 0
  | b :: r => b.toNat + 256 * leNat r

/-- The n low bytes of a number, lowest first (R2). -/
def leBytes : Nat → Nat → List Byte
  | 0, _ => []
  | n + 1, x => BitVec.ofNat 8 x :: leBytes n (x / 256)

/-- Bytes a to a + n - 1 of a record as a number. -/
def fieldAt (l : List Byte) (a n : Nat) : Nat := leNat ((l.drop a).take n)

end Sys2Proof.Machine
end

