-- ==== Sys2Proof/Machine/Memory.lean ====
section
/-! DEFINITION. Physical memory, page tables, translation, the key-value block table, and the checks of one element
(R162 to R173, R186, R187, R382). -/

namespace Sys2Proof.Machine

/-! ### Physical addresses (R163) -/

/-- The module of a physical address. -/
def paModule (pa : Nat) : Nat := pa / 2 ^ 43
/-- Its offset in the module. -/
def paOffset (pa : Nat) : Nat := pa % 2 ^ 43
/-- The host window. -/
def paHost (pa : Nat) : Bool := 2 ^ 42 ≤ paOffset pa
/-- Reserved offsets. -/
def paReserved (pa : Nat) : Bool := 2 ^ 40 ≤ paOffset pa && paOffset pa < 2 ^ 42

/-- The one name of a byte: DRAM by its die-direct address (R163). -/
def canonPA (pa : Nat) : Nat :=
  let o := paOffset pa
  if 2 ^ 39 ≤ o && o < 2 ^ 40 then
    let i := o - 2 ^ 39
    paModule pa * 2 ^ 43 + ((i / 4096) % 8) * 2 ^ 36 + (i / 2 ^ 15) * 4096 + i % 4096
  else pa

/-- The die that a canonical DRAM address lies on. -/
def paDie (pa : Nat) : Nat := (paOffset (canonPA pa) / 2 ^ 36) % 8
/-- The die-local address. -/
def paLocal (pa : Nat) : Nat := paOffset (canonPA pa) % 2 ^ 36

/-- The line of a physical address, named by its canonical first byte (R176). -/
def lineOf (pa : Nat) : Nat := canonPA pa / 128 * 128

/-- The home slice of a DRAM line on its die (R177). -/
def sliceOf (pa : Nat) : Nat :=
  let l := paLocal pa
  Nat.xor (Nat.xor (Nat.xor (l / 2 ^ 7 % 32) (l / 2 ^ 12 % 32)) (Nat.xor (l / 2 ^ 17 % 32) (l / 2 ^ 22 % 32)))
    (Nat.xor (l / 2 ^ 27 % 32) (l / 2 ^ 32 % 16))

/-! ### Bytes -/

def State.byteAt (s : State) (pa : Nat) : Byte := s.mem.get (canonPA pa)
def State.bytesAt (s : State) (pa n : Nat) : List Byte := (List.range n).map (fun i => s.byteAt (pa + i))
/-- A little-endian number of n bytes (R2). -/
def State.numAt (s : State) (pa n : Nat) : Nat := leNat (s.bytesAt pa n)

def State.setByte (s : State) (pa : Nat) (b : Byte) : State := { s with mem := s.mem.set (canonPA pa) b }
def State.putBytes (s : State) (pa : Nat) : List Byte → State
  | [] => s
  | b :: r => (s.setByte pa b).putBytes (pa + 1) r

/-- The pieces of a range that lie in one line each: the first byte and the length. -/
def linePieces (pa n : Nat) : List (Nat × Nat) :=
  (List.range ((pa % 128 + n + 127) / 128)).map (fun k =>
    let a := if k = 0 then pa else pa / 128 * 128 + 128 * k
    let e := pa / 128 * 128 + 128 * (k + 1)
    (a, (if e < pa + n then e else pa + n) - a))

/-- What a write of a range replaces. -/
def State.replaced (s : State) (pa n : Nat) : List OldBytes :=
  (linePieces pa n).map (fun x => ⟨s.freeCtr, canonPA x.1, s.bytesAt x.1 x.2⟩)

/-- Write bytes; what they replace is kept for the sampler path, which is not coherent (R158). (DESIGN CHOICE, log entry 79) -/
def State.setBytes (s : State) (pa : Nat) (l : List Byte) : State :=
  { s.putBytes pa l with past := s.replaced pa l.length ++ s.past }

/-- The writes to a range since a step, the latest first. -/
def State.writesSince (s : State) (pa n step : Nat) : List OldBytes :=
  s.past.filter (fun o => decide (step ≤ o.step) && decide (o.pa < canonPA pa + n) && decide (canonPA pa < o.pa + o.bytes.length))

/-- The bytes of a range as they stood before the latest of its writes since a step. -/
def State.bytesBefore (s : State) (pa n step back : Nat) : List Byte :=
  ((s.writesSince pa n step).take back).foldl (fun l o => (List.range n).map (fun i =>
    if o.pa ≤ canonPA pa + i ∧ canonPA pa + i < o.pa + o.bytes.length then o.bytes.getD (canonPA pa + i - o.pa) 0 else l.getD i 0))
    (s.bytesAt pa n)

def State.setNum (s : State) (pa n x : Nat) : State := s.setBytes pa (leBytes n x)

/-! ### What another agent reads of a line that a stash holds (R181, R182) -/

/-- The workgroup, the range and the line of the range that hold a global line in a stash. -/
def State.stashOwner (s : State) (line : Nat) : Option (Nat × Nat × Nat) :=
  (s.wgs.entries.flatMap (fun w => w.2.ranges.entries.flatMap (fun r =>
    (r.2.state.entries.filter (fun k => k.2 ≠ 0 && r.2.pas.get k.1 == line)).map (fun k => (w.1, r.1, k.1))))).head?

/-- The line as home, or the stash copy, holds it now. -/
def State.homeLine (s : State) (line : Nat) : List Byte :=
  match s.stashOwner line with
  | some (wg, r, k) =>
    let w := s.wgs.get wg
    (List.range 128).map (fun i => w.stash.get ((w.ranges.get r).soff + 128 * k + i))
  | none => s.bytesAt line 128

/-- A number in memory that does not cross a line, as a coherent load reads it. -/
def State.loadNum (s : State) (pa n : Nat) : Nat :=
  match s.stashOwner (lineOf pa) with
  | some _ => leNat (((s.homeLine (lineOf pa)).drop (canonPA pa % 128)).take n)
  | none => s.numAt pa n

/-! ### Addresses and page tables -/

/-- Bits [63:57] are copies of bit 56 (R162). -/
def canonical (va : W64) : Bool := (va.extractLsb' 0 57).signExtend 64 = va

/-- The kinds of access, with the codes of fault records (R168, R172). -/
inductive Acc where
  | load | store | atomicLoad | sampler | fetch | engRead | engWrite
  deriving DecidableEq, Repr, Inhabited

/-- KIND of R172; every atomic counts as a store there. -/
def Acc.code : Acc → Nat
  | .load => 0 | .store => 1 | .atomicLoad => 1 | .sampler => 2 | .fetch => 3 | .engRead => 4 | .engWrite => 5

def Acc.writes : Acc → Bool
  | .store | .engWrite => true
  | _ => false

/-- Causes of R356. -/
def cILLEGAL : Nat := 0x01
def cSTACK : Nat := 0x04
def cCONTRACT : Nat := 0x05
def cHAZARD : Nat := 0x06
def cNOTPRESENT : Nat := 0x10
def cPROTECT : Nat := 0x11
def cALIGN : Nat := 0x12
def cSTASHRANGE : Nat := 0x13
def cFORMAT : Nat := 0x14
def cKVCOW : Nat := 0x15
def cMEMERR : Nat := 0x16
def cRACE : Nat := 0x20
def cWATCH : Nat := 0x21
def cBKPT : Nat := 0x22
def cSWTRAP : Nat := 0x23
def cBARRIER : Nat := 0x30
def cGANG : Nat := 0x31
def cQUEUE : Nat := 0x32
def cPAYLOAD : Nat := 0x33
def cLINK : Nat := 0x40
def cPREEMPT : Nat := 0x41
def cLAUNCH : Nat := 0x42

/-- Why a translation fails: cause and level (R167, R171). -/
structure XFault where
  cause : Nat
  level : Nat
  /-- the failure is a block-table entry's (KIND 7, R187) -/
  kv : Bool := false
  deriving DecidableEq, Repr, Inhabited

/-- A leaf as a translation uses it (R165). -/
structure Leaf where
  /-- virtual base and size of the page -/
  base : Nat
  size : Nat
  entry : W64
  level : Nat
  deriving DecidableEq, Repr, Inhabited

def Leaf.w (l : Leaf) : Bool := l.entry.getLsbD 2
def Leaf.x (l : Leaf) : Bool := l.entry.getLsbD 3
def Leaf.s (l : Leaf) : Bool := l.entry.getLsbD 4
def Leaf.rc (l : Leaf) : Bool := l.entry.getLsbD 5
def Leaf.kv (l : Leaf) : Bool := l.entry.getLsbD 6
def Leaf.fmt (l : Leaf) : Nat := (l.entry.extractLsb' 12 6).toNat
def Leaf.place (l : Leaf) : Nat := (l.entry.extractLsb' 8 4).toNat
def Leaf.frame (l : Leaf) : Nat := (l.entry.extractLsb' 18 26).toNat
def Leaf.modNum (l : Leaf) : Nat := (l.entry.extractLsb' 44 9).toNat

/-- Whether a feature was accepted at START (R410). -/
def State.feature (s : State) (n : Nat) : Bool := s.hub.featacc.testBit n

/-- The physical offset of byte o of a leaf's page (R166). -/
def Leaf.offset (l : Leaf) (o : Nat) : Nat :=
  let f := l.frame * 65536
  if 8 ≤ l.place then (l.place - 8) * 2 ^ 36 + f + o
  else if l.place = 0 then 2 ^ 39 + 8 * f + o
  else 2 ^ 42 + f + o

/-- The physical address of a virtual one in the page. -/
def Leaf.pa (l : Leaf) (va : Nat) : Nat := l.modNum * 2 ^ 43 + l.offset (va - l.base)

/-- The rules of a leaf entry: reserved bits, PLACE, alignment and bounds (R165 to R167). -/
def Leaf.legal (l : Leaf) : Bool :=
  let f := l.frame * 65536
  let z := l.size
  l.entry.extractLsb' 53 11 = 0 && !l.entry.getLsbD 7 &&
  (if 8 ≤ l.place then f % z == 0 && decide (f + z ≤ 2 ^ 36)
   else if l.place = 0 then f % (z / 8) == 0 && decide (f + z / 8 ≤ 2 ^ 36)
   else if l.place = 1 then f % z == 0 && decide (f + z ≤ 2 ^ 42)
   else false)

/-- Whether two ranges meet. -/
def overlap (a n b m : Nat) : Bool := decide (a < b + m) && decide (b < a + n)

/-- Whether a leaf maps a byte of a shadow range of this module (R382). -/
def State.mapsShadow (s : State) (l : Leaf) : Bool :=
  l.modNum == s.hub.modid && !l.kv &&
  (if 8 ≤ l.place then
     let d := s.dies.get (l.place - 8)
     overlap (l.frame * 65536) l.size d.shBase d.shLen
   else if l.place = 0 then
     (List.range 8).any (fun k => overlap (l.frame * 65536) (l.size / 8) (s.dies.get k).shBase (s.dies.get k).shLen)
   else false)

/-- Levels of the walk: the shift, the index width and the bytes of the table below (R164). -/
def walkLevels : List (Nat × Nat × Nat) := [(48, 9, 4096), (39, 9, 4096), (30, 9, 4096), (21, 9, 256), (16, 5, 1)]

/-- What one entry of a walk says: a leaf, the table that it names, or why the walk ends (R164 to R167). -/
def State.walkEntry (s : State) (va level sh below : Nat) (e : W64) : Except XFault (Leaf ⊕ Nat) :=
  if !e.getLsbD 0 then .error ⟨cNOTPRESENT, level, false⟩
  else if e.getLsbD 1 then
    let l : Leaf := ⟨va / 2 ^ sh * 2 ^ sh, 2 ^ sh, e, level⟩
    if level < 2 || !l.legal then .error ⟨cPROTECT, level, false⟩
    else if l.modNum ≠ s.hub.modid && !s.feature 7 && !l.kv then .error ⟨cPROTECT, level, false⟩
    else if l.place = 1 && !s.feature 9 then .error ⟨cPROTECT, level, false⟩
    else if s.mapsShadow l then .error ⟨cPROTECT, level, false⟩
    else .ok (.inl l)
  else
    let next := (e.extractLsb' 8 44).toNat * 256
    if level = 4 || e.extractLsb' 52 12 ≠ 0 || e.extractLsb' 2 6 ≠ 0 || next % below ≠ 0 then .error ⟨cPROTECT, level, false⟩
    else if paModule next ≠ s.hub.modid && !s.feature 7 then .error ⟨cPROTECT, level, false⟩
    else .ok (.inr next)

/-- The walk from a table on: each entry is read as a coherent load reads it. -/
def State.walkFrom (s : State) (va : Nat) : List (Nat × Nat × Nat) → Nat → Nat → Except XFault Leaf
  | [], level, _ => .error ⟨cPROTECT, level, false⟩
  | (sh, n, below) :: rest, level, table =>
    if paHost table || paReserved table then .error ⟨cPROTECT, level, false⟩
    else match s.walkEntry va level sh below (BitVec.ofNat 64 (s.loadNum (table + 8 * (va / 2 ^ sh % 2 ^ n)) 8)) with
      | .error f => .error f
      | .ok (.inl l) => .ok l
      | .ok (.inr next) => s.walkFrom va rest (level + 1) next

/-- The entries that a walk reads, with their addresses, from a table on. -/
def State.walkPath (s : State) (va : Nat) : List (Nat × Nat × Nat) → Nat → Nat → List (Nat × W64 × Nat)
  | [], _, _ => []
  | (sh, n, below) :: rest, level, table =>
    if paHost table || paReserved table then []
    else
      let pa := table + 8 * (va / 2 ^ sh % 2 ^ n)
      let e := BitVec.ofNat 64 (s.loadNum pa 8)
      (level, e, pa) :: (match s.walkEntry va level sh below e with
        | .ok (.inr next) => s.walkPath va rest (level + 1) next
        | _ => [])

/-- The walk of a context's tables for a canonical address. -/
def State.walk (s : State) (ctx : Nat) (va : W64) : Except XFault Leaf :=
  s.walkFrom ((va.extractLsb' 0 57).toNat) walkLevels 0 ((s.ctxs.get ctx).cfg.root)

/-- The span of addresses that an entry of a level serves, as a shift. -/
def levelShift (level : Nat) : Nat := (walkLevels.getD level (16, 5, 1)).1

/-- The entry of a level that a translation cache of a die, or of one of its cores, holds for an address (R169). -/
def State.cachedEntry (s : State) (die ctx va level : Nat) : Option TlbEntry :=
  let mine (e : TlbEntry) : Bool := e.ctx == ctx && e.level == level && e.va == va / 2 ^ levelShift level * 2 ^ levelShift level &&
    !s.bad.get (tlbKey die (va / 65536))
  match (s.dies.get die).tlb.find? mine with
  | some e => some e
  | none => (coresOfDie die).findSome? (fun c => (s.cores.get c).tlb.find? mine)

/-- The walk of an address through what the caches hold: the entry of the deepest level that is held and used stands for the walk
above it, be it what the tables now hold or older (R170). -/
def State.walkCached (s : State) (die ctx va : Nat) : List Nat → Except XFault Leaf
  | [] => s.walkFrom va walkLevels 0 ((s.ctxs.get ctx).cfg.root)
  | level :: rest =>
    match s.cachedEntry die ctx va level with
    | none => s.walkCached die ctx va rest
    | some e =>
      if !s.choice 0 (e.va * 8 + level) then s.walkCached die ctx va rest
      else match s.walkEntry va level (levelShift level) (walkLevels.getD level (16, 5, 1)).2.2 e.leaf with
        | .error _ => s.walkCached die ctx va rest
        | .ok (.inl l) => .ok l
        | .ok (.inr next) => s.walkFrom va (walkLevels.drop (level + 1)) (level + 1) next

/-- The leaf that an access uses: that of the tables, or one that a cache still holds (R169, R170). -/
def State.leafFor (s : State) (die ctx : Nat) (va : W64) : Except XFault Leaf :=
  s.walkCached die ctx (va.extractLsb' 0 57).toNat [4, 3, 2, 1, 0]

/-- Put an entry in a translation cache of a number of entries; the oldest goes when it is full. (DESIGN CHOICE, log entry 54) -/
def tlbPut (cap : Nat) (l : List TlbEntry) (e : TlbEntry) : List TlbEntry :=
  if l.contains e then l
  else (e :: l.filter (fun x => !(x.ctx == e.ctx && x.va == e.va && x.level == e.level))).take cap

/-- Keep what the walks of some addresses have read: leaves in the cache of the core (512 entries), leaves and table entries in
that of its die (32,768 entries); a result that is not present is never kept (R169, R170). -/
def State.fillTlb (s : State) (core ctx : Nat) : List W64 → State
  | [] => s
  | va :: rest =>
    let a := (va.extractLsb' 0 57).toNat
    match s.walk ctx va with
    | .error _ => s.fillTlb core ctx rest
    | .ok l =>
      let path := s.walkPath a walkLevels 0 ((s.ctxs.get ctx).cfg.root)
      let entry (x : Nat × W64 × Nat) : TlbEntry := ⟨ctx, a / 2 ^ levelShift x.1 * 2 ^ levelShift x.1, x.1, x.2.1⟩
      let s1 := s.modDie (dieOfCore core) (fun d => { d with tlb := path.foldl (fun t x => tlbPut 32768 t (entry x)) d.tlb })
      let s2 := s1.modCore core (fun c => { c with tlb := tlbPut 512 c.tlb ⟨ctx, l.base, l.level, l.entry⟩ })
      s2.fillTlb core ctx rest

/-! ### The key-value block table (R186, R187) -/

/-- The descriptor of a context's key-value region. -/
structure KvDesc where
  base : Nat
  lbs : Nat
  ib : Nat
  table : Nat
  pool : Nat
  nblk : Nat
  counts : Nat
  ring : Nat
  lring : Nat
  deriving DecidableEq, Repr, Inhabited

def State.kvDesc (s : State) (ctx : Nat) : Option KvDesc :=
  let a := (s.ctxs.get ctx).cfg.kv
  if a = 0 then none
  else
    let w := s.loadNum (a + 8) 8
    some ⟨s.loadNum a 8, w % 8, w / 256 % 32, s.loadNum (a + 16) 8, s.loadNum (a + 24) 8, s.loadNum (a + 32) 4,
      s.loadNum (a + 40) 8, s.loadNum (a + 48) 8, s.loadNum (a + 56) 8 % 32⟩

/-- The block size: 4,096·2^LBS. -/
def KvDesc.bs (d : KvDesc) : Nat := 4096 * 2 ^ d.lbs
/-- The bytes of the region: 65,536 sequences. -/
def KvDesc.size (d : KvDesc) : Nat := 65536 * 2 ^ d.ib * d.bs
/-- The entry address of a sequence's block. -/
def KvDesc.entryPA (d : KvDesc) (seq blk : Nat) : Nat := d.table + 8 * (seq * 2 ^ d.ib + blk)

/-- A canonical address in full, from its 57 low bits. -/
def fullVa (a : Nat) : Nat := ((BitVec.ofNat 57 a).signExtend 64).toNat

/-- The level under which a translation cache holds entries of a block table. -/
def kvLevel : Nat := 5

/-- The block-table entry of an address: as it stands in memory, or as a translation cache of the die still holds it (R187). -/
def State.kvEntry (s : State) (die ctx : Nat) (d : KvDesc) (va : W64) : W64 :=
  let a := va.toNat - d.base
  let now := BitVec.ofNat 64 (s.loadNum (d.table + 8 * (a / d.bs)) 8)
  match (s.dies.get die).tlb.find? (fun e => e.ctx == ctx && e.level == kvLevel && e.va == d.base + a / d.bs * d.bs) with
  | none => now
  | some e => if s.choice 0 (e.va * 8 + kvLevel) then e.leaf else now

/-- Where an access to a block-table-mapped page goes (R163, R187). -/
def State.kvResolve (s : State) (die ctx : Nat) (l : Leaf) (va : W64) : Except XFault Nat :=
  match s.kvDesc ctx with
  | none => .error ⟨cPROTECT, l.level, false⟩
  | some d =>
    let base := fullVa l.base
    if l.modNum ≠ 0 || l.frame ≠ 0 || l.place ≠ 0 || base < d.base || d.base + d.size < base + l.size then
      .error ⟨cPROTECT, l.level, false⟩
    else
      let e := s.kvEntry die ctx d va
      if !e.getLsbD 63 then .error ⟨cNOTPRESENT, 5, true⟩
      else if e.extractLsb' 32 31 ≠ 0 || d.nblk ≤ (e.extractLsb' 0 32).toNat then .error ⟨cPROTECT, 5, true⟩
      else
        let pa := d.pool + (e.extractLsb' 0 32).toNat * d.bs + (va.toNat - d.base) % d.bs
        if paReserved pa then .error ⟨cPROTECT, 5, true⟩ else .ok pa

/-- Keep the block-table entries of some addresses in the die's translation cache; one that is not present is never kept. -/
def State.fillKv (s : State) (core ctx : Nat) (d : KvDesc) : List W64 → State
  | [] => s
  | va :: rest =>
    let a := va.toNat - d.base
    let e := BitVec.ofNat 64 (s.loadNum (d.table + 8 * (a / d.bs)) 8)
    if va.toNat < d.base || d.size ≤ a || !e.getLsbD 63 then s.fillKv core ctx d rest
    else (s.modDie (dieOfCore core) (fun x =>
      { x with tlb := tlbPut 32768 x.tlb ⟨ctx, d.base + a / d.bs * d.bs, kvLevel, e⟩ })).fillKv core ctx d rest

/-! ### Checks of one element (R171) -/

/-- Where an element goes. -/
structure Place1 where
  pa : Nat
  leaf : Leaf
  deriving DecidableEq, Repr, Inhabited

/-- Translation with the leaf bits of R168. -/
def State.translate (s : State) (die ctx : Nat) (acc : Acc) (va : W64) : Except EFault Place1 :=
  if !canonical va then .error ⟨cPROTECT, acc.code * 16 + Config.noWalkLevel.toNat, va⟩
  else match s.leafFor die ctx va with
    | .error f => .error ⟨f.cause, acc.code * 16 + f.level, va⟩
    | .ok l =>
      let lacks := match acc with
        | .store | .engWrite => !l.w
        | .sampler => !l.s
        | .fetch => !l.x
        | .load | .atomicLoad | .engRead => false
      if lacks then .error ⟨cPROTECT, acc.code * 16 + l.level, va⟩
      else if l.kv then
        match s.kvResolve die ctx l va with
        | .ok pa => .ok ⟨canonPA pa, l⟩
        | .error f => .error ⟨f.cause, (if f.kv then 7 else acc.code) * 16 + f.level, va⟩
      else .ok ⟨canonPA (l.pa (va.extractLsb' 0 57).toNat), l⟩

/-- Whether accesses to a place are race-checked: an RC page, not in the host window (R165, R382). -/
def Place1.checked (p : Place1) : Bool := p.leaf.rc && !paHost p.pa

/-- The place of a line's check word on its die: whether it lies in the shadow range (R382). -/
def State.shadowOk (s : State) (pa : Nat) : Bool :=
  let d := s.dies.get (paDie pa)
  decide (paLocal pa / 128 * 16 + 16 ≤ d.shLen)

/-- Whether the shadow check of R171 applies and fails: a line homed on this module, a team whose race mode is not
off. -/
def State.shadowFails (s : State) (race : Nat) (p : Place1) : Bool :=
  p.checked && race ≠ 0 && paModule p.pa == s.hub.modid && !s.shadowOk p.pa

/-- The checks of one element in the order of R171: alignment, canonical form, translation and leaf bits, check word
place, format index. -/
def State.checkElem (s : State) (die ctx race : Nat) (acc : Acc) (plain : Bool) (align : Nat) (va : W64) :
    Except EFault Place1 :=
  if va.toNat % align ≠ 0 then .error ⟨cALIGN, 0, va⟩
  else match s.translate die ctx acc va with
    | .error f => .error f
    | .ok p =>
      if s.shadowFails race p then .error ⟨cPROTECT, acc.code * 16 + p.leaf.level, va⟩
      else if plain && p.leaf.fmt ≠ 0 then .error ⟨cFORMAT, 0, va⟩
      else .ok p

/-- Bytes of a virtual range, by 16-byte steps that no page boundary splits, or the first fault. -/
def State.readV (s : State) (die ctx : Nat) (acc : Acc) : Nat → W64 → Nat → Except EFault (List Byte)
  | 0, _, _ => .ok []
  | fuel + 1, va, n =>
    if n = 0 then .ok []
    else
      let k := 16 - va.toNat % 16
      let k := if n < k then n else k
      match s.translate die ctx acc va with
      | .error f => .error f
      | .ok p =>
        match s.readV die ctx acc fuel (va + BitVec.ofNat 64 k) (n - k) with
        | .error f => .error f
        | .ok r => .ok (s.bytesAt p.pa k ++ r)

/-- Bytes of a virtual range as they stand at home. -/
def State.readRange (s : State) (die ctx : Nat) (acc : Acc) (va : W64) (n : Nat) : Except EFault (List Byte) :=
  s.readV die ctx acc (n / 16 + 2) va n

end Sys2Proof.Machine
end

