-- ==== Sys2Proof/Machine/Home.lean ====
section
/-! DEFINITION. What happens at a home slice: record rings, race checks and check words, release records,
watchpoints, copy-on-write, and performing stores and atomics (R177, R186 to R188, R204, R205, R212, R371 to R389,
R397 to R399, R412). -/

namespace Sys2Proof.Machine

/-! ### Monitors and copies (R174, R182, R253) -/

/-- The teams of a core that have a monitor armed on a line and no wake event yet (R253). -/
def State.sleepers (s : State) (core line : Nat) : List Nat :=
  (s.teams.entries.filter (fun e => coreOf e.1 == core &&
    (match e.2.mon with | some (l, _, stirred) => l == line && !stirred | none => false))).map Prod.fst

/-- A wake event for a team whose monitor is armed: its WAITL completes when the team next issues. -/
def Team.woken (t : Team) : Team :=
  { t with mon := t.mon.map (fun m => (m.1, m.2.1, true)), stall := if t.wait = .monitor then none else t.stall }

/-- Wake the sleepers of a core on a line. -/
def State.wake (s : State) (core line : Nat) : State :=
  (s.sleepers core line).foldl (fun s u => s.modTeam u Team.woken) s

/-- Give the line of a stash back to its home with its dirty sectors; of a sector whose data is uncorrectable nothing is written
(R190). -/
def State.giveBack (s : State) (line : Nat) : State :=
  match s.stashOwner line with
  | none => s
  | some (wg, r, k) =>
    let x := (s.wgs.get wg).ranges.get r
    let bytes := s.homeLine line
    let s1 := (List.range 8).foldl (fun (s : State) (j : Nat) =>
      if (x.state.get k - 1).testBit j && !s.bad.get (stashKey wg ((x.soff + 128 * k) / 16 + j)) then s.setBytes (line + 16 * j) ((bytes.drop (16 * j)).take 16) else s) s
    s1.modWg wg (fun w => { w with ranges := w.ranges.put r { x with state := x.state.set k 0 } })

/-- Invalidate every L1 copy of a line, and wake the line's sleepers. -/
def State.dropCopies (s : State) (line : Nat) : State :=
  { s with
    cores := ⟨s.cores.entries.map (fun (e : Nat × Core) =>
      if e.2.l1.contains line then (e.1, { e.2 with l1 := e.2.l1.filter (· ≠ line) }) else e)⟩,
    teams := ⟨s.teams.entries.map (fun (e : Nat × Team) =>
      match e.2.mon with
      | some (l, _, _) => if l = line then (e.1, e.2.woken) else e
      | none => e)⟩ }

/-- A write of the device's own to a line of its home: a stash that holds the line gives it back with its dirty sectors, every L1
copy is invalidated, and the sleepers of the line wake (R174, R182, R253). -/
def State.claim (s : State) (line : Nat) : State := (s.giveBack line).dropCopies line

/-- Write a number of the device's own, which crosses no line, at its home. -/
def State.homeNum (s : State) (pa n x : Nat) : State := (s.claim (lineOf pa)).setNum pa n x

/-- Write bytes of the device's own at their homes. -/
def State.homeBytes (s : State) (pa : Nat) (l : List Byte) : State :=
  ((linePieces pa l.length).foldl (fun s x => s.claim (lineOf x.1)) s).setBytes pa l

/-- Bytes as a coherent read of the device's own finds them: a line that a stash holds is read there, as its recall would leave it
(R182). -/
def State.loadBytes (s : State) (pa n : Nat) : List Byte :=
  (linePieces pa n).flatMap (fun x => ((s.homeLine (lineOf x.1)).drop (canonPA x.1 % 128)).take x.2)

/-! ### Record rings (R389, R404, R412) -/

/-- Raise an MSI-X vector (R407). -/
def State.raise (s : State) (v : Nat) : State := { s with mod := { s.mod with msix := s.mod.msix ++ [v] } }

/-- Whether a ring is full. -/
def State.ringFull (s : State) (base : Nat) : Bool :=
  (s.loadNum (base + 4) 4 + 2 ^ 32 - s.loadNum base 4) % 2 ^ 32 == s.mod.ringCaps.get base

/-- Count a record that a full ring drops. -/
def State.ringDrop (s : State) (base : Nat) : State :=
  let d := s.loadNum (base + 8) 4
  s.homeNum (base + 8) 4 (if d < 2 ^ 32 - 1 then d + 1 else d)

/-- Add a record to a ring that has room. -/
def State.ringAdd (s : State) (base : Nat) (rec : List Byte) (vector : Nat) : State :=
  let tail := s.loadNum (base + 4) 4
  let at_ := base + 64 + rec.length * (tail % s.mod.ringCaps.get base)
  ((s.homeBytes at_ rec).homeNum (base + 4) 4 ((tail + 1) % 2 ^ 32)).raise vector

/-- Append a record of a ring at a physical address, or count a drop when it is full; whether it was written. (DEDUCED, log entry 12) -/
def State.ringPut (s : State) (base : Nat) (rec : List Byte) (vector : Nat) : State × Bool :=
  if base = 0 then (s, false) else if s.ringFull base then (s.ringDrop base, false) else (s.ringAdd base rec vector, true)

/-! ### Sectors and uncorrectable data (R176, R190, R191) -/

/-- Whether the home slice has a sector filled, and whether it is dirty there: what it has filled it may have given up since, a
dirty sector by writing it to DRAM. -/
def State.sectorBit (s : State) (sec k : Nat) : Bool := (s.sectors.get (sec / 8 * 128)).testBit (sec % 8 + 8 * k)
def State.sectorHeld (s : State) (sec : Nat) : Bool := s.sectorBit sec 0 && !s.choice 9 sec

/-- Whether a sector's copy in its home slice is uncorrectable: one that was dirty stays so, since its write-back writes nothing (R190). -/
def State.badCopy (s : State) (sec : Nat) : Bool := s.bad.get (l2Key sec) && (s.sectorHeld sec || s.sectorBit sec 1)

/-- Whether reading a sector meets an uncorrectable error: of the slice's copy, or of DRAM, where the slice does not hold the sector and
has not written it back. -/
def State.badSector (s : State) (sec : Nat) : Bool :=
  s.badCopy sec || (s.bad.get (dramKey sec) && !s.sectorHeld sec && !s.sectorBit sec 1)

/-- The sectors of a range. -/
def sectorsOf (pa n : Nat) : List Nat :=
  (List.range ((canonPA pa % 16 + n + 15) / 16)).map (fun k => canonPA pa / 16 + k)

/-- Whether a byte of a range lies in a sector whose data is uncorrectable. (DESIGN CHOICE, log entry 69) -/
def State.badRange (s : State) (pa n : Nat) : Bool := !s.bad.entries.isEmpty && (sectorsOf pa n).any s.badSector

/-- Mark a sector filled, and dirty: the slice's copy is a good one, and a sector that is dirty, or that the slice has written back, is
good in DRAM. -/
def State.setSector (s : State) (sec : Nat) (dirty : Bool) : State :=
  let line := sec / 8 * 128
  let m := Nat.lor (s.sectors.get line) (2 ^ (sec % 8))
  { s with sectors := s.sectors.set line (if dirty then Nat.lor m (2 ^ (sec % 8 + 8)) else m),
           bad := (if dirty then s.bad.set (dramKey sec) false else s.bad).set (l2Key sec) false }

/-- A read at home fills the sectors that it touches. -/
def State.fillSectors (s : State) (pa n : Nat) : State :=
  (sectorsOf pa n).foldl (fun s sec => if s.badSector sec then s else s.setSector sec (s.sectorBit sec 1)) s

/-- The bytes of an error record: the sector, the unit, the die, the consumer, the count and the time (R191). -/
def State.errBytes (s : State) (sec unit die cons n : Nat) : List Byte :=
  leBytes 8 (sec * 16) ++ leBytes 1 unit ++ leBytes 1 die ++ leBytes 2 cons ++ leBytes 4 (if n < 2 ^ 32 then n else 2 ^ 32 - 1)
    ++ leBytes 8 (s.stampTime die) ++ leBytes 8 (s.stampBound die)

/-- An error record, for the log of the die and for that of a context that consumed the error (R191). -/
def State.errRecord (s : State) (pa unit die : Nat) (uid : Option Nat) (ctx : Option Nat) : State :=
  let sec := canonPA pa / 16
  let n := s.errs.get sec + 1
  let s := { s with errs := s.errs.set sec n }
  let cons := match uid with | some u => (coreOf u % 12) * 2 ^ 12 + slotOf u | none => 0xFFFF
  let r := s.errBytes sec unit die cons n
  let s := s.modDie die (fun d => { d with hard := d.hard + 1 })
  let s := (s.ringPut (s.dies.get die).errLog r 4).1
  match ctx with
  | some c => (s.ringPut (s.ctxs.get c).cfg.errLog r 4).1
  | none => s

/-- A write-back finds sectors of a stash line uncorrectable: they are clean from then on, and the context's error log has a record
of each (R183, R190). -/
def State.reportLost (s : State) (line : Nat) : State :=
  if s.bad.entries.isEmpty then s
  else match s.stashOwner line with
    | none => s
    | some (wg, r, k) =>
      let g := s.wgs.get wg
      let ctx := (s.grids.get g.grid).ctx
      (List.range 8).foldl (fun (s : State) (j : Nat) =>
        let x := (s.wgs.get wg).ranges.get r
        let key := stashKey wg ((x.soff + 128 * k) / 16 + j)
        if (x.state.get k - 1).testBit j && s.bad.get key then
          let sec := line / 16 + j
          let n := s.errs.get sec + 1
          let die := dieOfCore g.core
          let b := s.errBytes sec 2 die 0xFFFF n
          let s1 := ({ s with errs := s.errs.set sec n, bad := s.bad.set key false }).modWg wg (fun w =>
            { w with ranges := w.ranges.put r { x with state := x.state.set k (x.state.get k - 2 ^ j) } })
          (s1.ringPut (s1.ctxs.get ctx).cfg.errLog b 4).1
        else s) s

/-- A request of another agent for a line that a stash holds: the stash gives it back (R182). -/
def State.handBack (s : State) (line : Nat) : State := (s.reportLost line).giveBack line

/-- What was uncorrectable in a cache or a register bank is refilled, or given up, when its error is recorded. -/
def State.mended (s : State) (key : Nat) : State := { s with bad := s.bad.set key false }

/-- An error of data at home: of the slice's copy, or of DRAM (R191). -/
def State.dramError (s : State) (pa : Nat) (uid : Option Nat) (ctx : Option Nat) : State :=
  s.errRecord pa (if s.badCopy (canonPA pa / 16) then 1 else 0) (paDie pa) uid ctx

/-- An entry of a translation cache that is uncorrectable is a miss: it is recorded and read again (R191). -/
def State.mendTlb (s : State) (core ctx : Nat) (uid : Option Nat) : List W64 → State
  | [] => s
  | va :: rest =>
    let die := dieOfCore core
    let key := tlbKey die ((va.extractLsb' 0 57).toNat / 65536)
    (if s.bad.get key then (s.errRecord 0 5 die uid (some ctx)).mended key else s).mendTlb core ctx uid rest

/-- Keep the entries of every kind that some addresses have used (R169, R187). -/
def State.fillCaches (s : State) (core ctx : Nat) (uid : Option Nat) (l : List W64) : State :=
  let s1 := (if s.bad.entries.isEmpty then s else s.mendTlb core ctx uid l).fillTlb core ctx l
  match s1.kvDesc ctx with
  | none => s1
  | some d => s1.fillKv core ctx d l

/-- What a store at home does to the sectors that it writes: one that it covers becomes dirty without a fill; another is filled
first, and where DRAM has it bad the error is recorded and it stays so (R176). -/
def State.storeSectors (s : State) (pa n : Nat) : State :=
  let a := canonPA pa
  (sectorsOf pa n).foldl (fun s sec =>
    if (decide (a ≤ 16 * sec) && decide (16 * sec + 16 ≤ a + n)) || !s.badSector sec then s.setSector sec true
    else s.dramError (16 * sec) none none) s

/-- Add a trace record to a die's wringer (R403). -/
def State.trace (s : State) (die : Nat) (r : TraceRec) : State :=
  s.modDie die (fun d => { d with trace := d.trace ++ [{ r with time := s.stampTime die, bound := s.stampBound die }] })

/-- The 40 bytes of a trace record (R401). -/
def TraceRec.bytes (r : TraceRec) : List Byte :=
  leBytes 1 r.kind ++ leBytes 1 r.flags ++ leBytes 2 r.loc ++ leBytes 4 r.data.toNat ++ leBytes 8 r.pc.toNat
    ++ leBytes 8 r.regions.toNat ++ leBytes 8 r.payload.toNat ++ leBytes 6 r.time ++ leBytes 2 r.bound

/-! ### Check words (R381) -/

/-- An entry of a check word, with what the home needs of it. -/
structure CkEntry where
  ident : BitVec 24
  clk : Nat
  sect : Nat
  atomic : Bool
  engine : Bool
  deriving DecidableEq, Repr, Inhabited

/-- A check word in fields. -/
structure Ck where
  w : CkEntry
  r : CkEntry
  shared : Bool
  mixed : Bool
  deriving DecidableEq, Repr, Inhabited

def Ck.ofBits (epoch : Nat) (b : BitVec 128) : Ck :=
  let b := if (b.extractLsb' 8 8).toNat = epoch then b else 0
  { w := ⟨b.extractLsb' 104 24, (b.extractLsb' 80 24).toNat, (b.extractLsb' 72 8).toNat, b.getLsbD 3, b.getLsbD 2⟩,
    r := ⟨b.extractLsb' 48 24, (b.extractLsb' 24 24).toNat, (b.extractLsb' 16 8).toNat, b.getLsbD 4, false⟩,
    shared := b.getLsbD 1, mixed := b.getLsbD 0 }

def bit1 (b : Bool) : BitVec 1 := if b then 1 else 0

def Ck.toBits (epoch : Nat) (c : Ck) : BitVec 128 :=
  c.w.ident ++ BitVec.ofNat 24 c.w.clk ++ BitVec.ofNat 8 c.w.sect ++ c.r.ident ++ BitVec.ofNat 24 c.r.clk
    ++ BitVec.ofNat 8 c.r.sect ++ BitVec.ofNat 8 epoch ++ (0 : BitVec 3) ++ bit1 c.r.atomic ++ bit1 c.w.atomic
    ++ bit1 c.w.engine ++ bit1 c.shared ++ bit1 c.mixed

def State.ck (s : State) (line : Nat) : Ck := Ck.ofBits s.mod.epoch (s.check.get line)
def State.setCk (s : State) (line : Nat) (c : Ck) : State := { s with check := s.check.set line (c.toBits s.mod.epoch) }

/-- The sectors that elements touch, and those they cover entirely. -/
def touched (es : List Elem) : Nat :=
  (List.range 8).foldl (fun m j => if es.any (fun e => overlap e.off e.size (16 * j) 16) then m + 2 ^ j else m) 0
def whole (es : List Elem) : Nat :=
  (List.range 8).foldl (fun m j =>
    if (List.range 16).all (fun b => es.any (fun e => decide (e.off ≤ 16 * j + b) && decide (16 * j + b < e.off + e.size)))
    then m + 2 ^ j else m) 0

/-! ### Placing an entry (R379) -/

inductive Placed where
  | ordered | settled | lenient | notOrdered
  deriving DecidableEq, Repr, Inhabited

/-- The binding record of an identity in the current epoch. -/
def State.note (s : State) (i : BitVec 24) : Option BindNote :=
  match s.binds.get i.toNat with
  | some n => if n.epoch = s.mod.epoch then some n else none
  | none => none

/-- The key of a slot's journal for loads (0) or stores (1) of a line (R388). -/
def journalKey (slot line : Nat) (store : Bool) : Nat := (slot * 2 ^ 52 + line) * 2 + (if store then 1 else 0)

/-- Keep an access in its slot's journal. -/
def State.journalPut (s : State) (w : Who) (line : Nat) (store : Bool) : State :=
  s.modCore (coreOf w.uid) (fun c =>
    { c with journal := c.journal.put (journalKey (slotOf w.uid) line store) (w.ident.toNat, w.clk, w.pc, w.regions) })

/-- What the journal holds of an entry's access, at that clock; with more than 512 lines of a slot, which are still
held is the hardware's choice. -/
def State.journalGet (s : State) (i : BitVec 24) (clk line : Nat) (store : Bool) : Option (W64 × W64) :=
  let u := uidOfIdent i
  let c := s.cores.get (coreOf u)
  let (id, k, pc, rg) := c.journal.get (journalKey (slotOf u) line store)
  let held := (c.journal.keys.filter (fun x => x / 2 ^ 53 == slotOf u)).length
  if id = i.toNat ∧ k = clk ∧ (held ≤ 512 ∨ s.choice 5 line) then some (pc, rg) else none

/-- Whether a pair's scope contains the team of a binding record. -/
def State.acqCovers (s : State) (a : Acq) (u : BitVec 24) (n : BindNote) : Bool :=
  if a.kind = 0 then a.ident == u
  else match s.note a.ident with
    | none => false
    | some m => m.ctx == n.ctx && m.lnum == n.lnum &&
        (if a.kind = 1 then m.wg == n.wg else if a.kind = 2 then m.cluster == n.cluster else true)

def State.place (s : State) (u : BitVec 24) (c line : Nat) (store : Bool) (t : Who) : Placed :=
  if u = t.ident then .ordered
  else match s.note u with
    | none => .lenient
    | some n =>
      if (s.grids.get (gridKey n.ctx n.lnum)).phase = .done then .settled
      else if n.ctx ≠ t.ctx ∨ n.lnum ≠ t.lnum then .lenient
      else
        let k := (s.grids.get (gridKey t.ctx t.lnum)).k
        if n.wg = t.wg ∧ c ≤ t.floors.1 then .ordered
        else if n.cluster = t.wg / k ∧ c ≤ t.floors.2.1 then .ordered
        else if c ≤ t.floors.2.2 then .ordered
        else if t.acq.any (fun a => decide (c ≤ a.clock) && s.acqCovers a u n) then .ordered
        else if t.lenient then .lenient
        else if (s.journalGet u c line store).isNone then .lenient
        else .notOrdered

/-! ### Race checks (R371, R383, R386 to R389) -/

/-- Add to a team's RMISS counters, which saturate (R390). -/
def State.miss (s : State) (w : Who) (summarised unplaced : Nat) : State :=
  let t := s.teams.get w.uid
  if identOf w.uid t.place.gen ≠ w.ident then s
  else
    let sat (x : Nat) := if 2 ^ 32 - 1 < x then 2 ^ 32 - 1 else x
    s.putTeam w.uid { t with race := { t.race with
      summarised := sat (t.race.summarised + summarised), unplaced := sat (t.race.unplaced + unplaced) } }

/-- The request as a check sees it. -/
structure RReq where
  who : Who
  line : Nat
  va : W64
  elems : List Elem
  reads : Bool
  writes : Bool
  atomic : Bool
  deriving DecidableEq, Repr, Inhabited

/-- Whether a request is checked under the trap rule: its team's mode is trap and it is no engine's (R385, R387). -/
def RReq.trapMode (r : RReq) : Bool := r.who.race = 1 && !r.who.engine

/-- The race record of a pair (R388). -/
def State.raceRecord (s : State) (r : RReq) (e : CkEntry) (store : Bool) (kind sect : Nat) : List Byte :=
  let (pc2, rg2) := (s.journalGet e.ident e.clk r.line store).getD (0, 0)
  let die := paDie r.line
  leBytes 8 (r.va.toNat / 128 * 128) ++ leBytes 8 r.who.pc.toNat ++ leBytes 8 pc2.toNat ++ leBytes 8 r.who.regions.toNat
    ++ leBytes 8 rg2.toNat ++ leBytes 3 r.who.ident.toNat ++ leBytes 3 e.ident.toNat ++ leBytes 3 r.who.clk
    ++ leBytes 3 e.clk ++ leBytes 1 sect
    ++ leBytes 1 (kind + (if e.engine then 4 else 0) + (if r.who.engine then 8 else 0) + (if e.atomic then 16 else 0)
        + (if r.atomic then 32 else 0) + (if r.trapMode then 64 else 0))
    ++ leBytes 2 (s.stampBound die) ++ leBytes 8 (s.stampTime die)

/-- Outcome of the check of a request. -/
structure RaceOut where
  st : State
  /-- sectors of the request that race with a later plain store in report mode, whose elements are dropped (R212) -/
  drop : Nat := 0
  races : Bool := false
  /-- the racing sectors -/
  sect : Nat := 0
  /-- log index of the first record, 0xFFFF_FFFF when it was dropped (R386) -/
  first : Nat := 0xFFFFFFFF

/-- Compare a request with one entry; `store` says the entry is a store's. A check that meets MIXED or SHARED counts, whether or not the
word holds the entry that it would go with. (DEDUCED, log entry 86) -/
def RaceOut.entry (o : RaceOut) (r : RReq) (e : CkEntry) (store summary : Bool) : RaceOut :=
  let s := if summary then o.st.miss r.who 1 0 else o.st
  if e.sect = 0 then { o with st := s }
  else
    let sect := Nat.land e.sect (touched r.elems)
    if sect = 0 || e.ident = r.who.ident || (e.atomic && r.atomic) || (!store && !r.writes) then { o with st := s }
    else match s.place e.ident e.clk r.line store r.who with
      | .ordered => { o with st := s }
      | .settled => { o with st := s }
      | .lenient => { o with st := s.miss r.who 0 1 }
      | .notOrdered =>
        let kind := if !r.writes then 0 else if store then 2 else 1
        let log := (s.ctxs.get r.who.ctx).cfg.raceLog
        let tail := s.loadNum (log + 4) 4
        let (s1, wrote) := s.ringPut log (s.raceRecord r e store kind sect) 2
        let lesser := (r.who.ident.extractLsb' 10 14).toNat < (e.ident.extractLsb' 10 14).toNat
        { st := s1,
          drop := if kind = 2 && !r.atomic && !e.atomic && lesser then Nat.lor o.drop sect else o.drop,
          races := true, sect := Nat.lor o.sect sect,
          first := if o.races then o.first else if wrote then tail else 0xFFFFFFFF }

/-- The place of a line's check word in the shadow range of its die (R382). -/
def State.shadowPlace (s : State) (line : Nat) : Nat :=
  paModule line * 2 ^ 43 + paDie line * 2 ^ 36 + (s.dies.get (paDie line)).shBase + paLocal line / 128 * 16

/-- An uncorrectable check word is recorded, and replaced by one with both entries empty that says that stores and loads are not all
recorded (R382). (DESIGN CHOICE, log entry 87) -/
def State.mendCk (s : State) (line : Nat) : State :=
  if s.bad.entries.isEmpty then s
  else
    let a := s.shadowPlace line
    if !s.badSector (canonPA a / 16) then s
    else
      let none_ : CkEntry := { ident := 0, clk := 0, sect := 0, atomic := false, engine := false }
      ((s.dramError a none none).setSector (canonPA a / 16) true).setCk line { w := none_, r := none_, shared := true, mixed := true }

/-- The check of R371: first the writer entry, then the reader entry; then any store that the miss tracker of the
requester's core shows to a load (R384). -/
def State.raceCheck (s0 : State) (r : RReq) (early : List CkEntry) : RaceOut :=
  let s := s0.mendCk r.line
  let c := s.ck r.line
  let o := ({ st := s } : RaceOut).entry r c.w true c.mixed
  let o := o.entry r c.r false (c.shared && r.writes)
  early.foldl (fun o e => o.entry r e true false) o

/-- The update of the check word after the check (R383), for the elements performed. -/
def State.raceUpdate (s : State) (r : RReq) (es : List Elem) (wrote : Bool) : State :=
  let c := s.ck r.line
  let sc := whole es
  let t := touched es
  let readerFree := c.r.sect = 0 ||
    (match s.place c.r.ident c.r.clk r.line false r.who with | .ordered => true | .settled => true | _ => false)
  let c1 : Ck :=
    if !wrote then c
    else if c.w.sect ≠ 0 ∧ c.w.ident = r.who.ident ∧ c.w.clk = r.who.clk then
      { c with w := { c.w with sect := Nat.lor c.w.sect sc }, shared := false }
    else
      { c with mixed := (c.mixed || decide (Nat.land c.w.sect (255 - sc) ≠ 0) || decide (t ≠ sc)) && decide (sc ≠ 255),
               w := ⟨r.who.ident, r.who.clk, sc, r.atomic, r.who.engine⟩, shared := false }
  let c2 : Ck :=
    if !r.reads then c1
    else if c.r.sect ≠ 0 ∧ c.r.ident = r.who.ident then
      { c1 with r := { c1.r with clk := r.who.clk, sect := Nat.lor c1.r.sect sc } }
    else { c1 with r := ⟨r.who.ident, r.who.clk, sc, r.atomic, false⟩, shared := c1.shared || !readerFree }
  let s := if r.reads then s.journalPut r.who r.line false else s
  let s := if wrote then s.journalPut r.who r.line true else s
  s.setCk r.line { c2 with shared := c2.shared && !wrote }

/-! ### Release records (R372, R377) -/

/-- Add a pair to a list, raising the clock of an entry of the same scope. -/
def mergePair (l : List Acq) (a : Acq) : List Acq :=
  if l.any (fun b => b.kind == a.kind && b.ident == a.ident) then
    l.map (fun b => if b.kind == a.kind && b.ident == a.ident && decide (b.clock < a.clock) then a else b)
  else l ++ [a]

/-- The pair of the lowest clock. -/
def lowestPair : List Acq → Option Acq
  | [] => none
  | a :: r => match lowestPair r with
    | none => some a
    | some b => if b.clock < a.clock then some b else some a

/-- Keep the 12 pairs with the highest clocks. -/
def trimPairs : Nat → List Acq → List Acq × Bool
  | 0, l => (l, false)
  | n + 1, l =>
    if l.length ≤ 12 then (l, false)
    else match lowestPair l with
      | none => (l, false)
      | some a => ((trimPairs n (l.erase a)).1, true)

/-- The pairs a releaser adds: its stamp, its acquired table and a group pair for each floor that is not 0. -/
def Who.pairs (w : Who) (clk : Nat) : List Acq :=
  ⟨0, w.ident, clk⟩ :: w.acq
    ++ (if w.floors.1 = 0 then [] else [⟨1, w.ident, w.floors.1⟩])
    ++ (if w.floors.2.1 = 0 then [] else [⟨2, w.ident, w.floors.2.1⟩])
    ++ (if w.floors.2.2 = 0 then [] else [⟨3, w.ident, w.floors.2.2⟩])

def RelRec.union (r : RelRec) (l : List Acq) : RelRec :=
  let all := l.foldl mergePair r.pairs
  let (kept, ovf) := trimPairs all.length all
  { pairs := kept, ovf := r.ovf || ovf, lost := r.lost }

/-- The record that a line's home slice holds when the line is next used: the cache may have evicted it, which is remembered until a
store discards records (R377). -/
def State.releaseRec (s : State) (line : Nat) : RelRec :=
  let r := s.release.get line
  if r.pairs ≠ [] && s.choice 6 line then { lost := true } else r

/-- Put a line's record; only lines of device memory have one. -/
def State.putRelease (s : State) (line : Nat) (r : RelRec) : State :=
  if paHost line then s else { s with release := s.release.set line r }

/-- What a store or an atomic makes of a record. -/
def Who.releases (w : Who) (old : RelRec) (rel atomic : Bool) : RelRec :=
  let stamp : Option Nat := if rel then some w.clk else if w.engine then none else w.stamp
  match stamp with
  | some c => if w.race ≠ 0 then old.union (w.pairs c) else { lost := true }
  | none => if atomic then old else {}

/-- What a performed store or atomic does to the line's release record. -/
def State.releaseUpdate (s : State) (line : Nat) (w : Who) (rel atomic : Bool) : State :=
  s.putRelease line (w.releases (s.releaseRec line) rel atomic)

/-- Merge a pair into the acquired table: a new scope takes a free entry, or, where the table is full, the place of the entry with the
lowest clock, and the team turns lenient at the level of R379 (R376). -/
def State.acquire1 (s : State) (uid : Nat) (a : Acq) : State :=
  let t := s.teams.get uid
  let r := t.race
  let r := if a.clock = 0xFFFFFF then { r with lsat := true } else r
  let known := r.acq.any (fun b => b.kind == a.kind && b.ident == a.ident)
  if known || decide (r.acq.length < 8) then s.putTeam uid { t with race := { r with acq := mergePair r.acq a } }
  else match lowestPair r.acq with
    | none => s
    | some d =>
      let me := s.note (identOf uid t.place.gen)
      let level := match s.note d.ident, me with
        | some n, some m =>
          if n.ctx ≠ m.ctx ∨ n.lnum ≠ m.lnum then 3
          else if d.kind = 0 ∧ n.wg = m.wg then 1
          else if (d.kind = 0 ∧ n.cluster = m.cluster) ∨ (d.kind = 1 ∧ n.wg = m.wg) then 2
          else 3
        | _, _ => 3
      s.putTeam uid { t with race := { r with acq := r.acq.erase d ++ [a], level := if r.level < level then level else r.level } }

/-- Merge one record into a team (R378). -/
def State.acquire (s : State) (uid : Nat) (r : RelRec) : State :=
  let s := r.pairs.foldl (fun s a => s.acquire1 uid a) s
  if r.ovf || r.lost then s.modTeam uid (fun t => { t with race := { t.race with level := 3 } }) else s

/-! ### Watchpoints (R397 to R399) -/

/-- Whether watchpoint control bits fire on old and new contents of the element. -/
def Watch.fires (w : Watch) (old new_ : W64) : Bool :=
  let b : W64 := (List.range 8).foldl (fun m i => if w.ctl.getLsbD (8 + i) then m ||| ((0xFF : W64) <<< (8 * i)) else m) 0
  let mode := (w.ctl.extractLsb' 1 2).toNat
  w.ctl.getLsbD 0 && decide (w.addr.toNat % 8 = 0) &&
  (if mode = 0 then (new_ &&& b) == (w.val &&& b) else if mode = 1 then (new_ &&& b) != (old &&& b) else decide (mode = 2))

/-- One firing: a watch record, and, where STOP asks for it, a report to the team's core. -/
def State.fire (s : State) (ctx k : Nat) (w : Watch) (new_ : W64) (pa : Nat) (who : Who) : State :=
  let t := s.teams.get who.uid
  let alive := identOf who.uid t.place.gen = who.ident ∧ t.phase ≠ .unbound ∧ t.phase ≠ .retired ∧ t.phase ≠ .stopped
  let die := paDie pa
  let r : TraceRec :=
    { kind := 3, flags := (if alive then 0 else 1) + (if who.engine then 2 else 0), loc := whereOf who.uid,
      data := BitVec.ofNat 32 k, pc := who.pc, regions := who.regions, payload := new_ }
  if alive then
    let s := s.trace die r
    if w.ctl.getLsbD 4 then
      let (id, s) := s.fresh
      { s with watches := s.watches.put id (some ⟨who.uid, t.place.gen,
          { cause := cWATCH, addr := w.addr, aux := BitVec.ofNat 32 k, pc := who.pc, cls := 2, regions := who.regions }⟩) }
    else s
  else
    (s.ringPut ((s.ctxs.get ctx).cfg.sink) (({ r with time := s.stampTime die, bound := s.stampBound die } : TraceRec).bytes ++ leBytes 24 0) 2).1

/-- Where the element of a watchpoint lies, as its context's page table, or its block table, maps it now. -/
def State.watchPlace (s : State) (ctx : Nat) (va : W64) : Option Nat :=
  if !canonical va then none
  else match s.walk ctx va with
    | .error _ => none
    | .ok l =>
      if !l.kv then some (canonPA (l.pa (va.extractLsb' 0 57).toNat))
      else match s.kvDesc ctx with
        | none => none
        | some d =>
          let e := BitVec.ofNat 64 (s.loadNum (d.table + 8 * ((va.toNat - d.base) / d.bs)) 8)
          if e.getLsbD 63 then some (canonPA (d.pool + (e.extractLsb' 0 32).toNat * d.bs + (va.toNat - d.base) % d.bs)) else none

/-- Test every context's watchpoints on a store of bytes performed at home, or in the stash copy of a mapped line (R197, R398).
(DEDUCED, log entry 89) -/
def State.watchTest (before after : State) (pa size : Nat) (who : Who) : State :=
  after.ctxs.entries.foldl (fun s (c : Nat × Ctx) =>
    (List.range 8).foldl (fun s k =>
      let w := c.2.watch.get k
      if !w.ctl.getLsbD 0 then s
      else match before.watchPlace c.1 w.addr with
        | none => s
        | some e =>
          if !overlap e 8 (canonPA pa) size then s
          else
            let old := BitVec.ofNat 64 (before.loadNum e 8)
            let new_ := BitVec.ofNat 64 (after.loadNum e 8)
            if w.fires old new_ then s.fire c.1 k w new_ e who else s) s) after

/-- Write bytes at home. -/
def State.putHome (s : State) (pa : Nat) (bytes : List Byte) : State := (s.storeSectors pa bytes.length).setBytes pa bytes

/-- Write bytes at home, with the watchpoint tests. -/
def State.homeWrite (s : State) (pa : Nat) (bytes : List Byte) (who : Who) : State :=
  s.watchTest (s.putHome pa bytes) pa bytes.length who

/-! ### Copy-on-write of a key-value block (R188) -/

/-- The reference count of a block. -/
def State.kvCount (s : State) (d : KvDesc) (n : Nat) : Nat := s.loadNum (d.counts + 2 * n) 2
def State.kvSetCount (s : State) (d : KvDesc) (n x : Nat) : State := s.homeNum (d.counts + 2 * n) 2 x

/-- Push a block to the free ring, or count it in the die's error counters when the ring is full (R238). -/
def State.kvPush (s : State) (d : KvDesc) (n : Nat) : State :=
  let head := s.loadNum d.ring 4
  let tail := s.loadNum (d.ring + 4) 4
  if (tail + 2 ^ 32 - head) % 2 ^ 32 = 2 ^ d.lring then
    s.modDie (paDie d.ring) (fun x => { x with hard := x.hard + 1 })
  else (s.homeNum (d.ring + 64 + 4 * (tail % 2 ^ d.lring)) 4 n).homeNum (d.ring + 4) 4 ((tail + 1) % 2 ^ 32)

/-- Lower a count, returning the block at 0; whether it was returned. -/
def State.kvDrop (s : State) (d : KvDesc) (n : Nat) : State × Bool :=
  let c := s.kvCount d n
  let s := s.kvSetCount d n (c - 1)
  if c = 1 then (s.kvPush d n, true) else (s, false)

/-- Write a block-table entry and drop its copies from every translation cache of the module (R188, R238). -/
def State.kvSetEntry (s : State) (ctx : Nat) (d : KvDesc) (ea x : Nat) : State :=
  let va := d.base + (ea - d.table) / 8 * d.bs
  let s1 := s.homeNum ea 8 x
  { s1 with dies := ⟨s1.dies.entries.map (fun (e : Nat × Die) =>
      (e.1, { e.2 with tlb := e.2.tlb.filter (fun x => !(x.ctx == ctx && x.level == kvLevel && x.va == va)) }))⟩ }

/-- Lines of a range. -/
def linesIn (pa n : Nat) : List Nat := (List.range (n / 128)).map (fun k => lineOf (pa + 128 * k))

/-- The next step of a copy of a shared block. (DEDUCED, log entry 85) -/
def State.kvStep (s : State) (d : KvDesc) (o : KvOp) (who : Who) : State :=
  let put (s : State) : State :=
    { s with kvOps := s.kvOps.map (fun x => if x.entry = o.entry then { x with step := x.step + 1 } else x) }
  if o.step = 0 then
    let s1 := (linesIn (d.pool + o.old * d.bs) d.bs ++ linesIn (d.pool + o.new * d.bs) d.bs).foldl (fun s l => (s.reportLost l).claim l) s
    put (s1.homeWrite (d.pool + o.new * d.bs) (s1.bytesAt (d.pool + o.old * d.bs) d.bs) who)
  else if o.step = 1 then put (s.kvSetCount d o.new 1)
  else if o.step = 2 then put (s.kvSetEntry o.ctx d o.entry (2 ^ 63 + o.new))
  else
    let s1 := (s.kvDrop d o.old).1
    { s1 with kvOps := s1.kvOps.filter (fun x => x.entry ≠ o.entry) }

/-- Where a write to a block-table-mapped address is performed. -/
inductive KvTarget where
  /-- there -/
  | at_ (pa : Nat) (s : State)
  /-- not yet: a copy of its block goes one step on -/
  | wait (s : State)
  | fail (cause : Nat)

/-- A write to a block-table-mapped address (R188): in the block where no other shares it; else the block is copied first, one step
at a time, and writes to one entry wait for its copy; KVCOW when the free ring is empty. -/
def State.kvForWrite (s : State) (ctx : Nat) (va : W64) (who : Who) : KvTarget :=
  match s.kvDesc ctx with
  | none => .fail cPROTECT
  | some d =>
    let a := va.toNat - d.base
    let ea := d.table + 8 * (a / d.bs)
    match s.kvOps.find? (fun o => o.entry == ea) with
    | some o => .wait (s.kvStep d o who)
    | none =>
      let n := s.loadNum ea 4
      if s.kvCount d n ≤ 1 then .at_ (canonPA (d.pool + n * d.bs + a % d.bs)) s
      else
        let head := s.loadNum d.ring 4
        if head = s.loadNum (d.ring + 4) 4 then .fail cKVCOW
        else
          let m := s.loadNum (d.ring + 64 + 4 * (head % 2 ^ d.lring)) 4
          let s1 := s.homeNum d.ring 4 ((head + 1) % 2 ^ 32)
          .wait { s1 with kvOps := s1.kvOps ++ [⟨ctx, ea, n, m, 0⟩] }

/-! ### Atomic operations (R244, R245) -/

/-- The lesser of two numbers read as signed in `wd` bits. -/
def signedOf (wd x : Nat) : Int := if 2 ^ (wd - 1) ≤ x then (x : Int) - 2 ^ wd else x

/-- Each half of two 32-bit values. -/
def halves (f : Nat → Nat → Nat) (x y : Nat) : Nat :=
  f (x % 65536) (y % 65536) + 65536 * f (x / 65536 % 65536) (y / 65536 % 65536)

/-- What an operation stores over an old value of `wd` bits; none when it writes nothing. -/
def AtomicOp.apply (op : AtomicOp) (wd old x e : Nat) : Option Nat :=
  let m := 2 ^ wd
  let old := old % m
  let x := x % m
  match op with
  | .add => some ((old + x) % m)
  | .smin => some (if signedOf wd old ≤ signedOf wd x then old else x)
  | .smax => some (if signedOf wd old ≤ signedOf wd x then x else old)
  | .nmin => some (if old ≤ x then old else x)
  | .nmax => some (if old ≤ x then x else old)
  | .and => some (Nat.land old x)
  | .or => some (Nat.lor old x)
  | .xor => some (Nat.xor old x)
  | .fadd32 => some (f32.add 0 false old x).1
  | .fmin32 => some (f32.minMax false false old x).1
  | .fmax32 => some (f32.minMax true false old x).1
  | .faddh => some (halves (fun a b => (f16.add 0 false a b).1) old x)
  | .faddb => some (halves (fun a b => (bf16.add 0 false a b).1) old x)
  | .xchg => some x
  | .cas => if old = e % m then some x else none
  | .ld => none
  | .st => some x
  | .depth => if (f32.read false old).lt (f32.read false x) then some x else none

/-- Whether an operation reads, and whether its words can write. -/
def AtomicOp.reads : AtomicOp → Bool
  | .st => false
  | _ => true
def AtomicOp.mayWrite : AtomicOp → Bool
  | .ld => false
  | _ => true

/-- Perform the elements of one request on a line in ascending lane order; the old values, and whether any element was
written. -/
def State.performAtomics (s : State) (line : Nat) (op : AtomicOp) (who : Who) : List Elem → State × List (Nat × Nat) × Bool
  | [] => (s, [], false)
  | e :: r =>
    let old := s.numAt (line + e.off) e.size
    let (s, w) := match op.apply (8 * e.size) old e.x.toNat e.e.toNat with
      | none => (s, false)
      | some v => (s.homeWrite (line + e.off) (leBytes e.size v) who, true)
    let (s, vs, w') := s.performAtomics line op who r
    (s, (e.lane, old) :: vs, w || w')

/-- The sectors that a store covers entirely become dirty without a fill (R176). -/
def State.coverSectors (s : State) (line : Nat) (es : List Elem) : State :=
  (List.range 8).foldl (fun s j => if (whole es).testBit j then s.setSector (line / 16 + j) true else s) s

/-- Perform the elements of a plain store on a line, in order. -/
def State.performStores (s : State) (line : Nat) (who : Who) : List Elem → State
  | [] => s
  | e :: r => (s.homeWrite (line + e.off) (leBytes e.size e.x.toNat) who).performStores line who r

/-- The first element of a store whose sector must be filled and is uncorrectable. -/
def State.badFill (s : State) (line : Nat) (es : List Elem) : Option Elem :=
  if s.bad.entries.isEmpty then none
  else es.find? (fun e => s.badSector ((line + e.off) / 16) && !(whole es).testBit (e.off / 16))

end Sys2Proof.Machine
end

