-- ==== Sys2Proof/Machine/Ops.lean ====
section
/-! DEFINITION. The operations every word shares: fetching, the checks a word passes before its effect, seams,
rollback, faults on pages, taking a trap and returning from one (R34 to R55, R63 to R68, R88 to R94, R172, R190,
R191, R350 to R364). -/

namespace Sys2Proof.Machine

/-- What a step of the machine answers. -/
abbrev Out := Host.Outcome State Fault Refusal

/-! ### Instruction fetch (R34, R63, R68, R94, R236, R237) -/

/-- The 128 bytes of a line as its home, or the stash that gives it back, holds them. -/
def State.lineBytes (s : State) (line : Nat) : List Byte := s.homeLine line

/-- What the core's instruction cache gives for a line: its own copy, or what memory holds now. -/
def State.icRead (s : State) (core line : Nat) : List Byte :=
  let held := (s.cores.get core).icache.get line
  if held = [] then s.lineBytes line
  else if s.choice 1 line then held else s.lineBytes line

/-- Whether a team runs an address from a line that it holds already: the one it runs from, or one it has fetched ahead. -/
def State.fetchedAhead (s : State) (uid : Nat) (va : W64) : Bool :=
  let t := s.teams.get uid
  let n := va.toNat / 128
  t.prefetch.get n ≠ [] && (t.line == some n || s.choice 8 n)

/-- The line a team fetches from: one that it holds, or what the instruction cache gives; each line is wholly old or wholly new
(R237). -/
def State.fetchLine (s : State) (uid : Nat) (va : W64) : Except EFault (List Byte) :=
  let t := s.teams.get uid
  if s.fetchedAhead uid va then .ok (t.prefetch.get (va.toNat / 128))
  else match s.translate (dieOf uid) t.place.ctx .fetch va with
    | .error f => .error f
    | .ok p => if s.badRange p.pa 4 then .error ⟨cMEMERR, 0, va⟩ else .ok (s.icRead (coreOf uid) (lineOf p.pa))

/-- The word at an address, for a team. -/
def State.fetchWord (s : State) (uid : Nat) (va : W64) : Except EFault W32 :=
  match s.fetchLine uid va with
  | .error f => .error f
  | .ok b => .ok (BitVec.ofNat 32 (fieldAt b (va.toNat % 128) 4))

/-- The word at a place in a team's program that the team has fetched. -/
def State.heldWord (s : State) (uid : Nat) (va : W64) : W32 :=
  let b := (s.teams.get uid).prefetch.get (va.toNat / 128)
  if b = [] then (match s.fetchWord uid va with | .ok x => x | .error _ => 0)
  else BitVec.ofNat 32 (fieldAt b (va.toNat % 128) 4)

/-- Keep a fetched line in the team's buffer and in the instruction cache of its core: a stash that holds it gives it back first (R182);
what the team holds already goes into no cache again (R237). -/
def State.keepLine (s : State) (uid : Nat) (va : W64) : State :=
  match s.fetchLine uid va with
  | .error _ => s
  | .ok b =>
    let t := s.teams.get uid
    let s := if s.fetchedAhead uid va then s
      else match s.translate (dieOf uid) t.place.ctx .fetch va with
      | .error _ => s
      | .ok p =>
        let l := lineOf p.pa
        (s.handBack l).modCore (coreOf uid) (fun c => if c.icache.get l = [] then { c with icache := c.icache.put l b } else c)
    s.putTeam uid { t with prefetch := t.prefetch.put (va.toNat / 128) b }

/-- What a fetch leaves behind: the line, and the next one fetched ahead (R94). -/
def State.fetchFill (s : State) (uid : Nat) (va : W64) : State :=
  let s := ((s.fillCaches (coreOf uid) (s.teams.get uid).place.ctx (some uid) [va]).keepLine uid va).keepLine uid (va + 128)
  s.modTeam uid (fun t => { t with line := some (va.toNat / 128) })

/-- What a fetch that fails leaves behind: the record of an uncorrectable error (R191). -/
def State.fetchFailed (s : State) (uid : Nat) (va : W64) (f : EFault) : State :=
  let ctx := (s.teams.get uid).place.ctx
  if f.cause = cMEMERR then
    match s.translate (dieOf uid) ctx .fetch va with
    | .ok p => s.dramError p.pa (some uid) (some ctx)
    | .error _ => s
  else s

/-- Whether a fetched word is a clause header (R35). -/
def isHeader (w : W32) : Bool := w.extractLsb' 26 6 = 1#6

/-! ### Flow (R35, R43, R350) -/

/-- The place after the next word: inside its clause, or at the next header. -/
def ClausePos.next (p : ClausePos) : ClausePos := { p with pc := p.pc + 4, left := p.left - 1 }

/-- The start of a clause. -/
def ClausePos.atHeader (pc : W64) : ClausePos := { pc := pc }

/-- Move a team past its word; the hints before it have been used. -/
def Team.advance (t : Team) : Team :=
  { t with flow := { t.flow with pos := t.flow.pos.next }, hints := {}, wait := .none, stall := none, eligible := 0,
           promoted := none, finishing := false }

/-- Transfer a team to a header. -/
def Team.jump (t : Team) (target : W64) : Team :=
  { t with flow := { t.flow with pos := .atHeader target }, hints := {}, wait := .none, stall := none, line := none,
           eligible := 0, promoted := none, finishing := false }

/-- Mark a seam at the team's present place; `dests` open the sets of the region that begins (R350, R352). -/
def Team.markSeam (t : Team) (dests : RegSet) : Team :=
  { t with seam := t.flow, seamCnt := t.seamCnt + 1, seamSeq := t.nextSeq, wr := dests, rbw := 0, arrived := none }

/-- Mark the completion seam of an outstanding word, which lies directly after it; a seam that lies before the
recorded one is counted only. (DEDUCED, log entry 53) -/
def Team.completionSeam (t : Team) (w : LongWord) : Team :=
  if w.seq < t.seamSeq then { t with seamCnt := t.seamCnt + 1 }
  else { t with seam := w.after, seamCnt := t.seamCnt + 1, seamSeq := w.seq + 1, wr := w.dests, rbw := 0 }

/-! ### Long-latency words (R42 to R49) -/

/-- Lower a completion flag. -/
def Team.flagDown (t : Team) (f : Nat) : Team := { t with flags := t.flags.set f (t.flags.get f - 1) }
def Team.flagUp (t : Team) (f : Nat) : Team := { t with flags := t.flags.set f (t.flags.get f + 1) }

/-- Whether every flag of a wait mask reads 0 (R43). -/
def Team.flagsZero (t : Team) (wait : BitVec 12) : Bool :=
  (List.range 12).all (fun i => !wait.getLsbD i || t.flags.get i == 0)

/-- The registers with a pending write. -/
def Team.pendingRegs (t : Team) : RegSet := t.words.foldl (fun r w => r ||| w.dests) 0

/-- Whether all the lanes of a mask word have their values fixed in a word. -/
def LongWord.fixedAt (w : LongWord) (mw : Nat) : Bool :=
  w.parts.all (fun p => p.fixed || p.elems.all (fun e => decide (e.lane / 32 ≠ mw)))

/-- The registers as a word reads them: where a write is pending, the old contents or the new, whole for each mask
word (R47). -/
def State.seen (s : State) (t : Team) : Regs :=
  t.words.foldl (fun r w =>
    let r := w.results.foldl (fun r (x : Nat × Nat × W32) =>
      if w.fixedAt (x.1 / 32) && s.choice 2 (x.2.1 * 32 + x.1 / 32) then r.writeV x.2.1 x.1 x.2.2 else r) r
    match w.sdest with
    | some (n, x) => if w.parts.all (fun p => p.fixed) && s.choice 2 (2048 + n) then r.writeS n x else r
    | none => r) t.regs

/-- Note that lanes of a register, by its bit in a register set, have been written while a word is outstanding. -/
def LongWord.rewrote (w : LongWord) (bit : Nat) (lanes : Mask) : LongWord :=
  if w.dests.getLsbD bit then { w with rewritten := w.rewritten.set bit (w.rewritten.get bit ||| lanes) } else w

/-- The lanes that a word's results write, register by register; a uniform register counts as lane 0. -/
def LongWord.wrote (w : LongWord) : List (Nat × Mask) :=
  w.results.map (fun x => (x.2.1, BitVec.ofNat 1024 (2 ^ x.1))) ++
    (match w.sdest with | some (n, _) => [(64 + n, 1)] | none => [])

/-- Write the results of a word: in a mask word of a register that has been written since the word's issue, either result may stay
(R47). -/
def State.writeResults (s : State) (t : Team) (w : LongWord) : Team :=
  let keep (bit lane : Nat) : Bool := (w.rewritten.get bit).getLsbD lane && s.choice 3 (bit * 32 + lane / 32)
  let r := w.results.foldl (fun r (x : Nat × Nat × W32) =>
    if keep x.2.1 x.1 then r else r.writeV x.2.1 x.1 x.2.2) t.regs
  let r := match w.sdest with
    | some (n, x) => if keep (64 + n) 0 then r else r.writeS n x
    | none => r
  { t with regs := r, words := t.words.map (fun v =>
      if v.id = w.id ∨ v.dests &&& w.dests = 0 then v else w.wrote.foldl (fun v x => v.rewrote x.1 x.2) v) }

/-- Words that a rollback waits for (R49): begun atomics, QPOP and MDRAIN, and, but at a save, a walk. -/
def LongWord.uncancellable (w : LongWord) (save : Bool) : Bool :=
  match w.kind with
  | .trace | .trres => !save
  | .qpop => true
  | _ => w.begun

/-! ### Rollback (R354) -/

/-- End the outstanding words that can be cancelled: each completes or is cancelled, as the hardware finds. -/
def State.endWords (s : State) (t : Team) : Team :=
  let t := t.words.foldl (fun t w =>
    if s.choice 4 w.id then s.writeResults t w else t) t
  { t with words := [], flags := .empty }

/-- Return a team to its seam. -/
def Team.toSeam (t : Team) : Team :=
  { t with flow := t.seam, hints := {}, wait := .none, stall := none, line := none, mon := none, wr := 0, rbw := 0, flags := .empty, words := [],
           finishing := false }

/-- What a save keeps of a walk that is outstanding (R349). -/
def Team.saveWalk (t : Team) : Team :=
  match t.words.find? (fun w => w.kind == .trace || w.kind == .trres) with
  | none => t
  | some w => { t with trav := { t.trav with
      lanes := t.trav.old,
      saved := some ⟨w.pc, w.word, w.mask, t.trav.lanes, w.parts, w.raw, w.err, w.errDetail⟩ } }

/-- Whether the word that the team issues has begun accesses that must be finished (R147, R246, R366). -/
def State.midAccess (s : State) (uid : Nat) : Bool :=
  let t := s.teams.get uid
  t.finishing || (match t.wait with
    | .access n => t.words.any (fun w => w.id == n && w.begun)
    | _ => false)

/-- Take the requests of a team that have not been accepted out of its core's miss tracker, and its places in the wait orders
(R269, R354). -/
def State.dropRequests (s : State) (uid : Nat) : State :=
  (s.leaveWaits uid).modCore (coreOf uid) (fun c =>
    { c with tracker := c.tracker.filter (fun r => !(r.uid == uid && (r.held || r.later))) })

/-- Roll a team back, or none while a word it must wait for is outstanding. -/
def State.rollback (s : State) (uid : Nat) (save : Bool) : Option State :=
  let t := s.teams.get uid
  if t.words.any (fun w => w.uncancellable save) || s.midAccess uid then none
  else
    let s := s.dropRequests uid
    some (s.putTeam uid { (s.endWords (if save then t.saveWalk else t)).toSeam with fail := none })

/-! ### Faults on pages that are not present (R172, R173, R363) -/

/-- The 32 bytes of a fault record. -/
def PendFault.bytes (f : PendFault) (ctx : Nat) : List Byte :=
  leBytes 8 f.va.toNat ++ leBytes 1 f.kind ++ leBytes 1 f.level ++ leBytes 2 ctx ++ leBytes 2 f.loc ++ leBytes 2 f.merged
    ++ leBytes 8 f.time.toNat ++ leBytes 8 0

/-- Write the record of a fault where the ring has room. -/
def State.writeFault (s : State) (ctx : Nat) (f : PendFault) : State × PendFault :=
  let ring := (s.ctxs.get ctx).cfg.faultRing
  if ring = 0 || s.ringFull ring then (s, f)
  else
    let tail := s.loadNum (ring + 4) 4
    ((s.ringPut ring (f.bytes ctx) 1).1, { f with written := some tail })

/-- Write the records that have waited for room in the ring, oldest first; one whose fault has been resolved is then done
with. -/
def State.flushFaults (s : State) (ctx : Nat) : State :=
  let (s1, l) := (s.ctxs.get ctx).faults.foldl (fun (acc : State × List PendFault) f =>
    if f.written.isSome then (acc.1, acc.2 ++ [f])
    else
      let (s1, f1) := acc.1.writeFault ctx f
      (s1, acc.2 ++ [f1])) (s, [])
  s1.modCtx ctx (fun c => { c with faults := l.filter (fun f => !(f.resolved && f.written.isSome)) })

/-- The 64 KiB region of an address. -/
def faultRegion (x : W64) : Nat := x.toNat / 65536

/-- Whether a record of an address's region is pending. -/
def State.faultPending (s : State) (ctx : Nat) (va : W64) : Bool :=
  (s.ctxs.get ctx).faults.any (fun f => faultRegion f.va == faultRegion va && !f.resolved)

/-- Report a NOTPRESENT fault: a new record for its 64 KiB region, or one more fault of a pending record. -/
def State.reportFault (s0 : State) (ctx : Nat) (va : W64) (kind level loc die : Nat) : State :=
  let s := s0.flushFaults ctx
  let c := s.ctxs.get ctx
  if s.faultPending ctx va then
    let mine (f : PendFault) : Bool := faultRegion f.va == faultRegion va && !f.resolved
    let bump (f : PendFault) : PendFault := if mine f && decide (f.merged < 65535) then { f with merged := f.merged + 1 } else f
    let s := s.putCtx ctx { c with faults := c.faults.map bump }
    c.faults.foldl (fun s f =>
      match (bump f).written with
      | some n => if mine f then
          s.homeNum (c.cfg.faultRing + 64 + 32 * (n % c.cfg.faultCap) + 14) 2 (bump f).merged else s
      | none => s) s
  else
    let f : PendFault := { va := va, kind := kind, level := level, loc := loc, time := BitVec.ofNat 64 (s.stampTime die) }
    let (s, f) := s.writeFault ctx f
    s.modCtx ctx (fun c => { c with faults := c.faults ++ [f] })

/-- A fault that holds engine work, or a write-back: it is reported, and merged into the record of its region where one is pending. -/
def State.holdFault (s : State) (ctx : Nat) (f : EFault) (uid : Nat) : State :=
  if f.cause = cNOTPRESENT then
    s.reportFault ctx f.addr (f.detail / 16) (f.detail % 16) (whereOf uid) (dieOf uid)
  else s

/-! ### Ending a grid (R359) -/

/-- Stop every team and every engine's work of a grid; the destination bytes of that work are unspecified. -/
def State.stopGrid (s : State) (grid : Nat) : State :=
  let mine (t : Team) : Bool := t.place.grid == grid && t.phase ≠ .unbound
  let uids := (s.teams.entries.filter (fun e => mine e.2)).map Prod.fst
  { s with
    teams := ⟨s.teams.entries.map (fun e => if mine e.2 then (e.1, { e.2 with phase := .stopped, stall := none }) else e)⟩,
    copies := ⟨s.copies.entries.map (fun e =>
      if e.2.gid = grid ∧ e.2.active then (e.1, { e.2 with abandoned := true }) else e)⟩,
    colls := ⟨s.colls.entries.map (fun e => if e.2.gid = grid then (e.1, { e.2 with abandoned := true }) else e)⟩,
    cores := ⟨s.cores.entries.map (fun e => (e.1, { e.2 with
      queues := ⟨e.2.queues.entries.map (fun q =>
        if q.2.wg / 2 ^ 32 = grid ∧ q.2.bound then (q.1, { q.2 with abandoned := true }) else q)⟩,
      slices := ⟨e.2.slices.entries.map (fun k => match k.2.owner with
        | some u => if uids.contains u then (k.1, ({} : Slice)) else k
        | none => k)⟩ }))⟩ }

/-! ### The trap record (R357) -/

/-- The 64 bytes of a trap record. -/
def State.trapRecord (s : State) (uid : Nat) (r : TrapReq) (resume : W64) (handler : Bool) : List Byte :=
  let t := s.teams.get uid
  let die := dieOf uid
  leBytes 8 r.pc.toNat ++ leBytes 8 resume.toNat ++ leBytes 8 r.addr.toNat ++ leBytes 1 r.cause ++ leBytes 1 r.detail
    ++ leBytes 2 r.lane ++ leBytes 4 r.word.toNat ++ leBytes 4 t.seamCnt.toNat
    ++ leBytes 3 (identOf uid t.place.gen).toNat
    ++ leBytes 1 (r.cls + (if t.trap.cont.isSome then 4 else 0) + (if handler then 8 else 0))
    ++ leBytes 4 r.aux.toNat ++ leBytes 4 (s.stampBound die) ++ leBytes 8 r.regions.toNat ++ leBytes 8 (s.stampTime die)

/-- A record as TRAPREC0 to TRAPREC7. -/
def recordWords (b : List Byte) : List W64 := (List.range 8).map (fun k => BitVec.ofNat 64 (fieldAt b (8 * k) 8))

/-- The copy of a trap record that goes to the trace (R401). -/
def State.traceTrap (s : State) (uid : Nat) (r : TrapReq) : State :=
  let t := s.teams.get uid
  if (s.ctxs.get t.place.ctx).dbgctl.getLsbD 1 then
    s.trace (dieOf uid) { kind := 4, loc := whereOf uid, data := BitVec.ofNat 32 r.cause, pc := r.pc, regions := r.regions,
                          payload := r.addr }
  else s

/-- End the grid of a team that no handler helps (R359). -/
def State.endGrid (s : State) (uid : Nat) (r : TrapReq) (handler : Bool) : State :=
  let t := s.teams.get uid
  let s1 := (s.ringPut (s.ctxs.get t.place.ctx).cfg.trapLog (s.trapRecord uid r t.flow.pos.pc handler) 2).1
  let s2 := s1.traceTrap uid r
  let s3 := s2.stopGrid t.place.grid
  s3.modGrid t.place.grid (fun g => if g.status = 0 then { g with status := 2, cause := r.cause } else g)

/-! ### Teams that may not issue (R365, R369), and homes out of reach (R414, R420) -/

/-- Whether a team of a running phase is held back: its workgroup waits for a group start, or its core is being saved. -/
def State.preempted (s : State) (uid : Nat) : Bool :=
  let t := s.teams.get uid
  (s.wgOf t).hold ||
  (match (s.ctxOf t).ladder with
   | .save cores _ _ => cores.contains (coreOf uid)
   | _ => false)

/-- The name of the shoreline link between two dies. (DEDUCED, log entry 50) -/
def linkOf (a b : Nat) : Nat × Nat := if a < b then (a, b) else (b, a)

/-- Whether a line's home cannot be reached from a die. -/
def State.beyond (s : State) (die line : Nat) : Bool :=
  if paModule line ≠ s.hub.modid then s.mod.routesDown.contains (paModule line)
  else !paHost line && s.mod.linksDown.contains (linkOf die (paDie line))

/-! ### Halts (R395) -/

/-- The halt record of a stopped team. -/
def State.haltRecord (s : State) (uid : Nat) : State :=
  let t := s.teams.get uid
  s.trace (dieOf uid) { kind := 5, loc := whereOf uid, pc := t.seam.pos.pc, regions := regionsOf t.flow }

/-- At a seam, a team of a halted context stops. -/
def State.haltAtSeam (s : State) (uid : Nat) : State :=
  let t := s.teams.get uid
  if (s.ctxs.get t.place.ctx).state = 2 ∧ t.phase = .running then
    (s.putTeam uid { t with phase := .halted }).haltRecord uid
  else s

/-! ### Taking a trap (R354 to R359, R362, R363) -/

/-- Make a team replayable: it waits for a residency signal (R363). -/
def State.makeReplayable (s : State) (uid : Nat) (kind level : Nat) (va : W64) : State :=
  let t := s.teams.get uid
  let s := s.putTeam uid { t with phase := .replay, stall := some 1,
                                  trap := { t.trap with fault := some (t.place.ctx, va) } }
  s.reportFault t.place.ctx va kind level (whereOf uid) (dieOf uid)

/-- Enter the handler or the continuation: the frame takes the resume point, the mask and the divergence stack; every
lane is active and the stack is empty; the entry is a seam (R358, R362). -/
def Team.enterAt (t : Team) (record : List Byte) (cause : Nat) (entry : W64) (handler : Bool) : Team :=
  let f : Frame := ⟨t.flow.pos, t.flow.active, t.flow.dstack, t.arrived⟩
  let trap := { t.trap with cause := cause, valid := true, record := recordWords record, pending := none,
                            handler := if handler then some f else t.trap.handler,
                            cont := if handler then t.trap.cont else some f }
  let t := { t with trap := trap, hints := {}, wait := .none, stall := none, line := none, finishing := false,
                    flow := { t.flow with pos := .atHeader entry, active := fullMask t.place.width, dstack := [] } }
  t.markSeam 0

/-- Take a trap at the place where the team now stands, its outstanding words dealt with. -/
def State.enterTrap (s : State) (uid : Nat) (r : TrapReq) : State :=
  let t := s.teams.get uid
  let h := BitVec.ofNat 64 (s.grids.get t.place.grid).launch.traph
  if r.cause = cNOTPRESENT then
    if (s.grids.get t.place.grid).launch.cont = 1 ∧ t.trap.contpc ≠ 0 ∧ t.trap.cont = none ∧ t.trap.handler = none then
      let rec0 := s.trapRecord uid r t.flow.pos.pc false
      let s1 := s.reportFault t.place.ctx r.addr (r.detail / 16) (r.detail % 16) (whereOf uid) (dieOf uid)
      let t1 := t.enterAt rec0 r.cause t.trap.contpc false
      let t2 := { t1 with trap := { t1.trap with contPending := true, resident := false, contFault := r.addr } }
      ((s1.putTeam uid t2).traceTrap uid r).haltAtSeam uid
    else s.makeReplayable uid (r.detail / 16) (r.detail % 16) r.addr
  else if h = 0 ∨ t.trap.handler.isSome then s.endGrid uid r t.trap.handler.isSome
  else match s.fetchWord uid h with
    | .error f =>
      let s := s.fetchFailed uid h f
      if f.cause = cNOTPRESENT then
        (s.putTeam uid { t with trap := { t.trap with pending := some r } }).makeReplayable uid (f.detail / 16) (f.detail % 16) h
      else s.endGrid uid { r with cause := f.cause, detail := f.detail, addr := h, cls := 0, lane := 0xFFFF, aux := 0 } true
    | .ok w =>
      if isHeader w then
        let t1 := t.enterAt (s.trapRecord uid r t.flow.pos.pc false) r.cause h true
        ((s.putTeam uid t1).traceTrap uid r).haltAtSeam uid
      else s.endGrid uid { r with cause := cILLEGAL, detail := 0x09, addr := h, cls := 0, lane := 0xFFFF, aux := 0 } true

/-- THE ONE OPERATION THAT TAKES A TRAP. A trap of the rollback class first returns the team to its seam, once the
words it must wait for have completed, and so does a stop of R343, taken at the seam of its word's completion; a trap in
place waits for every outstanding word; a firing is taken at the seam where the team stands (R355). While the trap waits, the team issues nothing (R354). -/
def State.takeTrap (s : State) (uid : Nat) (r : TrapReq) : State :=
  let t := s.teams.get uid
  let wait (s : State) : State :=
    s.modTeam uid (fun t => { t with trap := { t.trap with pending := some r }, stall := some 3 })
  let clear (s : State) : State := s.modTeam uid (fun t => { t with trap := { t.trap with pending := none } })
  if r.cls = 0 ∨ (r.cls = 2 ∧ r.cause ≠ cWATCH) then
    match s.rollback uid false with
    | some s1 => (clear s1).enterTrap uid r
    | none => wait s
  else if r.cls = 1 then
    if t.words = [] then (clear s).enterTrap uid r else wait s
  else (clear s).enterTrap uid r

/-- What follows the marking of a seam: a firing reported to the team traps there, and a team of a halted context
stops there (R395, R399). -/
def State.afterSeam (s : State) (uid : Nat) : State :=
  let t := s.teams.get uid
  match t.trap.watch with
  | some r => (s.putTeam uid { t with trap := { t.trap with watch := none } }).takeTrap uid r
  | none => s.haltAtSeam uid

/-! ### Returning from a trap (R361) -/

/-- Continue at the resume point of a frame. -/
def Team.restoreFrame (t : Team) (f : Frame) : Team :=
  { t with flow := { t.flow with pos := f.pos, active := f.active, dstack := f.dstack }, hints := {}, wait := .none,
           stall := none, line := none, arrived := f.arrived }

/-- Act on the innermost frame; none while a continuation waits for its page. -/
def Team.returnFromTrap (t : Team) : Option Team :=
  match t.trap.handler with
  | some f => some ({ t with trap := { t.trap with handler := none } }.restoreFrame f)
  | none =>
    match t.trap.cont with
    | some f =>
      if t.trap.resident then
        some ({ t with trap := { t.trap with cont := none, contPending := false, resident := false } }.restoreFrame f)
      else none
    | none => some t.advance

/-! ### The checks before a word's effect (R36, R41, R44, R50 to R55, R65 to R67) -/

/-- The word of an instruction, or of no instruction. -/
def wordBits : Instr → W32
  | .wordNotAnInstruction w => w
  | i => i.word

/-- The third source of a word under its hints (R54). -/
def thirdOf (f : Info) (h : Hints) : Option Use :=
  match f.third with
  | none => none
  | some (u, _) =>
    match h.src3 with
    | none => some u
    | some (c, r) => if c = 0 then some ⟨.v, r.toNat, u.cnt⟩ else if c = 1 then some ⟨.s, r.toNat, 1⟩ else some ⟨.a, r.toNat, 1⟩

/-- Whether the hints before a word apply to it (R50 to R55). -/
def hintsApply (f : Info) (h : Hints) : Bool :=
  (h.imms.isEmpty || f.imm.isSome) && (h.sched.isNone || !f.noSched) &&
  (match h.modh with
   | none => true
   | some m =>
     !f.noMod && (m.cache = 0 || f.cache) && !(m.cache = 2 && f.streaming) && (m.ftz = 0 || f.ftz) && (m.sat = 0 || f.sat ≠ .no) &&
     ((m.rmen = 0 && m.rm = 0) || f.rm)) &&
  (match h.src3 with
   | none => true
   | some (c, _) => match f.third with
     | none => false
     | some (_, l) => l.contains (if c = 0 then .v else if c = 1 then .s else .a)) &&
  (match h.guard with
   | none => true
   | some _ => f.guard = some 1)

/-- Whether a hint word repeats a kind of its run (R50). -/
def hintRepeats (i : Instr) (h : Hints) : Bool :=
  match i with
  | .hintImm _ => decide (2 ≤ h.imms.length)
  | .hintSched _ _ _ _ => h.sched.isSome
  | .hintMod _ _ _ _ _ => h.modh.isSome
  | .hintSrc3 _ _ => h.src3.isSome
  | .hintGuard _ _ => h.guard.isSome
  | _ => false

/-- An immediate of n own bits under its IMM hints (R51). -/
def immValue (n : Nat) (signed : Bool) (own : Nat) (l : List (BitVec 22)) : W64 :=
  let raw := (l.foldl (fun x p => x * 2 ^ 22 + p.toNat) 0) * 2 ^ n + own
  let w := n + 22 * l.length
  if signed && decide (2 ^ (w - 1) ≤ raw) then BitVec.ofInt 64 ((raw : Int) - 2 ^ w) else BitVec.ofNat 64 raw

/-- The immediate of a word. -/
def immOf (f : Info) (h : Hints) : W64 :=
  match f.imm with
  | some (n, sg) => immValue n sg f.own h.imms
  | none => 0

/-- The flag a long-latency word chooses (R44). -/
def flagOf (f : Info) (p : ClausePos) : Option Nat :=
  match f.fs with
  | none => none
  | some b => some ((if b = 0 then p.setA else p.setB).toNat)

/-- The details of R66 that depend on the word's place, its hints, the header and the accepted features. -/
def contextDetails (i : Instr) (f : Info) (t : Team) (feature : Nat → Bool) : List Nat :=
  let p := t.flow.pos
  let h := t.hints
  (match f.feature with | some n => if feature n then [] else [0x02] | none => []) ++
  (if f.header then (if p.left = 0 then [] else [0x08]) else if p.left = 0 then [0x08] else []) ++
  (if f.last && p.left ≠ 1 then [0x08] else []) ++
  (if f.hint then (if p.left = 1 || hintRepeats i h then [0x0A] else [])
   else if f.header then [] else if hintsApply f h then [] else [0x0A]) ++
  (match flagOf f p with | some n => if 11 < n then [0x0B] else [] | none => []) ++
  (match f.immMax with | some m => if m < (immOf f h).toNat then [0x04] else [] | none => []) ++
  (match h.modh with | some m => if m.sat = 1 && f.sat = .badType then [0x07] else [] | none => []) ++
  (match h.src3, thirdOf f h with
   | some _, some u => (if u.cls = .v && u.num % u.cnt ≠ 0 then [0x06] else []) ++
       (if u.cls.size t.place.vregs < u.num + u.cnt then [0x05] else [])
   | _, _ => [])

/-- Every detail code that a word fails where it stands. -/
def State.details (s : State) (i : Instr) : List Nat :=
  let t := s.team
  match i with
  | .wordNotAnInstruction w =>
    let m := (w.extractLsb' 26 6).toNat
    wordDetails t.place.vregs w ++ (match lookup w with
      | some r => contextDetails r.ins (info r.ins) t s.feature
      | none => (if (m = 0x38 ∨ m = 0x39) ∧ !s.feature 3 then [0x02] else []) ++ [0x03])
  | _ => (info i).details t.place.vregs ++ contextDetails i (info i) t s.feature

/-- The lowest code of a list. -/
def lowest : List Nat → Option Nat
  | [] => none
  | a :: r => match lowest r with
    | none => some a
    | some b => some (if a < b then a else b)

/-! ### The region contract and the hazard check (R48, R352, R353) -/

/-- The guard register of a word whose G bit is 1 (R16, R55). -/
def guardOf (h : Hints) : Nat × Bool :=
  match h.guard with
  | some (inv, m) => (m.toNat, inv = 1)
  | none => (0, false)

/-- The registers a word reads. -/
def readSet (f : Info) (h : Hints) : RegSet :=
  useSet f.reads ||| (match thirdOf f h with | some u => u.set | none => 0) |||
    (if f.guard = some 1 then Use.set ⟨.m, (guardOf h).1, 1⟩ else 0)

/-- The class and number of the lowest register of a set, as AUX gives them. -/
def auxOf (x : RegSet) : W32 :=
  match (List.range 172).find? (fun b => x.getLsbD b) with
  | none => 0
  | some b =>
    let c : RC := if b < 64 then .v else if b < 128 then .s else if b < 160 then .a else if b < 168 then .m else .i
    BitVec.ofNat 32 (c.code * 256 + (b - c.base))

/-! ### A word as its effect sees it -/

/-- A word with what its effect reads: its registers, its hints, its immediate and its effective mask. -/
structure Wd where
  ins : Instr
  f : Info
  h : Hints
  r : Regs
  pc : W64
  active : Mask
  mask : Mask
  imm : W64
  width : Nat
  /-- what the team waited in when it began to issue the word, or went on with it -/
  wait : Wait := .none

/-- The word that the current team issues. -/
def State.wd (s : State) (i : Instr) : Wd :=
  let t := s.team
  let f := info i
  let r := s.seen t
  let g := guardOf t.hints
  let gm := r.readM g.1
  let m := if f.guard = some 1 then t.flow.active &&& (if g.2 then ~~~gm else gm) else t.flow.active
  { ins := i, f := f, h := t.hints, r := r, pc := t.flow.pos.pc, active := t.flow.active, mask := m, imm := immOf f t.hints,
    width := t.place.width, wait := t.wait }

/-- The trap a word asks for. -/
def Wd.trap (w : Wd) (s : State) (cause : Nat) (detail : Nat := 0) (addr : W64 := 0) (lane : Nat := 0xFFFF)
    (aux : W32 := 0) (cls : Nat := 0) : TrapReq :=
  { cause := cause, detail := detail, addr := addr, lane := lane, word := wordBits w.ins, pc := w.pc, aux := aux, cls := cls,
    regions := regionsOf s.team.flow }

/-- What a word's effect leads to. -/
inductive Eff where
  /-- the next word follows -/
  | next (s : State)
  /-- the next word follows, after a seam that `dests` open -/
  | seam (s : State) (dests : RegSet)
  /-- a seam, and then a trap in place (R396) -/
  | seamTrap (s : State) (r : TrapReq)
  /-- a transfer: what happens when the target is a clause header -/
  | go (target : W64) (after : Except TrapReq State)
  /-- the word waits, for a reason of R270, or for one that leaves its team eligible (`noReason`), and issues no
  other -/
  | hold (s : State) (reason : Nat)
  | trap (s : State) (r : TrapReq)
  /-- the effect has placed the team itself -/
  | placed (s : State)
  /-- the effect has placed the team itself, at a seam -/
  | placedSeam (s : State)

/-- A wait for a result of the team's own, or for a unit of its core: the team stays eligible (R30, R270). -/
def noReason : Nat := 11

/-- Record the reason that holds the current team. -/
def State.stalled (s : State) (reason : Nat) : State :=
  s.setTeam { s.team with stall := if reason < noReason then some reason else none }

/-- The sets of R352 after a word, what an interlocked word has written with its lanes, the number of the next word when it issued,
and the clocks for which its issue takes the port. -/
structure Sets where
  wr : RegSet
  rbw : RegSet
  writes : RegSet
  lanes : Mask
  upto : Nat
  clocks : Nat

/-- Note what a word has written, for the sets of its region and for the outstanding words it overtakes (R47, R352). -/
def Team.note (t : Team) (k : Sets) : Team :=
  { t with wr := k.wr, rbw := k.rbw, words := t.words.map (fun v =>
      if v.seq < k.upto ∧ v.dests &&& k.writes ≠ 0 then
        ((List.range 172).filter (fun b => k.writes.getLsbD b)).foldl (fun v b => v.rewrote b (if b < 64 then k.lanes else 1)) v
      else v) }

/-- Move the current team past its word, which has issued. -/
def State.finish (s : State) (k : Sets) : State := (s.setTeam (s.team.advance.note k)).issued s.cur k.clocks

/-- Transfer the current team to a header: its word has issued. -/
def State.transfer (s : State) (target : W64) (k : Sets) : State :=
  (s.setTeam ((s.team.jump target).note k)).issued s.cur k.clocks

/-- Mark a seam for the current team where it stands. -/
def State.seamHere (s : State) (dests : RegSet) : State :=
  (s.setTeam (s.team.markSeam dests)).afterSeam s.cur

/-- The checks that a transfer makes of its target, which come before CONTRACT and HAZARD: ILLEGAL where a register holds no address of a
word, the fault of its fetch, or ILLEGAL where it is no clause header (R36, R67, R68, R82). -/
def State.targetFault (s : State) (w : Wd) : Eff → Option (EFault × TrapReq)
  | .go target _ =>
    if w.f.last = false then none
    else (match s.fetchWord s.cur target with
      | .error f => some (f, w.trap s f.cause f.detail target)
      | .ok x => if isHeader x then none else some (⟨cILLEGAL, 0x09, target⟩, w.trap s cILLEGAL 0x09 target))
  | .trap _ r => if w.f.last && r.cause == cILLEGAL then some (⟨cILLEGAL, r.detail, r.addr⟩, r) else none
  | _ => none

/-- Complete a word's effect. A word that waits has issued where it has begun to wait for something. -/
def State.settle (s0 : State) (w : Wd) (k : Sets) : Eff → State
  | .next s => s.finish k
  | .seam s d => (s.finish k).seamHere d
  | .seamTrap s r =>
    let s1 := s.finish k
    (s1.setTeam (s1.team.markSeam 0)).takeTrap s1.cur r
  | .go target after =>
    match after with
    | .error r => s0.takeTrap s0.cur r
    | .ok s => s.transfer target k
  | .hold s reason => let s1 := s.stalled reason; if s1.team.wait = w.wait then s1 else s1.issued s1.cur k.clocks
  | .trap s r => if r.cls = 1 then (s.finish k).takeTrap s.cur r else s.takeTrap s.cur r
  | .placed s => s
  | .placedSeam s => s.seamHere 0

/-- The clocks for which one pass of a word takes its port (R19). -/
def passClocks : Instr → Nat
  | .vmul _ _ _ _ _ _ | .vmulh _ _ _ _ _ _ | .vmad _ _ _ _ _ _ => 2
  | .vadd _ _ _ _ _ t | .vsub _ _ _ _ _ t | .vsadd _ _ _ _ _ t | .vssub _ _ _ _ _ t | .vabsd _ _ _ _ _ t | .vand _ _ _ _ _ t
  | .vor _ _ _ _ _ t | .vxor _ _ _ _ _ t | .vandn _ _ _ _ _ t | .vshl _ _ _ _ _ t | .vshr _ _ _ _ _ t | .vsar _ _ _ _ _ t
  | .vrot _ _ _ _ _ t | .vmin _ _ _ _ _ t | .vmax _ _ _ _ _ t | .vsel _ _ _ _ _ t | .vmov _ _ _ _ t | .vclz _ _ _ t
  | .vpop _ _ _ t | .vbrev _ _ _ t | .vbfe _ _ _ _ _ t | .vbfi _ _ _ _ _ t | .vcmp _ _ _ _ _ _ t => if intCnt t = 2 then 2 else 1
  | .vcvti _ _ s _ t => if intCnt t = 2 ∨ intCnt s = 2 then 2 else 1
  | .fadd _ _ _ _ _ t | .fsub _ _ _ _ _ t | .fmul _ _ _ _ _ t | .ffma _ _ _ _ _ t | .fmin _ _ _ _ _ t | .fmax _ _ _ _ _ t
  | .fcpsgn _ _ _ _ _ t | .frnd _ _ _ t | .fcmp _ _ _ _ _ _ t | .fclass _ _ _ t => if t = 3 then 4 else 1
  | .fcvt _ _ s _ t => if t = 3 ∨ s = 3 then 4 else 1
  | .cvti _ _ s _ t => if s = 3 then 4 else if intCnt t = 2 then 2 else 1
  | .cvtf _ _ s _ t => if t = 3 then 4 else if intCnt s = 2 then 2 else 1
  | .frcp _ _ _ _ | .frsq _ _ _ _ | .fexp2 _ _ _ _ | .flog2 _ _ _ _ | .fsin _ _ _ _ | .fcos _ _ _ _ => 4
  | .fdiv _ _ _ _ _ t | .fsqrt _ _ _ t => if t = 3 then 16 else 8
  | .vdiv _ _ _ _ _ t => if intCnt t = 2 then 16 else 8
  | _ => 1

/-- The clocks for which the issue of a word takes its port: those of its passes, one for a uniform word, none for a header; a memory
word, which issues pass by pass, and a word that goes on take one (R17 to R20). -/
def Wd.clocks (w : Wd) : Nat :=
  if w.f.header then 0
  else if w.f.vector ∧ !w.f.cache ∧ w.wait = .none then (if w.mask = 0 then 1 else (passesOf w.mask).length * passClocks w.ins)
  else 1

/-- The lowest register of a set whose data is uncorrectable, by its bit (R191). -/
def State.badReg (s : State) (uid : Nat) (x : RegSet) : Option Nat :=
  if s.bad.entries.isEmpty then none else (List.range 172).find? (fun b => x.getLsbD b && s.bad.get (regKey uid b))

/-- EVERY WORD RUNS THROUGH THIS: the checks of ILLEGAL, those of a transfer's target, the region contract, the hazard check, the
registers that it reads, then the word's own effect (R37, R67, R191, R352). (DEDUCED, log entry 55) -/
def State.runWord (s0 : State) (i : Instr) (eff : Wd → State → Eff) : Out :=
  let s := s0.begin_
  let t := s.team
  let w := s.wd i
  let die := dieOf s.cur
  let reads := readSet w.f w.h
  let writes := useSet w.f.writes
  let rbw := t.rbw ||| (reads &&& ~~~t.wr)
  let e := eff w s
  match lowest (s.details i) with
  | some d => .next ((s.takeTrap s.cur (w.trap s cILLEGAL d)).tick die)
  | none => match s.targetFault w e with
    | some (f, r) => .next (((s.fetchFailed s.cur r.addr f).takeTrap s.cur r).tick die)
    | none =>
      if writes &&& rbw ≠ 0 then
        .next ((s.takeTrap s.cur (w.trap s cCONTRACT 0 0 0xFFFF (auxOf (writes &&& rbw)))).tick die)
      else if t.wait = .none ∧ (s.ctxOf t).cfg.hazard ∧ ((reads ||| writes ||| useSet w.f.seamWrites) &&& t.pendingRegs) ≠ 0 then
        .next ((s.takeTrap s.cur (w.trap s cHAZARD)).tick die)
      else match s.badReg s.cur reads with
        | some b =>
          let s1 := (s.errRecord 0 4 die (some s.cur) (some t.place.ctx)).mended (regKey s.cur b)
          .next ((s1.takeTrap s1.cur (w.trap s1 cMEMERR)).tick die)
        | none =>
          let held : Bool := match flagOf w.f t.flow.pos with | some n => t.flags.get n == 63 | none => false
          let upto := match t.wait with
            | .access id => (match t.words.find? (fun v => v.id == id) with | some v => v.seq | none => t.nextSeq)
            | _ => t.nextSeq
          let k : Sets := ⟨t.wr ||| writes, rbw, if w.f.fs.isSome then 0 else writes, w.mask, upto, w.clocks⟩
          if t.wait = .none ∧ held then .next ((s.stalled 4).tick die)
          else .next ((s.settle w k e).tick die)

/-- A step of the device, its firmware or its host. (DESIGN CHOICE, log entry 13) -/
def State.event (s : State) (f : State → State) : Out := .next (f s.begin_)

end Sys2Proof.Machine
end

