-- ==== Sys2Proof/Machine/EngineForm.lean ====
section
/-! DEFINITION. What a stream program and a collective's descriptor say, and the destination lines that their work has still
to write (R210, R319, R321, R416). -/

namespace Sys2Proof.Machine

/-! ### Stream programs (R319, R321) -/

/-- The fields of a stream program. -/
structure StreamProg where
  src : W64
  dst : W64
  cnt : List Nat
  sst : List Int
  dstr : List Int
  nelem : Nat
  stages : Nat
  outfmt : Nat
  out : Nat
  esize : Nat
  exmode : Nat
  dictfmt : Nat
  trr : Nat
  trc : Nat
  keyslot : Nat
  dkind : Nat
  /-- the bytes marked 0 -/
  zeros : Nat
  nonce : List Byte
  seed : W32
  dict : W64
  crcaddr : W64

/-- A signed 32-bit field. -/
def intAt (l : List Byte) (a : Nat) : Int := (BitVec.ofNat 32 (fieldAt l a 4)).toInt

/-- Read a program. -/
def streamProg (l : List Byte) : StreamProg :=
  { src := BitVec.ofNat 64 (fieldAt l 0 8), dst := BitVec.ofNat 64 (fieldAt l 8 8),
    cnt := (List.range 4).map (fun k => fieldAt l (16 + 4 * k) 4), sst := (List.range 4).map (fun k => intAt l (32 + 4 * k)),
    dstr := (List.range 4).map (fun k => intAt l (48 + 4 * k)), nelem := fieldAt l 64 4, stages := fieldAt l 68 1,
    outfmt := fieldAt l 69 1, out := fieldAt l 70 1, esize := fieldAt l 71 1, exmode := fieldAt l 72 1,
    dictfmt := fieldAt l 73 1, trr := fieldAt l 74 1, trc := fieldAt l 75 1, keyslot := fieldAt l 76 1,
    dkind := fieldAt l 77 1, zeros := fieldAt l 78 2 + fieldAt l 112 16, nonce := (l.drop 80).take 12,
    seed := BitVec.ofNat 32 (fieldAt l 92 4), dict := BitVec.ofNat 64 (fieldAt l 96 8),
    crcaddr := BitVec.ofNat 64 (fieldAt l 104 8) }

/-- The stages, and the modes of the expand stage. -/
def StreamProg.on (p : StreamProg) (k : Nat) : Bool := p.stages.testBit k
def StreamProg.delta (p : StreamProg) : Bool := p.on 2 && p.exmode % 4 == 1
def StreamProg.dictMode (p : StreamProg) : Bool := p.on 2 && p.exmode % 4 == 0

/-- The elements emitted. -/
def StreamProg.n (p : StreamProg) : Nat :=
  let all := p.cnt.foldl (· * ·) 1
  if p.nelem < all then p.nelem else all

/-- The position that strides give an index. -/
def strided : List Nat → List Int → Nat → Int
  | c :: cs, d :: ds, j => ((j % c : Nat) : Int) * d + strided cs ds (j / c)
  | _, _, _ => 0

/-- The input element that output element e carries. -/
def StreamProg.input (p : StreamProg) (e : Nat) : Nat :=
  if p.on 4 then
    let t := p.trr * p.trc
    let r := e % t
    e / t * t + (r % p.trr) * p.trc + r / p.trr
  else e

/-- Where a scatter writes output element e. -/
def StreamProg.dstOf (p : StreamProg) (e : Nat) : W64 := p.dst + BitVec.ofInt 64 (strided p.cnt p.dstr e)

/-- Whether output elements of a stream fall on a destination line that it has still to write. -/
def Queue.writes (q : Queue) (line : Nat) : Bool :=
  let p := streamProg q.prog
  q.bound && p.on 7 && q.stop.isNone && !q.doneLines.contains line &&
  (List.range p.n).any (fun e => overlap (128 * line) 128 (p.dstOf e).toNat (q.ebits / 8))

/-- The virtual lines that a stream has still to write: those of its scatter, and that of its checksum (R210, R322). -/
def Queue.linesLeft (q : Queue) : List Nat :=
  let p := streamProg q.prog
  if !q.bound || q.stop.isSome || q.ended then []
  else
    (if p.on 7 && p.dkind == 0 then
      ((List.range p.n).flatMap (fun e => [(p.dstOf e).toNat / 128, ((p.dstOf e).toNat + q.ebits / 8 - 1) / 128])).eraseDups.filter
        (fun l => !q.doneLines.contains l)
     else []) ++ (if p.on 6 then [p.crcaddr.toNat / 128] else [])

/-- The same for a line of the stash. -/
def Queue.ownsStash (q : Queue) (owner off : Nat) : Bool :=
  q.owner == owner && (streamProg q.prog).dkind == 1 && q.writes (off / 128)

/-! ### Collectives (R416) -/

/-- The addresses of a collective's descriptor. -/
def Coll.src (c : Coll) : W64 := BitVec.ofNat 64 (fieldAt c.desc 0 8)
def Coll.dst (c : Coll) : W64 := BitVec.ofNat 64 (fieldAt c.desc 8 8)
def Coll.res (c : Coll) : W64 := BitVec.ofNat 64 (fieldAt c.desc 16 8)

/-- The virtual lines that a collective has still to write (R210). -/
def Coll.linesLeft (c : Coll) : List Nat :=
  let range (va n : Nat) : List Nat :=
    if n = 0 then [] else (List.range ((va + n - 1) / 128 - va / 128 + 1)).map (fun k => va / 128 + k)
  if c.status == 1 && c.stop.isNone then
    (match c.todo with | some l => l.map (fun x => x.1 / 128) | none => range c.dst.toNat c.dstLen) ++ range c.res.toNat c.resLen
  else []

end Sys2Proof.Machine
end

