-- ==== Sys2Proof/Machine/Operands.lean ====
section
/-! DEFINITION. The operand forms of scalar, affine and vector words: what a field names, how an operand is cut to its
type, and how a result is written (R39, R51, R69, R70, R76, R103 to R106, R114 to R117). -/

namespace Sys2Proof.Machine

/-! ### Integer types (R69, R103, R106) -/

/-- The width of an element. -/
def tyWidth (t : BitVec 3) : Nat := if t = 2 ∨ t = 3 ∨ t = 7 then 64 else if t = 4 ∨ t = 5 then 16 else 32

/-- Whether the order of a type is signed. -/
def tySigned (t : BitVec 3) : Bool := t = 0 || t = 2 || t = 4

/-- A value in the order of a type. -/
def ordered (sg : Bool) (wd x : Nat) : Int := if sg then signedOf wd x else x

/-- A number reduced to a width. -/
def wrap (wd : Nat) (i : Int) : Nat := (i % (2 ^ wd : Nat)).toNat

/-- A number clamped to the range of a type. -/
def clampTo (sg : Bool) (wd : Nat) (i : Int) : Nat :=
  let lo : Int := if sg then -(2 ^ (wd - 1)) else 0
  let hi : Int := if sg then 2 ^ (wd - 1) - 1 else 2 ^ wd - 1
  wrap wd (if i < lo then lo else if hi < i then hi else i)

/-- Quotient and remainder (R72). -/
def divRules (sg : Bool) (wd x y : Nat) : Nat × Nat :=
  if y = 0 then (2 ^ wd - 1, x)
  else if sg && x = 2 ^ (wd - 1) && y = 2 ^ wd - 1 then (x, 0)
  else (wrap wd (Int.tdiv (ordered sg wd x) (ordered sg wd y)), wrap wd (Int.tmod (ordered sg wd x) (ordered sg wd y)))

/-- The high half of a product, in the order of the type. -/
def mulHigh (sg : Bool) (wd x y : Nat) : Nat := wrap wd ((ordered sg wd x * ordered sg wd y) / (2 ^ wd : Nat))

/-- Shifts take their count modulo the width. -/
def shiftL (wd x y : Nat) : Nat := (x * 2 ^ (y % wd)) % 2 ^ wd
def shiftR (wd x y : Nat) : Nat := x / 2 ^ (y % wd)
def shiftA (wd x y : Nat) : Nat := wrap wd (signedOf wd x / (2 ^ (y % wd) : Nat))
def rotL (wd x y : Nat) : Nat := (x * 2 ^ (y % wd)) % 2 ^ wd + x / 2 ^ (wd - y % wd)

/-- The lesser and the greater in the order of a type. -/
def lesser (sg : Bool) (wd x y : Nat) : Nat := if ordered sg wd x ≤ ordered sg wd y then x else y
def greater (sg : Bool) (wd x y : Nat) : Nat := if ordered sg wd x ≤ ordered sg wd y then y else x

/-- Bits that are set, leading zeros, and bits in reverse. -/
def popBits (wd x : Nat) : Nat := ((List.range wd).filter (fun i => x.testBit i)).length
def leadZeros (wd x : Nat) : Nat := if x = 0 then wd else wd - 1 - x.log2
def revBits (wd x : Nat) : Nat := (List.range wd).foldl (fun r i => if x.testBit i then r + 2 ^ (wd - 1 - i) else r) 0

/-! ### Scalar operands (R69, R70) -/

/-- The B operand of a scalar word. -/
def Wd.scalarB (w : Wd) (b : BitVec 6) (k : BitVec 2) : W64 := if k = 1 then w.r.readS b.toNat else w.imm

/-- A result extended to 64 bits as TY gives. -/
def scalarExt (t : BitVec 3) (x : Nat) : W64 := if t = 0 then BitVec.ofInt 64 (signedOf 32 x) else BitVec.ofNat 64 x

/-- Whether the SAT bit of a HINT.MOD is set. -/
def Wd.sat (w : Wd) : Bool := match w.h.modh with | some m => m.sat = 1 | none => false

/-- A scalar word of majors 0x0A to 0x0D: `op` takes the width, whether the order is signed, and the two operands. -/
def Wd.scalar (w : Wd) (s : State) (d a b : BitVec 6) (k : BitVec 2) (t : BitVec 3)
    (op : Nat → Bool → Nat → Nat → Nat) : Eff :=
  let wd := tyWidth t
  let x := (w.r.readS a.toNat).toNat % 2 ^ wd
  let y := (w.scalarB b k).toNat % 2 ^ wd
  .next (s.withRegs (fun r => r.writeS d.toNat (scalarExt t (op wd (tySigned t) x y))))

/-! ### Vector operands (R103, R104) -/

/-- A v-register, or an even/odd pair, in one lane. -/
def Wd.vec (w : Wd) (n cnt l : Nat) : W64 := if cnt = 2 then w.r.readV64 n l else (w.r.readV n l).setWidth 64

/-- The B operand in one lane. -/
def Wd.vecB (w : Wd) (b : BitVec 6) (k : BitVec 2) (cnt l : Nat) : W64 :=
  if k = 0 then w.vec b.toNat cnt l
  else if k = 1 then w.r.readS b.toNat
  else if k = 2 then w.r.aLane b.toNat l
  else w.imm

/-- The third source in one lane. -/
def Wd.third (w : Wd) (l : Nat) : W64 :=
  match thirdOf w.f w.h with
  | none => 0
  | some u => match u.cls with
    | .s => w.r.readS u.num
    | .a => w.r.aLane u.num l
    | _ => w.vec u.num u.cnt l

/-- Half h of a packed value; an immediate gives its low 16 bits to both halves. -/
def half (x : W64) (h : Nat) : Nat := (x.toNat / 2 ^ (16 * h)) % 65536

/-- An element operation on one lane: `op` takes the width and the operands. -/
def liftInt (t : BitVec 3) (imm : Bool) (op : Nat → Nat → Nat → Nat → Nat) (x y c : W64) : W64 :=
  let wd := tyWidth t
  if wd = 16 then
    BitVec.ofNat 64 (op 16 (half x 0) (half y 0) (half c 0)
      + 65536 * op 16 (half x 1) (if imm then half y 0 else half y 1) (half c 1))
  else BitVec.ofNat 64 (op wd (x.toNat % 2 ^ wd) (y.toNat % 2 ^ wd) (c.toNat % 2 ^ wd))

/-- Write a value to a register, or a pair, in one lane. -/
def Regs.writeVec (r : Regs) (n cnt l : Nat) (x : W64) : Regs :=
  if cnt = 2 then r.writeV64 n l x else r.writeV n l (x.extractLsb' 0 32)

/-- Write the lanes of a mask. -/
def Regs.writeLanes (r : Regs) (n cnt : Nat) (g : Nat → W64) : List Nat → Regs
  | [] => r
  | l :: ls => (r.writeVec n cnt l (g l)).writeLanes n cnt g ls

/-- The lanes of the effective mask. -/
def Wd.lanes (w : Wd) : List Nat := lanesOf w.width w.mask

/-- Write a vector result in the lanes of the effective mask (R105). -/
def Wd.putVec (w : Wd) (s : State) (d : BitVec 6) (cnt : Nat) (g : Nat → W64) : State :=
  s.withRegs (fun r => r.writeLanes d.toNat cnt g w.lanes)

/-- An integer word of two operands and, where it has one, a third source. -/
def Wd.intWord (w : Wd) (s : State) (d a b : BitVec 6) (k : BitVec 2) (t : BitVec 3)
    (op : Nat → Nat → Nat → Nat → Nat) : Eff :=
  let n := intCnt t
  .next (w.putVec s d n (fun l => liftInt t (k = 3) op (w.vec a.toNat n l) (w.vecB b k n l) (w.third l)))

/-- An integer word of one operand. -/
def Wd.intWord1 (w : Wd) (s : State) (d a : BitVec 6) (t : BitVec 3) (op : Nat → Nat → Nat) : Eff :=
  let n := intCnt t
  .next (w.putVec s d n (fun l => liftInt t false (fun wd x _ _ => op wd x) (w.vec a.toNat n l) 0 0))

/-! ### Float operands (R114 to R117) -/

/-- The format of a float type. -/
def fltFmt (t : BitVec 3) : FFmt := if t = 0 then f32 else if t = 1 then f16 else if t = 2 then bf16 else f64

/-- The effective rounding mode (R114). -/
def Wd.rm (w : Wd) (s : State) : BitVec 2 :=
  match w.h.modh with
  | some m => if m.rmen = 1 then m.rm else s.team.sys.status.extractLsb' 0 2
  | none => s.team.sys.status.extractLsb' 0 2

/-- Whether flushing is in effect. -/
def Wd.ftz (w : Wd) (s : State) : Bool :=
  s.team.sys.status.getLsbD 2 || (match w.h.modh with | some m => m.ftz = 1 | none => false)

/-- Set sticky flags of STATUS (R97, R116). -/
def State.raiseFlags (s : State) (f : FFlags) : State :=
  let t := s.team
  s.setTeam { t with sys := { t.sys with status := t.sys.status ||| (f.setWidth 64 <<< 5) } }

/-- An element operation on one lane, with the flags of its elements. -/
def liftFlt (t : BitVec 3) (op : FFmt → Nat → Nat → Nat → FRes) (x y c : W64) : W64 × FFlags :=
  let f := fltFmt t
  if f.width = 16 then
    let a := op f (half x 0) (half y 0) (half c 0)
    let b := op f (half x 1) (half y 1) (half c 1)
    (BitVec.ofNat 64 (a.1 + 65536 * b.1), a.2 ||| b.2)
  else
    let n := 2 ^ f.width
    let a := op f (x.toNat % n) (y.toNat % n) (c.toNat % n)
    (BitVec.ofNat 64 a.1, a.2)

/-- The B operand of a float word: an immediate is converted by RNE, without flags, and serves both halves (R117). -/
def Wd.fltB (w : Wd) (b : BitVec 6) (k : BitVec 2) (t : BitVec 3) (l : Nat) : W64 :=
  if k = 3 then
    let v := ((fltFmt t).ofInt 0 false w.imm.toInt).1
    if (fltFmt t).width = 16 then BitVec.ofNat 64 (v + 65536 * v) else BitVec.ofNat 64 v
  else w.vecB b k (fltCnt t) l

/-- Write float results in the lanes of the effective mask and set the flags they raise. -/
def Wd.putFlt (w : Wd) (s : State) (d : BitVec 6) (cnt : Nat) (g : Nat → W64 × FFlags) : State :=
  (w.putVec s d cnt (fun l => (g l).1)).raiseFlags (w.lanes.foldl (fun f l => f ||| (g l).2) 0)

/-- A float word: `op` takes the format and the operands. -/
def Wd.fltWord (w : Wd) (s : State) (d a b : BitVec 6) (k : BitVec 2) (t : BitVec 3)
    (op : FFmt → Nat → Nat → Nat → FRes) : Eff :=
  let n := fltCnt t
  .next (w.putFlt s d n (fun l => liftFlt t op (w.vec a.toNat n l) (w.fltB b k t l) (w.third l)))

/-- A float word of one operand. -/
def Wd.fltWord1 (w : Wd) (s : State) (d a : BitVec 6) (t : BitVec 3) (op : FFmt → Nat → FRes) : Eff :=
  let n := fltCnt t
  .next (w.putFlt s d n (fun l => liftFlt t (fun f x _ _ => op f x) (w.vec a.toNat n l) 0 0))

/-- The clamp of SAT (R119). -/
def Wd.saturated (w : Wd) (f : FFmt) (r : FRes) : FRes := if w.sat then (f.saturate r.1, r.2) else r

end Sys2Proof.Machine
end

