-- ==== Sys2Proof/Machine/Coherence.lean ====
section
/-! DEFINITION. Requests of memory words: checking the lanes, the requests of a pass, what a core shows early, the order
of a team's accesses, and what performs each request at its home (R171, R174, R178, R179, R182, R192 to R206, R210,
R212, R239, R240, R377, R378, R384 to R387). -/

namespace Sys2Proof.Machine

/-! ### Lanes and requests (R171, R178) -/

/-- One element of one lane that has passed its checks. -/
structure LaneAcc where
  lane : Nat
  va : W64
  size : Nat
  place : Place1
  idx : Nat := 0
  x : BitVec 128 := 0
  e : W64 := 0

/-- One element of one lane to be checked. -/
structure LaneReq where
  lane : Nat
  va : W64
  size : Nat
  idx : Nat := 0
  x : BitVec 128 := 0
  e : W64 := 0

/-- Check every lane before any access; the lowest failing lane is reported (R171). -/
def State.checkLanes (s : State) (die ctx race : Nat) (acc : Acc) (plain : Bool) :
    List LaneReq → Except (Nat × EFault) (List LaneAcc)
  | [] => .ok []
  | r :: rest =>
    match s.checkElem die ctx race acc plain r.size r.va with
    | .error f => .error (r.lane, f)
    | .ok p => match s.checkLanes die ctx race acc plain rest with
      | .error f => .error f
      | .ok l => .ok (⟨r.lane, r.va, r.size, p, r.idx, r.x, r.e⟩ :: l)

/-- The element of a lane in its line. -/
def LaneAcc.elem (a : LaneAcc) : Elem :=
  { lane := a.lane, idx := a.idx, off := a.place.pa - lineOf a.place.pa, size := a.size, x := a.x, e := a.e }

/-- The pass of a request: the mask word of its lanes. -/
def Part.pass (p : Part) : Nat := (p.elems.headD { lane := 0, off := 0, size := 0 }).lane / 32

/-- Put an element in the request of its pass and line, or open a new one. -/
def insertAcc (a : LaneAcc) : List Part → List Part
  | [] => [{ line := lineOf a.place.pa, va := a.va - BitVec.ofNat 64 (a.va.toNat % 128), elems := [a.elem],
             rc := a.place.checked, kv := a.place.leaf.kv }]
  | p :: r =>
    if p.line = lineOf a.place.pa ∧ p.pass = a.lane / 32 then { p with elems := p.elems ++ [a.elem] } :: r
    else p :: insertAcc a r

/-- The requests of an atomic word: one for each line, since the lanes of one element are performed without another access
between them (R196, R244). -/
def insertLine (a : LaneAcc) : List Part → List Part
  | [] => [{ line := lineOf a.place.pa, va := a.va - BitVec.ofNat 64 (a.va.toNat % 128), elems := [a.elem],
             rc := a.place.checked, kv := a.place.leaf.kv }]
  | p :: r =>
    if p.line = lineOf a.place.pa then { p with elems := p.elems ++ [a.elem] } :: r else p :: insertLine a r

/-- The requests of an atomic word. (DEDUCED, log entry 18) -/
def gatherLines (l : List LaneAcc) : List Part := l.foldl (fun ps a => insertLine a ps) []

/-- One request of the coalescer (R178): a block of 256 bytes, and the sectors of it that the pass's lanes touch. -/
structure Block where
  base : Nat
  mask : Nat
  deriving DecidableEq, Repr, Inhabited

/-- The sectors of its block that an access touches: an element straddles none. -/
def LaneAcc.sector (a : LaneAcc) : Nat := a.place.pa % 256 / 16

/-- Note an access in the requests of its pass, which stand in the order of their blocks. -/
def insertBlock (a : LaneAcc) : List Block → List Block
  | [] => [⟨a.place.pa / 256 * 256, 2 ^ a.sector⟩]
  | b :: r =>
    if b.base = a.place.pa / 256 * 256 then { b with mask := Nat.lor b.mask (2 ^ a.sector) } :: r
    else if a.place.pa / 256 * 256 < b.base then ⟨a.place.pa / 256 * 256, 2 ^ a.sector⟩ :: b :: r
    else b :: insertBlock a r

/-- The requests of one pass, in ascending block address. -/
def coalesce (l : List LaneAcc) : List Block := l.foldl (fun bs a => insertBlock a bs) []

/-- The lines of a request. -/
def Block.lines (b : Block) : List Nat :=
  (if b.mask % 256 = 0 then [] else [b.base]) ++ (if b.mask / 256 = 0 then [] else [b.base + 128])

/-- The line requests of one pass, in the order in which its requests are sent. -/
def gatherPass (l : List LaneAcc) : List Part :=
  let ps := l.foldl (fun ps a => insertAcc a ps) []
  ((coalesce l).flatMap Block.lines).filterMap (fun line => ps.find? (fun p => p.line == line))

/-- The requests of a word, in the order of its passes. -/
def gather (l : List LaneAcc) : List Part :=
  (List.range 32).flatMap (fun j => gatherPass (l.filter (fun a => a.lane / 32 == j))) ++
    gatherPass (l.filter (fun a => decide (32 ≤ a.lane / 32)))

/-- The path to a line's home: a die, 8 for another module, 9 for the host agent (R177, R206). -/
def State.pathOf (s : State) (line : Nat) : Nat :=
  if paModule line ≠ s.hub.modid then 8 else if paHost line then 9 else paDie line

/-! ### Mapped stash lines (R181, R182) -/

/-- Write the dirty sectors of a line's stash copy to its home (R182); the stores that it holds were tested when they were written into
the copy (R197, R398). -/
def State.writeSectors (s : State) (line : Nat) (bytes : List Byte) (dirty : Nat) : State :=
  (List.range 8).foldl (fun s j =>
    if dirty.testBit j then s.putHome (line + 16 * j) ((bytes.drop (16 * j)).take 16) else s) s

/-- Write a valid mapped line back and mark it invalid. -/
def State.recallLine (s0 : State) (wg range k : Nat) : State :=
  let s := s0.reportLost (((s0.wgs.get wg).ranges.get range).pas.get k)
  let w := s.wgs.get wg
  let r := w.ranges.get range
  let line := r.pas.get k
  let bytes := (List.range 128).map (fun i => w.stash.get (r.soff + 128 * k + i))
  let s1 := s.writeSectors line bytes (r.state.get k - 1)
  s1.modWg wg (fun w => { w with ranges := w.ranges.put range { r with state := r.state.set k 0 } })

/-! ### The view of a core (R174, R197) -/

/-- The bytes of a list with an element's data written over them. -/
def overlayBytes (l : List Byte) (off : Nat) (data : List Byte) : List Byte :=
  l.take off ++ data ++ l.drop (off + data.length)

/-- Whether a store of a miss tracker is visible to every team of its core: accepted, and its team's earlier acquires fixed (R197,
R240). -/
def State.early (s : State) (r : StoreReq) : Bool :=
  let t := s.teams.get r.uid
  !r.performed && !r.held && !r.later && r.op.isNone &&
    (identOf r.uid t.place.gen != r.who.ident ||
      t.words.all (fun w => !(decide (w.seq < r.seq) && w.ord.getLsbD 0) || w.parts.all (fun p => p.fixed)))

/-- The stores of a core's miss tracker that a load of a line sees early: not the team's own later ones. -/
def State.earlyStores (s : State) (core line uid seq : Nat) : List StoreReq :=
  (s.cores.get core).tracker.filter (fun r => r.line == line && s.early r && !(r.uid == uid && decide (seq < r.seq)))

/-- The line as a load of a core sees it: the stores that the core's miss tracker has accepted lie over it. -/
def State.coreLine (s : State) (core line uid seq : Nat) : List Byte :=
  (s.earlyStores core line uid seq).foldl (fun l r =>
    r.elems.foldl (fun l e => overlayBytes l e.off (leBytes e.size e.x.toNat)) l) (s.homeLine line)

/-- The early stores whose data a load of some elements sees. -/
def State.earlySeen (s : State) (core line uid seq : Nat) (es : List Elem) : List StoreReq :=
  (s.earlyStores core line uid seq).filter (fun r => r.elems.any (fun e => es.any (fun x => overlap e.off e.size x.off x.size)))

/-- The entries that a check at L1 sees in the miss tracker (R384). -/
def State.earlyEntries (s : State) (core line : Nat) : List CkEntry :=
  ((s.cores.get core).tracker.filter (fun r => r.line == line && s.early r && r.rc)).map (fun r =>
    { ident := r.who.ident, clk := r.who.clk, sect := whole r.elems, atomic := false, engine := false })

/-- The release record of the value that a load reads: that of its home, as the early stores that it sees leave it (R377, R378). -/
def State.recordSeen (s : State) (core line uid seq : Nat) (es : List Elem) : RelRec :=
  (s.earlySeen core line uid seq es).foldl (fun r q => q.who.releases r false false) (s.releaseRec line)

/-! ### Observed stores (R201) -/

/-- Whether a team has observed a store of its core's miss tracker: its own, one that it has loaded, or one that was accepted before
its latest acquire. -/
def Team.observes (t : Team) (uid : Nat) (r : StoreReq) : Bool :=
  (r.uid == uid && r.who.ident == identOf uid t.place.gen) || decide (r.id < t.seenUpto) || t.observed.contains r.id

/-- Note stores that a team has loaded. -/
def State.observe (s : State) (uid : Nat) (l : List StoreReq) : State :=
  if l.isEmpty then s
  else
    let live := ((s.cores.get (coreOf uid)).tracker.filter (fun r => !r.performed)).map (·.id)
    s.modTeam uid (fun t => { t with observed := (t.observed.filter live.contains) ++ l.map (·.id) })

/-- An acquire: what its core's miss tracker has accepted so far counts as observed. -/
def State.observeAll (s : State) (uid : Nat) : State :=
  s.modTeam uid (fun t => { t with seenUpto := s.nextId, observed := [] })

/-! ### Order (R193 to R199, R205, R210, R239, R240) -/

/-- Whether every acquire of the team issued before a number has its values fixed (R198, R240). -/
def Team.acquiresFixed (t : Team) (seq : Nat) : Bool :=
  t.words.all (fun w => !(decide (w.seq < seq) && w.ord.getLsbD 0) || w.parts.all (fun p => p.fixed))

/-- Whether a word's reads are an engine's, which no order binds to the team's later words (R209). -/
def LongKind.byEngine (k : LongKind) : Bool := k == .trace || k == .trres || k == .trget

/-- Whether every load of the team issued before a number has its value fixed. -/
def Team.loadsFixed (t : Team) (seq : Nat) : Bool :=
  t.words.all (fun w => !decide (w.seq < seq) || w.kind.byEngine || w.parts.all (fun p => p.fixed))

/-- Whether the team's earlier loads and atomics of a line are fixed; within one word, those of earlier passes. -/
def Team.lineFixed (t : Team) (seq pass line : Nat) : Bool :=
  t.words.all (fun w => w.parts.all (fun p =>
    !(p.line == line && (decide (w.seq < seq) || (w.seq == seq && decide (p.pass < pass)))) || p.fixed))

/-- Whether what a request must follow at its home has been performed: the team's earlier requests to the line, but for a load its
plain stores, which it sees early; an atomic follows every store to the line that its core had accepted (R193, R195). -/
def State.storesDone (s : State) (core uid : Nat) (w : LongWord) (line : Nat) : Bool :=
  (s.cores.get core).tracker.all (fun r =>
    !(r.line == line && !r.held && !r.later &&
      ((r.uid == uid && decide (r.seq < w.seq) && (w.op.isSome || r.op.isSome)) || (w.op.isSome && decide (r.id < w.id)))) || r.performed)

/-- Whether the stores that a core's miss tracker accepted before a request number have been performed, on the paths
given. -/
def State.trackerDone (s : State) (core upto : Nat) (paths : List Nat) : Bool :=
  (s.cores.get core).tracker.all (fun r => !(decide (r.id < upto) && paths.contains (s.pathOf r.line)) || r.performed)

/-- Every path. -/
def allPaths : List Nat := List.range 10

/-- Whether the stores that a release of a team carries (R201), of those numbered below a request, have been performed; `acked`, and
acknowledged. -/
def State.carriedDone (s : State) (uid upto : Nat) (acked : Bool) : Bool :=
  (s.cores.get (coreOf uid)).tracker.all (fun r =>
    !(decide (r.id < upto) && (s.teams.get uid).observes uid r) || (r.performed && !acked))

/-- The virtual lines that a range of addresses touches. -/
def rangeOf (va n : Nat) : List Nat :=
  if n = 0 then [] else (List.range ((va + n - 1) / 128 - va / 128 + 1)).map (fun k => va / 128 + k)

/-- The virtual lines that a copy to global memory has still to write. -/
def Copy.linesLeft (c : Copy) : List Nat :=
  if c.active && !c.dir.testBit 0 then
    ((List.range c.rows).flatMap (fun r => rangeOf (c.dst.toNat + r * c.dstPitch) c.rowBytes)).filter (fun l => !c.doneLines.contains l)
  else []

/-- Whether virtual lines name a physical one. -/
def State.names (s : State) (die ctx : Nat) (lines : List Nat) (line : Nat) : Bool :=
  lines.any (fun v => match s.translate die ctx .load (BitVec.ofNat 64 (128 * v)) with
    | .ok p => lineOf p.pa == line
    | .error _ => false)

/-- Whether engine work of the team, issued before a number, has still to write a physical line (R210). -/
def State.engineOwns (s : State) (uid seq line : Nat) : Bool :=
  let t := s.teams.get uid
  let own (lines : List Nat) : Bool := s.names (dieOf uid) t.place.ctx lines line
  s.copies.entries.any (fun c => c.2.owner == t.key && decide (c.2.seq < seq) && own c.2.linesLeft) ||
  s.cores.entries.any (fun c => c.2.queues.entries.any (fun q => q.2.owner == t.key && decide (q.2.seq < seq) && own q.2.linesLeft)) ||
  s.colls.entries.any (fun c => c.2.owner == t.key && decide (c.2.seq < seq) && own c.2.linesLeft) ||
  t.words.any (fun w => decide (w.seq < seq) && own w.lines)

/-- Whether another core holds an L1 copy of a line, or monitors it. -/
def State.copiesElsewhere (s : State) (core line : Nat) : Bool :=
  s.cores.entries.any (fun c => c.1 != core && c.2.l1.contains line) ||
  s.teams.entries.any (fun e => coreOf e.1 != core &&
    (match e.2.mon with | some (l, _, stirred) => l == line && !stirred | none => false))

/-- Whether the stash that holds a line lets a request of a core through; an atomic is never let through. -/
def State.stashFree (s : State) (core line : Nat) (atomic : Bool) : Bool :=
  match s.stashOwner line with
  | none => true
  | some (wg, _, _) => !atomic && (s.wgs.get wg).core == core

/-! ### The values a word gathers (R215, R243) -/

/-- The 32-bit pieces of an element's value as a load of a width writes them. -/
def pieces (w : BitVec 3) (size v : Nat) : List (Nat × W32) :=
  if size = 1 then [(0, if w = 5 then (BitVec.ofNat 8 v).signExtend 32 else BitVec.ofNat 32 v)]
  else if size = 2 then [(0, if w = 6 then (BitVec.ofNat 16 v).signExtend 32 else BitVec.ofNat 32 v)]
  else (List.range (size / 4)).map (fun k => (k, BitVec.ofNat 32 (v / 2 ^ (32 * k))))

/-- The results of the elements of one request, read from a line. -/
def readElems (w : BitVec 3) (line : List Byte) (es : List Elem) : List (Nat × Nat × W32) :=
  es.flatMap (fun e => (pieces w e.size (fieldAt line e.off e.size)).map (fun p => (e.lane, e.idx + p.1, p.2)))

/-- Change a request of an outstanding word. -/
def LongWord.setPart (w : LongWord) (k : Nat) (f : Part → Part) : LongWord :=
  { w with parts := (List.range w.parts.length).map (fun i =>
      let p := w.parts.getD i { line := 0, va := 0, elems := [] }
      if i = k then f p else p) }

/-- Put an outstanding word of a team. -/
def Team.setWord (t : Team) (w : LongWord) : Team :=
  { t with words := t.words.map (fun v => if v.id = w.id then w else v) }

/-- The outstanding word of a number. -/
def Team.word? (t : Team) (id : Nat) : Option LongWord := t.words.find? (fun v => v.id == id)

/-! ### Race checks of requests (R371, R384 to R387) -/

/-- Whether a request is checked: its team's mode is not off, for an engine's request too. (DEDUCED, log entry 88) -/
def Who.checks (w : Who) (rc : Bool) : Bool := rc && w.race ≠ 0

/-- Note that a request of a trap-mode word races: its lowest racing lane and the first record (R386). -/
def State.noteRace (s : State) (uid : Nat) (lineVa : W64) (es : List Elem) (o : RaceOut) : State :=
  if !o.races then s
  else
    let racing := es.filter (fun e => Nat.land (touched [e]) o.sect ≠ 0)
    match racing with
    | [] => s
    | e :: _ =>
      s.modTeam uid (fun t =>
        let old := t.fail
        let here : Nat × Nat × W64 × W32 := (cRACE, e.lane, lineVa + BitVec.ofNat 64 e.off, BitVec.ofNat 32 o.first)
        { t with fail := match old with
          | none => some here
          | some (c, l, a, x) => if e.lane < l then some (c, e.lane, lineVa + BitVec.ofNat 64 e.off, x) else some (c, l, a, x) })

/-- Keep the release records that a relaxed load has read for a later fence; more than eight turn the team lenient at
grid level (R378). -/
def TeamRace.pend (r : TeamRace) (l : List RelRec) : TeamRace :=
  let all := r.pending ++ l
  if all.length ≤ 8 then { r with pending := all } else { r with pending := all.take 8, level := 3 }

/-! ### Performing requests -/

/-- Perform a plain store request of a line: where a stash of the same core holds the line, in the stash (R197). -/
def State.writeLine (s : State) (line : Nat) (who : Who) (es : List Elem) : State :=
  match s.stashOwner line with
  | some (wg, r, k) =>
    let base := ((s.wgs.get wg).ranges.get r).soff + 128 * k
    es.foldl (fun s e => s.watchTest (s.modWg wg (fun w =>
      let st := (List.range e.size).foldl (fun (st : SMap (0#8)) i =>
        st.set (base + e.off + i) (BitVec.ofNat 8 (e.x.toNat / 2 ^ (8 * i)))) w.stash
      { w with stash := st, ranges := w.ranges.modify r (fun x => { x with state := x.state.set k (1 + Nat.lor (x.state.get k - 1) (touched [e])) }) }))
      (line + e.off) e.size who) s
  | none => (s.coverSectors line es).performStores line who es

/-- A plain store performed at its home: the check, the store, the check word and the release record (R205, R212,
R371, R377, R383). `done` says that the check has been made. -/
def State.storeHome (s : State) (line : Nat) (va : W64) (es : List Elem) (who : Who) (rc done : Bool) : State :=
  let r : RReq := { who := who, line := line, va := va, elems := es, reads := false, writes := true, atomic := false }
  if who.checks rc then
    let o : RaceOut := if done then { st := s } else s.raceCheck r []
    let kept := es.filter (fun e => Nat.land (touched [e]) o.drop = 0)
    let s1 := if kept.isEmpty then o.st else (o.st.writeLine line who kept).raceUpdate r kept true
    if kept.isEmpty then s1 else s1.releaseUpdate line who false false
  else (s.writeLine line who es).releaseUpdate line who false false

/-- An atomic request performed at its home; the old values (R204, R244, R377). -/
def State.atomicHome (s : State) (line : Nat) (va : W64) (es : List Elem) (op : AtomicOp) (who : Who) (rel rc done : Bool) :
    State × List (Nat × Nat) :=
  let r : RReq := { who := who, line := line, va := va, elems := es, reads := op.reads, writes := op.mayWrite, atomic := true }
  let s1 := if who.checks rc && !done then (s.raceCheck r []).st else s
  let (s2, old, wrote) := s1.performAtomics line op who es
  let s3 := if who.checks rc then s2.raceUpdate r es wrote else s2
  let s4 := if op.mayWrite then s3.releaseUpdate line who rel true else s3
  (s4, old)

/-- The line where a write to a page is performed (R188). -/
def State.writeTarget (s : State) (kv : Bool) (ctx line : Nat) (va : W64) (who : Who) : KvTarget :=
  if kv then (match s.kvForWrite ctx va who with
    | .at_ pa s => .at_ (lineOf pa) s
    | x => x)
  else .at_ line s

/-- What a team knew that made an access, with records that an earlier acquire has read since (R371, R379). -/
def Who.taught (w : Who) (rs : List RelRec) : Who :=
  { w with acq := rs.foldl (fun l r => r.pairs.foldl mergePair l) w.acq, lenient := w.lenient || rs.any (fun r => r.ovf || r.lost) }

/-- What a team knew that made an access, with what its earlier acquires that have not completed yet have read. -/
def Team.knowing (t : Team) (seq : Nat) (who : Who) : Who :=
  who.taught ((t.words.filter (fun v => decide (v.seq < seq) && v.ord.getLsbD 0)).flatMap (·.merged))

/-- The pass of a store request. -/
def StoreReq.pass (r : StoreReq) : Nat := (r.elems.headD { lane := 0, off := 0, size := 0 }).lane / 32

/-- The first element of a list whose data at home is uncorrectable. -/
def State.badElem (s : State) (line : Nat) (es : List Elem) : Option Elem := es.find? (fun e => s.badRange (line + e.off) e.size)

/-- Change one request of a core's miss tracker. -/
def Core.setReq (c : Core) (id : Nat) (f : StoreReq → StoreReq) : Core :=
  { c with tracker := c.tracker.map (fun r => if r.id = id then f r else r) }

/-- Whether a store of the miss tracker may be performed now: earlier stores of the core to the line first, no copy of
the line elsewhere, the team's acquires fixed, and its engines' writes to the line made. -/
def State.storeMay (s : State) (core : Nat) (r : StoreReq) : Bool :=
  let c := s.cores.get core
  let t := s.teams.get r.uid
  let own := identOf r.uid t.place.gen = r.who.ident
  !r.performed && !r.later && !s.beyond (dieOfCore core) r.line &&
  c.tracker.all (fun q => !(q.line == r.line && !q.later && decide (q.id < r.id)) || q.performed) &&
  !s.copiesElsewhere core r.line && s.stashFree core r.line r.op.isSome &&
  (!own || (t.acquiresFixed r.seq && !s.engineOwns r.uid r.seq r.line && t.words.all (fun w => w.parts.all (fun p =>
      !(p.line == r.line && decide (w.seq < r.seq)) || p.fixed))))

/-- What a relaxed atomic in the miss tracker has read, kept for a later fence (R199, R378). -/
def State.pendRead (s : State) (r : StoreReq) (rr : RelRec) : State :=
  let t := s.teams.get r.uid
  if identOf r.uid t.place.gen = r.who.ident ∧ (match r.op with | some o => o.reads | none => false) = true ∧
      (rr.pairs ≠ [] ∨ rr.lost ∨ rr.ovf) then
    s.putTeam r.uid { t with race := t.race.pend [rr] }
  else s

/-- A RED or an ATX store meets uncorrectable data in an element: the element is left as it is, and the team takes MEMERR (R190, R244).
(DESIGN CHOICE, log entry 69) -/
def State.atomicError (s : State) (r : StoreReq) (who : Who) (e : Elem) : State :=
  let q : TrapReq := { cause := cMEMERR, addr := r.va + BitVec.ofNat 64 e.off, lane := e.lane, word := r.word, pc := who.pc,
                       regions := who.regions }
  (s.dramError (r.line + e.off) (some r.uid) (some who.ctx)).modTeam r.uid (fun t =>
    if identOf r.uid t.place.gen = r.who.ident ∧ t.phase = .running ∧ t.trap.pending = none then
      { t with trap := { t.trap with pending := some q } }
    else t)

/-- STORE_AT_HOME or ATOMIC_AT_HOME of a request of a core's miss tracker: its check first, where its word is held, and
then the store itself (R190, R205, R244, R386). (DEDUCED, log entry 19) -/
def State.trackerHome (s : State) (core id : Nat) : State :=
  let c := s.cores.get core
  match c.tracker.find? (fun r => r.id == id) with
  | none => s
  | some r =>
    let t := s.teams.get r.uid
    let who := if identOf r.uid t.place.gen = r.who.ident then t.knowing r.seq r.who else r.who
    let done (s : State) : State := s.modCore core (fun c => c.setReq id (fun r => { r with performed := true }))
    if !s.storeMay core r then s
    else if r.held then
      if r.checked then s
      else
        let q : RReq := { who := who, line := r.line, va := r.va, elems := r.elems,
                          reads := (match r.op with | some o => o.reads | none => false),
                          writes := (match r.op with | some o => o.mayWrite | none => true), atomic := r.op.isSome }
        let o : RaceOut := if who.checks r.rc then s.raceCheck q [] else { st := s }
        (o.st.noteRace r.uid r.va r.elems o).modCore core (fun c => c.setReq id (fun r => { r with checked := true }))
    else
      let bad := if r.op.isSome then s.badElem r.line r.elems else none
      let s := match bad with | some e => s.atomicError r who e | none => s
      let es := if bad.isSome then r.elems.filter (fun e => !s.badRange (r.line + e.off) e.size) else r.elems
      if es.isEmpty then done s
      else match s.writeTarget r.kv who.ctx r.line r.va who with
      | .fail cause =>
        s.modTeam r.uid (fun t => { t with fail := some (cause, (r.elems.headD { lane := 0, off := 0, size := 0 }).lane, r.va, 0) })
      | .wait s => s
      | .at_ line s =>
        match r.op with
        | none =>
          let s := match (if r.fin then s.badFill line es else none) with
            | some e => s.modTeam r.uid (fun t => { t with fail := some (cMEMERR, e.lane, r.va + BitVec.ofNat 64 e.off, 0) })
            | none => s
          done (s.storeHome line r.va es who r.rc r.checked)
        | some op =>
          let rr := s.releaseRec line
          done ((((s.putRelease line rr).fillSectors line 128).atomicHome line r.va es op who r.rel r.rc r.checked).1.pendRead r
            (if r.rel then {} else rr))

/-- Whether a request of an outstanding word may be performed now. -/
def State.partMay (s : State) (uid : Nat) (w : LongWord) (p : Part) : Bool :=
  let t := s.teams.get uid
  let core := coreOf uid
  p.issued && !p.fixed && !s.beyond (dieOf uid) p.line && t.acquiresFixed w.seq && t.lineFixed w.seq p.pass p.line &&
  s.storesDone core uid w p.line && !s.engineOwns uid w.seq p.line && s.stashFree core p.line w.op.isSome &&
  (match w.op with
   | none => true
   | some op =>
     (match w.wave with
      | none => s.carriedDone uid w.upto true
      | some v => s.waves.all (fun x => x.id ≠ v) && s.carriedDone uid w.upto false) &&
     (!w.ord.getLsbD 1 || t.loadsFixed w.seq) && (!op.mayWrite || !s.copiesElsewhere core p.line))

/-- Whether the checks that the requests of a held word still await have all been made. -/
def LongWord.allChecked (w : LongWord) : Bool := w.parts.all (fun p => !w.who.checks p.rc || p.checked)

/-- Whether a load of a core hits a copy of a line in its L1. -/
def State.hitsL1 (s : State) (core line : Nat) : Bool := (s.cores.get core).l1.contains line

/-- An uncorrectable copy of a line in L1 is treated as a miss: it is recorded and fetched again (R191). -/
def State.mendL1 (s : State) (core line : Nat) (uid ctx : Nat) : State :=
  if s.hitsL1 core line && s.bad.get (l1Key core line) then
    ((s.errRecord line 2 (dieOfCore core) (some uid) (some ctx)).mended (l1Key core line)).modCore core (fun c =>
      { c with l1 := c.l1.filter (· ≠ line) })
  else s

/-- A clean stash line with an uncorrectable sector is treated as a miss, like an L1 line (R191). -/
def State.mendStash (s : State) (line uid ctx : Nat) : State :=
  if s.bad.entries.isEmpty then s
  else match s.stashOwner line with
    | none => s
    | some (wg, r, k) =>
      let x := (s.wgs.get wg).ranges.get r
      let keys := (List.range 8).map (fun j => stashKey wg ((x.soff + 128 * k) / 16 + j))
      if x.state.get k ≠ 1 ∨ keys.all (fun q => !s.bad.get q) ∨ s.badRange line 128 then s
      else (keys.foldl (fun s q => if s.bad.get q then (s.errRecord line 2 (dieOf uid) (some uid) (some ctx)).mended q else s) s).modWg wg
        (fun w => { w with ranges := w.ranges.put r { x with state := x.state.set k 0 } })

/-- The error that a load of some elements meets, as its unit and its element: in the stash copy that serves it, or at home where L1
holds no copy (R190, R191). -/
def State.loadError (s : State) (core line : Nat) (atomic : Bool) (es : List Elem) : Option (Nat × Elem) :=
  match s.stashOwner line with
  | some (wg, r, k) =>
    let g := s.wgs.get wg
    (es.find? (fun e => (List.range ((e.size + 15) / 16)).any (fun j =>
      s.bad.get (stashKey wg (((g.ranges.get r).soff + 128 * k + e.off) / 16 + j))))).map (fun e => (2, e))
  | none => if !atomic && s.hitsL1 core line then none else (s.badElem line es).map (fun e => (0, e))

/-- Keep what a load of the team has fixed: its values, the records that it has read, and the early stores that it has observed. -/
def LongWord.fixLoad (w : LongWord) (k : Nat) (p : Part) (line : List Byte) (m : List RelRec) : LongWord :=
  let res := readElems w.width line p.elems
  { w.setPart k (fun p => { p with fixed := true }) with
    results := if w.kind = .scalar ∨ w.kind = .gather then w.results else w.results ++ res,
    raw := if w.kind = .gather then w.raw ++ res else w.raw, merged := m, begun := w.begun || w.fin,
    sdest := if w.kind = .scalar then
      some (w.reg, BitVec.ofNat 64 (match p.elems with | [] => 0 | e :: _ => fieldAt line e.off e.size)) else none }

/-- A record that an access has read, if it says anything (R378). -/
def RelRec.some? (r : RelRec) : List RelRec := if r.pairs ≠ [] ∨ r.lost ∨ r.ovf then [r] else []

/-- LOAD_AT_HOME of a request of an outstanding load, once its checks allow it: its values are fixed (R193, R197, R371, R384). -/
def State.loadHome (s : State) (uid : Nat) (w : LongWord) (k : Nat) (p : Part) (q : RReq) : State :=
  let core := coreOf uid
  let line := s.coreLine core p.line uid w.seq
  let seen := s.earlySeen core p.line uid w.seq p.elems
  let rr := s.recordSeen core p.line uid w.seq p.elems
  let s := s.putRelease p.line (s.releaseRec p.line)
  let s := if w.who.checks p.rc then
      let s := if w.who.race = 1 then s else (s.raceCheck q (s.earlyEntries core p.line)).st
      s.raceUpdate q p.elems false
    else s
  let s := if s.hitsL1 core p.line then s else s.fillSectors p.line 128
  let s := if (s.cores.get core).ways < 32 ∧ w.kind ≠ .sampler then
      s.modCore core (fun c => if c.l1.contains p.line then c else { c with l1 := p.line :: c.l1 })
    else s
  (s.observe uid (seen.filter (fun r => r.uid ≠ uid))).modTeam uid (fun t =>
    t.setWord (w.fixLoad k p line (w.merged ++ rr.some?)))

/-- LOAD_AT_HOME or ATOMIC_AT_HOME of a request of an outstanding word (R193, R204, R371, R384, R386). -/
def State.partHome (s : State) (uid id k : Nat) (atomic : Bool) : State :=
  let t := s.teams.get uid
  match t.word? id with
  | none => s
  | some w =>
    match w.parts[k]? with
    | none => s
    | some p =>
      if !s.partMay uid w p || w.op.isSome ≠ atomic then s
      else
        let reads := match w.op with | some o => o.reads | none => true
        let writes := match w.op with | some o => o.mayWrite | none => false
        let who := t.knowing w.seq w.who
        let q : RReq := { who := who, line := p.line, va := p.va, elems := p.elems, reads := reads, writes := writes, atomic := atomic }
        let core := coreOf uid
        let trapMode := who.race = 1
        if trapMode && who.checks p.rc && !p.checked then
          let o := s.raceCheck q (if atomic then [] else s.earlyEntries core p.line)
          (o.st.noteRace uid p.va p.elems o).modTeam uid (fun t =>
            t.setWord (w.setPart k (fun p => { p with checked := true })))
        else if trapMode && (!w.allChecked || t.fail.isSome) then s
        else
          let s := if atomic then s else (s.mendL1 core p.line uid who.ctx).mendStash p.line uid who.ctx
          match s.loadError core p.line atomic p.elems with
          | some (unit, e) =>
            (s.errRecord (p.line + e.off) unit (if unit = 0 then paDie p.line else dieOf uid) (some uid) (some who.ctx)).modTeam uid (fun t =>
              t.setWord { w.setPart k (fun p => { p with fixed := true }) with
                err := some (cMEMERR, e.lane, 0, p.va + BitVec.ofNat 64 e.off) })
          | none =>
            match w.op with
            | none => s.loadHome uid w k p q
            | some op =>
              match s.writeTarget (p.kv && op.mayWrite) who.ctx p.line p.va who with
              | .fail c =>
                s.modTeam uid (fun t => t.setWord { w.setPart k (fun p => { p with fixed := true }) with
                  err := some (c, (p.elems.headD { lane := 0, off := 0, size := 0 }).lane, 0, p.va) })
              | .wait s => s
              | .at_ line s =>
                let rr := s.releaseRec line
                let m := w.merged ++ rr.some?
                let (s, old) := ((s.putRelease line rr).fillSectors line 128).atomicHome line p.va p.elems op who (w.ord.getLsbD 1) p.rc trapMode
                let s := if w.ord.getLsbD 0 then s.observeAll uid else s
                let res := (p.elems.zip old).flatMap (fun x =>
                  (pieces 2 x.1.size x.2.2).map (fun y => (x.1.lane, x.1.idx + y.1, y.2)))
                s.modTeam uid (fun t => t.setWord { w.setPart k (fun p => { p with fixed := true }) with
                  results := if w.kind = .gather then w.results else w.results ++ res,
                  raw := if w.kind = .gather then w.raw ++ res else w.raw, merged := m, begun := true })

/-! ### Issuing requests -/

/-- The lines of a core's outstanding loads that hold entries of its miss tracker (R179). -/
def State.trackedLines (s : State) (core : Nat) : List Nat :=
  ((s.teams.entries.filter (fun e => coreOf e.1 == core)).flatMap (fun e =>
    e.2.words.flatMap (fun w => (w.parts.filter (fun p => p.entry && p.issued && !p.fixed)).map (·.line)))).eraseDups

/-- Entries of a core's miss tracker in use: one for each line that its loads await, and one for each store that is not yet
acknowledged. -/
def State.trackerUse (s : State) (core : Nat) : Nat :=
  ((s.cores.get core).tracker.filter (fun r => !r.later)).length + (s.trackedLines core).length

/-- The lines of a pass that take entries: for loads, those that miss in L1 and are not tracked already. -/
def State.entryLines (s : State) (core : Nat) (ps : List Part) : List Nat :=
  let tracked := s.trackedLines core
  ((ps.map (·.line)).eraseDups).filter (fun l => !s.hitsL1 core l && !tracked.contains l)

/-- Whether the miss tracker refuses a pass that needs some entries: it has not got them, or an earlier pass of its wait order can use
what is free (R179, R269). A pass that needs none is not refused. (DEDUCED, log entry 84) -/
def State.trackerRefuses (s : State) (uid need : Nat) : Bool :=
  let used := s.trackerUse (coreOf uid)
  let ahead := ((s.cores.get (coreOf uid)).trackWait.takeWhile (fun x => x.1 ≠ uid)).filter (fun x =>
    (s.teams.get x.1).phase == .running)
  need ≠ 0 && (decide (8192 < used + need) || ahead.any (fun x => decide (used + x.2 ≤ 8192)))

/-- A refused pass takes the next place in the miss tracker's wait order, or keeps its own. -/
def State.trackerWait (s : State) (uid need : Nat) : State :=
  s.modCore (coreOf uid) (fun c =>
    if c.trackWait.any (fun x => x.1 == uid) then c else { c with trackWait := c.trackWait ++ [(uid, need)] })

/-- The next pass of requests that has not issued. -/
def nextPass (ps : List Nat) : Option Nat :=
  ps.foldl (fun m n => match m with | none => some n | some x => some (if n < x then n else x)) none

/-- Put requests of the current team's word into its core's miss tracker; those of later passes are not accepted yet. A store that is
accepted wakes the sleepers of its line (R20, R197, R253). -/
def State.addStores (s : State) (w : W32) (parts : List Part) (op : Option AtomicOp) (rel : Bool) (who : Who) (seq : Nat) (held fin : Bool)
    (pass : Nat) : State :=
  parts.foldl (fun s p =>
    let (id, s) := s.fresh
    let later := decide (p.pass ≠ pass)
    let r : StoreReq := { id := id, uid := s.cur, seq := seq, line := p.line, va := p.va, elems := p.elems, op := op, rel := rel,
                          who := who, held := held, kv := p.kv, rc := p.rc, later := later, word := w, fin := fin && op.isNone }
    let s1 := s.modCore (coreOf s.cur) (fun c => { c with tracker := c.tracker ++ [r] })
    if later then s1 else s1.wake (coreOf s.cur) p.line) s

/-- A pass of stores issues: its requests are accepted, behind all that the miss tracker holds. -/
def State.acceptPass (s : State) (uid seq pass : Nat) : State :=
  let core := coreOf uid
  let mine (r : StoreReq) : Bool := r.uid == uid && r.seq == seq && r.later && r.pass == pass
  let l := (s.cores.get core).tracker.filter mine
  let s1 := s.modCore core (fun c => { c with tracker := c.tracker.filter (fun r => !mine r) })
  l.foldl (fun s r =>
    let (id, s) := s.fresh
    (s.modCore core (fun c => { c with tracker := c.tracker ++ [{ r with id := id, later := false }] })).wake core r.line)
    (s1.issued uid 1)

/-- The place after the current word. -/
def State.afterWord (s : State) : Flow := { s.team.flow with pos := s.team.flow.pos.next }

/-- A long-latency word of the current team as it stands when it has issued. -/
def State.newWord (s : State) (w : Wd) (lw : LongWord) : LongWord :=
  { lw with id := s.nextId, seq := s.team.nextSeq, word := wordBits w.ins, pc := w.pc,
            flag := (flagOf w.f s.team.flow.pos).getD 12, after := s.afterWord, mask := w.mask }

/-- Add an outstanding word to the current team; its number. -/
def State.addWord (s : State) (w : Wd) (lw : LongWord) : State × Nat :=
  let v := s.newWord w lw
  (s.fresh.2.setTeam { (s.team.flagUp v.flag) with words := s.team.words ++ [v], nextSeq := s.team.nextSeq + 1 }, v.id)

/-- Take an outstanding word away, with its flag. -/
def Team.dropWord (t : Team) (w : LongWord) : Team :=
  { (t.flagDown w.flag) with words := t.words.filter (fun v => v.id ≠ w.id) }

/-- A long-latency word of the current team has issued: it is outstanding, or, where its effective mask is empty, complete in the same
clock (R17). `seam` says that its completion is a seam. -/
def State.outstanding (s : State) (w : Wd) (lw : LongWord) (seam : Bool) : Eff :=
  let s1 := (s.addWord w lw).1
  if w.mask = 0 then
    let s2 := s1.setTeam (s1.team.dropWord (s.newWord w lw))
    if seam then .seam s2 (useSet w.f.seamWrites) else .next s2
  else .next s1

/-- The trap of a word whose requests failed. -/
def Wd.failTrap (w : Wd) (s : State) (f : Nat × Nat × W64 × W32) : TrapReq := w.trap s f.1 0 f.2.2.1 f.2.1 f.2.2.2

/-- A fault of a lane as a trap. -/
def Wd.laneTrap (w : Wd) (s : State) (f : Nat × EFault) : TrapReq := w.trap s f.2.cause f.2.detail f.2.addr f.1

/-- The lines of an outstanding word's requests that take entries of the miss tracker: a load's lines that miss, in L1 or in the sampler
cache, an atomic's every line. -/
def LongWord.needs (w : LongWord) (s : State) (core : Nat) (ps : List Part) : List Nat :=
  if w.op.isSome then (ps.map (·.line)).eraseDups
  else if w.kind = .sampler then
    ((ps.map (·.line)).eraseDups).filter (fun l => !(s.cores.get core).sampler.contains l && !(s.trackedLines core).contains l)
  else s.entryLines core ps

/-- A word of which one more pass has issued. -/
def LongWord.passed (w : LongWord) (pass : Nat) (lines : List Nat) : LongWord :=
  { w with parts := w.parts.map (fun p => if p.pass = pass then { p with issued := true, entry := lines.contains p.line } else p) }

/-- The requests of one pass issue: they may now be performed, and those of an atomic that writes wake the sleepers of their lines
(R20, R179, R253). -/
def State.issuePass (s : State) (v : LongWord) (pass : Nat) (lines : List Nat) : State :=
  let s1 := ((s.leaveWaits s.cur).modTeam s.cur (fun t => t.setWord (v.passed pass lines))).issued s.cur 1
  match v.op with
  | some op => if op.mayWrite then lines.foldl (fun s l => s.wake (coreOf s.cur) l) s1 else s1
  | none => s1

/-- The next pass of a word that has not issued. -/
def LongWord.passLeft (w : LongWord) : Option Nat := nextPass ((w.parts.filter (fun p => !p.issued)).map Part.pass)

/-- The lines of a pass that take entries. -/
def LongWord.passNeeds (w : LongWord) (s : State) (pass : Nat) : List Nat :=
  w.needs s (coreOf s.cur) (w.parts.filter (fun p => p.pass == pass))

/-- What a word waits for once a pass has issued: its other passes, and in trap mode the checks of its requests (R386). -/
def State.wordGoes (s : State) (w : Wd) (v : LongWord) (done : State → Eff) : Eff :=
  if v.passLeft.isSome then .hold s noReason
  else if v.who.race = 1 ∧ !v.allChecked then .hold s noReason
  else match s.team.fail with
    | none => done s
    | some f => .trap (s.setTeam { (s.team.dropWord v) with fail := none }) (w.failTrap s f)

/-- Issue the next pass of an outstanding word of the current team, if one is left. -/
def State.issueNext (s : State) (w : Wd) (v : LongWord) (done : State → Eff) : Eff :=
  match v.passLeft with
  | none => s.wordGoes w v done
  | some n =>
    let lines := v.passNeeds s n
    if s.trackerRefuses s.cur lines.length then .hold (s.trackerWait s.cur lines.length) noReason
    else (s.issuePass v n lines).wordGoes w (v.passed n lines) done

/-- A word whose passes have still to issue. -/
def LongWord.opened (w : LongWord) (parts : List Part) : LongWord := { w with parts := parts.map (fun p => { p with issued := false }) }

/-- The entries that the first pass of a word needs, where the miss tracker refuses it. -/
def State.firstRefused (s : State) (lw : LongWord) (parts : List Part) : Option Nat :=
  match nextPass (parts.map Part.pass) with
  | none => none
  | some n =>
    let need := ((lw.opened parts).passNeeds s n).length
    if s.trackerRefuses s.cur need then some need else none

/-- The first pass of a word has issued: the word is outstanding, and its team goes on with it. -/
def State.openPass (s : State) (w : Wd) (lw : LongWord) (pass : Nat) (lines : List Nat) : State :=
  let s1 := (s.addWord w lw).1.issuePass (s.newWord w lw) pass lines
  s1.setTeam { s1.team with wait := .access s.nextId }

/-- Issue a long-latency word's requests, pass by pass. In trap mode the word is held until its requests have passed their checks
(R386). `done` is what follows once the word may leave the team free to go on. -/
def State.issueWord (s : State) (w : Wd) (parts : List Part) (lw : LongWord) (done : State → Eff) : Eff :=
  match s.team.wait with
  | .access id =>
    (match s.team.word? id with
     | none => done s
     | some v => s.issueNext w v done)
  | _ =>
    match nextPass (parts.map Part.pass) with
    | none => s.outstanding w lw (lw.kind == .atomic)
    | some n =>
      let v := lw.opened parts
      let lines := v.passNeeds s n
      if s.trackerRefuses s.cur lines.length then .hold (s.trackerWait s.cur lines.length) noReason
      else (s.openPass w v n lines).wordGoes w ((s.newWord w v).passed n lines) done

/-- The stores of a word of the current team that its core's miss tracker holds. -/
def State.storesOf (s : State) (seq : Nat) : List StoreReq :=
  (s.cores.get (coreOf s.cur)).tracker.filter (fun r => r.uid == s.cur && r.seq == seq)

/-- What a word of stores waits for once a pass has issued: its other passes, in trap mode the checks of its requests, and what it must
finish. Once every check has passed, its requests may be performed; a race traps once every request has been checked (R386). -/
def State.storesGo (s : State) (w : Wd) (seq : Nat) (fin : Bool) (done : State → Eff) : Eff :=
  let core := coreOf s.cur
  let mine := s.storesOf seq
  let unchecked := mine.any (fun r => r.held && !r.checked && r.who.checks r.rc)
  match s.team.fail with
  | some f =>
    if f.1 = cRACE ∧ (mine.any (fun r => r.later) ∨ unchecked) then .hold s noReason
    else
    let s1 := s.modCore core (fun c => { c with tracker := c.tracker.filter (fun r =>
      !(r.uid == s.cur && r.seq == seq && !r.performed)) })
    .trap (s1.setTeam { s1.team with fail := none }) (w.failTrap s f)
  | none =>
    if mine.any (fun r => r.later) then .hold s noReason
    else if unchecked then .hold s noReason
    else if mine.any (fun r => r.held) then
      let s1 := s.modCore core (fun c => { c with tracker := c.tracker.map (fun r =>
        if r.uid = s.cur ∧ r.seq = seq then { r with held := false } else r) })
      .hold (s1.setTeam { s1.team with finishing := fin }) noReason
    else if mine.any (fun r => (r.kv || r.fin) && !r.performed) then .hold s noReason
    else done s

/-- The next pass of a word of stores that has not issued. -/
def State.storesLeft (s : State) (seq : Nat) : Option Nat :=
  nextPass (((s.storesOf seq).filter (fun r => r.later)).map StoreReq.pass)

/-- Issue the next pass of a word of stores, if one is left. -/
def State.storesNext (s : State) (w : Wd) (seq : Nat) (fin : Bool) (done : State → Eff) : Eff :=
  match (if s.team.fail.any (fun f => decide (f.1 ≠ cRACE)) then none else s.storesLeft seq) with
  | none => s.storesGo w seq fin done
  | some n =>
    let need := ((s.storesOf seq).filter (fun r => r.later && r.pass == n)).length
    if s.trackerRefuses s.cur need then .hold (s.trackerWait s.cur need) noReason
    else ((s.leaveWaits s.cur).acceptPass s.cur seq n).storesGo w seq fin done

/-- The first pass of a word of stores has issued. -/
def State.openStorePass (s : State) (w : Wd) (parts : List Part) (op : Option AtomicOp) (rel : Bool) (who : Who) (held fin : Bool) (pass : Nat) :
    State :=
  let seq := s.team.nextSeq
  let s1 := (s.leaveWaits s.cur).addStores (wordBits w.ins) parts op rel who seq held fin pass
  s1.setTeam { s1.team with nextSeq := seq + 1, finishing := fin && !held }

/-- Issue the requests of a store, RED or ATX store, pass by pass. The word is held while its requests await their checks in trap
mode, and while a request to a block-table-mapped page has not been performed. `fin` says that its requests are finished once one has
been accepted; those of a plain store are then waited for until they have been performed (R143, R147, R246). -/
def State.issueStores (s : State) (w : Wd) (parts : List Part) (op : Option AtomicOp) (rel : Bool) (who : Who) (fin : Bool)
    (done : State → Eff) : Eff :=
  match s.team.wait with
  | .access seq => s.storesNext w seq fin done
  | _ =>
    match nextPass (parts.map Part.pass) with
    | none => done (s.setTeam { s.team with nextSeq := s.team.nextSeq + 1 })
    | some n =>
      let need := (parts.filter (fun p => p.pass == n)).length
      let held := who.race = 1 && parts.any (fun p => p.rc)
      if s.trackerRefuses s.cur need then .hold (s.trackerWait s.cur need) noReason
      else
        let s1 := s.openStorePass w parts op rel who held fin n
        if held || (fin && op.isNone) || parts.any (fun p => p.kv || decide (p.pass ≠ n)) then
          .hold (s1.setTeam { s1.team with wait := .access s.team.nextSeq }) noReason
        else done s1

/-! ### Values gathered by a word that waits for them -/

/-- A word that has gathered its values is done with; what its loads have read is kept for a later fence (R378). -/
def Team.gathered (t : Team) (v : LongWord) : Team :=
  let y := t.dropWord v
  { y with race := y.race.pend v.merged }

/-- Gather the elements of a word that waits for their values: `done` takes the pieces once all are fixed. -/
def State.gatherWord (s : State) (w : Wd) (parts : List Part) (lw : LongWord) (done : State → LongWord → Eff) : Eff :=
  match s.team.wait with
  | .access id =>
    (match s.team.word? id with
     | none => .hold (s.setTeam { s.team with wait := .none }) noReason
     | some v =>
       match v.passLeft with
       | some _ => s.issueNext w v (fun s => .hold s noReason)
       | none =>
       match s.team.fail, v.err with
       | some f, _ =>
         if v.allChecked then .trap (s.setTeam { (s.team.dropWord v) with fail := none }) (w.failTrap s f) else .hold s noReason
       | none, some (c, lane, _, a) =>
         if v.parts.all (fun p => p.fixed) then .trap (s.setTeam (s.team.dropWord v)) (w.trap s c 0 a lane) else .hold s noReason
       | none, none =>
         if v.parts.all (fun p => p.fixed) then done (s.setTeam (s.team.gathered v)) v else .hold s noReason)
  | _ =>
    match nextPass (parts.map Part.pass) with
    | none =>
      let (s, id) := s.addWord w { lw with parts := parts }
      .hold (s.setTeam { s.team with wait := .access id }) noReason
    | some n =>
      let v := lw.opened parts
      let lines := v.passNeeds s n
      if s.trackerRefuses s.cur lines.length then .hold (s.trackerWait s.cur lines.length) noReason
      else .hold (s.openPass w v n lines) noReason

/-- A piece of a lane that a word has gathered. -/
def LongWord.piece (w : LongWord) (lane idx : Nat) : W32 :=
  match w.raw.find? (fun x => x.1 == lane && x.2.1 == idx) with
  | some x => x.2.2
  | none => 0

/-! ### Release waves (R206, R239) -/

/-- Start a wave for the current team over the given paths. -/
def State.startWave (s : State) (paths cores : List Nat) (range : Option (W64 × Nat)) : State × Nat :=
  let (id, s) := s.fresh
  ({ s with waves := s.waves ++ [{ id := id, uid := s.cur, core := coreOf s.cur, upto := id, deliver := paths, ack := paths,
                                   cores := cores, range := range }] }, id)

/-- The paths of a wave at a scope: the on-die network at die scope, every shoreline link at dev scope, and at dom and
sys scope the modules and the host agent where the core has a store unacknowledged (R206). -/
def State.wavePaths (s : State) (scope : Nat) : List Nat :=
  let core := coreOf s.cur
  let out (p : Nat) : Bool := (s.cores.get core).tracker.any (fun r => !r.later && s.pathOf r.line == p)
  if scope = 2 then [dieOfCore core]
  else if scope = 3 then List.range 8
  else List.range 8 ++ (if out 8 then [8] else []) ++ (if out 9 then [9] else [])

/-- Whether a wave still runs. -/
def State.waving (s : State) (id : Nat) : Bool := s.waves.any (fun w => w.id == id)

/-- FENCE_TOKEN: the wave's token reaches the end of a path. -/
def State.tokenDelivered (s : State) (id path : Nat) : State :=
  { s with waves := s.waves.map (fun (w : Wave) => if w.id = id then { w with deliver := w.deliver.filter (· ≠ path) } else w) }

/-- Waves that nothing remains to be done for are over. -/
def State.sweepWaves (s : State) : State :=
  { s with waves := s.waves.filter (fun (w : Wave) => !(w.deliver.isEmpty && w.ack.isEmpty && w.cores.isEmpty)) }

/-- FENCE_TOKEN_ACK: the homes of a path have performed every store the core sent down it before the token. -/
def State.tokenAck (s : State) (id path : Nat) : State :=
  match s.waves.find? (fun w => w.id == id) with
  | none => s
  | some w =>
    if w.deliver.contains path || !s.trackerDone w.core w.upto [path] then s
    else ({ s with waves := s.waves.map (fun (v : Wave) =>
      if v.id = id then { v with ack := v.ack.filter (· ≠ path) } else v) }).sweepWaves

/-- A release-class operation of the current team: the clock it carries, and the clock advanced (R370). -/
def State.releaseClock (s : State) : State × Nat :=
  let t := s.team
  (s.setTeam { t with race := t.race.advance }, t.race.clock)

end Sys2Proof.Machine
end

