-- ==== Sys2Proof/Machine/Stash.lean ====
section
/-! DEFINITION. The stash: its private bytes, its mapped ranges, and the words and steps that act on them (R180 to R183,
R213 to R217, R227 to R230). -/

namespace Sys2Proof.Machine

/-! ### Bytes and ranges -/

/-- The stash size of a team's launch (R180). -/
def State.stashSize (s : State) (t : Team) : Nat := (s.gridOf t).launch.stash

/-- The range and the line of the range that a stash offset lies in. -/
def Wg.mappedAt (w : Wg) (off : Nat) : Option (Nat × Nat) :=
  (w.ranges.entries.find? (fun r => r.2.mapped && decide (r.2.soff + 128 * r.2.gone ≤ off) &&
      decide (off < r.2.soff + 128 * r.2.lines))).map
    (fun r => (r.1, (off - r.2.soff) / 128))

/-- The virtual address of a line of a range. -/
def StRange.lineVa (r : StRange) (k : Nat) : W64 := r.gbase + BitVec.ofNat 64 (128 * k)

/-- Bytes of a stash. -/
def Wg.stashBytes (w : Wg) (off n : Nat) : List Byte := (List.range n).map (fun i => w.stash.get (off + i))

/-- Write bytes to a stash. -/
def Wg.setStash (w : Wg) (off : Nat) (l : List Byte) : Wg :=
  { w with stash := (List.range l.length).foldl (fun (st : SMap (0#8)) i => st.set (off + i) (l.getD i 0)) w.stash }

/-- Mark sectors of a line of a range dirty. -/
def Wg.markDirty (w : Wg) (r k sectors : Nat) : Wg :=
  { w with ranges := w.ranges.modify r (fun x => { x with state := x.state.set k (1 + Nat.lor (x.state.get k - 1) sectors) }) }

/-- Store bytes in a stash, as a word or an engine of the workgroup does; a mapped line becomes dirty. -/
def Wg.stashStore (w : Wg) (off : Nat) (l : List Byte) : Wg :=
  let w1 := w.setStash off l
  match w.mappedAt off with
  | some (r, k) => if (w.ranges.get r).state.get k = 0 then w1
      else w1.markDirty r k (touched [{ lane := 0, off := (off - (w.ranges.get r).soff) % 128, size := l.length }])
  | none => w1

/-! ### Filling a mapped line (R181, R217) -/

/-- The place of a mapped line's global line: a fill needs P and W there. -/
def State.fillPlace (s : State) (die ctx : Nat) (acc : Acc) (va : W64) : Except EFault Place1 :=
  match s.translate die ctx acc va with
  | .error f => .error f
  | .ok p => if p.leaf.w then .ok p else .error ⟨cPROTECT, acc.code * 16 + p.leaf.level, va⟩

/-- Whether a core may take a line as its own now. -/
def State.fillReady (s : State) (core line : Nat) : Bool :=
  (s.stashOwner line).isNone && !s.copiesElsewhere core line &&
  (s.cores.get core).tracker.all (fun r => r.line != line || r.performed || r.held || r.later)

/-- Fill a mapped line from its global line: the copy of a sector that is uncorrectable at home is uncorrectable too (R190). (DESIGN CHOICE,
log entry 69) -/
def State.fillLine (s0 : State) (wg r k line : Nat) : State :=
  let off := ((s0.wgs.get wg).ranges.get r).soff + 128 * k
  let s := ((List.range 8).foldl (fun (s : State) (j : Nat) =>
    { s with bad := s.bad.set (stashKey wg (off / 16 + j)) (s.badSector (line / 16 + j)) }) s0).fillSectors line 128
  let bytes := s.bytesAt line 128
  let s1 := s.modCore (s.wgs.get wg).core (fun c => { c with l1 := c.l1.filter (· ≠ line) })
  s1.modWg wg (fun w =>
    let x := w.ranges.get r
    let w1 := w.setStash (x.soff + 128 * k) bytes
    { w1 with ranges := w1.ranges.put r { x with state := x.state.set k 1, pas := x.pas.set k line } })

/-! ### VLDS and VSTS (R213 to R217) -/

/-- A stash access of one lane that has passed its checks, with the mapped line that it must fill or find, and whether its
page is race-checked. -/
structure StashAcc where
  req : LaneReq
  line : Option (Nat × Nat × Nat)
  rc : Bool := false

/-- Check one lane: alignment, the stash bound, the fill of an invalid mapped line, and the place of its check word (R171). -/
def State.checkStash1 (s : State) (t : Team) (die : Nat) (acc : Acc) (r : LaneReq) : Except EFault StashAcc :=
  if r.va.toNat % r.size ≠ 0 then .error ⟨cALIGN, 0, r.va⟩
  else if s.stashSize t < r.va.toNat + r.size then .error ⟨cSTASHRANGE, 0, r.va⟩
  else match (s.wgOf t).mappedAt r.va.toNat with
    | none => .ok ⟨r, none, false⟩
    | some (n, k) =>
      let x := (s.wgOf t).ranges.get n
      let va := x.lineVa k
      let held := x.state.get k ≠ 0
      match (if held then s.translate die t.place.ctx acc va else s.fillPlace die t.place.ctx acc va) with
      | .error f => if held then .ok ⟨r, some (n, k, x.pas.get k), false⟩ else .error f
      | .ok p =>
        if s.shadowFails (s.gridOf t).launch.race p then .error ⟨cPROTECT, acc.code * 16 + p.leaf.level, va⟩
        else .ok ⟨r, some (n, k, if held then x.pas.get k else lineOf p.pa), p.checked⟩

/-- Check every lane; the lowest failing lane is reported. -/
def State.checkStash (s : State) (t : Team) (die : Nat) (acc : Acc) : List LaneReq → Except (Nat × EFault) (List StashAcc)
  | [] => .ok []
  | r :: rest => match s.checkStash1 t die acc r with
    | .error f => .error (r.lane, f)
    | .ok a => match s.checkStash t die acc rest with
      | .error f => .error f
      | .ok l => .ok (a :: l)

/-- The mapped lines that a word touches, each once. -/
def linesOf (l : List StashAcc) : List (Nat × Nat × Nat) := (l.filterMap (·.line)).eraseDups

/-- Whether every mapped line that a word touches is valid, or can be filled now; what the core's miss tracker has accepted for the
global line has been performed, and no engine of the team has still to write it (R193, R197, R210). -/
def State.linesReady (s : State) (uid wg : Nat) (l : List (Nat × Nat × Nat)) : Bool :=
  let core := coreOf uid
  l.all (fun x =>
    ((((s.wgs.get wg).ranges.get x.1).state.get x.2.1 != 0) || s.fillReady core x.2.2) &&
    (s.cores.get core).tracker.all (fun r => r.line != x.2.2 || r.performed || r.held || r.later) &&
    !s.engineOwns uid (s.teams.get uid).nextSeq x.2.2)

/-- Fill the lines of a list that are invalid. -/
def State.fillLines (s : State) (wg : Nat) (l : List (Nat × Nat × Nat)) : State :=
  l.foldl (fun s x => if ((s.wgs.get wg).ranges.get x.1).state.get x.2.1 = 0 then s.fillLine wg x.1 x.2.1 x.2.2 else s) s

/-- The name that a private stash line has among the lines of requests: above every physical address. -/
def stashLineName (off : Nat) : Nat := 2 ^ 64 + off / 128 * 128

/-- Whether a copy of the team still has to write a stash line (R210). -/
def Copy.ownsStash (c : Copy) (owner off : Nat) : Bool :=
  c.active && c.owner == owner && c.dir.testBit 0 &&
  (List.range c.rows).any (fun r => overlap (off / 128 * 128) 128 (c.dst.toNat + r * c.dstPitch) c.rowBytes) &&
  !c.doneLines.contains (off / 128)

def State.engineOwnsStash (s : State) (uid off : Nat) : Bool :=
  s.copies.entries.any (fun c => c.2.ownsStash (s.teams.get uid).key off) ||
  s.cores.entries.any (fun c => c.2.queues.entries.any (fun q => q.2.ownsStash (s.teams.get uid).key off)) ||
  (s.teams.get uid).words.any (fun w => w.kind == .mdrain && w.lines.contains (2 ^ 60 + off / 128))

/-- A stash request, in the form of a request of a word: `va` is the offset of the line. -/
def insertStash (a : StashAcc) (l : List Part) : List Part :=
  let off := a.req.va.toNat
  let line := match a.line with | some x => x.2.2 | none => stashLineName off
  let e : Elem := { lane := a.req.lane, idx := a.req.idx, off := off % 128, size := a.req.size, x := a.req.x }
  match l.find? (fun p => p.line == line && p.va.toNat == off / 128 * 128 && p.pass == a.req.lane / 32) with
  | none => l ++ [{ line := line, va := BitVec.ofNat 64 (off / 128 * 128), elems := [e], rc := a.rc }]
  | some _ => l.map (fun p =>
      if p.line = line ∧ p.va.toNat = off / 128 * 128 ∧ p.pass = a.req.lane / 32 then { p with elems := p.elems ++ [e] } else p)

/-- The global address of the line that a stash offset is mapped to. -/
def State.stashVa (s : State) (wg off : Nat) : W64 :=
  let g := s.wgs.get wg
  match g.mappedAt off with
  | some (n, k) => (g.ranges.get n).lineVa k
  | none => 0

/-- A stash request on a mapped line as a race check sees it (R384). -/
def State.stashReq (s : State) (wg : Nat) (p : Part) (who : Who) (store : Bool) : RReq :=
  { who := who, line := p.line, va := s.stashVa wg p.va.toNat, elems := p.elems, reads := !store, writes := store, atomic := false }

/-- Check every request of a trap-mode word before any of them is performed; the trap where one races (R386). -/
def State.stashTrap (s : State) (w : Wd) (wg : Nat) (parts : List Part) (who : Who) (store : Bool) : State × Option TrapReq :=
  if who.race ≠ 1 then (s, none)
  else
    let s1 := parts.foldl (fun s p =>
      if who.checks p.rc then
        let o := s.raceCheck (s.stashReq wg p who store) (if store then [] else s.earlyEntries (coreOf s.cur) p.line)
        o.st.noteRace s.cur (s.stashVa wg p.va.toNat) p.elems o
      else s) s
    match s1.team.fail with
    | none => (s1, none)
    | some f => (s1.setTeam { s1.team with fail := none }, some (w.failTrap s1 f))

/-- Write bytes of one line into a stash; on a mapped line, a store that counts as performed at home (R197, R398). -/
def State.stashWrite (s : State) (wg line off : Nat) (l : List Byte) (who : Who) : State :=
  let s1 := s.modWg wg (fun g => g.stashStore off l)
  if line < 2 ^ 64 then s.watchTest s1 (line + off % 128) l.length who else s1

/-- Perform a stash store request: on a mapped line, with the check, the check word and the release record of a store at
home (R197, R377, R383, R384). -/
def State.stashPerform (s : State) (wg : Nat) (p : Part) (who : Who) : State :=
  let r := s.stashReq wg p who true
  let checks := who.checks p.rc
  let o : RaceOut := if checks && (who.race ≠ 1 || who.engine) then s.raceCheck r [] else { st := s }
  let kept := p.elems.filter (fun e => Nat.land (touched [e]) o.drop = 0)
  let s0 := if s.bad.entries.isEmpty then o.st
    else (List.range 8).foldl (fun (s : State) (j : Nat) =>
      if (whole kept).testBit j then s.mended (stashKey wg (p.va.toNat / 16 + j)) else s) o.st
  let s1 := kept.foldl (fun s e => s.stashWrite wg p.line (p.va.toNat + e.off) (leBytes e.size e.x.toNat) who) s0
  let s2 := if checks && !kept.isEmpty then s1.raceUpdate r kept true else s1
  if p.line < 2 ^ 64 && !kept.isEmpty then (s2.releaseUpdate p.line who false false).wake (s.wgs.get wg).core p.line else s2

/-- Issue a stash load: its mapped lines are filled, and its values are fixed later, pass by pass. -/
def State.stashLoad (s : State) (w : Wd) (reqs : List LaneReq) (lw : LongWord) : Eff :=
  let t := s.team
  match s.checkStash t (dieOf s.cur) .load reqs with
  | .error f => .trap s (w.laneTrap s f)
  | .ok l =>
    let wg := t.wgKey
    if !s.linesReady s.cur wg (linesOf l) || l.any (fun a => s.engineOwnsStash s.cur a.req.va.toNat) then .hold s noReason
    else
      let parts := l.foldl (fun ps a => insertStash a ps) []
      match (s.fillLines wg (linesOf l)).stashTrap w wg parts lw.who false with
      | (s1, some r) => .trap s1 r
      | (s1, none) => s1.outstanding w { lw with parts := parts } false

/-- Whether an outstanding load of the team reads what a stash store is about to write (R195). -/
def Team.stashPending (t : Team) (lines : List (Nat × Nat × Nat)) : Bool :=
  t.words.any (fun v => v.kind != .gather && v.parts.any (fun p =>
    !p.fixed && (v.kind == .stash || lines.any (fun x => x.2.2 == p.line))))

/-- The blocks that a store to mapped lines needs for itself (R188): with the state as it is, or as the next step of a copy leaves it,
or the cause of a trap with its lane. A line whose block is copied is given back first. -/
def State.ownBlocks (s : State) (wg : Nat) (who : Who) : List StashAcc → Except (State × Option (Nat × Nat × W64)) State
  | [] => .ok s
  | a :: rest =>
    match a.line with
    | none => s.ownBlocks wg who rest
    | some (n, k, line) =>
      let va := ((s.wgs.get wg).ranges.get n).lineVa k
      match s.translate (dieOf who.uid) who.ctx .store va with
      | .error _ => s.ownBlocks wg who rest
      | .ok p =>
        match s.writeTarget p.leaf.kv who.ctx line va who with
        | .fail c => .error (s, some (c, a.req.lane, va))
        | .wait s1 => .error (s1, none)
        | .at_ l s1 => if l = line then s1.ownBlocks wg who rest else .error (s1.handBack line, none)

/-- One pass of a stash store, whose lanes have passed their checks: performed when its lines are ready. -/
def State.stashPass (s : State) (w : Wd) (l : List StashAcc) (who : Who) (done : State → Eff) : Eff :=
  let wg := s.team.wgKey
  let lines := linesOf l
  if s.team.stashPending lines || !s.team.acquiresFixed s.team.nextSeq || !s.linesReady s.cur wg lines
      || l.any (fun a => s.engineOwnsStash s.cur a.req.va.toNat) then .hold s noReason
  else match s.ownBlocks wg who l with
    | .error (s1, none) => .hold s1 noReason
    | .error (s1, some (c, lane, va)) => .trap s1 (w.trap s1 c 0 va lane)
    | .ok s1 =>
      let parts := l.foldl (fun ps a => insertStash a ps) []
      done (parts.foldl (fun s p => s.stashPerform wg p who) (s1.fillLines wg lines))

/-- The lanes of a pass, and those of later ones. -/
def firstPass (reqs : List LaneReq) : List LaneReq × List LaneReq :=
  match nextPass (reqs.map (fun r => r.lane / 32)) with
  | none => ([], [])
  | some n => (reqs.filter (fun r => r.lane / 32 == n), reqs.filter (fun r => r.lane / 32 != n))

/-- The lanes of a stash store that an open word still holds. -/
def LongWord.lanesLeft (v : LongWord) : List LaneReq :=
  v.parts.flatMap (fun p => p.elems.map (fun e => { lane := e.lane, va := p.va + BitVec.ofNat 64 e.off, size := e.size, x := e.x }))

/-- Keep the later passes of a stash store in an open word of the team. -/
def keepLanes (reqs : List LaneReq) : List Part :=
  reqs.map (fun r => { line := stashLineName r.va.toNat, va := BitVec.ofNat 64 (r.va.toNat / 128 * 128),
                       elems := [{ lane := r.lane, off := r.va.toNat % 128, size := r.size, x := r.x }] })

/-- A stash store: every lane is checked before any is performed, and its passes are performed as they issue (R20, R171). Outstanding
loads of the team come first (R195). -/
def State.stashStores (s : State) (w : Wd) (reqs : List LaneReq) : Eff :=
  let t := s.team
  match t.wait with
  | .access id =>
    (match t.word? id with
     | none => .next s
     | some v =>
       let (now, later) := firstPass v.lanesLeft
       match s.checkStash t (dieOf s.cur) .store now with
       | .error f => .trap s (w.laneTrap s f)
       | .ok l => s.stashPass w l v.who (fun s =>
           if later = [] then .next (s.setTeam (s.team.dropWord v))
           else .hold ((s.setTeam (s.team.setWord { v with parts := keepLanes later })).issued s.cur 1) noReason))
  | _ =>
    match s.checkStash t (dieOf s.cur) .store reqs with
    | .error f => .trap s (w.laneTrap s f)
    | .ok l =>
      let who := s.whoOf s.cur
      let (now, later) := firstPass reqs
      let pass (s : State) : (State → Eff) → Eff := s.stashPass w (l.filter (fun a => now.any (fun r => r.lane == a.req.lane))) who
      match pass s .next with
      | .next _ =>
        -- the race checks of a trap-mode word cover all its passes, and come before any of them (R386)
        (match s.stashTrap w t.wgKey (l.foldl (fun ps a => insertStash a ps) []) who true with
         | (s1, some r) => .trap s1 r
         | (s1, none) => pass s1 (fun s2 =>
           if later = [] then .next s2
           else
             let (s3, id) := s2.addWord w { id := 0, kind := .gather, parts := keepLanes later, who := who }
             .hold (s3.setTeam { s3.team with wait := .access id }) noReason))
      | e => e

/-- A request on a stash line whose page has been recalled since its word issued: the line is filled again, where that can be done. -/
def State.refill (s : State) (uid : Nat) (p : Part) : Option State :=
  let t := s.teams.get uid
  match (s.wgOf t).mappedAt p.va.toNat with
  | none => some s
  | some (n, k) =>
    if ((s.wgOf t).ranges.get n).state.get k ≠ 0 then some s
    else match s.fillPlace (dieOf uid) t.place.ctx .load (((s.wgOf t).ranges.get n).lineVa k) with
      | .error _ => none
      | .ok q => if s.fillReady (coreOf uid) (lineOf q.pa) then some (s.fillLine t.wgKey n k (lineOf q.pa)) else none

/-- The first element of a request whose stash sectors are uncorrectable. -/
def State.badStash (s : State) (wg : Nat) (p : Part) : Option Elem :=
  if s.bad.entries.isEmpty then none
  else p.elems.find? (fun e => (List.range ((e.size + 15) / 16)).any (fun j => s.bad.get (stashKey wg ((p.va.toNat + e.off) / 16 + j))))

/-- LOAD_AT_HOME of a stash request: its value is what the stash holds now; on a mapped line, as the core's teams see that line (R197,
R378, R384). -/
def State.stashPart (s : State) (uid id k : Nat) : State :=
  let t := s.teams.get uid
  match t.word? id with
  | none => s
  | some w => match w.parts[k]? with
    | none => s
    | some p =>
      if p.fixed || !t.lineFixed w.seq p.pass p.line || !t.acquiresFixed w.seq || !s.storesDone (coreOf uid) uid w p.line then s
      else match (s.mendStash p.line uid w.who.ctx).refill uid p with
      | none => s
      | some s =>
        let t := s.teams.get uid
        match s.badStash t.wgKey p with
        | some e =>
          (s.errRecord (if p.line < 2 ^ 64 then p.line + e.off else 0) 2 (dieOf uid) (some uid) (some w.who.ctx)).modTeam uid (fun t =>
            t.setWord { w.setPart k (fun p => { p with fixed := true }) with err := some (cMEMERR, e.lane, 0, p.va + BitVec.ofNat 64 e.off) })
        | none =>
          let core := coreOf uid
          let own := ((s.wgOf t).mappedAt p.va.toNat).map (fun x => ((s.wgOf t).ranges.get x.1).pas.get x.2)
          let mapped := own.isSome
          let p := { p with line := own.getD p.line }
          let line := if mapped then s.coreLine core p.line uid w.seq else (s.wgOf t).stashBytes p.va.toNat 128
          let who := t.knowing w.seq w.who
          let r := s.stashReq t.wgKey p who false
          let s1 := if who.checks p.rc then
              let s1 := if who.race = 1 then s else (s.raceCheck r (s.earlyEntries core p.line)).st
              s1.raceUpdate r p.elems false
            else s
          let rr := if mapped then s.recordSeen core p.line uid w.seq p.elems else {}
          let s2 := if mapped then (s1.putRelease p.line (s1.releaseRec p.line)).observe uid
              ((s.earlySeen core p.line uid w.seq p.elems).filter (fun r => r.uid ≠ uid)) else s1
          s2.modTeam uid (fun t => t.setWord { w.setPart k (fun p => { p with fixed := true }) with
            results := w.results ++ readElems w.width line p.elems, merged := w.merged ++ rr.some? })

/-! ### Recalls and write-backs (R182, R183) -/

/-- Whether a stash access to a line is in progress. -/
def State.stashBusy (s : State) (line : Nat) : Bool :=
  s.teams.entries.any (fun t => t.2.words.any (fun w => w.kind == .stash && w.parts.any (fun p => p.line == line && !p.fixed)))

/-- STASH_RECALL of a line that a core holds in a stash. -/
def State.recall (s : State) (core line : Nat) : State :=
  match s.stashOwner line with
  | none => s
  | some (wg, r, k) =>
    if (s.wgs.get wg).core ≠ core ∨ s.stashBusy line then s else s.recallLine wg r k

/-- Write back the dirty lines of a range, from line k on; where a translation fails, the fault that holds the rest. A line of a
block-table-mapped page lies in a block of its own since it became dirty (R188). -/
def State.backRange (s : State) (die ctx wg n : Nat) : Nat → Nat → State × Option EFault
  | 0, _ => (s, none)
  | fuel + 1, k =>
    let x := (s.wgs.get wg).ranges.get n
    if x.lines ≤ k then (s, none)
    else if x.state.get k ≤ 1 then s.backRange die ctx wg n fuel (k + 1)
    else match s.translate die ctx .engWrite (x.lineVa k) with
      | .error f => (s, some f)
      | .ok _ =>
        let s0 := s.reportLost (x.pas.get k)
        let x := (s0.wgs.get wg).ranges.get n
        let s1 := s0.writeSectors (x.pas.get k) ((s0.wgs.get wg).stashBytes (x.soff + 128 * k) 128) (x.state.get k - 1)
        let s2 := s1.modWg wg (fun w => { w with ranges := w.ranges.put n { x with state := x.state.set k 1 } })
        s2.backRange die ctx wg n fuel (k + 1)

/-- End the mapping of one line of a range: a valid line keeps its bytes, an invalid one becomes zero. -/
def Wg.unmapLine (w : Wg) (n k : Nat) : Wg :=
  let x := w.ranges.get n
  let w1 := if x.state.get k = 0 then w.setStash (x.soff + 128 * k) (List.replicate 128 0) else w
  { w1 with ranges := w1.ranges.put n { x with state := x.state.set k 0, gone := k + 1 } }

/-- End the mapping of one line of a range, and with its last line the range itself. -/
def Wg.endLine (w : Wg) (n k : Nat) : Wg :=
  let w1 := w.unmapLine n k
  let x := w1.ranges.get n
  if x.lines ≤ x.gone then { w1 with ranges := w1.ranges.drop n } else w1

/-- End the mapping of a range, line by line. -/
def Wg.unmap (w : Wg) (n : Nat) : Wg :=
  let x := w.ranges.get n
  let w1 := (List.range (x.lines - x.gone)).foldl (fun (w : Wg) k => w.unmapLine n (x.gone + k)) w
  { w1 with ranges := w1.ranges.drop n }

/-! ### STSH words (R227 to R230) -/

/-- Whether an STUNMAP of another team of the workgroup is in progress, which the team's STSH words come after (R227). -/
def State.unmapping (s : State) : Bool :=
  s.teams.entries.any (fun e => e.1 ≠ s.cur && e.2.wgKey == s.team.wgKey && e.2.wait == .unmap)

/-- STMAP (R228). (DEDUCED, log entry 24) -/
def execStmap (a b : BitVec 6) (n : BitVec 8) (s : State) : Out :=
  s.runWord (.stmap a b n) (fun w s =>
    let t := s.team
    let g := s.wgOf t
    let base := w.r.readS a.toNat
    let x := w.r.readS b.toNat
    let off := x.toNat % 2 ^ 32
    let lines := x.toNat / 2 ^ 32 % 65536
    let same (r : StRange) : Bool := r.gbase == base && r.soff == off && r.lines == lines
    let mine := g.ranges.get n.toNat
    let others := g.ranges.entries.filter (fun r => r.2.mapped && r.1 ≠ n.toNat)
    if s.unmapping then .hold s noReason
    else if base.toNat % 128 ≠ 0 then .trap s (w.trap s cALIGN 0 base)
    else if canonical base = false then .trap s (w.trap s cPROTECT (Acc.engWrite.code * 16 + Config.noWalkLevel.toNat) base)
    else if x.toNat / 2 ^ 48 ≠ 0 ∨ off % 128 ≠ 0 ∨ lines = 0 ∨ 12288 < lines ∨ s.stashSize t < off + 128 * lines
        ∨ others.any (fun r => overlap r.2.soff (128 * r.2.lines) off (128 * lines)
            || overlap r.2.gbase.toNat (128 * r.2.lines) base.toNat (128 * lines))
        ∨ (mine.mapped ∧ !same mine) then .trap s (w.trap s cSTASHRANGE 0 (BitVec.ofNat 64 off))
    else if mine.mapped then .next s
    else
      let x1 : StRange := { mapped := true, gbase := base, soff := off, lines := lines }
      .next (s.modWg t.wgKey (fun g => { g with ranges := g.ranges.put n.toNat x1 })))

/-- The ranges that an IMM8 names. -/
def Wg.named (w : Wg) (n : BitVec 8) : List Nat :=
  let l := if n = 255 then List.range 8 else [n.toNat]
  l.filter (fun k => (w.ranges.get k).mapped)

/-- Write back the named ranges, or as many lines as can be written before a fault. -/
def State.flushRanges (s : State) (t : Team) : List Nat → State × Option EFault
  | [] => (s, none)
  | n :: rest =>
    match s.backRange (dieOf s.cur) t.place.ctx t.wgKey n 12289 0 with
    | (s1, none) => s1.flushRanges t rest
    | (s1, some f) => (s1, some f)

/-- A fault holds a write-back of the current team: it is reported, and the word waits for the residency signal; a fault of another
cause traps (R172, R229). (DEDUCED, log entry 82) -/
def State.holdFlush (s : State) (w : Wd) (f : EFault) : Eff :=
  if f.cause = cNOTPRESENT then
    let s1 := s.holdFault s.team.place.ctx f s.cur
    .hold (s1.setTeam { s1.team with wait := .resident f.addr }) noReason
  else .trap s (w.trap s f.cause f.detail f.addr)

/-- Whether no access of the team to its stash is outstanding. -/
def Team.stashQuiet (t : Team) : Bool := t.words.all (fun w => w.kind != .stash || w.parts.all (fun p => p.fixed))

/-- STFLUSH (R229). -/
def execStflush (n : BitVec 8) (s : State) : Out :=
  s.runWord (.stflush n) (fun w s =>
    match s.team.wait with
    | .resident _ => .hold s noReason
    | _ =>
      if s.unmapping then .hold s noReason
      else match s.flushRanges s.team ((s.wgOf s.team).named n) with
        | (s1, none) => .next s1
        | (s1, some f) => s1.holdFlush w f)

/-- The next line that an STUNMAP of some ranges ends the mapping of: the range, the line, and whether it is the last of all. -/
def Wg.nextUnmap (w : Wg) : List Nat → Option (Nat × Nat × Bool)
  | [] => none
  | n :: rest =>
    let x := w.ranges.get n
    some (n, x.gone, decide (x.lines ≤ x.gone + 1) && rest.isEmpty)

/-- STUNMAP (R229): one line after another, each written back before its mapping ends. (DEDUCED, log entry 83) -/
def execStunmap (n : BitVec 8) (s : State) : Out :=
  s.runWord (.stunmap n) (fun w s =>
    let t := s.team
    let wg := t.wgKey
    let names := (s.wgOf t).named n
    match t.wait, (s.wgOf t).nextUnmap names with
    | .resident _, _ => .hold s noReason
    | _, none => .next s
    | _, some (r, k, last) =>
      if !t.stashQuiet || s.unmapping then .hold s noReason
      else match s.flushRanges t [r] with
        | (s1, some f) => s1.holdFlush w f
        | (s1, none) =>
          let s2 := s1.modWg wg (fun g => g.endLine r k)
          if last then .next s2 else .hold ((s2.setTeam { s2.team with wait := .unmap }).issued s.cur 1) noReason)

/-- The state of a range as STQRY shows it (R230). -/
def StRange.query (r : StRange) : W64 × W64 :=
  if r.mapped then
    let dirty := (r.state.entries.filter (fun k => decide (1 < k.2))).length
    (r.gbase, BitVec.ofNat 64 (2 ^ 63 + dirty * 2 ^ 48 + r.lines * 2 ^ 32 + r.soff))
  else (0, 0)

/-- STQRY (R230). -/
def execStqry (d : BitVec 6) (n : BitVec 8) (s : State) : Out :=
  s.runWord (.stqry d n) (fun _ s =>
    let q := ((s.wgOf s.team).ranges.get n.toNat).query
    if s.unmapping then .hold s noReason
    else .next (s.withRegs (fun r => (r.writeS d.toNat q.1).writeS (d.toNat + 1) q.2)))

/-- STASH_RECALL (R182). -/
def execStashRecall (core line : Nat) (s : State) : Out := s.event (fun s => s.recall core line)

end Sys2Proof.Machine
end

