-- ==== Sys2Proof/Machine/Loads.lean ====
section
/-! DEFINITION. Vector and scalar loads and stores, and prefetch (R213 to R219, R226). -/

namespace Sys2Proof.Machine

/-! ### Addresses and data (R214, R215, R219) -/

/-- The element size of an access width. -/
def widthSize (w : BitVec 3) : Nat :=
  if w = 1 ∨ w = 6 then 2 else if w = 2 then 4 else if w = 3 then 8 else if w = 4 then 16 else 1

/-- The address of a lane of a format M word. -/
def Wd.address (w : Wd) (b i : BitVec 6) (k j : BitVec 1) (size l : Nat) : W64 :=
  (if k = 0 then w.r.readS b.toNat else w.r.aLane b.toNat l) +
  (if j = 0 then (w.r.readV i.toNat l).signExtend 64 else w.imm * BitVec.ofNat 64 size)

/-- The data of a lane that a store takes. -/
def Wd.storeData (w : Wd) (v : BitVec 6) (wd : BitVec 3) (l : Nat) : BitVec 128 :=
  let x (k : Nat) : W32 := w.r.readV (v.toNat + k) l
  if wd = 4 then x 3 ++ x 2 ++ x 1 ++ x 0 else if wd = 3 then (x 1 ++ x 0).setWidth 128 else (x 0).setWidth 128

/-- The lanes of a load, whose values go to registers from VD on. -/
def Wd.loadReqs (w : Wd) (v b i : BitVec 6) (k j : BitVec 1) (wd : BitVec 3) : List LaneReq :=
  w.lanes.map (fun l => { lane := l, va := w.address b i k j (widthSize wd) l, size := widthSize wd, idx := v.toNat })

/-- The lanes of a store. -/
def Wd.storeReqs (w : Wd) (v b i : BitVec 6) (k j : BitVec 1) (wd : BitVec 3) : List LaneReq :=
  w.lanes.map (fun l =>
    { lane := l, va := w.address b i k j (widthSize wd) l, size := widthSize wd, x := w.storeData v wd l })

/-- The outstanding word of a load. -/
def Wd.loadWord (w : Wd) (kind : LongKind) (wd : BitVec 3) (who : Who) : LongWord :=
  { id := 0, kind := kind, width := wd, dests := useSet w.f.writes, who := who }

/-! ### Global accesses -/

/-- Check a word's lanes and issue its requests as those of an outstanding word. -/
def State.issueLoad (s : State) (w : Wd) (acc : Acc) (plain : Bool) (reqs : List LaneReq) (lw : LongWord) : Eff :=
  let t := s.team
  match t.wait with
  | .access _ => s.issueWord w [] lw .next
  | _ =>
    match s.checkLanes (dieOf s.cur) t.place.ctx lw.who.race acc plain reqs with
    | .error f => .trap s (w.laneTrap s f)
    | .ok l => (s.fillCaches (coreOf s.cur) t.place.ctx (some s.cur) (reqs.map (·.va))).issueWord w (gather l) lw .next

/-- Check a word's lanes and give its stores to the miss tracker. -/
def State.issueStore (s : State) (w : Wd) (reqs : List LaneReq) (done : State → Eff) : Eff :=
  let t := s.team
  let who := s.whoOf s.cur
  match t.wait with
  | .access _ => s.issueStores w [] none false who false done
  | _ =>
    match s.checkLanes (dieOf s.cur) t.place.ctx who.race .store false reqs with
    | .error f => .trap s (w.laneTrap s f)
    | .ok l => (s.fillCaches (coreOf s.cur) t.place.ctx (some s.cur) (reqs.map (·.va))).issueStores w (gather l) none false who false done

/-- VLDG (R213). -/
def execVldg (v b i : BitVec 6) (k j g : BitVec 1) (wd : BitVec 3) (f c : BitVec 1) (s : State) : Out :=
  s.runWord (.vldg v b i k j g wd f c) (fun w s =>
    s.issueLoad w .load false (w.loadReqs v b i k j wd) (w.loadWord .load wd (s.whoOf s.cur)))

/-- VSTG (R213). -/
def execVstg (v b i : BitVec 6) (k j g : BitVec 1) (wd : BitVec 3) (c : BitVec 1) (s : State) : Out :=
  s.runWord (.vstg v b i k j g wd c) (fun w s => s.issueStore w (w.storeReqs v b i k j wd) .next)

/-- VLDS (R217). -/
def execVlds (v b i : BitVec 6) (k j g : BitVec 1) (wd : BitVec 3) (f c : BitVec 1) (s : State) : Out :=
  s.runWord (.vlds v b i k j g wd f c) (fun w s =>
    s.stashLoad w (w.loadReqs v b i k j wd) (w.loadWord .stash wd (s.whoOf s.cur)))

/-- VSTS (R217). -/
def execVsts (v b i : BitVec 6) (k j g : BitVec 1) (wd : BitVec 3) (c : BitVec 1) (s : State) : Out :=
  s.runWord (.vsts v b i k j g wd c) (fun w s => s.stashStores w (w.storeReqs v b i k j wd))

/-! ### Scalar accesses (R219) -/

/-- The lane that records of a uniform word show. -/
def noLane : Nat := 0xFFFF

/-- SLD (R219). -/
def execSld (d a : BitVec 6) (o : BitVec 13) (f : BitVec 1) (s : State) : Out :=
  s.runWord (.sld d a o f) (fun w s =>
    s.issueLoad w .load false [{ lane := noLane, va := w.r.readS a.toNat + 8 * w.imm, size := 8 }]
      { w.loadWord .scalar 3 (s.whoOf s.cur) with reg := d.toNat })

/-- SST (R219). -/
def execSst (d a : BitVec 6) (o : BitVec 13) (s : State) : Out :=
  s.runWord (.sst d a o) (fun w s =>
    s.issueStore w [{ lane := noLane, va := w.r.readS a.toNat + 8 * w.imm, size := 8,
                      x := (w.r.readS d.toNat).setWidth 128 }] .next)

/-! ### Prefetch (R226) -/

/-- The lines of a prefetch that can be brought in. -/
def State.prefLines (s : State) (acc : Acc) (va : W64) (n : Nat) : List Nat :=
  (List.range n).filterMap (fun k =>
    match s.translate (dieOf s.cur) s.team.place.ctx acc (va - BitVec.ofNat 64 (va.toNat % 128) + BitVec.ofNat 64 (128 * k)) with
    | .ok p => some (lineOf p.pa)
    | .error _ => none)

/-- A line enters the sampler cache of a core, which holds 256 KiB; the line that came first leaves it (R1, R175). -/
def State.samplerKeep (s : State) (core line : Nat) : State :=
  s.modCore core (fun c => if c.sampler.contains line then c else { c with sampler := (line :: c.sampler).take 2048 })

/-- PREF: it affects no value; a line for the sampler path enters the sampler cache. -/
def execPref (a : BitVec 6) (t : BitVec 2) (n : BitVec 8) (s : State) : Out :=
  s.runWord (.pref a t n) (fun w s =>
    let va := w.r.readS a.toNat
    let core := coreOf s.cur
    .next (
      if t = 2 then
        (s.prefLines .sampler va (n.toNat + 1)).foldl (fun s l => s.samplerKeep core l) s
      else if t = 1 then
        let lines := s.prefLines .load va (n.toNat + 1)
        s.modCore core (fun c => if c.ways < 32 then
          { c with l1 := c.l1 ++ lines.filter (fun l => !c.l1.contains l) } else c)
      else s))

end Sys2Proof.Machine
end

