-- ==== Sys2Proof/Machine/Atomics.lean ====
section
/-! DEFINITION. Fences and the atomic words (R159, R160, R199, R206, R225, R239 to R246). -/

namespace Sys2Proof.Machine

/-! ### Release ordering (R206, R239) -/

/-- Begin what a release-class word of the current team waits for at a scope: a token wave at die scope and wider. The number it
answers names the wave; requests numbered below it come first. -/
def State.startRelease (s : State) (scope : BitVec 3) : State × Nat :=
  if scope.toNat < 2 then (s.fresh.2, s.fresh.1) else s.startWave (s.wavePaths scope.toNat) [] none

/-- Whether what a release waits for is done: at wg scope nothing remains, since its core shows what it has accepted; from cl scope on,
the stores that it carries have been performed at their homes (R200, R201), and a wave has come back (R206). -/
def State.releaseDone (s : State) (scope : BitVec 3) (id : Nat) : Bool :=
  scope = 0 || ((decide (scope = 1) || !s.waving id) && s.carriedDone s.cur id false)

/-! ### FENCE (R199, R225) -/

/-- The cores whose sampler caches a fence invalidates (R159, R160). -/
def State.scopeCores (s : State) (scope : BitVec 3) : List Nat :=
  let core := coreOf s.cur
  if scope = 0 then [core]
  else if scope = 1 then
    let k := s.clusterOf s.team
    let g := s.team.place.grid
    ((s.wgs.entries.filter (fun w => w.2.bound && w.2.grid == g && w.2.index / (s.grids.get g).k == k)).map (fun w => w.2.core)).eraseDups
  else if scope = 2 then coresOfDie (dieOfCore core)
  else allCores

/-- Merge the release records that a team's relaxed loads and atomics have read: those kept for its fence, and those of words whose
values are fixed but which have not completed (R378). -/
def State.mergePending (s : State) (uid : Nat) : State :=
  let t := s.teams.get uid
  let mine (w : LongWord) : Bool := !w.ord.getLsbD 0
  let l := t.race.pending ++ (t.words.filter mine).flatMap (fun w => w.merged)
  l.foldl (fun s r => s.acquire uid r) (s.modTeam uid (fun t =>
    { t with race := { t.race with pending := [] }, words := t.words.map (fun w => if mine w then { w with merged := [] } else w) }))

/-- What a fence does last: an acquire merges, and what its core's miss tracker has accepted counts as observed. -/
def State.fenceEnd (s : State) (ord : BitVec 2) : Eff := .next (if ord.getLsbD 0 then (s.mergePending s.cur).observeAll s.cur else s)

/-- Whether the stores that the sampler part of a fence waits for are acknowledged: the team's own, its atomics among them, and, for rel
and ar, those that it has observed, be its scope what it may (R159, R160). -/
def State.smpReady (s : State) (o : BitVec 2) : Bool :=
  let t := s.team
  (s.cores.get (coreOf s.cur)).tracker.all (fun r => !(r.uid == s.cur || (o.getLsbD 1 && t.observes s.cur r))) &&
  t.words.all (fun w => w.parts.all (fun p => p.fixed) || (match w.op with | some op => !op.mayWrite | none => true))

/-- The sampler part of a fence: the stores it waits for, and the invalidation (R159), which takes 32 clocks (R160). -/
def State.fenceSmp (s : State) (p : BitVec 3) (o : BitVec 2) : Eff :=
  if s.smpReady o then
    let (s1, id) := s.startWave [] (s.scopeCores p) none
    .hold (s1.setTeam { s1.team with wait := .invalidation id ((s1.dies.get (dieOf s.cur)).clk + 32) }) noReason
  else .hold s noReason

/-- A wait that ends no sooner than a clock of the current team's die. -/
def State.untilClock (s : State) (clk : Nat) : State :=
  let d := s.dies.get (dieOf s.cur)
  if d.clk < clk then s.putDie (dieOf s.cur) { d with clk := clk } else s

/-- FENCE. A fence of rel or ar carries the team's clock, which then advances; it completes when its orders hold. -/
def execFence (m : BitVec 1) (p : BitVec 3) (o : BitVec 2) (s : State) : Out :=
  s.runWord (.fence m p o) (fun _ s =>
    let t := s.team
    let fixed := t.loadsFixed t.nextSeq
    match t.wait with
    | .wave id =>
      if !s.releaseDone p id then .hold s noReason
      else if m = 1 then s.fenceSmp p o else s.fenceEnd o
    | .invalidation id clk => if s.waving id then .hold s noReason else (s.untilClock clk).fenceEnd o
    | _ =>
      if o ≠ 0 ∧ !fixed then .hold s noReason
      else if o.getLsbD 1 then
        let (s1, clk) := s.releaseClock
        let (s2, id) := s1.startRelease p
        .hold (s2.setTeam { s2.team with wait := .wave id, race := { s2.team.race with fence := some clk } }) noReason
      else if m = 1 then s.fenceSmp p o
      else s.fenceEnd o)

/-! ### Atomic words (R242 to R246) -/

/-- The operation of an AOP code (R62). -/
def aopOf (p : BitVec 3) : AtomicOp :=
  if p = 0 then .add else if p = 1 then .smin else if p = 2 then .smax else if p = 3 then .nmin else if p = 4 then .nmax
  else if p = 5 then .and else if p = 6 then .or else .xor

/-- The operation of an ATOMF AOP code. -/
def fopOf (p : BitVec 3) : AtomicOp :=
  if p = 0 then .fadd32 else if p = 1 then .fmin32 else if p = 2 then .fmax32 else if p = 3 then .faddh else .faddb

/-- The lanes of an atomic word: `size` bytes each; for a compare-and-swap the expected value stands before the new
one. -/
def Wd.atomicReqs (w : Wd) (v o : BitVec 6) (b : BitVec 5) (op : AtomicOp) (size : Nat) : List LaneReq :=
  let n := size / 4
  w.lanes.map (fun l =>
    let x (k : Nat) : W64 := w.vec (v.toNat + k) n l
    { lane := l, va := w.r.aLane b.toNat l + (w.r.readV o.toNat l).signExtend 64, size := size, idx := v.toNat,
      x := (if op = .cas then x n else x 0).setWidth 128, e := if op = .cas then x 0 else 0 })

/-- The kind of access of an operation: the ATX loads need P alone. -/
def AtomicOp.acc (op : AtomicOp) : Acc := if op = .ld then .atomicLoad else .store

/-- An atomic word that returns a value: its lanes are checked, its ordering begun, and its requests performed later
(R239, R244). -/
def State.issueAtomic (s : State) (w : Wd) (reqs : List LaneReq) (op : AtomicOp) (r : BitVec 2) (p : BitVec 3) : Eff :=
  let t := s.team
  let who := s.whoOf s.cur
  let lw : LongWord := { id := 0, kind := .atomic, op := some op, ord := r, width := 2, dests := useSet w.f.seamWrites, who := who }
  match t.wait with
  | .access _ => s.issueWord w [] lw .next
  | _ =>
    match s.checkLanes (dieOf s.cur) t.place.ctx who.race op.acc false reqs with
    | .error f => .trap s (w.laneTrap s f)
    | .ok l =>
      let s1 := s.fillCaches (coreOf s.cur) t.place.ctx (some s.cur) (reqs.map (·.va))
      let begun : State × LongWord :=
        if r.getLsbD 1 then
          let (s2, id) := s1.releaseClock.1.startRelease p
          (s2, if p = 0 then lw else if p = 1 then { lw with upto := id } else { lw with wave := some id, upto := id })
        else (s1, lw)
      match begun.1.firstRefused begun.2 (gatherLines l) with
      | some need => .hold (s.trackerWait s.cur need) noReason
      | none => begun.1.issueWord w (gatherLines l) begun.2 .next

/-- RED or an ATX store: its requests leave the core after the ordering of R239, and its seam follows them (R246). -/
def State.issueRed (s : State) (w : Wd) (reqs : List LaneReq) (op : AtomicOp) (r : BitVec 2) (p : BitVec 3) : Eff :=
  let t := s.team
  let rel := r.getLsbD 1
  let who := s.whoOf s.cur
  let leave (s : State) (who : Who) : Eff :=
    match s.checkLanes (dieOf s.cur) t.place.ctx who.race op.acc false reqs with
    | .error f => .trap s (w.laneTrap s f)
    | .ok l =>
      (s.fillCaches (coreOf s.cur) t.place.ctx (some s.cur) (reqs.map (·.va))).issueStores w (gatherLines l) (some op) rel who true (fun s => .seam s 0)
  match t.wait with
  | .access _ => s.issueStores w [] (some op) rel who true (fun s => .seam s 0)
  | .wave id =>
    if !s.releaseDone p id then .hold s noReason
    else match leave (s.setTeam { t with wait := .none }) who with
      | .hold s1 r => if s1.team.wait = .none then .hold (s1.setTeam { s1.team with wait := t.wait }) r else .hold s1.releaseClock.1 r
      | .seam s1 d => .seam s1.releaseClock.1 d
      | e => e
  | _ =>
    match s.checkLanes (dieOf s.cur) t.place.ctx who.race op.acc false reqs with
    | .error f => .trap s (w.laneTrap s f)
    | .ok _ =>
      if rel then
        if !t.loadsFixed t.nextSeq then .hold s noReason
        else
          let (s1, id) := s.startRelease p
          .hold (s1.setTeam { s1.team with wait := .wave id }) noReason
      else leave s who

/-- ATOM (R244). -/
def execAtom (v o : BitVec 6) (b : BitVec 5) (p : BitVec 3) (r : BitVec 2) (c : BitVec 3) (f : BitVec 1) (s : State) : Out :=
  s.runWord (.atom v o b p r c f) (fun w s => s.issueAtomic w (w.atomicReqs v o b (aopOf p) 4) (aopOf p) r c)

/-- ATOM64 (R244). -/
def execAtom64 (v o : BitVec 6) (b : BitVec 5) (p : BitVec 3) (r : BitVec 2) (c : BitVec 3) (f : BitVec 1) (s : State) : Out :=
  s.runWord (.atom64 v o b p r c f) (fun w s => s.issueAtomic w (w.atomicReqs v o b (aopOf p) 8) (aopOf p) r c)

/-- ATOMF (R245). -/
def execAtomf (v o : BitVec 6) (b : BitVec 5) (p : BitVec 3) (r : BitVec 2) (c : BitVec 3) (f : BitVec 1) (s : State) : Out :=
  s.runWord (.atomf v o b p r c f) (fun w s => s.issueAtomic w (w.atomicReqs v o b (fopOf p) 4) (fopOf p) r c)

/-- RED (R244, R246). -/
def execRed (v o : BitVec 6) (b : BitVec 5) (p : BitVec 3) (r : BitVec 2) (c : BitVec 3) (s : State) : Out :=
  s.runWord (.red v o b p r c) (fun w s => s.issueRed w (w.atomicReqs v o b (aopOf p) 4) (aopOf p) r c)

/-- ATX xchg32 (R244). -/
def execAtxXchg32 (v o : BitVec 6) (b : BitVec 5) (r : BitVec 2) (c : BitVec 3) (f : BitVec 1) (s : State) : Out :=
  s.runWord (.atxXchg32 v o b r c f) (fun w s => s.issueAtomic w (w.atomicReqs v o b .xchg 4) .xchg r c)

/-- ATX cas32 (R244). -/
def execAtxCas32 (v o : BitVec 6) (b : BitVec 5) (r : BitVec 2) (c : BitVec 3) (f : BitVec 1) (s : State) : Out :=
  s.runWord (.atxCas32 v o b r c f) (fun w s => s.issueAtomic w (w.atomicReqs v o b .cas 4) .cas r c)

/-- ATX ld32 (R244). -/
def execAtxLd32 (v o : BitVec 6) (b : BitVec 5) (r : BitVec 2) (c : BitVec 3) (f : BitVec 1) (s : State) : Out :=
  s.runWord (.atxLd32 v o b r c f) (fun w s => s.issueAtomic w (w.atomicReqs v o b .ld 4) .ld r c)

/-- ATX st32 (R244, R246). -/
def execAtxSt32 (v o : BitVec 6) (b : BitVec 5) (r : BitVec 2) (c : BitVec 3) (s : State) : Out :=
  s.runWord (.atxSt32 v o b r c) (fun w s => s.issueRed w (w.atomicReqs v o b .st 4) .st r c)

/-- ATX xchg64 (R244). -/
def execAtxXchg64 (v o : BitVec 6) (b : BitVec 5) (r : BitVec 2) (c : BitVec 3) (f : BitVec 1) (s : State) : Out :=
  s.runWord (.atxXchg64 v o b r c f) (fun w s => s.issueAtomic w (w.atomicReqs v o b .xchg 8) .xchg r c)

/-- ATX cas64 (R244). -/
def execAtxCas64 (v o : BitVec 6) (b : BitVec 5) (r : BitVec 2) (c : BitVec 3) (f : BitVec 1) (s : State) : Out :=
  s.runWord (.atxCas64 v o b r c f) (fun w s => s.issueAtomic w (w.atomicReqs v o b .cas 8) .cas r c)

/-- ATX ld64 (R244). -/
def execAtxLd64 (v o : BitVec 6) (b : BitVec 5) (r : BitVec 2) (c : BitVec 3) (f : BitVec 1) (s : State) : Out :=
  s.runWord (.atxLd64 v o b r c f) (fun w s => s.issueAtomic w (w.atomicReqs v o b .ld 8) .ld r c)

/-- ATX st64 (R244, R246). -/
def execAtxSt64 (v o : BitVec 6) (b : BitVec 5) (r : BitVec 2) (c : BitVec 3) (s : State) : Out :=
  s.runWord (.atxSt64 v o b r c) (fun w s => s.issueRed w (w.atomicReqs v o b .st 8) .st r c)

end Sys2Proof.Machine
end

