-- ==== Sys2Proof/Machine/Engine.lean ====
section
/-! DEFINITION. What an engine does to memory on a team's behalf: reads and writes of one line at its home, under the
engine's race checks (R168, R209, R210, R234, R382, R385). -/

namespace Sys2Proof.Machine

/-- How an engine's access ends: with a value, not yet, or with a fault. -/
inductive Eng (α : Type) where
  | ok (a : α) (s : State)
  | wait (s : State)
  | fault (f : EFault) (s : State)

/-- Continue with the value of an access. -/
def Eng.bind {α β : Type} (e : Eng α) (f : α → State → Eng β) : Eng β :=
  match e with
  | .ok a s => f a s
  | .wait s => .wait s
  | .fault x s => .fault x s

/-- What an engine's accesses carry (R385). -/
def State.engWho (s : State) (uid : Nat) : Who := { s.whoOf uid with engine := true }

/-- Whether the accesses that a team has made so far have been performed. (DEDUCED, log entry 28) -/
def State.teamQuiet (s : State) (uid : Nat) : Bool :=
  (s.cores.get (coreOf uid)).tracker.all (fun r => r.uid != uid || r.performed) &&
  (s.teams.get uid).loadsFixed (s.teams.get uid).nextSeq

/-- Whether any core holds a copy of a line, or monitors it. -/
def State.anyCopy (s : State) (line : Nat) : Bool :=
  allCores.any (fun c => (s.cores.get c).l1.contains line || !(s.sleepers c line).isEmpty)

/-- An element that stands for the bytes of a line that an engine touches. -/
def byteElem (off n : Nat) : Elem := { lane := 0, off := off, size := n }

/-- Read bytes of one line at its home. `core` is the core whose own stash may serve the read (R181). -/
def State.engReadLine (s : State) (who : Who) (die : Nat) (core : Option Nat) (va : W64) (n : Nat) : Eng (List Byte) :=
  match s.translate die who.ctx .engRead va with
  | .error f => .fault f s
  | .ok p =>
    if s.shadowFails who.race p then .fault ⟨cPROTECT, Acc.engRead.code * 16 + p.leaf.level, va⟩ s
    else
      let line := lineOf p.pa
      let served : Bool := match s.stashOwner line with
        | none => true
        | some (wg, _, _) => core = some (s.wgs.get wg).core
      let lost : Bool := !s.bad.entries.isEmpty && (match s.stashOwner line with
        | none => s.badRange p.pa n
        | some (wg, r, k) => (sectorsOf p.pa n).any (fun sec => s.bad.get (stashKey wg ((((s.wgs.get wg).ranges.get r).soff + 128 * k) / 16 + sec % 8))))
      if !served || s.beyond die line then .wait s
      else if lost then .fault ⟨cMEMERR, 0, va⟩ (match s.stashOwner line with
        | none => s.dramError p.pa (some who.uid) (some who.ctx)
        | some _ => s.errRecord p.pa 2 die (some who.uid) (some who.ctx))
      else
        let s := if (s.stashOwner line).isSome then s else s.fillSectors p.pa n
        let bytes := ((s.homeLine line).drop (p.pa % 128)).take n
        let r : RReq := { who := who, line := line, va := va - BitVec.ofNat 64 (va.toNat % 128), elems := [byteElem (p.pa % 128) n],
                          reads := true, writes := false, atomic := false }
        if who.checks p.checked then .ok bytes ((s.raceCheck r []).st.raceUpdate r r.elems false) else .ok bytes s

/-- Read a range line by line. -/
def State.engReadAux (s : State) (who : Who) (die : Nat) (core : Option Nat) : Nat → W64 → Nat → Eng (List Byte)
  | 0, _, _ => .ok [] s
  | fuel + 1, va, n =>
    if n = 0 then .ok [] s
    else
      let k := 128 - va.toNat % 128
      let k := if n < k then n else k
      (s.engReadLine who die core va k).bind (fun l s =>
        (s.engReadAux who die core fuel (va + BitVec.ofNat 64 k) (n - k)).bind (fun r s => .ok (l ++ r) s))

/-- Read a range of global memory for an engine. -/
def State.engRead (s : State) (who : Who) (die : Nat) (core : Option Nat) (va : W64) (n : Nat) : Eng (List Byte) :=
  s.engReadAux who die core (n / 128 + 2) va n

/-- What is left of a piece of a line when some sectors are not written. -/
def keptPieces (drop : Nat) (x : Nat × List Byte) : List (Nat × List Byte) :=
  (List.range 8).filterMap (fun j =>
    let lo := if x.1 < 16 * j then 16 * j else x.1
    let hi := if x.1 + x.2.length < 16 * j + 16 then x.1 + x.2.length else 16 * j + 16
    if drop.testBit j ∨ hi ≤ lo then none else some (lo, (x.2.drop (lo - x.1)).take (hi - lo)))

/-- Write pieces of one line, each an offset in the line and its bytes: the engine owns the line while it writes (R210);
in report mode the words of a racing store that the later one has overtaken are not written (R212). (DEDUCED, log entry 21) -/
def State.engWriteLine (s : State) (who : Who) (die : Nat) (va : W64) (ps : List (Nat × List Byte)) : Eng Unit :=
  let base := va - BitVec.ofNat 64 (va.toNat % 128)
  match s.translate die who.ctx .engWrite va with
  | .error f => .fault f s
  | .ok p =>
    if s.shadowFails who.race p then .fault ⟨cPROTECT, Acc.engWrite.code * 16 + p.leaf.level, va⟩ s
    else if (s.stashOwner (lineOf p.pa)).isSome || s.anyCopy (lineOf p.pa) || s.beyond die (lineOf p.pa) then .wait s
    else
      match s.writeTarget p.leaf.kv who.ctx (lineOf p.pa) va who with
      | .fail c => .fault ⟨c, 0, va⟩ s
      | .wait s => .wait s
      | .at_ line s =>
        let es := ps.map (fun x => byteElem x.1 x.2.length)
        let r : RReq := { who := who, line := line, va := base, elems := es, reads := false, writes := true, atomic := false }
        let checks := who.checks p.checked
        let o : RaceOut := if checks then s.raceCheck r [] else { st := s }
        let kept := if o.drop = 0 then ps else ps.flatMap (keptPieces o.drop)
        let done := kept.map (fun x => byteElem x.1 x.2.length)
        if kept.isEmpty then .ok () o.st
        else
          let s1 := kept.foldl (fun s x => s.homeWrite (line + x.1) x.2 who) (o.st.coverSectors line done)
          let s2 := if checks then s1.raceUpdate r done true else s1
          .ok () (s2.releaseUpdate line who false false)

/-- Fill the mapped lines, of those at some stash offsets, that are invalid, as an engine does (R181). -/
def State.stashFill (s : State) (uid ctx wg : Nat) (acc : Acc) : List Nat → Eng Unit
  | [] => .ok () s
  | off :: rest =>
    match (s.wgs.get wg).mappedAt off with
    | none => s.stashFill uid ctx wg acc rest
    | some (n, k) =>
      let x := (s.wgs.get wg).ranges.get n
      if x.state.get k ≠ 0 then s.stashFill uid ctx wg acc rest
      else match s.fillPlace (dieOf uid) ctx acc (x.lineVa k) with
        | .error f => .fault f s
        | .ok p =>
          if s.fillReady (s.wgs.get wg).core (lineOf p.pa) then (s.fillLine wg n k (lineOf p.pa)).stashFill uid ctx wg acc rest
          else .wait s

/-- The offsets of the stash lines of a range. -/
def stashLines (off n : Nat) : List Nat :=
  if n = 0 then [] else (List.range ((off + n - 1) / 128 - off / 128 + 1)).map (fun k => (off / 128 + k) * 128)

/-- Read a range of a stash for an engine (R181, R190). -/
def State.engStashRead (s : State) (who : Who) (uid wg off n : Nat) : Eng (List Byte) :=
  (s.stashFill uid who.ctx wg .engRead (stashLines off n)).bind (fun _ s =>
    if !s.bad.entries.isEmpty && (List.range ((off % 16 + n + 15) / 16)).any (fun j => s.bad.get (stashKey wg (off / 16 + j))) then
      .fault ⟨cMEMERR, 0, BitVec.ofNat 64 off⟩ (s.errRecord 0 2 (dieOf uid) (some uid) (some who.ctx))
    else .ok ((s.wgs.get wg).stashBytes off n) s)

/-- An engine's write of bytes that cross no stash line, as stash stores of at most 16 bytes. -/
def stashPieces (off : Nat) (l : List Byte) : List Elem :=
  (List.range ((l.length + 15) / 16)).map (fun k =>
    let b := (l.drop (16 * k)).take 16
    { lane := 0, off := off % 128 + 16 * k, size := b.length, x := BitVec.ofNat 128 (leNat b) })

/-- Make a line of a stash ready to be written: a mapped line must be valid, or be filled first, and lies in a block of its own; the line's
name, and whether its page is race-checked (R181, R188, R197). -/
def State.stashTake (s : State) (who : Who) (uid wg off : Nat) : Eng (Nat × Bool) :=
  (s.stashFill uid who.ctx wg .engWrite [off / 128 * 128]).bind (fun _ s =>
    match (s.wgs.get wg).mappedAt off with
    | none => .ok (stashLineName off, false) s
    | some (n, k) =>
      let x := (s.wgs.get wg).ranges.get n
      match s.translate (dieOf uid) who.ctx .engWrite (x.lineVa k) with
      | .error _ => .ok (x.pas.get k, false) s
      | .ok p => match s.writeTarget p.leaf.kv who.ctx (x.pas.get k) (x.lineVa k) who with
        | .fail c => .fault ⟨c, 0, x.lineVa k⟩ s
        | .wait s => .wait s
        | .at_ line s => if line = x.pas.get k then .ok (line, p.checked) s else .wait (s.handBack (x.pas.get k)))

/-- Bytes that cross no stash line as a request on a line. -/
def stashBytesPart (off : Nat) (l : List Byte) (x : Nat × Bool) : Part :=
  { line := x.1, va := BitVec.ofNat 64 (off / 128 * 128), elems := stashPieces off l, rc := x.2 }

/-- Write bytes that cross no stash line for an engine. -/
def State.engStashLine (s : State) (who : Who) (uid wg off : Nat) (l : List Byte) : Eng Unit :=
  (s.stashTake who uid wg off).bind (fun x s => .ok () (s.stashPerform wg (stashBytesPart off l x) who))

/-- Bytes at a stash offset, cut at the lines. -/
def stashCuts (off : Nat) (l : List Byte) : List (Nat × List Byte) :=
  (stashLines off l.length).map (fun line =>
    let lo := if line < off then off else line
    let hi := if line + 128 < off + l.length then line + 128 else off + l.length
    (lo, (l.drop (lo - off)).take (hi - lo)))

/-- Make every line of some pieces ready before any of them is written. -/
def State.stashTakeAll (s : State) (who : Who) (uid wg : Nat) : List (Nat × List Byte) → Eng (List Part)
  | [] => .ok [] s
  | x :: rest => (s.stashTake who uid wg x.1).bind (fun y s =>
      (s.stashTakeAll who uid wg rest).bind (fun r s => .ok (stashBytesPart x.1 x.2 y :: r) s))

/-- Bytes that an interrupted work leaves unspecified: each is whatever the hardware left there. (DESIGN CHOICE, log entry 22) -/
def State.scramble (s : State) (die ctx : Nat) (va : W64) (n : Nat) : State :=
  (List.range n).foldl (fun s i =>
    match s.translate die ctx .engWrite (va + BitVec.ofNat 64 i) with
    | .ok p => s.setBytes p.pa [Config.freeByte s.freeCtr p.pa]
    | .error _ => s) s

/-- The same for a stash. -/
def State.scrambleStash (s : State) (wg off n : Nat) : State :=
  s.modWg wg (fun w => w.setStash off ((List.range n).map (fun i => Config.freeByte s.freeCtr (off + i))))

end Sys2Proof.Machine
end

