-- ==== Sys2Proof/Machine/Formats.lean ====
section
/-! DEFINITION. Narrow formats: entries of the format table, decoding, encoding, stochastic rounding, block scales, and
the values that an engine reads from pages that name a format (R281 to R291, R303, R321). -/

namespace Sys2Proof.Machine

/-! ### Entries (R282, R283) -/

/-- A format entry in fields. -/
structure NFmt where
  kind : Nat
  w : Nat
  s : Nat
  e : Nat
  bias : Int
  spec : Nat
  block : Nat
  sfmt : Nat
  sdist : Int
  deriving DecidableEq, Repr, Inhabited

def nfmtOf (x : W64) : NFmt :=
  { kind := (x.extractLsb' 0 2).toNat, w := (x.extractLsb' 2 4).toNat, s := (x.extractLsb' 6 1).toNat,
    e := (x.extractLsb' 7 3).toNat, bias := (x.extractLsb' 10 8).toInt, spec := (x.extractLsb' 18 2).toNat,
    block := (x.extractLsb' 20 3).toNat, sfmt := (x.extractLsb' 23 2).toNat, sdist := (x.extractLsb' 32 32).toInt }

/-- The mantissa width. -/
def NFmt.m (f : NFmt) : Nat := f.w - f.s - f.e

/-- Whether an entry is valid (R283). -/
def fmtValid (x : W64) : Bool :=
  let f := nfmtOf x
  x.extractLsb' 26 6 = 0 &&
  (if f.kind ≠ 0 then x.extractLsb' 2 23 = 0 && f.sdist == 0
   else
     decide (1 ≤ f.w) && decide (f.w ≤ 8) && decide (f.s + f.e ≤ f.w) && f.spec != 3 && decide (f.block ≤ 4) && f.sfmt != 3 &&
     (f.e != 0 || f.spec == 0) && (f.spec != 2 || (decide (2 ≤ f.e) && decide (1 ≤ f.m))) &&
     (f.block != 0 || (f.sfmt == 0 && f.sdist == 0)))

/-- The IEEE format of a kind that is one. -/
def NFmt.ieee (f : NFmt) : Option FFmt :=
  if f.kind = 1 then some f16 else if f.kind = 2 then some bf16 else if f.kind = 3 then some f32 else none

/-- The bits of one element. R284 gives the kinds f16, bf16 and f32 the sizes 2, 4 or 4 bytes, and the run of R280 a bf16 of 2, which the
model takes. (DEDUCED, log entry 77) -/
def NFmt.width (f : NFmt) : Nat := match f.ieee with | some g => g.width | none => f.w

/-- The elements of a scale block; 0 for none. -/
def NFmt.group (f : NFmt) : Nat := if f.block = 0 then 0 else 8 * 2 ^ f.block

/-- E4M3, the format of scales of code 1. -/
def e4m3 : NFmt := { kind := 0, w := 8, s := 1, e := 4, bias := 7, spec := 1, block := 0, sfmt := 0, sdist := 0 }

/-! ### Decoding (R285, R286) -/

/-- A power of two. -/
def pow2 (i : Int) : Rat := (2 : Rat) ^ i

/-- The magnitude that exponent and mantissa fields stand for in a float format. -/
def NFmt.magnitude (f : NFmt) (e m : Nat) : Rat :=
  if e = 0 then pow2 (1 - f.bias) * (m : Rat) / (2 ^ f.m : Nat)
  else pow2 ((e : Int) - f.bias) * (1 + (m : Rat) / (2 ^ f.m : Nat))

/-- The value of a code, without its scale. -/
def NFmt.decode (f : NFmt) (c : Nat) : XVal :=
  match f.ieee with
  | some g => .ofF (g.read false c)
  | none =>
    if f.e = 0 then
      let v : Int := (if f.s = 1 then signedOf f.w c else (c : Int)) - f.bias
      .num (v : Rat) (decide (v < 0))
    else
      let neg := f.s = 1 && c.testBit (f.w - 1)
      let e := c / 2 ^ f.m % 2 ^ f.e
      let m := c % 2 ^ f.m
      let ones := e = 2 ^ f.e - 1
      if f.spec = 1 ∧ ones ∧ m = 2 ^ f.m - 1 then .nan
      else if f.spec = 2 ∧ ones then (if m = 0 then .inf neg else .nan)
      else .num ((if neg then -1 else 1) * f.magnitude e m) neg

/-- The value of a scale code (R286). -/
def scaleValue (sfmt c : Nat) : XVal :=
  if sfmt = 0 then (if c = 255 then .nan else .num (pow2 ((c : Int) - 127)) false)
  else if sfmt = 1 then e4m3.decode c
  else .ofF (f16.read false c)

/-- The bytes of a scale. -/
def scaleBytes (sfmt : Nat) : Nat := if sfmt = 2 then 2 else 1

/-! ### Encoding (R287, R288) -/

/-- How a producer rounds: to nearest even, or by 24 random bits. -/
abbrev Chooser := Option Nat

/-- Whether the greater neighbour is chosen. -/
def chooseHi (c : Chooser) (lo hi a : Rat) (loEven : Bool) : Bool :=
  match c with
  | none => decide (hi - a < a - lo) || (decide (hi - a = a - lo) && !loEven)
  | some r => decide ((r : Rat) * (hi - lo) < (a - lo) * (2 ^ 24 : Nat))

/-- The code, without its sign, of the largest finite magnitude of a float format. -/
def NFmt.maxCode (f : NFmt) : Nat :=
  if f.spec = 0 then 2 ^ (f.e + f.m) - 1
  else if f.spec = 1 then 2 ^ (f.e + f.m) - 2
  else (2 ^ f.e - 1) * 2 ^ f.m - 1

/-- The magnitude of a code without its sign. -/
def NFmt.magOf (f : NFmt) (c : Nat) : Rat := f.magnitude (c / 2 ^ f.m) (c % 2 ^ f.m)

/-- MAX: the largest finite magnitude. -/
def NFmt.max (f : NFmt) : Rat :=
  match f.ieee with
  | some g => (FFmt.read g false g.maxFinite).rat
  | none =>
    if f.e = 0 then
      let lo : Int := (if f.s = 1 then -((2 ^ (f.w - 1) : Nat) : Int) else 0) - f.bias
      let hi : Int := (if f.s = 1 then ((2 ^ (f.w - 1) : Nat) : Int) - 1 else ((2 ^ f.w : Nat) : Int) - 1) - f.bias
      ((if lo.natAbs < hi.natAbs then hi.natAbs else lo.natAbs : Nat) : Rat)
    else f.magOf f.maxCode

/-- The greatest code, of those below n, whose magnitude is at most a. -/
def NFmt.below (f : NFmt) (a : Rat) : Nat → Nat
  | 0 => 0
  | n + 1 => if f.magOf n ≤ a then n else f.below a n

/-- The code of a float format for a value. -/
def NFmt.encodeFloat (f : NFmt) (c : Chooser) (x : XVal) : Nat :=
  let sign (n : Bool) (k : Nat) : Nat := if n && f.s = 1 then 2 ^ (f.w - 1) + k else k
  let inf := (2 ^ f.e - 1) * 2 ^ f.m
  match x with
  | .nan => if f.spec = 1 then 2 ^ (f.e + f.m) - 1 else if f.spec = 2 then inf + 2 ^ (f.m - 1) else 0
  | .inf n => if n && f.s = 0 then 0 else sign n (if f.spec = 2 then inf else f.maxCode)
  | .num q n =>
    if q < 0 ∧ f.s = 0 then 0
    else
      let a := if q < 0 then -q else q
      let mx := f.magOf f.maxCode
      if mx < a then
        if f.spec = 2 then
          let ulp := mx - f.magOf (f.maxCode - 1)
          sign n (if c.isSome || decide (mx + ulp / 2 ≤ a) then inf else f.maxCode)
        else sign n f.maxCode
      else
        let lo := f.below a (f.maxCode + 1)
        if f.magOf lo = a ∨ lo = f.maxCode then sign n lo
        else sign n (if chooseHi c (f.magOf lo) (f.magOf (lo + 1)) a (lo % 2 == 0) then lo + 1 else lo)

/-- The code of an integer format for a value. -/
def NFmt.encodeInt (f : NFmt) (c : Chooser) (x : XVal) : Nat :=
  let lo : Int := if f.s = 1 then -((2 ^ (f.w - 1) : Nat) : Int) else 0
  let hi : Int := if f.s = 1 then ((2 ^ (f.w - 1) : Nat) : Int) - 1 else ((2 ^ f.w : Nat) : Int) - 1
  let v : Int := match x with
    | .nan => 0
    | .inf n => if n then lo - f.bias else hi - f.bias
    | .num q n =>
      let a := if q < 0 then -q else q
      let k := a.floor
      let up : Bool := a ≠ (k : Rat) &&
        chooseHi c (k : Rat) ((k + 1 : Int) : Rat) a (decide (((if n then -k else k) + f.bias) % 2 = 0))
      let r := if up then k + 1 else k
      if n then -r else r
  let v := v + f.bias
  let v := if v < lo then lo else if hi < v then hi else v
  (v % ((2 ^ f.w : Nat) : Int)).toNat

/-- IEEE convertFormat; stochastic rounding chooses between the two neighbours, and overflow gives an infinity. -/
def encodeIeee (g : FFmt) (c : Chooser) (x : XVal) : Nat :=
  match c, x with
  | some _, .num q n =>
    let a := if q < 0 then -q else q
    if (FFmt.read g false g.maxFinite).rat < a then g.signed n g.inf
    else
      let lo := (g.roundRat 1 false false a).1
      let lv := (FFmt.read g false lo).rat
      if lv = a then g.signed n lo
      else
        let hv := (FFmt.read g false (lo + 1)).rat
        g.signed n (if chooseHi c lv hv a false then lo + 1 else lo)
  | _, _ => x.bits g 0

/-- ENCODING: the code of a value in a format, without a scale. -/
def NFmt.encode (f : NFmt) (c : Chooser) (x : XVal) : Nat :=
  match f.ieee with
  | some g => encodeIeee g c x
  | none => if f.e = 0 then f.encodeInt c x else f.encodeFloat c x

/-- The state of a lane's generator at the start (R288). -/
def srStart (seed : W32) (l : Nat) : W32 :=
  let s := seed ^^^ BitVec.ofNat 32 (l * 0x9E3779B9)
  if s = 0 then 1 else s

/-- One advance of a generator. -/
def srNext (s : W32) : W32 :=
  let s := s ^^^ (s <<< 13)
  let s := s ^^^ (s >>> 17)
  s ^^^ (s <<< 5)

/-- A generator's state after n advances. -/
def srAfter (s : W32) : Nat → W32
  | 0 => s
  | n + 1 => srNext (srAfter s n)

/-- The chooser of output element n of a producer. -/
def chooserAt (sr : Bool) (seed : W32) (n : Nat) : Chooser :=
  if sr then some ((srAfter (srStart seed (n % 32)) (n / 32 + 1)).toNat / 256) else none

/-! ### Block scales (R289) -/

/-- floor(log2) of a positive rational. -/
def ratFloorLog (q : Rat) : Int := ratLog2 q.num.natAbs q.den

/-- The code of the scale that a producer chooses for a block. -/
def NFmt.scaleFor (f : NFmt) (l : List XVal) : Nat :=
  let amax : Rat := l.foldl (fun r x => match x with
    | .num q _ => let a := if q < 0 then -q else q
      if r < a then a else r
    | _ => r) 0
  let one := if f.sfmt = 0 then 127 else if f.sfmt = 1 then 0x38 else f16.one
  if amax = 0 then one
  else if f.max = 0 then Config.noMaxScale.toNat
  else if f.sfmt = 0 then
    let e := ratFloorLog amax - ratFloorLog f.max
    ((if e < -127 then -127 else if 127 < e then 127 else e) + 127).toNat
  else
    let q := amax / f.max
    if f.sfmt = 1 then
      let lo := e4m3.below q (e4m3.maxCode + 1)
      if e4m3.magOf lo = q ∨ lo = e4m3.maxCode then lo else lo + 1
    else
      let b := (f16.roundRat 2 false false q).1
      if f16.maxFinite < b then f16.maxFinite else b

/-- A value over a scale. -/
def XVal.over (x : XVal) (s : Rat) : XVal :=
  match x with
  | .num q n => .num (q / s) n
  | _ => x

/-! ### Bit strings (R284) -/

/-- The bits of a list of bytes, least significant first. -/
def bitsOf (l : List Byte) : List Bool := l.flatMap (fun b => (List.range 8).map (fun i => b.getLsbD i))

/-- The number that bits spell, least significant first. -/
def natOfBits : List Bool → Nat
  | [] => 0
  | b :: r => (if b then 1 else 0) + 2 * natOfBits r

/-- The n low bits of a number, least significant first. -/
def bitsOfNat (n x : Nat) : List Bool := (List.range n).map (fun i => x.testBit i)

/-- Bits as bytes, the last padded with zeros. -/
def bytesOfBits : Nat → List Bool → List Byte
  | 0, _ => []
  | fuel + 1, l => if l = [] then [] else BitVec.ofNat 8 (natOfBits (l.take 8)) :: bytesOfBits fuel (l.drop 8)

/-- Bits o to o + n - 1 of a byte string. -/
def bitsAt (l : List Byte) (o n : Nat) : Nat := fieldAt l (o / 8) (n / 8 + 2) / 2 ^ (o % 8) % 2 ^ n

/-! ### Values read from pages that name a format (R283, R286, R303, R321) -/

/-- The format index of the page that an address lies on. -/
def State.fmtIndex (s : State) (who : Who) (die : Nat) (va : W64) : Except EFault Nat :=
  match s.translate die who.ctx .engRead va with
  | .error f => .error f
  | .ok p => .ok p.leaf.fmt

/-- The format of a page that is to be decoded. -/
def State.fmtAt (s : State) (who : Who) (die : Nat) (table : SMap (0#64)) (va : W64) : Except EFault (Nat × NFmt) :=
  match s.fmtIndex who die va with
  | .error f => .error f
  | .ok i => if i = 0 || !fmtValid (table.get i) then .error ⟨cFORMAT, 0, va⟩ else .ok (i, nfmtOf (table.get i))

/-- The place of an element's first bit. -/
def elemVa (a : W64) (bit : Int) : W64 × Nat :=
  (a + BitVec.ofInt 64 (bit / 8), (bit % 8).toNat)

/-- Whether an element lies whole in its unit and its block (R283). -/
def NFmt.whole (f : NFmt) (v : W64) (k : Nat) : Bool :=
  let pos := v.toNat % 65536 * 8 + k
  decide (pos + f.width ≤ 65536 * 8) &&
  (f.group = 0 || (let g := f.group * f.w
    pos / g == (pos + f.w - 1) / g && decide ((pos / g + 1) * g ≤ 65536 * 8)))

/-- Where the scale of an element lies. -/
def NFmt.scaleVa (f : NFmt) (v : W64) (k : Nat) : W64 :=
  let u : Int := (v.toNat / 65536 : Nat)
  let b := (v.toNat % 65536 * 8 + k) / (f.group * f.w)
  BitVec.ofInt 64 ((u + f.sdist) * 65536 + (b * scaleBytes f.sfmt : Nat))

/-- Read one element that is to be decoded, at a bit place; every page must name the index given. -/
def State.engElem (s : State) (who : Who) (die : Nat) (core : Option Nat) (table : SMap (0#64)) (idx : Nat) (f : NFmt)
    (v : W64) (k : Nat) : Eng XVal :=
  match s.fmtAt who die table v with
  | .error e => .fault e s
  | .ok (i, _) =>
    if i ≠ idx || !f.whole v k then .fault ⟨cFORMAT, 0, v⟩ s
    else (s.engRead who die core v ((k + f.width + 7) / 8)).bind (fun l s =>
      let x := f.decode (bitsAt l k f.width)
      if f.group = 0 then .ok x s
      else
        (s.engRead who die core (f.scaleVa v k) (scaleBytes f.sfmt)).bind (fun c s =>
          .ok (x.mul (scaleValue f.sfmt (leNat c))) s))

/-- The first element of a list that may not be decoded: another index, or an element that is not whole. -/
def State.elemsFault (s : State) (who : Who) (die : Nat) (table : SMap (0#64)) (idx : Nat) (f : NFmt) :
    List (W64 × Nat) → Option EFault
  | [] => none
  | (v, k) :: rest =>
    match s.fmtAt who die table v with
    | .error e => some e
    | .ok (i, _) => if i ≠ idx || !f.whole v k then some ⟨cFORMAT, 0, v⟩ else s.elemsFault who die table idx f rest

/-- Read the scales at a list of addresses. -/
def State.engScales (s : State) (who : Who) (die : Nat) (core : Option Nat) (f : NFmt) : List W64 → Eng (List (W64 × XVal))
  | [] => .ok [] s
  | a :: rest => (s.engRead who die core a (scaleBytes f.sfmt)).bind (fun c s =>
      (s.engScales who die core f rest).bind (fun l s => .ok ((a, scaleValue f.sfmt (leNat c)) :: l) s))

/-- Read elements first to first + n - 1 of a bit string that starts at an address. -/
def State.engElems (s : State) (who : Who) (die : Nat) (core : Option Nat) (table : SMap (0#64)) (idx : Nat) (f : NFmt)
    (a : W64) (first n : Nat) : Eng (List XVal) :=
  let places := (List.range n).map (fun j => elemVa a (((first + j) * f.width : Nat) : Int))
  match s.elemsFault who die table idx f places with
  | some e => .fault e s
  | none =>
    let o := first * f.width
    (s.engRead who die core (a + BitVec.ofNat 64 (o / 8)) ((o % 8 + n * f.width + 7) / 8)).bind (fun l s =>
      let raw := (List.range n).map (fun j => f.decode (bitsAt l (o % 8 + j * f.width) f.width))
      if f.group = 0 then .ok raw s
      else
        let at_ := places.map (fun p => f.scaleVa p.1 p.2)
        (s.engScales who die core f at_.eraseDups).bind (fun sc s =>
          .ok ((raw.zip at_).map (fun x => x.1.mul (((sc.find? (fun y => y.1 == x.2)).map (·.2)).getD .nan))) s))

end Sys2Proof.Machine
end

