-- ==== Sys2Proof/Machine/Sync.lean ====
section
/-! DEFINITION. Barriers and monitors (R203, R247 to R253, R375). -/

namespace Sys2Proof.Machine

/-! ### Barriers (R247 to R251) -/

/-- The key of an arrival of a team: level*8 + number. -/
def barKey (level num : Nat) : Nat := level * 8 + num

/-- The barrier that a team names. -/
def State.barOf (s : State) (t : Team) (level num : Nat) : Bar :=
  if level = 0 then (s.wgOf t).bars.get num
  else if level = 1 then (s.gridOf t).clBars.get (s.clusterOf t * 4 + num)
  else (s.gridOf t).gridBars.get num

/-- Change that barrier. -/
def State.modBar (s : State) (t : Team) (level num : Nat) (f : Bar → Bar) : State :=
  if level = 0 then s.modWg t.wgKey (fun w => { w with bars := w.bars.modify num f })
  else if level = 1 then s.modGrid t.place.grid (fun g => { g with clBars := g.clBars.modify (s.clusterOf t * 4 + num) f })
  else s.modGrid t.place.grid (fun g => { g with gridBars := g.gridBars.modify num f })

/-- Whether a team's level has the barrier: an open grid has none at grid level (R12, R250). -/
def State.barMissing (s : State) (t : Team) (level : Nat) : Bool := level = 2 && (s.gridOf t).launch.kind.testBit 0

/-- The scope of a barrier level (R203). -/
def barScope (level : Nat) : BitVec 3 := if level = 0 then 0 else if level = 1 then 1 else 3

/-- Whether a team has arrived in the open phase. -/
def Bar.has (b : Bar) (uid : Nat) : Bool := b.arrived.contains uid || b.tokens.any (fun x => x.1 == uid)

/-- Set the floor of a level, raise the clock past it, and clear a leniency of the level (R375, R379). -/
def TeamRace.complete (r : TeamRace) (level f : Nat) : TeamRace :=
  let c := if r.clock < f + 1 then f + 1 else r.clock
  let r := if 0xFFFFFF < c then { r with clock := 0xFFFFFF, sat := true, lsat := true } else { r with clock := c }
  let r := if r.level ≤ level + 1 then { r with level := 0 } else r
  if level = 0 then { r with floorWg := f } else if level = 1 then { r with floorCl := f } else { r with floorGrid := f }

/-- The completion of a phase as a team sees it: an acquire, and a seam (R249). -/
def State.barDone (s : State) (level num : Nat) : Eff :=
  let b := s.barOf s.team level num
  .seam (s.setTeam { s.team with race := s.team.race.complete level b.lastMax }) 0

/-- Wait for a phase. -/
def State.barWait (s : State) (level num phase : Nat) : Eff :=
  if phase < (s.barOf s.team level num).phase then s.barDone level num
  else .hold (s.setTeam { s.team with wait := .barrier level num phase }) 5

/-- Arrive: the clock that the arrival carries, and the phase it arrives in. -/
def State.arrive (s : State) (level num : Nat) : State × Nat :=
  let t := s.team
  let phase := (s.barOf t level num).phase
  let (s1, clk) := s.releaseClock
  let s2 := s1.modBar t level num (fun b =>
    if level = 2 then { b with tokens := b.tokens ++ [(s.cur, clk)] }
    else { b with arrived := s.cur :: b.arrived, max := if b.max < clk then clk else b.max })
  (s2.setTeam { s2.team with arrivals := s2.team.arrivals.set (barKey level num) (phase + 1),
                             arrived := some (level, num, phase) }, phase)

/-- BAR and BARA: the release first; then the arrival, in the next phase where the team has already arrived in this one. An
arrival that a rollback has left standing is not made again. -/
def State.barArrive (s : State) (w : Wd) (level num : Nat) (waits : Bool) : Eff :=
  let t := s.team
  let after (s : State) (phase : Nat) : Eff := if waits then s.barWait level num phase else .seam s 0
  if s.barMissing t level then .trap s (w.trap s cBARRIER)
  else match t.wait with
    | .barrier _ _ phase => s.barWait level num phase
    | .wave id =>
      if !s.releaseDone (barScope level) id then .hold s noReason
      else if (s.barOf t level num).has s.cur then .hold s 5
      else
        let (s1, phase) := s.arrive level num
        after s1 phase
    | _ =>
      match t.arrived.filter (fun a => a.1 == level && a.2.1 == num) with
      | some (_, _, phase) => after s phase
      | none =>
        if !t.loadsFixed t.nextSeq then .hold s noReason
        else
          let (s1, id) := s.startRelease (barScope level)
          .hold (s1.setTeam { s1.team with wait := .wave id }) noReason

/-- BAR (R248, R249). -/
def execBar (l : BitVec 2) (n : BitVec 3) (s : State) : Out :=
  s.runWord (.bar l n) (fun w s => s.barArrive w l.toNat n.toNat true)

/-- BARA (R248, R249). -/
def execBara (l : BitVec 2) (n : BitVec 3) (s : State) : Out :=
  s.runWord (.bara l n) (fun w s => s.barArrive w l.toNat n.toNat false)

/-- BARW (R248, R249). -/
def execBarw (l : BitVec 2) (n : BitVec 3) (s : State) : Out :=
  s.runWord (.barw l n) (fun w s =>
    if s.barMissing s.team l.toNat then .trap s (w.trap s cBARRIER)
    else
      let k := s.team.arrivals.get (barKey l.toNat n.toNat)
      if k = 0 then .seam s 0 else s.barWait l.toNat n.toNat (k - 1))

/-- The member teams of a barrier level (R247). -/
def State.members (s : State) (t : Team) (level : Nat) : Nat :=
  let g := s.gridOf t
  if level = 0 then g.launch.teams else if level = 1 then g.k * g.launch.teams
  else g.launch.gx * g.launch.gy * g.launch.gz * g.launch.teams

/-- The workgroups of a barrier. -/
def State.barWgs (s : State) : BarRef → Nat × List Nat
  | .wg g w _ => (g, [w])
  | .cl g c _ => (g, (List.range (s.grids.get g).k).map (fun i => c * (s.grids.get g).k + i))
  | .grid g _ => (g, List.range ((s.grids.get g).launch.gx * (s.grids.get g).launch.gy * (s.grids.get g).launch.gz))

/-- The barrier of a reference. -/
def State.barAt (s : State) : BarRef → Bar
  | .wg g w n => (s.wgs.get (wgKey g w)).bars.get n
  | .cl g c n => (s.grids.get g).clBars.get (c * 4 + n)
  | .grid g n => (s.grids.get g).gridBars.get n

/-- Change the barrier of a reference. -/
def State.setBar (s : State) (b : Bar) : BarRef → State
  | .wg g w n => s.modWg (wgKey g w) (fun x => { x with bars := x.bars.put n b })
  | .cl g c n => s.modGrid g (fun x => { x with clBars := x.clBars.put (c * 4 + n) b })
  | .grid g n => s.modGrid g (fun x => { x with gridBars := x.gridBars.put n b })

/-- The members of a barrier, in one of its workgroups, that have arrived in the open phase; a retired team counts as arrived
(R247). -/
def State.arrivedIn (s : State) (r : BarRef) (i : Nat) : Nat :=
  let (g, _) := s.barWgs r
  let b := s.barAt r
  if (s.grids.get g).retired.contains i then (s.grids.get g).launch.teams
  else
    let w := s.wgs.get (wgKey g i)
    if w.bound then (w.slots.filter (fun u => b.arrived.contains u || w.retired.contains u)).length else 0

/-- Whether every member has arrived, and no arrival of a team that has retired since is still on its way. -/
def State.allArrived (s : State) (r : BarRef) : Bool :=
  let (g, l) := s.barWgs r
  (s.barAt r).tokens.isEmpty && l.all (fun i => s.arrivedIn r i == (s.grids.get g).launch.teams)

/-- The reference of the barrier that a team names. -/
def State.barRef (s : State) (t : Team) (level num : Nat) : BarRef :=
  if level = 0 then .wg t.place.grid t.place.wg num
  else if level = 1 then .cl t.place.grid (s.clusterOf t) num
  else .grid t.place.grid num

/-- BARQ (R251): a member that has retired counts as arrived. -/
def execBarq (d : BitVec 6) (l : BitVec 2) (n : BitVec 3) (s : State) : Out :=
  s.runWord (.barq d l n) (fun w s =>
    let t := s.team
    if s.barMissing t l.toNat then .trap s (w.trap s cBARRIER)
    else
      let b := s.barOf t l.toNat n.toNat
      let r := s.barRef t l.toNat n.toNat
      let here := ((s.barWgs r).2.map (s.arrivedIn r)).sum
      let x := (if b.has s.cur then 2 ^ 63 else 0) + b.phase % 65536 * 2 ^ 32 + here * 65536 + s.members t l.toNat
      .next (s.withRegs (fun r => r.writeS d.toNat (BitVec.ofNat 64 x))))

/-- BARRIER_PHASE_COMPLETION: every member has arrived, one of them in this phase; the count advances. -/
def execBarrierPhaseCompletion (r : BarRef) (s : State) : Out :=
  s.event (fun s =>
    let b := s.barAt r
    if b.arrived ≠ [] ∧ s.allArrived r then
      s.setBar { b with phase := b.phase + 1, arrived := [], lastMax := b.max, max := 0 } r
    else s)

/-- BARRIER_TOKEN: a grid arrival reaches the combining point (R249). -/
def execBarrierToken (r : BarRef) (u : Nat) (s : State) : Out :=
  s.event (fun s =>
    let b := s.barAt r
    match b.tokens.find? (fun x => x.1 == u) with
    | none => s
    | some (_, clk) =>
      s.setBar { b with tokens := b.tokens.filter (fun x => x.1 ≠ u), arrived := u :: b.arrived,
                        max := if b.max < clk then clk else b.max } r)

/-! ### Monitors (R252, R253) -/

/-- WAITL: the monitor is armed, and then the value is read and compared. -/
def execWaitl (a b : BitVec 6) (wd : BitVec 1) (s : State) : Out :=
  s.runWord (.waitl a b wd) (fun w s =>
    let size := if wd = 1 then 8 else 4
    let va := w.r.readS a.toNat
    let t := s.team
    let who := s.whoOf s.cur
    let lw : LongWord := { id := 0, kind := .gather, width := 2, who := who }
    let leave (s : State) : Eff := .next (s.setTeam { s.team with mon := none })
    let compare (s : State) (v : LongWord) : Eff :=
      let x : W64 := v.piece noLane 1 ++ v.piece noLane 0
      let y := w.r.readS b.toNat
      if (if wd = 1 then x ≠ y else x.extractLsb' 0 32 ≠ y.extractLsb' 0 32) then leave s
      else match s.team.mon with
        | some (_, _, false) => .hold (s.setTeam { s.team with wait := .monitor }) 7
        | _ => leave s
    match t.wait with
    | .monitor => (match t.mon with | some (_, _, false) => .hold s 7 | _ => leave s)
    | .access _ => s.gatherWord w [] lw compare
    | _ =>
      match s.checkLanes (dieOf s.cur) t.place.ctx who.race .load false [{ lane := noLane, va := va, size := size }] with
      | .error f => .trap s (w.laneTrap s f)
      | .ok l =>
        let line := match l with | x :: _ => lineOf x.place.pa | [] => 0
        let s1 := s.fillCaches (coreOf s.cur) t.place.ctx (some s.cur) [va]
        let s2 := if paHost line then s1 else
          s1.setTeam { s1.team with mon := some (line, (s.dies.get (dieOf s.cur)).clk, false) }
        s2.gatherWord w (gather l) lw compare)

/-- WAITL_TIMEOUT: 2^20 clocks of the die have passed since the monitor was armed. -/
def execWaitlTimeout (u : Nat) (s : State) : Out :=
  s.event (fun s =>
    match (s.teams.get u).mon with
    | some (_, at_, _) => if at_ + 2 ^ 20 ≤ (s.dies.get (dieOf u)).clk then s.modTeam u Team.woken else s
    | none => s)

/-- WAKE_WITHOUT_NOTICE: a sleeping team wakes for another cause (R253). -/
def execWakeWithoutNotice (u : Nat) (s : State) : Out := s.event (fun s => s.modTeam u Team.woken)

/-- L1_INVALIDATE: a core loses its L1 copy of a line, and the line's sleepers wake (R174, R205, R253). -/
def execL1Invalidate (core line : Nat) (s : State) : Out :=
  s.event (fun s => (s.modCore core (fun c => { c with l1 := c.l1.filter (· ≠ line) })).wake core line)

end Sys2Proof.Machine
end

