-- ==== Sys2Proof/Machine/Matrix.lean ====
section
/-! DEFINITION. Gangs, matrix slices and the matrix words (R278, R279, R290 to R316). -/

namespace Sys2Proof.Machine

/-! ### Slices and gangs (R297 to R299) -/

/-- The slice that a team holds. -/
def State.sliceOf (s : State) (uid : Nat) : Option Nat :=
  ((s.cores.get (coreOf uid)).slices.entries.find? (fun k => k.2.owner == some uid)).map Prod.fst

def State.slice (s : State) (core k : Nat) : Slice := (s.cores.get core).slices.get k
def State.putSlice (s : State) (core k : Nat) (x : Slice) : State :=
  s.modCore core (fun c => { c with slices := c.slices.put k x })

def Slice.op (x : Slice) (n : BitVec 1) : MatOp := if n = 0 then x.op0 else x.op1
def Slice.setOp (x : Slice) (n : BitVec 1) (o : MatOp) : Slice := if n = 0 then { x with op0 := o } else { x with op1 := o }
def Slice.accOf (x : Slice) (n : BitVec 1) : SMap (0#32) := if n = 0 then x.acc0 else x.acc1
def Slice.setAcc (x : Slice) (n : BitVec 1) (a : SMap (0#32)) : Slice :=
  if n = 0 then { x with acc0 := a } else { x with acc1 := a }

/-- GANGSTAT (R299). -/
def State.gangstat (s : State) (uid : Nat) : W64 :=
  let t := s.teams.get uid
  let k := (s.sliceOf uid).getD 7
  BitVec.ofNat 64 (k * 2 ^ 21 + t.sys.gangidx.toNat * 65536 + t.sys.gangmask.toNat)

/-- The set bits of a gang mask. -/
def gangBits (m : BitVec 16) : List Nat := (List.range 16).filter (fun i => m.getLsbD i)

/-- The accumulator words of a team that have not finished, and that were issued before a place in its program order:
operations on its slice, and MDRAIN and MACCRD. -/
def State.accBusy (s : State) (uid seq : Nat) : Bool :=
  (match s.sliceOf uid with
   | none => false
   | some k =>
     let x := s.slice (coreOf uid) k
     (x.op0.busy && decide (x.op0.seq < seq)) || (x.op1.busy && decide (x.op1.seq < seq))) ||
  (s.teams.get uid).words.any (fun w => (w.kind == .mdrain || w.kind == .maccrd) && decide (w.seq < seq))

/-- MGANG (R298). -/
def execMgang (a : BitVec 6) (s : State) : Out :=
  s.runWord (.mgang a) (fun w s =>
    let t := s.team
    let core := coreOf s.cur
    let m := (w.r.readS a.toNat).extractLsb' 0 16
    let n := (gangBits m).length
    let set (s : State) : Eff := .next (s.setTeam { s.team with sys := { s.team.sys with
      gangmask := m, gangidx := BitVec.ofNat 3 ((gangBits m).filter (fun i => decide (i < t.place.idx))).length } })
    if m = 0 then
      if s.accBusy s.cur t.nextSeq then .hold s noReason
      else
        let reset (s : State) : Eff := .next (s.setTeam { s.team with sys := { s.team.sys with gangmask := 0, gangidx := 0 } })
        match s.sliceOf s.cur with
        | none => reset s
        | some k =>
          let x := s.slice core k
          let stop := match x.op0.stop with | some f => some f | none => x.op1.stop
          let s1 := s.putSlice core k {}
          reset (s1.setTeam { s1.team with mstop := match stop with | some f => some f | none => t.mstop })
    else if n < 2 ∨ 6 < n ∨ m.getLsbD t.place.idx = false ∨ (gangBits m).any (fun i => decide ((s.gridOf t).launch.teams ≤ i)) then
      .trap s (w.trap s cGANG)
    else match s.sliceOf s.cur with
      | some _ => set s
      | none =>
        match (List.range 6).find? (fun k => (s.slice core k).owner.isNone) with
        | none => .hold s 6
        | some k => set (s.putSlice core k { owner := some s.cur }))

/-! ### Accumulator words (R300, R305) -/

/-- A stopped operation that the team has not been told of. -/
def State.matStop (s : State) (uid : Nat) : Option (Nat × EFault) :=
  match (s.teams.get uid).mstop with
  | some f => some f
  | none => match s.sliceOf uid with
    | none => none
    | some k =>
      let x := s.slice (coreOf uid) k
      match x.op0.stop with | some f => some f | none => x.op1.stop

/-- Mark that stop reported. -/
def State.clearStop (s : State) (uid : Nat) : State :=
  let t := s.teams.get uid
  if t.mstop.isSome then s.putTeam uid { t with mstop := none }
  else match s.sliceOf uid with
    | none => s
    | some k =>
      let x := s.slice (coreOf uid) k
      if x.op0.stop.isSome then s.putSlice (coreOf uid) k { x with op0 := { x.op0 with stop := none } }
      else s.putSlice (coreOf uid) k { x with op1 := { x.op1 with stop := none } }

/-- The trap of a stop. -/
def Wd.stopTrap (w : Wd) (s : State) (f : Nat × EFault) : TrapReq :=
  w.trap s f.2.cause f.2.detail f.2.addr 0xFFFF (BitVec.ofNat 32 f.1)

/-- What every accumulator word does first: it needs a slice, and it reports a stop; then it goes on with the slice. -/
def State.withSlice (s : State) (w : Wd) (go : Nat → Slice → Eff) : Eff :=
  match s.matStop s.cur with
  | some f => .trap (s.clearStop s.cur) (w.stopTrap s f)
  | none => match s.sliceOf s.cur with
    | none => .trap s (w.trap s cGANG)
    | some k => go k (s.slice (coreOf s.cur) k)

/-- The accumulator that an outstanding MDRAIN or MACCRD names, and whether it writes the press buffer. -/
def LongWord.accOf (w : LongWord) : Option (BitVec 1 × Bool) :=
  match fetched w.word with
  | .mdrain _ _ _ n k _ _ => some (n, k = 2)
  | .maccrd _ _ _ n => some (n, false)
  | _ => none

/-- Whether an interlocked accumulator word waits for an earlier one: on its accumulator, or on the press buffer where it
reads that. -/
def State.accHeld (s : State) (x : Slice) (n : BitVec 1) (press : Bool) : Bool :=
  (x.op n).busy || s.team.words.any (fun w => match w.accOf with
    | some (m, p) => m == n || (press && p)
    | none => false)

/-- Take a place in the team's program order. -/
def State.takeSeq (s : State) : State := s.setTeam { s.team with nextSeq := s.team.nextSeq + 1 }

/-- MZERO (R312). -/
def execMzero (n : BitVec 1) (s : State) : Out :=
  s.runWord (.mzero n) (fun w s => s.withSlice w (fun k x =>
    if s.accHeld x n false then .hold s noReason else .next (s.putSlice (coreOf s.cur) k (x.setAcc n .empty))))

/-- MACCWR (R313). -/
def execMaccwr (d a : BitVec 6) (n : BitVec 1) (s : State) : Out :=
  s.runWord (.maccwr d a n) (fun w s => s.withSlice w (fun k x =>
    if s.accHeld x n false then .hold s noReason
    else
      let k0 := (w.r.readS a.toNat).toNat
      .next (s.putSlice (coreOf s.cur) k (x.setAcc n (w.lanes.foldl (fun (m : SMap (0#32)) l =>
        m.set ((k0 + l) % 16384) (w.r.readV d.toNat l)) (x.accOf n))))))

/-- MACCRD (R313): its values are read when the earlier accumulator words have finished. -/
def execMaccrd (d a : BitVec 6) (f n : BitVec 1) (s : State) : Out :=
  s.runWord (.maccrd d a f n) (fun w s => s.withSlice w (fun _ _ =>
    s.outstanding w { id := 0, kind := .maccrd, dests := useSet w.f.writes, reg := d.toNat, args := [w.r.readS a.toNat],
                      who := s.engWho s.cur } false))

/-! ### MMA (R301 to R303, R305) -/

/-- CONST and STRIDE of an operand. -/
def matConst (x : W64 × W64) : Nat := (x.2.extractLsb' 32 3).toNat
def matStride (x : W64 × W64) : Nat := (x.2.extractLsb' 0 32).toNat

/-- The check of a gang's operands (R302). -/
def matCheck (a b : W64 × W64) (press : Bool) : Option (Nat × W64) :=
  let mem (x : W64 × W64) : Bool := matConst x = 0
  let isPress := matConst a = 5
  if a.2.extractLsb' 35 29 ≠ 0 ∨ b.2.extractLsb' 35 29 ≠ 0 ∨ 5 < matConst a ∨ 5 ≤ matConst b ∨
      (isPress ∧ (1 < matStride a ∨ press = false)) then some (cFORMAT, 0)
  else if mem a ∧ canonical a.1 = false then some (cPROTECT, a.1)
  else if mem b ∧ canonical b.1 = false then some (cPROTECT, b.1)
  else if mem a ∧ (a.1.toNat % 16 ≠ 0 ∨ matStride a % 16 ≠ 0) then some (cALIGN, a.1)
  else if mem b ∧ (b.1.toNat % 16 ≠ 0 ∨ matStride b % 16 ≠ 0) then some (cALIGN, b.1)
  else none

/-- The teams of a workgroup that wait in the latch: slot, accumulator, mask, and operand registers with the word. -/
def State.latched (s : State) (wg : Nat) : List (Nat × Nat × Nat × List W64) :=
  (s.wgs.get wg).slots.filterMap (fun u => match (s.teams.get u).wait with
    | .latch n m l => if (s.teams.get u).wgKey = wg then some (u, n, m, l) else none
    | _ => none)

/-- Make a team in the latch trap at its MMA. -/
def State.latchTrap (s : State) (cause : Nat) (addr : W64) (x : Nat × Nat × Nat × List W64) : State :=
  let t := s.teams.get x.1
  s.takeTrap x.1 { cause := cause, detail := if cause = cPROTECT then Acc.engRead.code * 16 + Config.noWalkLevel.toNat else 0,
                   addr := addr, word := ((x.2.2.2.getD 4 0).extractLsb' 0 32), pc := t.flow.pos.pc, regions := regionsOf t.flow }

/-- What a gang's operand reads carry: the reads are the work of every member, so what each member knew orders them (R279, R385). -/
def State.gangWho (s : State) (uid : Nat) (members : List Nat) : Who :=
  let others := (members.filter (· ≠ uid)).map s.whoOf
  let w := s.engWho uid
  { w with acq := others.foldl (fun l o => (o.pairs o.clk).foldl mergePair l) w.acq, lenient := w.lenient || others.any (·.lenient) }

/-- The format index that the first page of an operand in memory names, where it is mapped. -/
def State.operandIdx (s : State) (uid ctx : Nat) (x : W64 × W64) : Option Nat :=
  if matConst x ≠ 0 then none
  else match s.translate (dieOf uid) ctx .engRead x.1 with
    | .ok p => some p.leaf.fmt
    | .error _ => none

/-- Release one member: its slice starts, and the team goes on after a seam. -/
def State.latchGo (s : State) (gang upto : Nat) (seqs : List (Nat × Nat)) (x : Nat × Nat × Nat × List W64) : State :=
  let uid := x.1
  let t := s.teams.get uid
  let core := coreOf uid
  let n := BitVec.ofNat 1 x.2.1
  let l := x.2.2.2
  let c := s.ctxs.get t.place.ctx
  let s1 := match s.sliceOf uid with
    | none => s
    | some k =>
      let op : MatOp := { busy := true, gang := gang, seq := t.nextSeq, seqs := seqs, upto := upto, row := 0,
                          opA := (l.getD 0 0, l.getD 1 0), opB := (l.getD 2 0, l.getD 3 0), member := t.sys.gangidx.toNat,
                          table := c.fmt, gens := c.fmtGen, who := s.gangWho uid (seqs.map Prod.fst),
                          idxA := s.operandIdx uid t.place.ctx (l.getD 0 0, l.getD 1 0),
                          idxB := s.operandIdx uid t.place.ctx (l.getD 2 0, l.getD 3 0) }
      s.putSlice core k ((s.slice core k).setOp n op)
  let t1 := { (s1.teams.get uid).advance with nextSeq := t.nextSeq + 1 }
  (s1.putTeam uid (t1.markSeam 0)).afterSeam uid

/-- The latch, once a member has entered: a different mask traps, a full gang is compared and checked, and released. -/
def State.latchMeet (s : State) (wg uid : Nat) : State :=
  let l := s.latched wg
  match l.find? (fun x => x.1 == uid) with
  | none => s
  | some me =>
    let idx (x : Nat × Nat × Nat × List W64) : Nat := (s.teams.get x.1).place.idx
    let mine := l.filter (fun x => me.2.2.1.testBit (idx x) || x.2.2.1.testBit (idx me))
    if mine.any (fun x => x.2.2.1 != me.2.2.1) then mine.foldl (fun s x => s.latchTrap cGANG 0 x) s
    else
      let want := gangBits (BitVec.ofNat 16 me.2.2.1)
      let lost (i : Nat) : Bool := (s.wgs.get wg).retired.any (fun u => (s.teams.get u).place.idx == i && (s.teams.get u).wgKey == wg)
      if want.any lost then mine.foldl (fun s x => s.latchTrap cGANG 0 x) s
      else if !want.all (fun i => mine.any (fun x => idx x == i)) then s
      else if mine.any (fun x => x.2.1 != me.2.1 || x.2.2.2.take 4 != me.2.2.2.take 4) then
        mine.foldl (fun s x => s.latchTrap cGANG 0 x) s
      else
        let r := me.2.2.2
        let press := mine.all (fun x => match s.sliceOf x.1 with
          | some k => (s.slice (coreOf x.1) k).pvalid
          | none => false)
        match matCheck (r.getD 0 0, r.getD 1 0) (r.getD 2 0, r.getD 3 0) press with
        | some (c, a) => mine.foldl (fun s x => s.latchTrap c a x) s
        | none =>
          let (gang, s1) := s.fresh
          let seqs := mine.map (fun x => (x.1, (s.teams.get x.1).nextSeq))
          mine.foldl (fun s x => s.latchGo gang gang seqs x) s1

/-- MMA: a member enters the latch at a seam; the last one releases the gang (R302). -/
def execMma (a b : BitVec 6) (n : BitVec 1) (s : State) : Out :=
  s.runWord (.mma a b n) (fun w s =>
    match s.team.wait with
    | .latch _ _ _ => .hold s 6
    | _ => s.withSlice w (fun _ x =>
      let ra := (w.r.readS a.toNat, w.r.readS (a.toNat + 1))
      let rb := (w.r.readS b.toNat, w.r.readS (b.toNat + 1))
      if s.accHeld x n (matConst ra = 5) then .hold s noReason
      else
        let ops := [ra.1, ra.2, rb.1, rb.2, (wordBits w.ins).setWidth 64]
        let t := s.team.markSeam 0
        let s1 := (s.setTeam { t with wait := .latch n.toNat s.team.sys.gangmask.toNat ops, stall := some 6 }).issued s.cur w.clocks
        .placed ((s1.afterSeam s1.cur).latchMeet s.team.wgKey s.cur)))

/-- An element of a constant operand (R278). -/
def constElem (kind i k : Nat) : XVal :=
  .num (if (kind = 1 ∧ k = i) ∨ (kind = 2 ∧ k ≤ i) ∨ (kind = 3 ∧ i ≤ k) ∨ kind = 4 then 1 else 0) false

/-- The format of an operand in memory, from its first page; the matrix array takes no f32 and no plain bytes, and needs a feature for four bits or fewer (R410). -/
def State.matFmt (s : State) (o : MatOp) (die : Nat) (va : W64) : Except EFault (Nat × NFmt) :=
  match s.fmtAt o.who die o.table va with
  | .error f => .error f
  | .ok (i, f) => if f.kind = 3 ∨ (f.width ≤ 4 ∧ s.feature 4 = false) then .error ⟨cFORMAT, 0, va⟩ else .ok (i, f)

/-- The format that a press buffer holds. -/
def Slice.pressFmt (x : Slice) (table : SMap (0#64)) : NFmt := if x.pfmt = 0 then nfmtOf 2 else nfmtOf (table.get x.pfmt.toNat)

/-- The bits that an operand's format counts for the group size (R292). -/
def fmtBits (f : Option NFmt) : Nat := match f with | none => 4 | some f => f.width

/-- The group size. -/
def groupSize (a b : Nat) : Nat := if 8 < a ∨ 8 < b then 4 else if a ≤ 4 ∧ b ≤ 4 then 16 else 8

/-- One element of a row: groups in ascending K, each an exact sum, added to the accumulator with one rounding (R293,
R294). -/
def matElem (gk : Nat) (acc : W32) (a b : List XVal) : W32 :=
  (List.range (64 / gk)).foldl (fun acc g =>
    let t := XVal.sum ((List.range gk).map (fun k => (a.getD (g * gk + k) .nan).mul (b.getD (g * gk + k) .nan)))
    let t := match t with | .num q _ => XVal.num q (decide (q < 0)) | x => x
    (XVal.sum [.ofF32 acc, t]).f32) acc

/-- The format of operand B, or of operand A, where it is in memory: that of the index which it is known to name, or which its first
page names. -/
def State.matFmtOf (s : State) (o : MatOp) (die : Nat) (known : Option Nat) (x : W64 × W64) : Except EFault (Option (Nat × NFmt)) :=
  if matConst x = 0 then
    match known with
    | some i =>
      let f := nfmtOf (o.table.get i)
      if i = 0 ∨ fmtValid (o.table.get i) = false ∨ f.kind = 3 ∨ (f.width ≤ 4 ∧ s.feature 4 = false) then .error ⟨cFORMAT, 0, x.1⟩
      else .ok (some (i, f))
    | none => match s.matFmt o die x.1 with
      | .error f => .error f
      | .ok r => .ok (some r)
  else .ok none

/-- Read operand B whole, row by row. -/
def State.matB (s : State) (o : MatOp) (die core idx : Nat) (f : NFmt) : Nat → Eng (List XVal)
  | 0 => .ok [] s
  | k + 1 =>
    (s.matB o die core idx f k).bind (fun l s =>
      (s.engElems o.who die (some core) o.table idx f (o.opB.1 + BitVec.ofNat 64 (k * matStride o.opB)) 0 128).bind
        (fun r s => .ok (l ++ r) s))

/-- Whether every access of the members before their words has been performed (R279). -/
def State.matReady (s : State) (core : Nat) (o : MatOp) : Bool :=
  s.trackerDone core o.upto allPaths && o.seqs.all (fun x => (s.teams.get x.1).loadsFixed x.2)

/-- Change the operation of every slice of a gang. -/
def State.gangOps (s : State) (core gang : Nat) (n : BitVec 1) (f : MatOp → MatOp) : State :=
  s.modCore core (fun c => { c with slices := ⟨c.slices.entries.map (fun k =>
    if (k.2.op n).busy && (k.2.op n).gang == gang then (k.1, k.2.setOp n (f (k.2.op n))) else k)⟩ })

/-- What a fault does to an operation: a page that is not present holds it, anything else stops it (R305). -/
def MatOp.fault (o : MatOp) (f : EFault) : MatOp :=
  if f.cause = cNOTPRESENT then { o with held := some f.addr } else { o with busy := false, stop := some (o.row, f) }

/-- Operand A of a member's next row. -/
def State.matRowA (s : State) (o : MatOp) (x : Slice) (die core : Nat) (fa : Option (Nat × NFmt)) : Eng (List XVal) :=
  let i := 128 * o.member + o.row
  match fa with
  | some (idx, f) =>
    s.engElems o.who die (some core) o.table idx f (o.opA.1 + BitVec.ofNat 64 (i * matStride o.opA)) 0 64
  | none =>
    if matConst o.opA = 5 then
      let f := x.pressFmt o.table
      .ok ((List.range 64).map (fun k => f.decode (x.press.get (o.row * 128 + 64 * (matStride o.opA % 2) + k)).toNat)) s
    else .ok ((List.range 64).map (fun k => constElem (matConst o.opA) i k)) s

/-- A row accumulated. -/
def Slice.row (x : Slice) (n : BitVec 1) (o : MatOp) (gk : Nat) (a b : List XVal) : Slice :=
  let acc := (List.range 128).foldl (fun (m : SMap (0#32)) c =>
    m.set (o.row * 128 + c) (matElem gk ((x.accOf n).get (o.row * 128 + c)) a
      ((List.range 64).map (fun k => b.getD (k * 128 + c) .nan)))) (x.accOf n)
  (x.setAcc n acc).setOp n { o with row := o.row + 1, busy := decide (o.row + 1 < 128), b := some b }

/-- The lowest of some rows of an accumulator that is uncorrectable. -/
def State.badAcc (s : State) (core k : Nat) (n : BitVec 1) (rows : List Nat) : Option Nat :=
  if s.bad.entries.isEmpty then none else rows.find? (fun r => s.bad.get (accKey core k n.toNat r))

/-- Record an error of an accumulator, which is then used up. -/
def State.accError (s : State) (core k : Nat) (n : BitVec 1) (row : Nat) (who : Who) : State :=
  (s.errRecord 0 4 (dieOfCore core) (some who.uid) (some who.ctx)).mended (accKey core k n.toNat row)

/-- MMA_COMPLETION, taken row by row: operand B is read whole for the gang; then each step reads and accumulates a
member's next row, and the last one completes its operation. -/
def execMmaCompletion (uid : Nat) (n : BitVec 1) (s : State) : Out :=
  s.event (fun s =>
    let core := coreOf uid
    let die := dieOf uid
    match s.sliceOf uid with
    | none => s
    | some k =>
      let x := s.slice core k
      let o := x.op n
      if !o.busy || o.held.isSome || !s.matReady core o then s
      else
        let holdAll (s : State) (f : EFault) : State := (s.holdFault o.who.ctx f uid).gangOps core o.gang n (fun o => o.fault f)
        let hold (s : State) (f : EFault) : State := (s.holdFault o.who.ctx f uid).putSlice core k (x.setOp n (o.fault f))
        match o.b with
        | none =>
          (match s.matFmtOf o die o.idxB o.opB with
           | .error f => holdAll s f
           | .ok none => s.gangOps core o.gang n (fun o => { o with b := some ((List.range 8192).map (fun j =>
               constElem (matConst o.opB) (j / 128) (j % 128))) })
           | .ok (some (idx, f)) =>
             match s.matB o die core idx f 64 with
             | .ok l s1 => s1.gangOps core o.gang n (fun o => { o with b := some l, idxB := some idx })
             | .wait s1 => s1
             | .fault f s1 => holdAll s1 f)
        | some b =>
          match s.badAcc core k n [o.row] with
          | some r => hold (s.accError core k n r o.who) ⟨cMEMERR, 0, 0⟩
          | none =>
          match s.matFmtOf o die o.idxA o.opA with
          | .error f => hold s f
          | .ok fa =>
            let fb : Option NFmt := if matConst o.opB = 0 then some (nfmtOf (o.table.get (o.idxB.getD 0))) else none
            match s.matRowA o x die core fa with
            | .ok a s1 =>
              let press := if matConst o.opA = 5 then some (x.pressFmt o.table) else fa.map (·.2)
              s1.putSlice core k (x.row n { o with idxA := fa.map (·.1) } (groupSize (fmtBits press) (fmtBits fb)) a b)
            | .wait s1 => s1
            | .fault f s1 => hold s1 f)

/-! ### MDRAIN (R308 to R310) -/

/-- The fields of s[B]. -/
def drainFmt (x : W64) : Nat := (x.extractLsb' 48 6).toNat
def drainRows (x : W64) : Nat := (x.extractLsb' 32 16).toNat
def drainStride (x : W64) : Nat := (x.extractLsb' 0 32).toNat

/-- The format of what an MDRAIN writes, from its index and the entry of that index: f32 bits, bf16 in the press buffer, or a format
of the table. -/
def drainOut (entry : W64) (idx : Nat) (press : Bool) : NFmt :=
  if idx = 0 then (if press then nfmtOf 2 else nfmtOf 3) else nfmtOf entry

/-- The bytes of a row of 128 elements. -/
def rowBytes (f : NFmt) : Nat := 16 * f.width

/-- The virtual lines that rows touch. -/
def drainLines (base : W64) (rows stride bytes : Nat) : List Nat :=
  ((List.range rows).flatMap (fun r =>
    let a := base.toNat + r * stride
    (List.range ((a + bytes + 127) / 128 - a / 128)).map (fun k => a / 128 + k))).eraseDups

/-- The first page of `.gl` destinations that fails: the rules of an engine write, and one format index for all. -/
def State.drainPages (s : State) (die ctx race idx : Nat) : List Nat → Option EFault
  | [] => none
  | l :: rest =>
    let va := BitVec.ofNat 64 (128 * l)
    match s.translate die ctx .engWrite va with
    | .error f => some f
    | .ok p =>
      if s.shadowFails race p then some ⟨cPROTECT, Acc.engWrite.code * 16 + p.leaf.level, va⟩
      else if p.leaf.fmt ≠ idx then some ⟨cFORMAT, 0, va⟩
      else s.drainPages die ctx race idx rest

/-- The places of the scales of a row that starts at an address: the first element of each block, and where its scale lies (R286, R289). -/
def scalePlaces (f : NFmt) (a : W64) : List (Nat × W64) :=
  if f.group = 0 then []
  else (List.range ((128 + f.group - 1) / f.group)).map (fun b =>
    let (v, k) := elemVa a ((b * f.group * f.width : Nat) : Int)
    (b * f.group, f.scaleVa v k))

/-- The virtual lines of the scales of rows. -/
def scaleLines (f : NFmt) (base : W64) (rows stride : Nat) : List Nat :=
  ((List.range rows).flatMap (fun r => (scalePlaces f (base + BitVec.ofNat 64 (r * stride))).flatMap (fun x =>
    rangeOf x.2.toNat (scaleBytes f.sfmt)))).eraseDups

/-- The first page of the scales that fails the rules of an engine write. -/
def State.scalePages (s : State) (die ctx race : Nat) (lines : List Nat) : Option EFault :=
  lines.findSome? (fun l =>
    let va := BitVec.ofNat 64 (128 * l)
    match s.translate die ctx .engWrite va with
    | .error f => some f
    | .ok p => if s.shadowFails race p then some ⟨cPROTECT, Acc.engWrite.code * 16 + p.leaf.level, va⟩ else none)

/-- The bits of the elements of rows, and their scales by block: what row r of an accumulator becomes. -/
def drainRow (x : Slice) (n : BitVec 1) (f : NFmt) (raw sr : Bool) (seed : W32) (r : Nat) : List Nat × List (Nat × Nat) :=
  let vals := (List.range 128).map (fun c => (x.accOf n).get (r * 128 + c))
  if raw then (vals.map BitVec.toNat, [])
  else
    let xs := vals.map XVal.ofF32
    if f.group = 0 then ((List.range 128).map (fun c => f.encode (chooserAt sr seed (128 * r + c)) (xs.getD c .nan)), [])
    else
      let g := f.group
      let scales := (List.range ((128 + g - 1) / g)).map (fun b => f.scaleFor ((xs.drop (b * g)).take g))
      ((List.range 128).map (fun c =>
        f.encode (chooserAt sr seed (128 * r + c)) ((xs.getD c .nan).over (scaleValue f.sfmt (scales.getD (c / g) 0)).rat)),
       (List.range scales.length).map (fun b => (b * g, scales.getD b 0)))

/-- A row as bytes. -/
def packRow (w : Nat) (l : List Nat) : List Byte := bytesOfBits (l.length * w + 1) (l.flatMap (bitsOfNat w))

/-- What a word of MDRAIN is, with its operands. -/
structure Drain where
  n : BitVec 1
  form : BitVec 2
  z : Bool
  sr : Bool
  base : W64
  ctl : W64
  seed : W32
  /-- the index and the entry of its format, as they were at its issue (R290) -/
  idx : Nat := 0
  entry : W64 := 0

def LongWord.drain (w : LongWord) : Option Drain :=
  match fetched w.word with
  | .mdrain _ _ _ n k z r => some ⟨n, k, z = 1, r = 1, w.args.getD 0 0, w.args.getD 1 0, (w.args.getD 2 0).extractLsb' 0 32,
      (w.args.getD 3 0).toNat, w.args.getD 4 0⟩
  | _ => none

/-- The output format of a drain to memory. -/
def State.drainIdx (s : State) (die ctx : Nat) (d : Drain) : Except EFault Nat :=
  if d.form = 0 then
    (match s.translate die ctx .engWrite d.base with
     | .error f => .error f
     | .ok p => .ok p.leaf.fmt)
  else .ok (drainFmt d.ctl)

/-- The checks of R310, before any byte is written. -/
def State.drainCheck (s : State) (t : Team) (die : Nat) (d : Drain) : Option EFault :=
  let ctx := t.place.ctx
  let table := (s.ctxs.get ctx).fmt
  let fmtFault : Option EFault := some ⟨cFORMAT, 0, d.base⟩
  let rows := drainRows d.ctl
  let stride := drainStride d.ctl
  let allowed (idx : Nat) : Bool :=
    let f := drainOut (table.get idx) idx (d.form = 2)
    (idx = 0 || fmtValid (table.get idx)) &&
    (if d.form = 2 then (f.kind = 1 || f.kind = 2 || (f.kind = 0 && f.group = 0)) else d.form = 0 || f.group = 0)
  if d.form ≠ 2 ∧ (d.base.toNat % 16 ≠ 0 ∨ stride % 16 ≠ 0) then some ⟨cALIGN, 0, d.base⟩
  else if rows = 0 ∨ 128 < rows ∨ d.ctl.extractLsb' 54 10 ≠ 0 ∨ (d.form = 0 ∧ drainFmt d.ctl ≠ 0) ∨ (d.form = 2 ∧ stride ≠ 0) then
    fmtFault
  else if d.form = 0 ∧ canonical d.base = false then
    some ⟨cPROTECT, Acc.engWrite.code * 16 + Config.noWalkLevel.toNat, d.base⟩
  else match s.drainIdx die ctx d with
    | .error f => some f
    | .ok idx =>
      let f := drainOut (table.get idx) idx (d.form = 2)
      if !allowed idx then fmtFault
      else if d.form = 0 then
        if f.group ≠ 0 ∧ (List.range rows).any (fun r =>
            (d.base.toNat + r * stride) % 65536 * 8 % (f.group * f.w) ≠ 0) then some ⟨cALIGN, 0, d.base⟩
        else match s.drainPages die ctx (s.gridOf t).launch.race idx (drainLines d.base rows stride (rowBytes f)) with
          | some e => some e
          | none => s.scalePages die ctx (s.gridOf t).launch.race (scaleLines f d.base rows stride)
      else if d.form = 1 ∧ s.stashSize t < d.base.toNat + (rows - 1) * stride + rowBytes f then some ⟨cSTASHRANGE, 0, d.base⟩
      else none

/-- MDRAIN: the checks are made at its issue, the accesses once the earlier accumulator words have finished (R309,
R310). -/
def execMdrain (a b : BitVec 6) (f n : BitVec 1) (k : BitVec 2) (z r : BitVec 1) (s : State) : Out :=
  s.runWord (.mdrain a b f n k z r) (fun w s => s.withSlice w (fun _ _ =>
    let t := s.team
    let base := if k = 2 then 0 else w.r.readS a.toNat
    let d : Drain := ⟨n, k, z = 1, r = 1, base, w.r.readS b.toNat, t.sys.mseed.extractLsb' 0 32, 0, 0⟩
    match s.drainCheck t (dieOf s.cur) d with
    | some f => .trap s (w.trap s f.cause f.detail f.addr)
    | none =>
      let idx := match s.drainIdx (dieOf s.cur) t.place.ctx d with | .ok i => i | .error _ => 0
      let entry := (s.ctxOf t).fmt.get idx
      let f := drainOut entry idx (k = 2)
      let lines := if k = 2 then []
        else (drainLines base (drainRows d.ctl) (drainStride d.ctl) (rowBytes f) ++ scaleLines f base (drainRows d.ctl) (drainStride d.ctl)).eraseDups
      let (upto, s) := s.fresh
      .next (s.addWord w { id := 0, kind := .mdrain, args := [base, d.ctl, d.seed.setWidth 64, BitVec.ofNat 64 idx, entry],
                           upto := upto, lines := if k = 1 then lines.map (2 ^ 60 + ·) else lines, who := s.engWho s.cur }).1))

/-- The rows of a drain as pieces: the address of each and its bytes, the scales of a block with its data. -/
def drainPieces (x : Slice) (d : Drain) (f : NFmt) (raw : Bool) : List (W64 × List Byte) :=
  (List.range (drainRows d.ctl)).flatMap (fun r =>
    let a := d.base + BitVec.ofNat 64 (r * drainStride d.ctl)
    let (codes, scales) := drainRow x d.n f raw d.sr d.seed r
    (a, packRow f.width codes) :: ((scalePlaces f a).zip scales).map (fun b => (b.1.2, leBytes (scaleBytes f.sfmt) b.2.2)))

/-- What pieces write to one virtual line, in order. -/
def piecesOfLine (l : List (W64 × List Byte)) (line : Nat) : List (Nat × List Byte) :=
  l.filterMap (fun p =>
    let a := p.1.toNat
    let lo := if a < 128 * line then 128 * line else a
    let hi := if a + p.2.length < 128 * line + 128 then a + p.2.length else 128 * line + 128
    if lo < hi then some (lo - 128 * line, (p.2.drop (lo - a)).take (hi - lo)) else none)

/-- Write the pieces of a line of a stash, as VSTS does. -/
def State.stashPiecesOf (s : State) (who : Who) (uid wg line : Nat) (ps : List (Nat × List Byte)) : Eng Unit :=
  ps.foldl (fun (e : Eng Unit) x => e.bind (fun _ s => s.engStashLine who uid wg (128 * line + x.1) x.2)) (.ok () s)

/-- Clear what a drain has read, where it asks for that. -/
def Slice.afterDrain (x : Slice) (d : Drain) : Slice := if d.z then x.setAcc d.n .empty else x

/-- What an MDRAIN leaves in the press buffer: its rows in a format, and +0.0 in the rows above them (R309). -/
def pressRows (x : Slice) (d : Drain) (f : NFmt) : SMap (0#16) :=
  (List.range 16384).foldl (fun (m : SMap (0#16)) j =>
    m.set j (BitVec.ofNat 16 (if j < drainRows d.ctl * 128 then f.encode (chooserAt d.sr d.seed j) (.ofF32 ((x.accOf d.n).get j))
      else f.encode (chooserAt false 0 0) (.num 0 false)))) .empty

/-- A step of an MDRAIN's access phase: one destination line, or all of a drain to the press buffer; whether its writes have all been
made. -/
def State.drainStep (s : State) (uid k : Nat) (w : LongWord) (d : Drain) : Eng Bool :=
  let t := s.teams.get uid
  let core := coreOf uid
  let x := s.slice core k
  let f := drainOut d.entry d.idx (d.form = 2)
  let raw := d.form ≠ 2 && f.kind = 3
  if d.form = 2 then
    .ok true (s.putSlice core k { x with press := pressRows x d f, pvalid := true, pfmt := BitVec.ofNat 6 d.idx })
  else match w.lines with
    | [] => .ok true s
    | line :: rest =>
      let l := drainPieces x d f raw
      (if d.form = 1 then s.stashPiecesOf w.who uid t.wgKey (line - 2 ^ 60) (piecesOfLine l (line - 2 ^ 60))
       else s.engWriteLine w.who (dieOf uid) (BitVec.ofNat 64 (128 * line)) (piecesOfLine l line)).bind (fun _ s =>
        if rest = [] then .ok true s
        else .ok false (s.modTeam uid (fun t => t.setWord { w with lines := rest, begun := true })))

/-- What a completed MACCRD writes. -/
def State.maccrdResults (s : State) (uid k : Nat) (w : LongWord) : List (Nat × Nat × W32) :=
  let x := s.slice (coreOf uid) k
  match w.accOf with
  | none => []
  | some (n, _) =>
    let k0 := (w.args.getD 0 0).toNat
    (lanesOf (s.teams.get uid).place.width w.mask).map (fun l => (l, w.reg, (x.accOf n).get ((k0 + l) % 16384)))

/-- Leave what a stopped team's drain has still to write unspecified. -/
def State.drainScramble (s : State) (uid : Nat) (w : LongWord) : State :=
  let t := s.teams.get uid
  w.lines.foldl (fun s l =>
    if 2 ^ 60 ≤ l then s.scrambleStash t.wgKey (128 * (l - 2 ^ 60)) 128
    else s.scramble (dieOf uid) t.place.ctx (BitVec.ofNat 64 (128 * l)) 128) s

/-! ### MFMT and MQRY (R290, R315, R316) -/

/-- Whether an operation in flight holds a generation of an entry: from the start of its operand reads to its end, through faults and
saves (R290). -/
def MatOp.holds (o : MatOp) (ctx i : Nat) (g : Bool) : Bool :=
  o.busy && o.who.ctx == ctx && o.gens.getLsbD i == g && (o.idxA == some i || o.idxB == some i)

def State.genHeld (s : State) (ctx i : Nat) (g : Bool) : Bool :=
  s.cores.entries.any (fun c => c.2.slices.entries.any (fun k => k.2.op0.holds ctx i g || k.2.op1.holds ctx i g)) ||
  s.savedSlices.entries.any (fun k => match k.2 with
    | some x => x.op0.holds ctx i g || x.op1.holds ctx i g
    | none => false)

/-- Write an entry of a context's table (R290). -/
def Ctx.writeFmt (c : Ctx) (i : Nat) (x : W64) : Ctx :=
  if x.getLsbD 25 = c.fmtGen.getLsbD i then { c with fmt := c.fmt.set i x }
  else { c with fmtOld := c.fmtOld.set i (c.fmt.get i), fmt := c.fmt.set i x, fmtGen := c.fmtGen ^^^ (1 <<< i) }

/-- MFMT (R315). -/
def execMfmt (a b : BitVec 6) (s : State) : Out :=
  s.runWord (.mfmt a b) (fun w s =>
    let i := ((w.r.readS a.toNat).extractLsb' 0 6).toNat
    let x := w.r.readS b.toNat
    let ctx := s.team.place.ctx
    if i = 0 ∨ (x ≠ 0 ∧ fmtValid x = false) then .trap s (w.trap s cFORMAT)
    else if s.genHeld ctx i (x.getLsbD 25) then .hold s noReason
    else .next (s.modCtx ctx (fun c => c.writeFmt i x)))

/-- MQRY (R316). -/
def execMqry (d : BitVec 6) (n : BitVec 1) (s : State) : Out :=
  s.runWord (.mqry d n) (fun _ s =>
    let bit (b : Bool) (k : Nat) : Nat := if b then 2 ^ k else 0
    let x := match s.sliceOf s.cur with
      | none => 7 * 65536
      | some k =>
        let x := s.slice (coreOf s.cur) k
        let o := x.op n
        let drain := s.team.words.any (fun w => match w.drain with | some d => d.n == n | none => false)
        x.pfmt.toNat * 2 ^ 20 + bit x.pvalid 19 + k * 65536 + bit o.stop.isSome 10 + bit o.held.isSome 9
          + bit (o.busy || drain) 8 + o.row
    .next (s.withRegs (fun r => r.writeS d.toNat (BitVec.ofNat 64 x))))

/-- MROW (R314). -/
def State.mrow (s : State) (uid : Nat) : W64 :=
  match s.sliceOf uid with
  | none => BitVec.ofNat 64 (128 * 256 + 128)
  | some k =>
    let x := s.slice (coreOf uid) k
    BitVec.ofNat 64 ((if x.op1.held.isSome then 2 ^ 17 else 0) + (if x.op0.held.isSome then 2 ^ 16 else 0)
      + x.op1.row * 256 + x.op0.row)

end Sys2Proof.Machine
end

