-- ==== Sys2Proof/Machine/Copies.lean ====
section
/-! DEFINITION. Asynchronous copies (R209, R210, R231 to R235). -/

namespace Sys2Proof.Machine

/-! ### Issue (R231, R232) -/

/-- Whether the destination, or the source, of a copy is a stash. -/
def Copy.toStash (c : Copy) : Bool := c.dir.testBit 0
def Copy.fromStash (c : Copy) : Bool := c.dir.testBit 1

/-- How far a copy reaches in a stash from its first byte. -/
def Copy.extent (c : Copy) (pitch : Nat) : Nat := if c.rows = 0 ∨ c.rowBytes = 0 then 0 else (c.rows - 1) * pitch + c.rowBytes

/-- The copies of a team that have not finished. (DEDUCED, log entry 20) -/
def State.copiesOf (s : State) (t : Team) : List Nat :=
  (s.copies.entries.filter (fun c => c.2.active && c.2.owner == t.key)).map Prod.fst

/-- The checks of a copy at issue, in the order of R232. -/
def State.copyCheck (s : State) (w : Wd) (c : Copy) (len : Option Nat) : Option TrapReq :=
  let bad (x : Nat) : Bool := x % 4 != 0
  let size := s.stashSize s.team
  let noLevel := Config.noWalkLevel.toNat
  if bad c.dst.toNat then some (w.trap s cALIGN 0 c.dst)
  else if bad c.src.toNat then some (w.trap s cALIGN 0 c.src)
  else if bad c.rowBytes || bad c.srcPitch || bad c.dstPitch then some (w.trap s cALIGN 0 c.dst)
  else if !c.toStash && !canonical c.dst then some (w.trap s cPROTECT (Acc.engWrite.code * 16 + noLevel) c.dst)
  else if !c.fromStash && !canonical c.src then some (w.trap s cPROTECT (Acc.engRead.code * 16 + noLevel) c.src)
  else if (match len with | some n => decide (2 ^ 36 < n) | none => false) then
    some (w.trap s cPROTECT (Acc.engWrite.code * 16 + noLevel) c.dst)
  else if c.toStash && decide (size < c.dst.toNat + c.extent c.dstPitch) then some (w.trap s cSTASHRANGE 0 c.dst)
  else if c.fromStash && decide (size < c.src.toNat + c.extent c.srcPitch) then some (w.trap s cSTASHRANGE 0 c.src)
  else none

/-- Start a copy: it joins the team's pending copies. -/
def State.startCopy (s : State) (w : Wd) (c : Copy) (len : Option Nat) : Eff :=
  match s.copyCheck w c len with
  | some r => .trap s r
  | none =>
    if 256 ≤ (s.copiesOf s.team).length then .hold s 9
    else
      let t := s.team
      let (id, s1) := s.fresh
      let c1 := { c with active := true, uid := s.cur, owner := t.key, gid := t.place.grid, wg := t.wgKey, seq := t.nextSeq, upto := id,
                         who := s.engWho s.cur }
      .next ((s1.putCopy id c1).setTeam { s1.team with nextSeq := t.nextSeq + 1,
                                                       copy := { s1.team.copy with open_ := s1.team.copy.open_ ++ [id] } })

/-- CPY (R232). -/
def execCpy (a b : BitVec 6) (d : BitVec 2) (s : State) : Out :=
  s.runWord (.cpy a b d) (fun w s =>
    let n := (w.r.readS b.toNat).toNat
    s.startCopy w { dir := d.toNat, dst := w.r.readS a.toNat, src := w.r.readS (a.toNat + 1), rows := 1, rowBytes := n } (some n))

/-- CPY2D (R232). -/
def execCpy2d (a b : BitVec 6) (d : BitVec 2) (s : State) : Out :=
  s.runWord (.cpy2d a b d) (fun w s =>
    let x := (w.r.readS b.toNat).toNat
    let y := (w.r.readS (b.toNat + 1)).toNat
    s.startCopy w { dir := d.toNat, dst := w.r.readS a.toNat, src := w.r.readS (a.toNat + 1), rows := x / 2 ^ 32,
                    rowBytes := x % 2 ^ 32, srcPitch := y / 2 ^ 32, dstPitch := y % 2 ^ 32 } none)

/-! ### Batches (R233, R235) -/

/-- Whether every copy of a batch has finished. -/
def State.batchDone (s : State) (b : Batch) : Bool := b.copies.all (fun c => !(s.copies.get c).active)

/-- The batches of a team that have not finished. -/
def State.batchesOpen (s : State) (t : Team) : List Batch := t.copy.batches.filter (fun b => !s.batchDone b)

/-- CPYB: closes the pending copies into a batch; release-class, and a seam. -/
def execCpyb (d : BitVec 6) (s : State) : Out :=
  s.runWord (.cpyb d) (fun _ s =>
    let t := s.team
    if 64 ≤ (s.batchesOpen t).length then .hold s 9
    else
      let n := (t.copy.last + 1) % 2 ^ 32
      let (s1, _) := s.releaseClock
      let kept := t.copy.batches.filter (fun b => !s.batchDone b || b.copies.any (fun c => (s.copies.get c).failed.isSome))
      let s2 := s1.setTeam { s1.team with copy := { t.copy with last := n, open_ := [], batches := kept ++ [⟨n, t.copy.open_⟩] } }
      .seam (s2.withRegs (fun r => r.writeS d.toNat (BitVec.ofNat 64 n))) 0)

/-- The number that a CPYW waits for: one after the last batch issued stands for that batch. -/
def lastCovered (last : Nat) (x : W64) : Nat :=
  let m := x.toNat % 2 ^ 32
  let ahead := (m + 2 ^ 32 - last) % 2 ^ 32
  if 0 < ahead ∧ ahead < 2 ^ 31 then last else m

/-- Whether a batch number is covered. -/
def covered (m n : Nat) : Bool := decide ((m + 2 ^ 32 - n) % 2 ^ 32 < 2 ^ 31)

/-- CPYW: waits for every covered batch; a failure of one is reported once (R233, R234). -/
def execCpyw (a : BitVec 6) (s : State) : Out :=
  s.runWord (.cpyw a) (fun w s =>
    let t := s.team
    let m := lastCovered t.copy.last (w.r.readS a.toNat)
    let l := t.copy.batches.filter (fun b => covered m b.num)
    if l.any (fun b => !s.batchDone b) then .hold s 4
    else
      let hit := l.findSome? (fun b => b.copies.findSome? (fun c => (s.copies.get c).failed.map (fun f => (b.num, c, f))))
      match hit with
      | some (n, c, f) =>
        let s1 := s.putCopy c { s.copies.get c with failed := none }
        .trap s1 (w.trap s1 f.cause f.detail f.addr 0xFFFF (BitVec.ofNat 32 n))
      | none =>
        .next (s.setTeam { t with copy := { t.copy with batches := t.copy.batches.filter (fun b => !covered m b.num) } }))

/-- CPYSEQ (R235). -/
def State.cpyseq (s : State) (t : Team) : W64 :=
  let done := match s.batchesOpen t with
    | [] => t.copy.last
    | b :: _ => (b.num + 2 ^ 32 - 1) % 2 ^ 32
  BitVec.ofNat 64 (done * 2 ^ 32 + t.copy.last)

/-! ### The copy engine (R209, R210, R232, R234) -/

/-- Whether every access of the team before a copy has been performed. -/
def State.copyReady (s : State) (c : Copy) : Bool :=
  let t := s.teams.get c.uid
  let own := identOf c.uid t.place.gen = c.who.ident
  s.trackerDone (coreOf c.uid) c.upto allPaths && (!own || t.loadsFixed c.seq)

/-- The pieces of a destination line (its number in units of 128 bytes) that a copy writes: the row, the offset in the
row, the offset in the line, and the length. -/
def Copy.pieces (c : Copy) (line : Nat) : List (Nat × Nat × Nat × Nat) :=
  (List.range c.rows).filterMap (fun r =>
    let d := c.dst.toNat + r * c.dstPitch
    let lo := if d < 128 * line then 128 * line else d
    let hi := if d + c.rowBytes < 128 * line + 128 then d + c.rowBytes else 128 * line + 128
    if lo < hi then some (r, lo - d, lo - 128 * line, hi - lo) else none)

/-- Read the sources of a line's pieces. -/
def State.copySource (s : State) (c : Copy) : List (Nat × Nat × Nat × Nat) → Eng (List (Nat × List Byte))
  | [] => .ok [] s
  | (r, o, off, n) :: rest =>
    let src := c.src + BitVec.ofNat 64 (r * c.srcPitch + o)
    let bytes : Eng (List Byte) :=
      if c.fromStash then s.engStashRead c.who c.uid c.wg src.toNat n
      else s.engRead c.who (dieOf c.uid) none src n
    bytes.bind (fun l s => (s.copySource c rest).bind (fun ls s => .ok ((off, l) :: ls) s))

/-- A copy stops: its destination is unspecified, and its batch's next CPYW reports it (R234). -/
def State.stopCopy (s : State) (id : Nat) (c : Copy) (f : EFault) : State :=
  let s1 := (List.range c.rows).foldl (fun s r =>
    let o := r * c.dstPitch
    if c.toStash then s.scrambleStash c.wg (c.dst.toNat + o) c.rowBytes
    else s.scramble (dieOf c.uid) c.who.ctx (c.dst + BitVec.ofNat 64 o) c.rowBytes) s
  s1.putCopy id { c with active := false, failed := some f }

/-- Write a line's pieces to a stash. -/
def State.copyToStash (s : State) (c : Copy) (line : Nat) (ps : List (Nat × List Byte)) : Eng Unit :=
  ps.foldl (fun (e : Eng Unit) x => e.bind (fun _ s => s.engStashLine c.who c.uid c.wg (128 * line + x.1) x.2)) (.ok () s)

/-- STORE_AT_HOME of one destination line of a copy. -/
def State.copyLine (s : State) (id line : Nat) : State :=
  let c := s.copies.get id
  let ps := c.pieces line
  let earlier := s.copies.entries.any (fun e => decide (e.1 < id) && e.2.active && e.2.owner == c.owner &&
    e.2.toStash == c.toStash && !(e.2.pieces line).isEmpty && !e.2.doneLines.contains line)
  if !c.active || c.abandoned || ps.isEmpty || c.doneLines.contains line || c.held.isSome || earlier || !s.copyReady c then s
  else
    let out : Eng Unit := (s.copySource c ps).bind (fun l s =>
      if c.toStash then s.copyToStash c line l
      else s.engWriteLine c.who (dieOf c.uid) (BitVec.ofNat 64 (128 * line)) l)
    match out with
    | .ok _ s1 => s1.putCopy id { c with doneLines := line :: c.doneLines }
    | .wait s1 => s1
    | .fault f s1 =>
      if f.cause = cNOTPRESENT then (s1.holdFault c.who.ctx f c.uid).putCopy id { c with held := some f.addr }
      else s1.stopCopy id c f

/-- Whether every destination line of a copy has been written. -/
def Copy.finished (c : Copy) : Bool :=
  (List.range c.rows).all (fun r =>
    let d := c.dst.toNat + r * c.dstPitch
    (List.range ((d + c.rowBytes + 127) / 128 - d / 128)).all (fun k => c.rowBytes = 0 || c.doneLines.contains (d / 128 + k)))

/-- COPY_COMPLETION: the engine has written every line; an abandoned copy leaves its destination unspecified. -/
def execCopyCompletion (id : Nat) (s : State) : Out :=
  s.event (fun s =>
    let c := s.copies.get id
    if !c.active then s
    else if c.abandoned then
      (List.range c.rows).foldl (fun s r =>
        let o := r * c.dstPitch
        if c.toStash then s.scrambleStash c.wg (c.dst.toNat + o) c.rowBytes
        else s.scramble (dieOf c.uid) c.who.ctx (c.dst + BitVec.ofNat 64 o) c.rowBytes) (s.putCopy id { c with active := false })
    else if c.finished && s.copyReady c then s.putCopy id { c with active := false }
    else s)

end Sys2Proof.Machine
end

