-- ==== Sys2Proof/Machine/Crypto.lean ====
section
/-! DEFINITION. The ciphers and checksums of the stream engine: the AES-256 block cipher (FIPS 197), its counter mode, and
CRC-32C (R322). -/

namespace Sys2Proof.Machine

/-! ### AES-256 -/

/-- Multiplication by x in GF(2^8). -/
def gfDouble (a : Byte) : Byte := (a <<< 1) ^^^ (if a.getLsbD 7 then 0x1B else 0)

/-- Multiplication in GF(2^8), by the bits of the second factor from bit k on. -/
def gfMulFrom (a b : Byte) : Nat → Nat → Byte
  | 0, _ => 0
  | n + 1, k => (if b.getLsbD k then a else 0) ^^^ gfMulFrom (gfDouble a) b n (k + 1)

def gfMul (a b : Byte) : Byte := gfMulFrom a b 8 0

/-- The inverse, which is the 254th power; 0 gives 0. -/
def gfInv (a : Byte) : Byte :=
  let a2 := gfMul a a
  let a4 := gfMul a2 a2
  let a8 := gfMul a4 a4
  let a16 := gfMul a8 a8
  let a32 := gfMul a16 a16
  let a64 := gfMul a32 a32
  gfMul (gfMul (gfMul a2 a4) (gfMul a8 a16)) (gfMul (gfMul a32 a64) (gfMul a64 a64))

/-- The substitution of a byte. -/
def aesSub (a : Byte) : Byte :=
  let b := gfInv a
  b ^^^ b.rotateLeft 1 ^^^ b.rotateLeft 2 ^^^ b.rotateLeft 3 ^^^ b.rotateLeft 4 ^^^ 0x63

/-- Byte-wise exclusive or. -/
def xorBytes (a b : List Byte) : List Byte := (a.zip b).map (fun x => x.1 ^^^ x.2)

/-- The next key word from the eight before it, the newest first. -/
def aesNextWord (i : Nat) (rcon : Byte) (ws : List (List Byte)) : List Byte :=
  let t := ws.getD 0 []
  let t := if i % 8 = 0 then xorBytes ((t.drop 1 ++ t.take 1).map aesSub) [rcon, 0, 0, 0]
    else if i % 8 = 4 then t.map aesSub else t
  xorBytes (ws.getD 7 []) t

/-- Key words from number i on, the newest first. -/
def aesExpand : Nat → Nat → Byte → List (List Byte) → List (List Byte)
  | 0, _, _, ws => ws
  | n + 1, i, rcon, ws =>
    aesExpand n (i + 1) (if i % 8 = 0 then gfDouble rcon else rcon) (aesNextWord i rcon ws :: ws)

/-- The 60 key words of a 32-byte key. -/
def aesKeys (key : List Byte) : List (List Byte) :=
  (aesExpand 52 8 1 ((List.range 8).map (fun i => (key.drop (4 * i)).take 4)).reverse).reverse

/-- Shift the rows of a state, held column by column. -/
def aesRows (s : List Byte) : List Byte := (List.range 16).map (fun i => s.getD ((i + 4 * (i % 4)) % 16) 0)

/-- Mix a column. -/
def aesColumn (a b c d : Byte) : List Byte :=
  [gfMul a 2 ^^^ gfMul b 3 ^^^ c ^^^ d, a ^^^ gfMul b 2 ^^^ gfMul c 3 ^^^ d, a ^^^ b ^^^ gfMul c 2 ^^^ gfMul d 3,
   gfMul a 3 ^^^ b ^^^ c ^^^ gfMul d 2]

def aesColumns (s : List Byte) : List Byte :=
  (List.range 4).flatMap (fun c => aesColumn (s.getD (4 * c) 0) (s.getD (4 * c + 1) 0) (s.getD (4 * c + 2) 0) (s.getD (4 * c + 3) 0))

/-- Rounds 1 on; the last one mixes no columns. -/
def aesRounds : List (List Byte) → List Byte → List Byte
  | [], s => s
  | [k], s => xorBytes (aesRows (s.map aesSub)) k
  | k :: ks, s => aesRounds ks (xorBytes (aesColumns (aesRows (s.map aesSub))) k)

/-- Round keys from key words. -/
def aesRoundKeys (ws : List (List Byte)) : List (List Byte) := (List.range 15).map (fun r => ((ws.drop (4 * r)).take 4).flatten)

/-- The encryption of a block under a 32-byte key. -/
def aes256 (key block : List Byte) : List Byte :=
  match aesRoundKeys (aesKeys key) with
  | [] => block
  | k :: ks => aesRounds ks (xorBytes block k)

/-- The 4 bytes of a counter, highest first. -/
def bigEndian4 (n : Nat) : List Byte := (List.range 4).map (fun i => BitVec.ofNat 8 (n / 2 ^ (8 * (3 - i))))

/-- The byte that counter mode gives for a distance from the start. -/
def ctrByte (key nonce : List Byte) (d : Int) : Byte :=
  (aes256 key (nonce ++ bigEndian4 ((d / 16) % 2 ^ 32).toNat)).getD (d % 16).toNat 0

/-! ### CRC-32C -/

/-- Take one bit of the string. -/
def crcBit (c : W32) (b : Bool) : W32 :=
  let x := if b then c ^^^ 1 else c
  (x >>> 1) ^^^ (if x.getLsbD 0 then 0x82F63B78 else 0)

/-- Take bits in order. -/
def crcTake (c : W32) (l : List Bool) : W32 := l.foldl crcBit c

/-- The checksum that a state stands for. -/
def crcFinal (c : W32) : W32 := c ^^^ 0xFFFFFFFF

end Sys2Proof.Machine
end

