-- ==== Sys2Proof/Machine/Streams.lean ====
section
/-! DEFINITION. Queues, stream programs and the stream engine, with tide probes and darning entries (R24, R272, R273, R317 to
R327). -/

namespace Sys2Proof.Machine

/-! ### Ports and queues (R317) -/

def State.queue (s : State) (core k : Nat) : Queue := (s.cores.get core).queues.get k
def State.putQueue (s : State) (core k : Nat) (q : Queue) : State :=
  s.modCore core (fun c => { c with queues := c.queues.put k q })

/-- The queue that a port of a team's workgroup is bound to. -/
def State.portOf (s : State) (t : Team) (port : Nat) : Option Nat :=
  let n := (s.wgOf t).ports.get port
  if n = 0 then none else some (n - 1)

/-- End a binding. -/
def State.unbindQueue (s : State) (core k : Nat) : State :=
  let wg := (s.queue core k).wg
  (s.putQueue core k {}).modWg wg (fun w => { w with ports := ⟨w.ports.entries.filter (fun p => p.2 ≠ k + 1)⟩ })

/-- Entries that a queue may hold. -/
def Queue.room (q : Queue) : Nat := if q.darnFree then 65 else 64

/-! ### Validation (R320) -/

/-- A valid entry without a block scale. -/
def unscaledFmt (x : W64) : Bool := fmtValid x && (nfmtOf x).group == 0

/-- The bits of an output element (R322). -/
def StreamProg.outBits (p : StreamProg) (table : SMap (0#64)) : Nat :=
  if p.on 5 then (nfmtOf (table.get p.outfmt)).width
  else if p.on 3 || p.delta then 32
  else if p.dictMode then (nfmtOf (table.get p.dictfmt)).width
  else 8 * p.esize

/-- Whether a program breaks none of the rules. -/
def StreamProg.valid (p : StreamProg) (table : SMap (0#64)) (decryptOk : Bool) : Bool :=
  let sizes := [1, 2, 4, 8]
  p.on 0 && p.cnt.all (fun c => decide (1 ≤ c)) && p.zeros == 0 && decide (p.exmode / 8 = 0) && decide (p.exmode % 4 ≤ 1) &&
  p.out == (if p.on 7 then 1 else 0) && decide (p.dkind ≤ 1) && decide (p.keyslot ≤ 63) && decide (p.outfmt ≤ 63) &&
  decide (p.dictfmt ≤ 63) && decide (p.trr ≤ 64) && decide (p.trc ≤ 64) && decide (p.crcaddr.toNat % 4 = 0) &&
  (p.on 3 || p.delta || sizes.contains p.esize) &&
  (!p.on 5 || (p.on 3 && unscaledFmt (table.get p.outfmt))) &&
  (!p.dictMode || (unscaledFmt (table.get p.dictfmt) && (p.on 3 || p.esize == 1))) &&
  (!p.delta || ((p.esize == 1 || p.esize == 2) && p.sst.all (fun x => x == 0) && !p.on 3 && !p.on 5)) &&
  (!p.on 4 || (p.trr != 0 && p.trc != 0 && p.n % (p.trr * p.trc) == 0)) &&
  (!p.on 7 || [8, 16, 32, 64].contains (p.outBits table)) &&
  (!p.on 1 || decryptOk)

/-! ### STREAM (R318) -/

/-- The trap of an access that the current word's engine makes. -/
def Wd.engTrap (w : Wd) (s : State) (f : EFault) : TrapReq := w.trap s f.cause f.detail f.addr

/-- The elements of a dictionary, packed from its address on. -/
def dictOf (w : Nat) (l : List Byte) : List W64 := (List.range 256).map (fun c => BitVec.ofNat 64 (bitsAt l (c * w) w))

/-- What STREAM reads once its program is valid: the dictionary, and the key. -/
def State.streamExtras (s : State) (w : Wd) (p : StreamProg) (table : SMap (0#64)) (who : Who) (va : W64)
    (go : State → List W64 → BitVec 256 → Eff) : Eff :=
  let width := (nfmtOf (table.get p.dictfmt)).width
  let dict : Eng (List Byte) :=
    if p.dictMode then s.engRead who (dieOf s.cur) (some (coreOf s.cur)) p.dict (32 * width) else .ok [] s
  match dict with
  | .wait s => .hold s noReason
  | .fault f s => .trap s (w.engTrap s f)
  | .ok l s =>
    let key := (s.mod.keys.entries.find? (fun k => k.1 == p.keyslot && k.2.1 == who.ctx)).map (fun k => BitVec.ofNat 256 k.2.2)
    if p.on 1 ∧ key = none then .trap s (w.trap s cPROTECT (Acc.engRead.code * 16 + Config.noWalkLevel.toNat) va)
    else go s (if p.dictMode then dictOf width l else []) (key.getD 0)

/-- STREAM: reads and checks its program, and binds a port to a free queue; release-class, and a seam. -/
def execStream (d a : BitVec 6) (s : State) : Out :=
  s.runWord (.stream d a) (fun w s =>
    let t := s.team
    let core := coreOf s.cur
    let va := w.r.readS a.toNat
    let who := s.engWho s.cur
    let table := (s.ctxOf t).fmt
    if va.toNat % 128 ≠ 0 then .trap s (w.trap s cALIGN 0 va)
    else match s.translate (dieOf s.cur) t.place.ctx .engRead va with
      | .error f => .trap s (w.engTrap s f)
      | .ok _ =>
        if (s.portOf t d.toNat).isSome then .trap s (w.trap s cQUEUE)
        else if !s.teamQuiet s.cur then .hold s noReason
        else match s.engRead who (dieOf s.cur) (some core) va 128 with
          | .wait s => .hold s noReason
          | .fault f s => .trap s (w.engTrap s f)
          | .ok l s =>
            let p := streamProg l
            if !p.valid table (s.feature 5) then .trap s (w.trap s cFORMAT 0 va)
            else s.streamExtras w p table who va (fun s dict key =>
              match (List.range 8).find? (fun k => !(s.queue core k).bound) with
              | none => .hold s 9
              | some k =>
                let (id, s) := s.fresh
                let ended := p.n = 0 ∧ (!p.on 6 ∨ p.crcaddr = 0)
                let q : Queue := { bound := true, wg := t.wgKey, uid := s.cur, owner := t.key, seq := t.nextSeq, upto := id,
                                   ebits := p.outBits table, prog := l, table := table, dict := dict, key := key, who := who,
                                   ended := ended }
                let (s, _) := (s.putQueue core k q).releaseClock
                let s := s.modWg t.wgKey (fun g => { g with ports := g.ports.put d.toNat (k + 1) })
                .seam (s.setTeam { s.team with nextSeq := t.nextSeq + 1 }) 0))

/-! ### The stages (R321, R322) -/

/-- Source bytes, decrypted where the program asks for that. (DEDUCED, log entry 26) -/
def State.streamBytes (s : State) (core : Nat) (q : Queue) (p : StreamProg) (va : W64) (n : Nat) : Eng (List Byte) :=
  (s.engRead q.who (dieOfCore core) (some core) va n).bind (fun l s =>
    if p.on 1 then
      let key := leBytes 32 q.key.toNat
      .ok ((List.range l.length).map (fun i =>
        l.getD i 0 ^^^ ctrByte key p.nonce (((va + BitVec.ofNat 64 i).toNat : Int) - p.src.toNat))) s
    else .ok l s)

/-- A value dequantised: its f32 bits. -/
def dequantised (x : XVal) : Nat := x.f32.toNat

/-- The element that a code of the dictionary stands for; past its 256 entries the spec gives none. (DESIGN CHOICE, log entry 27) -/
def State.dictEntry (s : State) (q : Queue) (w code : Nat) : Nat :=
  if code < 256 then (q.dict.getD code 0).toNat % 2 ^ w else (Config.freeWord s.freeCtr code).toNat % 2 ^ w

/-- Input element j, through the gather, decrypt, expand and dequantise stages. -/
def State.streamInput (s : State) (core : Nat) (q : Queue) (p : StreamProg) (j : Nat) : Eng Nat :=
  let die := dieOfCore core
  let pos := strided p.cnt p.sst j
  if p.delta then
    let base := p.src + BitVec.ofNat 64 (j / 32 * (4 + 32 * p.esize))
    (s.streamBytes core q p base 4).bind (fun b s =>
      (s.streamBytes core q p (base + BitVec.ofNat 64 (4 + p.esize * (j % 32))) p.esize).bind (fun d s =>
        .ok (((leNat b : Int) + signedOf (8 * p.esize) (leNat d)) % 2 ^ 32).toNat s))
  else if !p.on 3 && !p.on 2 then
    (s.streamBytes core q p (p.src + BitVec.ofInt 64 (pos * p.esize)) p.esize).bind (fun b s => .ok (leNat b) s)
  else
    match s.fmtIndex q.who die p.src with
    | .error f => .fault f s
    | .ok idx =>
      let x := q.table.get idx
      let f := nfmtOf x
      let plain : Bool := idx == 0 && !p.on 3
      if !plain && (idx == 0 || !fmtValid x) then .fault ⟨cFORMAT, 0, p.src⟩ s
      else
        let w := if plain then 8 else f.width
        let (v, k) := elemVa p.src (pos * w)
        match s.fmtIndex q.who die v with
        | .error e => .fault e s
        | .ok i =>
          if i ≠ idx ∨ (!plain && !f.whole v k) then .fault ⟨cFORMAT, 0, v⟩ s
          else (s.streamBytes core q p v ((k + w + 7) / 8)).bind (fun l s =>
            let code := bitsAt l k w
            let df := nfmtOf (q.table.get p.dictfmt)
            if p.on 2 then
              let c := s.dictEntry q df.width code
              .ok (if p.on 3 then dequantised (df.decode c) else c) s
            else if f.group = 0 then .ok (dequantised (f.decode code)) s
            else (s.engRead q.who die (some core) (f.scaleVa v k) (scaleBytes f.sfmt)).bind (fun c s =>
              .ok (dequantised ((f.decode code).mul (scaleValue f.sfmt (leNat c)))) s))

/-- Output element e. -/
def State.streamOutput (s : State) (core : Nat) (q : Queue) (p : StreamProg) (e : Nat) : Eng Nat :=
  (s.streamInput core q p (p.input e)).bind (fun v s =>
    .ok (if p.on 5 then
      (nfmtOf (q.table.get p.outfmt)).encode (chooserAt (p.exmode.testBit 2) p.seed e) (.ofF32 (BitVec.ofNat 32 v))
    else v) s)

/-! ### Output (R322, R323) -/

/-- The first of some addresses that an engine may not write. -/
def State.writeFaults (s : State) (die : Nat) (who : Who) : List W64 → Option EFault
  | [] => none
  | a :: rest => match s.translate die who.ctx .engWrite a with
    | .error f => some f
    | .ok pl =>
      if s.shadowFails who.race pl then some ⟨cPROTECT, Acc.engWrite.code * 16 + pl.leaf.level, a⟩ else s.writeFaults die who rest

/-- Whether a scatter's destination of element e can be written: the first fault. An element that is not naturally aligned
meets ALIGN (R192, R327). (DEDUCED, log entry 25) -/
def State.scatterCheck (s : State) (core : Nat) (q : Queue) (p : StreamProg) (e : Nat) : Option EFault :=
  let va := p.dstOf e
  let n := q.ebits / 8
  if va.toNat % n ≠ 0 then some ⟨cALIGN, 0, va⟩
  else if p.dkind = 1 then
    if (s.grids.get (s.wgs.get q.wg).grid).launch.stash < va.toNat + n then some ⟨cSTASHRANGE, 0, va⟩ else none
  else
    s.writeFaults (dieOfCore core) q.who
      (if va.toNat % 128 + n ≤ 128 then [va] else [va, va + BitVec.ofNat 64 (128 - va.toNat % 128)])

/-- An output element joins the checksum: whole bytes at once, the rest of the bits kept. -/
def Queue.check (q : Queue) (v : Nat) : Queue :=
  let bits := q.crcBits ++ bitsOfNat q.ebits v
  let k := bits.length / 8 * 8
  { q with crc := crcTake q.crc (bits.take k), crcBits := bits.drop k }

/-- The checksum at the end, its last byte padded with zeros. -/
def Queue.padCheck (q : Queue) : Queue :=
  if q.crcBits = [] then q
  else { q with crc := crcTake q.crc (q.crcBits ++ List.replicate (8 - q.crcBits.length) false), crcBits := [] }

/-- An output element leaves the last stage: into the entry being filled, or to the scatter. -/
def Queue.emit (q : Queue) (p : StreamProg) (v : Nat) : Queue :=
  let q := if p.on 6 then q.check v else q
  if p.on 7 then { q with next := q.next + 1, outs := q.outs ++ [v % 2 ^ q.ebits] }
  else { q with next := q.next + 1, bits := q.bits ++ bitsOfNat q.ebits v }

/-- Whether the entry being filled is complete. -/
def Queue.entryDone (q : Queue) (p : StreamProg) : Bool :=
  q.bits ≠ [] && (decide (1024 / q.ebits * q.ebits ≤ q.bits.length) || q.next == p.n)

/-- An entry of 128 bytes. -/
def entryBytes (l : List Bool) : List Byte := bytesOfBits 128 (l ++ List.replicate (1024 - l.length) false)

/-- What a fault does to a stream (R327). -/
def State.streamFault (s : State) (core k : Nat) (q : Queue) (e : Nat) (f : EFault) : State :=
  if f.cause = cNOTPRESENT then (s.holdFault q.who.ctx f q.uid).putQueue core k { q with held := some f.addr }
  else s.putQueue core k { q with stop := some (e, f) }

/-- Emit up to a number of elements, until an entry is complete. -/
def State.streamEmit (s : State) (core k : Nat) (p : StreamProg) : Nat → State
  | 0 => s
  | n + 1 =>
    let q := s.queue core k
    if q.next = p.n ∨ (!p.on 7 && q.entryDone p) then s
    else match (if p.on 7 then s.scatterCheck core q p q.next else none) with
      | some f => s.streamFault core k q q.next f
      | none => match s.streamOutput core q p q.next with
        | .wait s1 => s1
        | .fault f s1 => s1.streamFault core k q q.next f
        | .ok v s1 => (s1.putQueue core k (q.emit p v)).streamEmit core k p n

/-- The pieces of a destination line, in order of their elements: later outputs come last, and win. -/
def Queue.pieces (q : Queue) (p : StreamProg) (line : Nat) : List (Nat × List Byte) :=
  (List.range q.outs.length).filterMap (fun e =>
    let a := (p.dstOf e).toNat
    let n := q.ebits / 8
    let lo := if a < 128 * line then 128 * line else a
    let hi := if a + n < 128 * line + 128 then a + n else 128 * line + 128
    if lo < hi then some (lo - 128 * line, ((leBytes n (q.outs.getD e 0)).drop (lo - a)).take (hi - lo)) else none)

/-- The destination lines of the elements emitted that have not been written, each with its lowest element. -/
def Queue.linesDue (q : Queue) (p : StreamProg) : List (Nat × Nat) :=
  let n := q.ebits / 8
  let all := (List.range q.outs.length).flatMap (fun e =>
    let a := (p.dstOf e).toNat
    if (a + n - 1) / 128 = a / 128 then [(a / 128, e)] else [(a / 128, e), ((a + n - 1) / 128, e)])
  all.foldl (fun l x => if q.doneLines.contains x.1 || l.any (fun y => y.1 == x.1) then l else l ++ [x]) []

/-- Write one destination line of a scatter. (DEDUCED, log entry 23) -/
def State.scatterLine (s : State) (core k : Nat) (q : Queue) (p : StreamProg) (x : Nat × Nat) : State :=
  let out : Eng Unit :=
    if p.dkind = 1 then
      s.copyToStash { uid := core * 64, wg := q.wg, who := q.who } x.1 (q.pieces p x.1)
    else s.engWriteLine q.who (dieOfCore core) (BitVec.ofNat 64 (128 * x.1)) (q.pieces p x.1)
  match out with
  | .wait s1 => s1
  | .ok _ s1 => s1.putQueue core k { q with doneLines := x.1 :: q.doneLines }
  | .fault f s1 => s1.streamFault core k { q with doneLines := if f.cause = cNOTPRESENT then q.doneLines else x.1 :: q.doneLines } x.2 f

/-- What a stream does once its elements have been emitted: the checksum is written, and the stream has ended. -/
def State.streamEnd (s : State) (core k : Nat) (q : Queue) (p : StreamProg) : State :=
  let q := if p.on 6 then q.padCheck else q
  if p.on 6 && p.crcaddr ≠ 0 then
    let va := p.crcaddr
    match s.engWriteLine q.who (dieOfCore core) va [(va.toNat % 128, leBytes 4 (crcFinal q.crc).toNat)] with
    | .wait s1 => s1
    | .ok _ s1 => s1.putQueue core k { q with ended := true }
    | .fault f s1 => s1.streamFault core k q p.n f
  else s.putQueue core k { q with ended := true }

/-- Whether the work of a stream is over: it has ended, or it has stopped and what it had emitted is written. -/
def Queue.over (q : Queue) : Bool := q.ended || (q.stop.isSome && (q.linesDue (streamProg q.prog)).isEmpty)

/-- Whether a stream has emitted every element (R325). -/
def Queue.emitted (q : Queue) : Bool := q.ended || (q.stop.isNone && q.next == (streamProg q.prog).n && q.bits.isEmpty)

/-- Leave the destination bytes of an abandoned stream unspecified, and free its queue. -/
def State.streamAbandon (s : State) (core k : Nat) (q : Queue) (p : StreamProg) : State :=
  let s1 := if p.on 7 && p.dkind == 0 && !q.ended then
      (List.range p.n).foldl (fun s e => s.scramble (dieOfCore core) q.who.ctx (p.dstOf e) (q.ebits / 8)) s
    else s
  s1.unbindQueue core k

/-- Whether every access of the team before the stream has been performed (R209). -/
def State.streamReady (s : State) (core : Nat) (q : Queue) : Bool :=
  let t := s.teams.get q.uid
  s.trackerDone core q.upto allPaths && (identOf q.uid t.place.gen ≠ q.who.ident || t.loadsFixed q.seq)

/-- Whether a stream is blocked pushing to its queue, which is still full. -/
def Queue.full (q : Queue) : Bool := q.bound && q.blocked != 0 && decide (q.room ≤ q.entries.length)

/-- Whether another stream of the core, held by a full queue, keeps the stage units that this one needs (R323). -/
def State.stageHeld (s : State) (core k : Nat) : Bool :=
  (s.cores.get core).queues.entries.any (fun q => q.1 != k && q.2.full)

/-- Push a complete entry, or find the queue full; a closing queue discards it. -/
def State.streamPush (s : State) (core k : Nat) (q : Queue) : State :=
  if q.closing then s.putQueue core k { q with bits := [], blocked := 0 }
  else if q.entries.length < q.room then
    s.putQueue core k { q with bits := [], blocked := 0, entries := q.entries ++ [entryBytes q.bits], pushed := q.pushed + 1,
                               darnFree := q.darnFree && decide (q.entries.length < 64) }
  else if q.blocked = 0 then s.putQueue core k { q with blocked := (s.dies.get (dieOfCore core)).clk + 1 }
  else s

/-- STREAM_ENTRY_PUSH: a step of a stream: it emits some elements, pushes an entry, writes a line of its scatter or its
checksum, or ends. A closed queue of a retired workgroup is freed when its stream is over (R317). -/
def execStreamEntryPush (core k : Nat) (s : State) : Out :=
  s.event (fun s =>
    let q := s.queue core k
    let p := streamProg q.prog
    if !q.bound then s
    else if q.abandoned then s.streamAbandon core k q p
    else if q.over then (if q.closing && !(s.wgs.get q.wg).bound then s.unbindQueue core k else s)
    else if q.held.isSome || !s.streamReady core q then s
    else if q.stop.isSome || (p.on 7 && q.next == p.n) then
      match q.linesDue p with
      | [] => s.streamEnd core k q p
      | l => s.scatterLine core k q p (l.getD (Config.freeNat s.freeCtr 7 % l.length) (0, 0))
    else if !p.on 7 && q.entryDone p then s.streamPush core k q
    else if q.next == p.n then s.streamEnd core k q p
    else if s.stageHeld core k then s
    else s.streamEmit core k p (1 + Config.freeNat s.freeCtr 7))

/-! ### The queue words (R324 to R326) -/

/-- The trap of a stopped stream, reported once; a later word that needs an entry it never pushed gets QUEUE. -/
def State.reportStream (s : State) (w : Wd) (core k : Nat) (q : Queue) : Eff :=
  match q.stop with
  | some (e, f) =>
    if q.reported then .trap s (w.trap s cQUEUE)
    else .trap (s.putQueue core k { q with reported := true }) (w.trap s f.cause f.detail f.addr 0xFFFF (BitVec.ofNat 32 e))
  | none => .trap s (w.trap s cQUEUE)

/-- What a popped entry gives the lanes of a mask word. -/
def popLanes (d : Nat) (lanes : List Nat) (j : Nat) (entry : List Byte) : List (Nat × Nat × W32) :=
  (lanes.filter (fun l => l / 32 = j)).map (fun l => (l, d, BitVec.ofNat 32 (fieldAt entry (4 * (l % 32)) 4)))

/-- QPOP: the entries are popped at issue, and the register is written at completion. -/
def execQpop (d a : BitVec 6) (f : BitVec 1) (s : State) : Out :=
  s.runWord (.qpop d a f) (fun w s =>
    let core := coreOf s.cur
    match s.portOf s.team a.toNat with
    | none => .trap s (w.trap s cQUEUE)
    | some k =>
      let q := s.queue core k
      let js := passesOf w.mask
      if js.length ≤ q.entries.length then
        let res := (js.zip q.entries).flatMap (fun x => popLanes d.toNat w.lanes x.1 x.2)
        let s1 := s.putQueue core k { q with entries := q.entries.drop js.length }
        s1.outstanding w { id := 0, kind := .qpop, dests := useSet w.f.seamWrites, results := res, reg := d.toNat,
                           who := s.engWho s.cur } true
      else if q.emitted then .trap s (w.trap s cQUEUE)
      else if q.stop.isSome then s.reportStream w core k q
      else
        let since := match s.team.wait with
          | .queue _ n => n
          | _ => (s.dies.get (dieOf s.cur)).clk + 1
        .hold (s.setTeam { s.team with wait := .queue a.toNat since }) 8)

/-- QSTAT (R325). -/
def execQstat (d a : BitVec 6) (s : State) : Out :=
  s.runWord (.qstat d a) (fun _ s =>
    let bit (b : Bool) (k : Nat) : Nat := if b then 2 ^ k else 0
    let x := match s.portOf s.team a.toNat with
      | none => 0
      | some k =>
        let q := s.queue (coreOf s.cur) k
        (crcFinal q.crc).toNat * 2 ^ 32 + q.pushed % 2 ^ 20 * 4096 + bit q.stop.isSome 11 + bit q.held.isSome 10 + bit q.darn 9
          + bit q.emitted 8 + 128 + q.entries.length
    .next (s.withRegs (fun r => r.writeS d.toNat (BitVec.ofNat 64 x))))

/-- QCLOSE (R326): the entries are discarded, the stream runs to its end, and the binding ends; a stop that has not been
reported is. -/
def execQclose (a : BitVec 6) (s : State) : Out :=
  s.runWord (.qclose a) (fun w s =>
    let core := coreOf s.cur
    match s.portOf s.team a.toNat with
    | none => .next s
    | some k =>
      let q := s.queue core k
      if q.over then
        let s1 := s.unbindQueue core k
        match q.stop with
        | some (e, f) =>
          if q.reported then .next s1 else .trap s1 (w.trap s1 f.cause f.detail f.addr 0xFFFF (BitVec.ofNat 32 e))
        | none => .next s1
      else
        let s1 := s.putQueue core k { q with closing := true, entries := [] }
        .hold (s1.setTeam { s1.team with wait := .queue a.toNat 0 }) noReason)

/-! ### Tide probes (R272, R273) -/

/-- A node of the wait-for graph of a core: a slot (0 to 63) whose team is blocked in QPOP, or 64 plus a queue whose stream is
blocked. -/
abbrev TideNode := Nat

/-- The queue that a team blocked in QPOP waits for, and since when: it has not got the entries that the team's mask asks for, and its
stream goes on. -/
def State.popBlocked (s : State) (uid : Nat) : Option (Nat × Nat) :=
  let t := s.teams.get uid
  match t.wait with
  | .queue port since =>
    if since = 0 ∨ t.phase ≠ .running then none
    else match s.portOf t port with
      | none => none
      | some k =>
        let q := s.queue (coreOf uid) k
        if q.entries.length < (passesOf t.flow.active).length ∧ q.emitted = false ∧ q.stop = none then some (k, since) else none
  | _ => none

/-- Since when a node is blocked, plus one; 0 when it is not. -/
def State.tideSince (s : State) (core n : Nat) : Nat :=
  if n < 64 then (match s.popBlocked (core * 64 + n) with | some (_, c) => c | none => 0)
  else let q := s.queue core (n - 64); if q.full then q.blocked else 0

/-- Whether a stream waits for a stage of the engine: it has elements to emit, and no complete entry to push. -/
def Queue.wantsStage (q : Queue) : Bool :=
  let p := streamProg q.prog
  q.bound && !q.over && q.stop.isNone && q.held.isNone && q.next != p.n && !q.entryDone p

/-- The nodes that a node waits for. -/
def State.tideEdges (s : State) (core n : Nat) : List TideNode :=
  if n < 64 then (match s.popBlocked (core * 64 + n) with | some (k, _) => [64 + k] | none => [])
  else
    let q := s.queue core (n - 64)
    if q.full then
      (List.range 64).filter (fun m => (s.popBlocked (core * 64 + m)).isSome && (s.teams.get (core * 64 + m)).wgKey == q.wg)
    else if q.wantsStage then
      ((List.range 8).filter (fun k => 64 + k ≠ n && (s.queue core k).full)).map (64 + ·)
    else []

/-- The paths of the wait-for edges from a node back to the origin, one for each copy of a probe that comes back. -/
def State.tidePaths (s : State) (core origin : Nat) : Nat → TideNode → List TideNode → List (List TideNode)
  | 0, _, _ => []
  | fuel + 1, n, path =>
    (s.tideEdges core n).flatMap (fun m =>
      if m = origin then [path ++ [n]]
      else if path.contains m || m = n then []
      else s.tidePaths core origin fuel m (path ++ [n]))

/-- TIDE_PROBE: a blocked QPOP or push sends a probe after 4,096 clocks, and again after each 4,096 more. -/
def execTideProbe (core origin : Nat) (s : State) : Out :=
  s.event (fun s =>
    let since := s.tideSince core origin
    let clk := (s.dies.get (dieOfCore core)).clk
    let last := (s.cores.get core).probed.get origin
    if since = 0 ∨ clk < since - 1 + 4096 ∨ clk < last - 1 + 4096 then s
    else s.modCore core (fun c => { c with probes := c.probes ++ [{ origin := origin, since := since }],
                                           probed := c.probed.set origin (clk + 1) }))

/-- The trap of a team blocked in QPOP on a cycle. -/
def State.tideTrap (s : State) (uid : Nat) : State :=
  let t := s.teams.get uid
  s.takeTrap uid { cause := cQUEUE, word := s.heldWord uid t.flow.pos.pc, pc := t.flow.pos.pc, regions := regionsOf t.flow }

/-- TIDE_PROBE_RETURN: a copy of a probe has come back to its origin, which has been blocked since it sent the probe: the
first full queue on its path is granted its darning entry, or, where that has been granted before, every team blocked on
the cycle traps. A probe none of whose copies is still on its way back is over. (DEDUCED, log entry 29) -/
def execTideProbeReturn (core n : Nat) (s : State) : Out :=
  s.event (fun s =>
    match (s.cores.get core).probes[n]? with
    | none => s
    | some b =>
      let done := s.modCore core (fun c => { c with probes := c.probes.eraseIdx n })
      if b.since ≠ s.tideSince core b.origin then done
      else match (s.tidePaths core b.origin 72 b.origin []).find? (fun l => !b.returned.contains l) with
        | none => done
        | some path =>
          let s := s.modCore core (fun c => { c with probes := c.probes.set n { b with returned := path :: b.returned } })
          match path.find? (fun m => decide (64 ≤ m) && (s.queue core (m - 64)).full) with
          | none => s
          | some m =>
            let q := s.queue core (m - 64)
            if q.darn then (path.filter (fun m => m < 64)).foldl (fun s m => s.tideTrap (core * 64 + m)) s
            else (s.putQueue core (m - 64) { q with darn := true, darnFree := true, blocked := 0 }).modDie (dieOfCore core)
              (fun d => { d with darns := d.darns + 1 }))

end Sys2Proof.Machine
end

