-- ==== Sys2Proof/Machine/Launch.lean ====
section
/-! DEFINITION. Launches: LNCH, submission queues, validation, dependences, the start of a grid, bind records and the start
of a team (R8 to R13, R23 to R29, R184, R185, R254 to R268, R281, R379, R380). -/

namespace Sys2Proof.Machine

/-- The key of the hub die among the dies. -/
def hubDie : Nat := 8

/-- A step of the firmware: time passes on the hub die. -/
def State.fwEvent (s : State) (f : State → State) : Out := .next ((f s.begin_).tick hubDie)

/-! ### Launch records (R256, R257) -/

/-- Whether an address is canonical. -/
def canonicalNat (a : Nat) : Bool := canonical (BitVec.ofNat 64 a)

/-- Whether a field's bytes are zero. -/
def zeroAt (l : List Byte) (a n : Nat) : Bool := fieldAt l a n == 0

/-- The fields of a record. -/
def launchFields (l : List Byte) : LaunchRec :=
  { entry := fieldAt l 0 8, kind := fieldAt l 8 1, cluster := fieldAt l 9 1, teams := fieldAt l 10 1, vregs := fieldAt l 11 1,
    width := fieldAt l 12 2, race := fieldAt l 14 1, cont := fieldAt l 15 1, gx := fieldAt l 16 4, gy := fieldAt l 20 4,
    gz := fieldAt l 24 4, stash := fieldAt l 28 4, param := fieldAt l 32 8, payload := fieldAt l 40 1,
    depth := fieldAt l 41 1, inhBase := fieldAt l 42 1, inhCnt := fieldAt l 43 1, traph := fieldAt l 48 8,
    fmttab := fieldAt l 56 8, compl := fieldAt l 64 8, sigval := fieldAt l 72 8, cscope := fieldAt l 80 1,
    ndep := fieldAt l 81 1, deps := (List.range 8).map (fun k => (fieldAt l (96 + 16 * k) 8, fieldAt l (104 + 16 * k) 8)),
    footwg := fieldAt l 224 4 }

/-- Whether the bytes marked 0 and the limits on single fields hold, but for those of the completion. -/
def launchLimits (l : List Byte) (r : LaunchRec) : Bool :=
  zeroAt l 44 4 && zeroAt l 82 14 && zeroAt l 228 28 && decide (r.kind < 8) &&
  decide (r.entry % 4 = 0) && canonicalNat r.entry &&
  decide (1 ≤ r.cluster ∧ r.cluster ≤ 4) && decide (1 ≤ r.teams ∧ r.teams ≤ 16) && decide (4 ≤ r.vregs ∧ r.vregs ≤ 64) &&
  decide (32 ≤ r.width ∧ r.width ≤ 1024 ∧ r.width % 32 = 0) && decide (r.race ≤ 2) && decide (r.cont ≤ 1) &&
  decide (r.stash ≤ 1572864) && decide (r.payload ≤ 63) && decide (r.depth ≤ 63) &&
  decide (r.traph % 4 = 0) && canonicalNat r.traph && decide (r.fmttab % 512 = 0) && decide (r.ndep ≤ 8) &&
  (List.range 8).all (fun k =>
    let d := r.deps.getD k (0, 0)
    if k < r.ndep then decide (d.1 % 8 = 0) && canonicalNat d.1 && decide (1 ≤ d.2 ∧ d.2 < 2 ^ 63) else d == (0, 0)) &&
  (if r.kind / 2 % 4 = 0 then decide (1 ≤ r.footwg) else decide (r.footwg = 0))

/-- Read a record. -/
def parseLaunch (l : List Byte) : LaunchRec := { launchFields l with wellFormed := launchLimits l (launchFields l) }

/-- The priority class, 0 for C0; whether the grid is open; its workgroups. -/
def LaunchRec.prio (r : LaunchRec) : Nat := r.kind / 2 % 4
def LaunchRec.isOpen (r : LaunchRec) : Bool := r.kind.testBit 0
def LaunchRec.count (r : LaunchRec) : Nat := r.gx * r.gy * r.gz

/-- The limits of the completion's fields. -/
def LaunchRec.complOk (r : LaunchRec) : Bool := r.compl % 32 == 0
def LaunchRec.signalOk (r : LaunchRec) : Bool :=
  r.compl == 0 || (decide (1 ≤ r.sigval ∧ r.sigval < 2 ^ 63) && [3, 4, 5].contains r.cscope)

/-- Stash ways of a workgroup (R184). -/
def LaunchRec.ways (r : LaunchRec) : Nat := (r.stash + 49151) / 49152

/-- Bytes of vector registers that a team holds (R23). -/
def LaunchRec.teamBytes (r : LaunchRec) : Nat := r.vregs * r.width * 4

/-- The workgroups that an empty core takes (R23, R184). -/
def LaunchRec.perCore (r : LaunchRec) : Nat :=
  if r.teamBytes = 0 ∨ r.teams = 0 then 0
  else
    let port := if 262144 / r.teamBytes < 8 then 262144 / r.teamBytes else 8
    let byPort := 8 * port / r.teams
    if r.ways = 0 then byPort else if 32 / r.ways < byPort then 32 / r.ways else byPort

/-- Whether a launch can be placed on an idle device: a workgroup on a core, a cluster on a die, a resident grid on the
module; a grid of no workgroup needs no place (R11, R23, R185, R258). -/
def State.placeable (s : State) (r : LaunchRec) : Bool :=
  let k := if r.cluster = 0 then 1 else r.cluster
  let cores (d : Nat) : Nat := if r.prio = 0 then 12 else 12 - s.hub.c0.getD d 0
  let clusters (d : Nat) : Nat := cores d * r.perCore / k
  decide (r.count = 0) || (decide (1 ≤ r.perCore) &&
  (if r.isOpen then (List.range 8).any (fun d => decide (1 ≤ clusters d))
   else decide (r.count / k ≤ ((List.range 8).map clusters).sum)))

/-- Whether the record of a grid is refused (R256, R257, R410). -/
def State.refuses (s : State) (g : Grid) : Bool :=
  let r := g.launch
  !r.wellFormed || decide (g.addr % 256 ≠ 0) || !r.complOk || !r.signalOk ||
  !((decide (r.gx = 0) && decide (r.gy = 0) && decide (r.gz = 0)) || (decide (1 ≤ r.gx) && decide (1 ≤ r.gy) && decide (1 ≤ r.gz))) ||
  decide (2 ^ 32 ≤ r.count) || decide (r.count % r.cluster ≠ 0) ||
  (decide (r.inhCnt ≠ 0) && (!r.isOpen || decide (r.vregs < r.inhBase + r.inhCnt))) ||
  !s.placeable r || (decide (r.race ≠ 0) && !s.feature 1) || (decide (r.prio = 0) && !g.fromHost)

/-! ### Accesses of the firmware -/

/-- Bytes of a virtual range, in pieces that no line boundary splits, as a coherent load finds them. -/
def State.fwReadAux (s : State) (ctx : Nat) : Nat → W64 → Nat → Except EFault (List Byte)
  | 0, _, _ => .ok []
  | fuel + 1, va, n =>
    if n = 0 then .ok []
    else
      let k := 128 - va.toNat % 128
      let k := if n < k then n else k
      match s.translate hubDie ctx .load va with
      | .error f => .error f
      | .ok p =>
        if s.badRange p.pa k then .error ⟨cMEMERR, 0, va⟩
        else match s.fwReadAux ctx fuel (va + BitVec.ofNat 64 k) (n - k) with
          | .error f => .error f
          | .ok r => .ok (s.loadBytes p.pa k ++ r)

def State.fwRead (s : State) (ctx a n : Nat) : Except EFault (List Byte) :=
  s.fwReadAux ctx (n / 128 + 2) (BitVec.ofNat 64 a) n

/-- The place that a fault record names for the firmware; the spec gives none. (DESIGN CHOICE, log entry 46) -/
def State.fwWhere (s : State) : Nat := Config.freeNat s.freeCtr 8 % 65536

/-- Report a page that the firmware found not present (R172, R261). -/
def State.fwFault (s : State) (ctx : Nat) (f : EFault) : State :=
  if f.cause = cNOTPRESENT then s.reportFault ctx f.addr (f.detail / 16) (f.detail % 16) s.fwWhere hubDie else s

/-! ### Dependences (R261, R263) -/

/-- What a read of a signal word shows. -/
inductive Signal where
  | satisfied | unsatisfied | failed | absent (f : EFault)

def State.signal (s : State) (ctx : Nat) (d : Nat × Nat) : Signal :=
  match s.fwRead ctx d.1 8 with
  | .error f => if f.cause = cNOTPRESENT then .absent f else .failed
  | .ok l =>
    let x := leNat l
    if 2 ^ 63 ≤ x then .failed else if d.2 ≤ x then .satisfied else .unsatisfied

/-- Read the signal words in turn: whether all are satisfied, and whether one has failed. -/
def State.pollDeps (s : State) (ctx : Nat) : List (Nat × Nat) → State × Bool × Bool
  | [] => (s, true, false)
  | d :: rest =>
    match s.signal ctx d with
    | .satisfied => s.pollDeps ctx rest
    | .unsatisfied => let r := s.pollDeps ctx rest; (r.1, false, r.2.2)
    | .failed => let r := s.pollDeps ctx rest; (r.1, false, true)
    | .absent f => let r := (s.fwFault ctx f).pollDeps ctx rest; (r.1, false, r.2.2)

/-- Read the signal words of a grid that waits: with every one satisfied the grid is ready; with one failed it ends with STATUS 5. -/
def State.pollGrid (s : State) (grid : Nat) : State :=
  let g := s.grids.get grid
  if g.phase ≠ .waiting then s
  else
    let (s1, all, failed) := s.pollDeps g.ctx (g.launch.deps.take g.launch.ndep)
    if failed then s1.putGrid grid { g with phase := .ready, status := 5 }
    else if all then s1.putGrid grid { g with phase := .ready, started := s.freeCtr } else s1

/-- Read the signal words of every grid of a context that waits, as each completion of the context and each notification write makes the
firmware do (R261). -/
def State.pollCtx (s : State) (ctx : Nat) : State :=
  ((s.grids.entries.filter (fun g => g.2.ctx == ctx && g.2.phase == .waiting)).map Prod.fst).foldl State.pollGrid s

/-- DEPENDENCE_POLL. -/
def execDependencePoll (grid : Nat) (s : State) : Out := s.fwEvent (fun s => s.pollGrid grid)

/-! ### Submission (R259, R260) -/

/-- Accept a record: it takes the context's next launch number. (DEDUCED, log entry 41) -/
def State.accept (s : State) (ctx addr : Nat) (fromHost : Bool) (bytes : List Byte) : State × Nat :=
  let n := (s.ctxs.get ctx).nextLnum
  let (place, s) := s.fresh
  let g : Grid := { phase := .queued, ctx := ctx, lnum := n, addr := addr, fromHost := fromHost, launch := parseLaunch bytes,
                    accepted := place }
  let s1 := s.putGrid (gridKey ctx n) g
  (s1.modCtx ctx (fun c => { c with nextLnum := (n + 1) % 2 ^ 32, launchQ := if fromHost then c.launchQ else c.launchQ ++ [n] }), n)

/-- Read the records of a queue from its head on. -/
def State.takeRecords (s : State) (ctx k : Nat) : Nat → State
  | 0 => s
  | n + 1 =>
    let q := (s.ctxs.get ctx).queues.get k
    let a := q.base + 256 * (q.head % q.cap)
    let (s1, _) := s.accept ctx a true (s.loadBytes a 256)
    (s1.modCtx ctx (fun c => { c with queues := c.queues.put k { q with head := (q.head + 1) % 2 ^ 32 } })).takeRecords ctx k n

/-- NOTIFICATION_WRITE: the hub accepts the new records of a queue in ring order; a tail that is not ahead of the head by at
most the ring size is ignored and counted; either way the signal words are read again (R259, R261). (DEDUCED, log entry 42) -/
def execNotificationWrite (ctx : Nat) (value : BitVec 64) (s : State) : Out :=
  s.fwEvent (fun s =>
    let c := s.ctxs.get ctx
    let k := (value.extractLsb' 0 16).toNat
    let q := c.queues.get k
    let n := ((value.extractLsb' 16 32).toNat + 2 ^ 32 - q.head) % 2 ^ 32
    if c.state = 0 then s
    else
      (if q.registered = false ∨ n = 0 ∨ q.cap < n then s.putCtx ctx { c with errs := c.errs + 1 }
       else s.takeRecords ctx k n).pollCtx ctx)

/-- LNCH: a release at dev scope; then the record is read and queued, and its number written (R254). (DEDUCED, log entry 40) -/
def execLnch (d a : BitVec 6) (s : State) : Out :=
  s.runWord (.lnch d a) (fun w s =>
    let t := s.team
    let va := w.r.readS a.toNat
    if va.toNat % 256 ≠ 0 then .trap s (w.trap s cALIGN 0 va)
    else match s.translate (dieOf s.cur) t.place.ctx .load va with
      | .error f => .trap s (w.trap s f.cause f.detail f.addr)
      | .ok _ =>
        match t.wait with
        | .wave id =>
          if !s.releaseDone 3 id then .hold s noReason
          else if 4096 ≤ (s.ctxOf t).launchQ.length then .hold s 9
          else match s.engRead (s.engWho s.cur) (dieOf s.cur) (some (coreOf s.cur)) va 256 with
            | .wait s1 => .hold s1 noReason
            | .fault f s1 => .trap s1 (w.trap s1 f.cause f.detail f.addr)
            | .ok l s1 =>
              let (s2, n) := s1.accept t.place.ctx va.toNat false l
              let (s3, _) := s2.releaseClock
              .seam (s3.withRegs (fun r => r.writeS d.toNat (BitVec.ofNat 64 n))) 0
        | _ =>
          if !t.loadsFixed t.nextSeq then .hold s noReason
          else
            let (s1, id) := s.startRelease 3
            .hold (s1.setTeam { s1.team with wait := .wave id }) noReason)

/-! ### Validation and dependences (R257, R258, R261, R263) -/

/-- LAUNCH_VALIDATION: a refused grid goes on to its completion with STATUS 1; any other waits for its dependences. -/
def execLaunchValidation (grid : Nat) (s : State) : Out :=
  s.fwEvent (fun s =>
    let g := s.grids.get grid
    if g.phase ≠ .queued then s
    else
      let s1 := s.modCtx g.ctx (fun c => { c with launchQ := c.launchQ.filter (· ≠ g.lnum) })
      s1.putGrid grid (if s.refuses g then { g with phase := .ready, status := 1, cause := cLAUNCH } else { g with phase := .waiting }))

/-! ### The start of a grid (R26, R281) -/

/-- The entries of the format table of a launch. -/
def State.readTable (s : State) (g : Grid) : Except Unit (List (Nat × W64)) :=
  if g.launch.fmttab = 0 then .ok []
  else match s.fwRead g.ctx (g.launch.fmttab + 8) 504 with
    | .error _ => .error ()
    | .ok l =>
      let es := (List.range 63).map (fun k => (k + 1, BitVec.ofNat 64 (fieldAt l (8 * k) 8)))
      if es.all (fun e => e.2 == 0 || fmtValid e.2) then .ok es else .error ()

/-- The parameter block. -/
def State.readParams (s : State) (g : Grid) : Except Unit (List W64) :=
  if g.launch.param = 0 then .ok []
  else match s.fwRead g.ctx g.launch.param 128 with
    | .error _ => .error ()
    | .ok l => .ok ((List.range 16).map (fun k => BitVec.ofNat 64 (fieldAt l (8 * k) 8)))

/-- Write the entries of a grid's format table one by one, each when no matrix operation holds what it replaces; with the last the grid
may be bound (R281, R290). (DEDUCED, log entry 78) -/
def State.writeTable (s : State) (grid : Nat) : List (Nat × W64) → State
  | [] => s.modGrid grid (fun g => { g with phase := .running, table := [] })
  | e :: rest =>
    let ctx := (s.grids.get grid).ctx
    if s.genHeld ctx e.1 (e.2.getLsbD 25) then s.modGrid grid (fun g => { g with table := e :: rest })
    else (s.modCtx ctx (fun c => c.writeFmt e.1 e.2)).writeTable grid rest

/-- GRID_START: the parameter block and the format table are read once for the grid; the table is written, and the grid may then be
bound. -/
def execGridStart (grid : Nat) (s : State) : Out :=
  s.fwEvent (fun s =>
    let g := s.grids.get grid
    if g.phase ≠ .ready ∨ g.status ≠ 0 ∨ g.launch.count = 0 then s
    else if g.loading then s.writeTable grid g.table
    else match s.readParams g, s.readTable g with
      | .ok ps, .ok es => (s.putGrid grid { g with params := ps, table := es, loading := true }).writeTable grid es
      | _, _ => s.putGrid grid { g with status := 1, cause := cLAUNCH })

/-! ### Binding (R22, R23, R28, R29, R264 to R267) -/

/-- The workgroups of the gang that a workgroup is bound with: its cluster, or all of a resident grid. -/
def Grid.gang (g : Grid) (group : Nat) : List Nat :=
  if g.launch.isOpen then (List.range g.k).map (fun i => group * g.k + i) else List.range g.launch.count
/-- The group of a workgroup. -/
def Grid.groupOf (g : Grid) (wg : Nat) : Nat := if g.launch.isOpen then wg / g.k else 0

/-- Whether every check word of the module can be cleared: no grid of a race mode runs (R380). -/
def State.noRaceGrid (s : State) : Bool := s.grids.entries.all (fun g => g.2.phase ≠ .running || g.2.launch.race == 0)

/-- The next race epoch; none where its number has been used and the check words cannot be cleared yet. (DEDUCED, log entry 43) -/
def State.nextEpoch (s : State) : Option State :=
  let e := (s.mod.epoch + 1) % 256
  if e = 0 then
    if s.noRaceGrid then some { s with check := .empty, mod := { s.mod with epoch := e } } else none
  else some { s with mod := { s.mod with epoch := e } }

/-- Clear the access journal of a slot (R388). -/
def Core.clearJournal (c : Core) (slot : Nat) : Core :=
  { c with journal := ⟨c.journal.entries.filter (fun e => e.1 / 2 ^ 53 ≠ slot)⟩ }

/-- Bytes of vector registers held at a port. -/
def State.portBytes (s : State) (core port : Nat) : Nat :=
  (((uidsOf core).filter (fun u => Machine.portOf u == port && (s.teams.get u).phase ≠ .unbound)).map
    (fun u => (s.teams.get u).place.vregs * (s.teams.get u).place.width * 4)).sum

/-- The teams bound to a port. -/
def State.portTeams (s : State) (core port : Nat) : Nat :=
  ((uidsOf core).filter (fun u => Machine.portOf u == port && (s.teams.get u).phase ≠ .unbound)).length

/-- The workgroups of a launch that a core takes beside what it holds (R23, R184). -/
def State.takesNow (s : State) (core : Nat) (r : LaunchRec) : Nat :=
  if r.teamBytes = 0 ∨ r.teams = 0 then 0
  else
    let byPort := ((List.range 8).map (fun p =>
      let a := 8 - s.portTeams core p
      let b := (262144 - s.portBytes core p) / r.teamBytes
      if a < b then a else b)).sum / r.teams
    let byWays := (32 - (s.cores.get core).ways) / r.ways
    if r.ways = 0 ∨ byPort < byWays then byPort else byWays

/-- Whether a grid's work may stand on a reserved core only as long as no C0 work needs it (R264): it is of a lower class, and its context
was not created savable within the deadlines of R275. -/
def State.lesser (s : State) (g : Grid) : Bool :=
  let k := (s.ctxs.get g.ctx).cfg
  g.launch.prio ≠ 0 && !(k.saveArea ≠ 0 && decide (k.drain ≤ 70) && decide (k.save ≤ 30))

/-- The cores of a die that hold such work. -/
def State.lesserCores (s : State) (die : Nat) : List Nat :=
  ((s.wgs.entries.filter (fun w => w.2.bound && dieOfCore w.2.core == die && s.lesser (s.grids.get w.2.grid))).map (fun w => w.2.core)).eraseDups

/-- Whether a core is being saved: its context's save has begun and its die has not yet written its areas (R276). -/
def State.coreSaving (s : State) (core : Nat) : Bool :=
  s.ctxs.entries.any (fun c => match c.2.ladder with
    | .save cores done _ => cores.contains core && !done.contains (dieOfCore core)
    | _ => false)

/-- Whether no rule keeps a new workgroup of a grid off a core: its context is not being pre-empted there, and no save of the core
overlaps a C0 bind (R276, R365). -/
def State.coreOpen (s : State) (g : Grid) (core : Nat) : Bool :=
  (match (s.ctxs.get g.ctx).ladder with
   | .none => true
   | .drain cores _ => !cores.contains core
   | .save cores _ _ => !cores.contains core
   | .saved cores => !cores.contains core) &&
  (g.launch.prio ≠ 0 || !s.coreSaving core)

/-- The sum of the greatest n numbers of a list. -/
def topSum : Nat → List Nat → Nat
  | 0, _ => 0
  | n + 1, l =>
    let m := l.foldl (fun a b => if a < b then b else a) 0
    m + topSum n (l.erase m)

/-- The workgroups of a grid that a die takes now: where the reservation limits the cores with work of its kind, those that have such work
already and as many more as it leaves (R264). -/
def State.dieRoom (s : State) (g : Grid) (die : Nat) : Nat :=
  let cores := (coresOfDie die).filter (s.coreOpen g)
  let takes (l : List Nat) : List Nat := l.map (fun k => s.takesNow k g.launch)
  if s.lesser g then
    let busy := s.lesserCores die
    (takes (cores.filter busy.contains)).sum + topSum (12 - s.hub.c0.getD die 0 - busy.length) (takes (cores.filter (fun k => !busy.contains k)))
  else (takes cores).sum

/-- Whether a workgroup of a grid holds its slots, or has retired. -/
def State.wgTaken (s : State) (grid : Nat) (i : Nat) : Bool := (s.grids.get grid).bound.contains i || (s.grids.get grid).retired.contains i

/-- The members of a cluster that are not bound, and the die of those that are. -/
def State.clusterLeft (s : State) (grid c : Nat) : List Nat × Option Nat :=
  let g := s.grids.get grid
  let mem := (List.range g.k).map (fun i => c * g.k + i)
  (mem.filter (fun i => !s.wgTaken grid i),
   (mem.find? (fun i => g.bound.contains i)).map (fun i => dieOfCore (s.wgs.get (wgKey grid i)).core))

/-- Whether every workgroup of a resident grid that is not bound can hold slots at once, its clusters on one die each (R8, R11). -/
def State.roomFor (s : State) (grid : Nat) : Bool :=
  let g := s.grids.get grid
  let left := (List.range (g.launch.count / g.k)).map (s.clusterLeft grid)
  let due (d : Nat) : Nat := ((left.filter (fun x => x.2 == some d)).map (fun x => x.1.length)).sum
  let whole := (left.filter (fun x => x.2.isNone && !x.1.isEmpty)).length
  (List.range 8).all (fun d => decide (due d ≤ s.dieRoom g d)) &&
  decide (whole ≤ ((List.range 8).map (fun d => (s.dieRoom g d - due d) / g.k)).sum)

/-- Whether a grid has workgroups left to bind. -/
def Grid.moreToBind (g : Grid) : Bool := decide (g.bound.length + g.retired.length < g.launch.count)

/-- How many more of its workgroups a grid may have bound at once: a C0 grid never more than FOOTWG (R274). -/
def Grid.due (g : Grid) : Nat :=
  let n := g.launch.count - g.retired.length
  (if g.launch.prio = 0 ∧ g.launch.footwg < n then g.launch.footwg else n) - g.bound.length

/-- Whether the slots and ports of a core have room for saved teams (R22, R23). -/
def State.slotsFit (s : State) (ctx core : Nat) (uids : List Nat) : Bool :=
  uids.all (fun u => (s.teams.get u).phase == .unbound && (s.savedTeams.get (ctx * 2 ^ 16 + u)).isSome) &&
  (List.range 8).all (fun p =>
    let mine := ((uids.filter (fun u => Machine.portOf u == p)).map (fun u => match s.savedTeams.get (ctx * 2 ^ 16 + u) with
      | some t => t.place.vregs * t.place.width * 4
      | none => 0)).sum
    decide (s.portBytes core p + mine ≤ 262144))

/-- Whether some workgroup of a grid could be placed now: the rest of a resident grid, a cluster, a successor where its predecessor stood,
or a saved workgroup where it was (R264). -/
def State.couldBind (s : State) (grid : Nat) : Bool :=
  let g := s.grids.get grid
  let live := g.phase == .running && decide (g.status = 0) && ((s.ctxs.get g.ctx).state == 1 || (s.ctxs.get g.ctx).state == 2)
  let saved : Bool := (match (s.ctxs.get g.ctx).ladder with | .saved _ => true | _ => false) && g.bound.any (fun i =>
    let w := s.wgs.get (wgKey grid i)
    w.saved && !s.coreSaving w.core && s.slotsFit g.ctx w.core (w.slots.filter (fun u => !w.gone.contains u)) && decide ((s.cores.get w.core).ways + w.ways ≤ 32))
  let fresh : Bool := g.moreToBind && decide (1 ≤ g.due) &&
    (if !g.heldWgs.isEmpty then g.heldWgs.any (fun i =>
       let w := s.wgs.get (wgKey grid i)
       s.coreOpen g w.core && decide ((s.cores.get w.core).ways + g.launch.ways ≤ 32))
     else if !g.launch.isOpen then s.roomFor grid
     else (List.range (g.launch.count / g.k)).any (fun c => match s.clusterLeft grid c with
       | ([], _) => false
       | (l, some d) => decide (l.length ≤ s.dieRoom g d)
       | (_, none) => (List.range 8).any (fun d => decide (g.k ≤ s.dieRoom g d))))
  live && (saved || fresh)

/-- Whether a grid is served before another: it is of a higher class, or both are C0 and it was accepted earlier (R264, R276). -/
def Grid.goesBefore (h g : Grid) : Bool :=
  decide (h.launch.prio < g.launch.prio) || (decide (h.launch.prio = 0) && decide (g.launch.prio = 0) && decide (h.accepted < g.accepted))

/-! ### Bind records (R265, R266) -/

/-- The 32 bytes of a bind record. -/
def bindBytes (b : BindRec) : List Byte :=
  leBytes 4 b.lnum ++ leBytes 2 b.ctx ++ leBytes 1 b.teams
    ++ leBytes 1 ((if b.succ then 1 else 0) + (if b.restore then 2 else 0) + (if b.hold then 4 else 0)) ++ leBytes 4 b.wg
    ++ leBytes 1 b.ways ++ leBytes 3 0 ++ leBytes 12 (b.slots.foldr (fun n x => n % 64 + 64 * x) 0) ++ leBytes 4 0

/-- The record of 32 bytes: none where a bit that must be 0 is not. -/
def bindOf (l : List Byte) : Option BindRec :=
  let f := fieldAt l
  let teams := f 6 1
  let slots := f 16 12
  if f 7 1 < 8 ∧ f 13 3 = 0 ∧ f 28 4 = 0 ∧ slots < 64 ^ teams then
    some { lnum := f 0 4, ctx := f 4 2, teams := teams, succ := (f 7 1).testBit 0, restore := (f 7 1).testBit 1,
           hold := (f 7 1).testBit 2, wg := f 8 4, ways := f 12 1, slots := (List.range teams).map (fun t => slots / 64 ^ t % 64) }
  else none

/-- Whether a record can be written in its 32 bytes. -/
def bindFitsBytes (b : BindRec) : Bool := bindOf (bindBytes b) == some b

/-- Whether a bind record agrees with the grid's launch, and with what the firmware may place: a gang of which a member stands on cores
that are being pre-empted, or is saved, is not bound further (R8, R10, R28, R264, R265, R267, R365). (DESIGN CHOICE, log entry 44)
(DEDUCED, log entry 45) -/
def State.bindAllowed (s : State) (core : Nat) (rec0 : BindRec) : Bool :=
  let grid := gridKey rec0.ctx rec0.lnum
  let g := s.grids.get grid
  let c := s.ctxs.get rec0.ctx
  let r := g.launch
  let gang := g.gang (g.groupOf rec0.wg)
  let die := dieOfCore core
  let busy := s.lesserCores die
  let busy := if s.lesser g ∧ !busy.contains core then core :: busy else busy
  let inSet (cores : List Nat) : Bool := gang.any (fun i => g.bound.contains i && cores.contains (s.wgs.get (wgKey grid i)).core)
  bindFitsBytes rec0 && decide (core < 96) && g.phase == .running && decide (g.status = 0) && decide (rec0.wg < r.count) &&
  (c.state == 1 || c.state == 2) &&
  (match c.ladder with
   | .none => true
   | .drain cores _ => !cores.contains core && !inSet cores
   | .save cores _ _ => !cores.contains core && !inSet cores
   | .saved cores => rec0.restore || (!cores.contains core && !gang.any (fun i => (s.wgs.get (wgKey grid i)).saved))) &&
  (r.prio ≠ 0 || !s.coreSaving core) &&
  s.grids.entries.all (fun h => !h.2.goesBefore g || !s.couldBind h.1) &&
  decide (rec0.teams = r.teams) && decide (rec0.slots.length = r.teams) && decide (rec0.slots.Nodup) &&
  decide (rec0.ways = r.ways) && (rec0.hold || decide (gang.length = 1)) &&
  (r.prio ≠ 0 || decide (g.bound.length < r.footwg) || rec0.restore) &&
  decide (busy.length ≤ 12 - s.hub.c0.getD die 0) &&
  (List.range g.k).all (fun i =>
    let w := s.wgs.get (wgKey grid (rec0.wg / g.k * g.k + i))
    !w.bound || dieOfCore w.core == die)

/-- Whether what a bind leaves keeps the room that others must have: the rest of a resident grid that is partly bound (R11), and, where
lower-class work comes back, what the bound C0 grids need (R276). -/
def State.keepsRoom (before after : State) (grid : Nat) (restore : Bool) : Bool :=
  let g := before.grids.get grid
  after.grids.entries.all (fun h =>
    let part : Bool := h.2.phase == .running && decide (h.2.status = 0) && !h.2.launch.isOpen && !h.2.bound.isEmpty && h.2.moreToBind &&
      (h.1 == grid || (decide (h.2.launch.prio ≤ g.launch.prio) && before.roomFor h.1))
    let room (s : State) : Nat := ((List.range 8).map (s.dieRoom h.2)).sum
    (!part || after.roomFor h.1) &&
    (!(restore && g.launch.prio ≠ 0 && h.2.phase == .running && decide (h.2.launch.prio = 0) && !h.2.bound.isEmpty) ||
      decide (h.2.due ≤ room after) || decide (room after = room before)))

/-- The retired workgroup whose slots a successor takes. -/
def State.heldFor (s : State) (grid : Nat) (uids : List Nat) : Option Nat :=
  (s.grids.get grid).heldWgs.find? (fun w => (s.wgs.get (wgKey grid w)).slots == uids)

/-- Whether the core can take the slots and the ways (R266). -/
def State.bindFits (s : State) (core : Nat) (rec0 : BindRec) (freed : List Nat) : Bool :=
  let r := (s.grids.get (gridKey rec0.ctx rec0.lnum)).launch
  let uids := rec0.slots.map (fun n => core * 64 + n)
  uids.all (fun u => (s.teams.get u).phase == .unbound || freed.contains u) &&
  decide ((s.cores.get core).ways + r.ways ≤ 32) &&
  (List.range 8).all (fun p =>
    let mine := (uids.filter (fun u => Machine.portOf u == p)).length * r.teamBytes
    let given := ((freed.filter (fun u => Machine.portOf u == p)).map (fun u => (s.teams.get u).place.vregs * (s.teams.get u).place.width * 4)).sum
    decide (s.portBytes core p - given + mine ≤ 262144))

/-- Take ways of a core from its L1: the lines in them are invalidated (R184). -/
def State.takeWays (s : State) (core ways : Nat) : State :=
  if ways = 0 then s
  else
    let c := s.cores.get core
    let full := decide (32 ≤ c.ways + ways)
    let lost := c.l1.filter (fun l => full || s.choice 11 l)
    lost.foldl (fun s l => s.wake core l)
      (s.putCore core { c with ways := c.ways + ways, l1 := c.l1.filter (fun l => !lost.contains l) })

/-- A team as it is bound: a successor keeps the inherited range of its slot. The requests of the slot go on being numbered. -/
def State.boundTeam (s : State) (grid wg idx gen uid : Nat) (succ : Bool) : Team :=
  let g := s.grids.get grid
  let r := g.launch
  let old := s.teams.get uid
  let kept : SMap (0#32) :=
    if succ then
      ⟨old.regs.v.entries.filter (fun e => decide (r.inhBase ≤ e.1 / 1024) && decide (e.1 / 1024 < r.inhBase + r.inhCnt))⟩
    else .empty
  { phase := .held, regs := { v := kept }, nextSeq := old.nextSeq, seamSeq := old.nextSeq,
    place := { grid := grid, wg := wg, idx := idx, ctx := g.ctx, width := r.width, vregs := r.vregs, gen := gen } }

/-- Bind one team to its slot: the slot's generation advances, and its binding is noted; a generation that wraps advances the race epoch,
and none where that cannot be done yet (R98, R379, R380). -/
def State.bindTeam (s : State) (grid wg idx uid : Nat) (succ : Bool) : Option State :=
  let g := s.grids.get grid
  let core := coreOf uid
  let gen := ((s.cores.get core).gens.get (slotOf uid) + 1) % 1024
  match (if gen = 0 then s.nextEpoch else some s) with
  | none => none
  | some s =>
    let note : BindNote := ⟨g.ctx, g.lnum, wg, wg / g.k, s.mod.epoch⟩
    let s1 := s.modCore core (fun c => ({ c with gens := c.gens.put (slotOf uid) gen }).clearJournal (slotOf uid))
    some (({ s1 with binds := s1.binds.put (identOf uid gen).toNat (some note) }).putTeam uid (s.boundTeam grid wg idx gen uid succ))

/-- Bind the teams of a workgroup, from an index on. -/
def State.bindTeams (s : State) (grid wg : Nat) (succ : Bool) : Nat → List Nat → Option State
  | _, [] => some s
  | i, u :: rest => match s.bindTeam grid wg i u succ with
    | none => none
    | some s1 => s1.bindTeams grid wg succ (i + 1) rest

/-- Free a slot. -/
def State.freeSlot (s : State) (u : Nat) : State := s.modTeam u (fun t => { t with phase := .unbound, words := [], wait := .none, stall := none, mon := none })

/-- The slots that a retired workgroup of a grid still holds: those whose retired team is its own. -/
def State.heldSlots (s : State) (grid wg : Nat) : List Nat :=
  (s.wgs.get (wgKey grid wg)).slots.filter (fun u =>
    (s.teams.get u).phase == .retired && (s.teams.get u).wgKey == wgKey grid wg)

/-- Release the slots that retired workgroups of a grid still hold, in their cores or in the save area (R29). -/
def State.releaseHeld (s : State) (grid : Nat) : State :=
  let g := s.grids.get grid
  let s1 := g.heldWgs.foldl (fun s w => (s.heldSlots grid w).foldl State.freeSlot s) s
  let gone : Option Team → Bool := fun t => match t with | some t => t.phase == .retired && t.place.grid == grid | none => false
  { s1.modGrid grid (fun g => { g with heldWgs := [] }) with savedTeams := ⟨s1.savedTeams.entries.filter (fun e => !gone e.2)⟩ }

/-- The key of what a context has in its save area. -/
def savedKey (ctx k : Nat) : Nat := ctx * 2 ^ 16 + k

/-- Move a team to the save area: its slot becomes free, and its requests go on being numbered. -/
def State.teamOut (s : State) (ctx u : Nat) : State :=
  let t := s.teams.get u
  ({ s with savedTeams := s.savedTeams.put (savedKey ctx u) (some t) }).putTeam u { nextSeq := t.nextSeq }

/-- Move the queues of a core that some streams' workgroups have bound to the save area. -/
def State.queuesOut (s : State) (ctx core : Nat) (mine : Queue → Bool) : State :=
  (List.range 8).foldl (fun s k =>
    let q := s.queue core k
    if q.bound && mine q then
      ({ s with savedQueues := s.savedQueues.put (savedKey ctx (core * 8 + k)) (some q) }).putQueue core k {}
    else s) s

/-- Move a workgroup to the save area: its queues, the slices and the slots of its teams; its ways become free (R366). -/
def State.wgOut (s : State) (ctx key : Nat) : State :=
  let w := s.wgs.get key
  let uids := w.slots.filter (fun u => (s.teams.get u).wgKey == key && (s.teams.get u).phase ≠ .unbound)
  let s1 := s.queuesOut ctx w.core (fun q => q.wg == key)
  let s2 := (List.range 6).foldl (fun s k =>
    let x := s.slice w.core k
    match x.owner with
    | some u => if uids.contains u then
        ({ s with savedSlices := s.savedSlices.put (savedKey ctx (w.core * 8 + k)) (some x) }).putSlice w.core k {}
      else s
    | none => s) s1
  let s3 := (s2.modCore w.core (fun c => { c with ways := c.ways - w.ways })).modWg key (fun w =>
    { w with bound := false, saved := true, restored := false })
  uids.foldl (fun s u => s.teamOut ctx u) s3

/-- Take an accepted record of a workgroup back: a restored workgroup goes back to the save area, and a successor's slots to the retired
workgroup that held them (R29, R267). -/
def State.withdrawWg (s : State) (grid i : Nat) : State :=
  let key := wgKey grid i
  let w := s.wgs.get key
  if w.restored then s.wgOut (s.grids.get grid).ctx key
  else
    let s1 := match w.pred with
      | none => w.slots.foldl State.freeSlot s
      | some p => (w.slots.foldl (fun (s : State) u => s.modTeam u (fun t => { t with phase := .retired, place := { t.place with wg := p } })) s).modGrid grid
          (fun g => { g with heldWgs := g.heldWgs ++ [p] })
    ((s1.modCore w.core (fun c => { c with ways := c.ways - w.ways })).putWg key { w with bound := false, hold := false, pred := none }).modGrid grid
      (fun g => { g with bound := g.bound.filter (· ≠ i) })

/-- Withdraw the held workgroups of a group (R267). -/
def State.withdraw (s : State) (grid group : Nat) : State :=
  let g := s.grids.get grid
  let out := (g.gang group).filter (fun w => (s.wgs.get (wgKey grid w)).bound && (s.wgs.get (wgKey grid w)).hold)
  out.foldl (fun s i => s.withdrawWg grid i) s

/-- A workgroup bound by a record, with the retired workgroup whose slots it takes; none where the race epoch must advance first. -/
def State.bindWg (s : State) (core : Nat) (rec0 : BindRec) (pred : Option Nat) : Option State :=
  let grid := gridKey rec0.ctx rec0.lnum
  let uids := rec0.slots.map (fun n => core * 64 + n)
  match s.bindTeams grid rec0.wg rec0.succ 0 uids with
  | none => none
  | some s1 =>
    let s2 := s1.takeWays core rec0.ways
    let s3 := s2.putWg (wgKey grid rec0.wg) { bound := true, grid := grid, index := rec0.wg, core := core, slots := uids, ways := rec0.ways,
                                              succ := rec0.succ, hold := rec0.hold, pred := pred }
    some (s3.modGrid grid (fun g => { g with bound := g.bound ++ [rec0.wg], heldWgs := g.heldWgs.filter (fun w => some w ≠ pred) }))

/-- BIND_RECORD: a core accepts the record, or rejects it whole; the rejection of one of a group withdraws the group. The workgroups of a
resident grid are bound only while all of them can hold slots at once; with the last workgroup of a grid, what its retired workgroups still
hold is released (R11, R29). -/
def execBindRecord (core : Nat) (rec0 : BindRec) (s : State) : Out :=
  s.fwEvent (fun s =>
    let grid := gridKey rec0.ctx rec0.lnum
    let g := s.grids.get grid
    let key := wgKey grid rec0.wg
    let uids := rec0.slots.map (fun n => core * 64 + n)
    let pred := if rec0.succ then s.heldFor grid uids else none
    if !s.bindAllowed core rec0 || rec0.restore || (s.wgs.get key).bound || (s.wgs.get key).saved || g.retired.contains rec0.wg ||
        (!rec0.succ && !g.heldWgs.isEmpty) then s
    else if (rec0.succ && pred.isNone) || !s.bindFits core rec0 (if rec0.succ then uids else []) then
      (if rec0.hold then s.withdraw grid (g.groupOf rec0.wg) else s)
    else match s.bindWg core rec0 pred with
      | none => s
      | some s1 =>
        if !s.keepsRoom s1 grid false then
          (if g.launch.isOpen || s.roomFor grid then s else s.withdraw grid (g.groupOf rec0.wg))
        else if (s1.grids.get grid).moreToBind then s1 else s1.releaseHeld grid)

/-- GROUP_START: once every workgroup of a group is bound, its teams may start (R267, R369). -/
def execGroupStart (grid group : Nat) (s : State) : Out :=
  s.fwEvent (fun s =>
    let g := s.grids.get grid
    let l := (g.gang group).filter (fun i => !g.retired.contains i)
    if l.all (fun i => (s.wgs.get (wgKey grid i)).bound) then
      l.foldl (fun s i => s.modWg (wgKey grid i) (fun w => { w with hold := false, restored := false })) s
    else s)

/-! ### The start of a team (R25) -/

/-- Registers of a team as it starts. -/
def startRegs (g : Grid) (t : Team) : Regs :=
  let r : Regs := { v := t.regs.v }
  let r := (List.range 16).foldl (fun r k => r.writeS k (g.params.getD k 0)) r
  let r := ((r.writeS 60 (BitVec.ofNat 64 t.place.wg)).writeS 61 (BitVec.ofNat 64 t.place.idx)).writeS 62 (BitVec.ofNat 64 t.place.width)
  (r.writeA 31 0 1).writeM t.place.width 0 (fullMask t.place.width)

/-- A team as it starts. -/
def startTeam (g : Grid) (c : Ctx) (clk : Nat) (t : Team) : Team :=
  let flow : Flow := { pos := .atHeader (BitVec.ofNat 64 g.launch.entry), active := fullMask t.place.width }
  { t with phase := .running, flow := flow, seam := flow, regs := startRegs g t,
           place := { t.place with started := clk },
           sys := { status := (if c.cfg.ftz then 4 else 0) ||| c.cfg.rm.setWidth 64 } }

/-- TEAM_START: a bound team whose group has started starts (R25, R266). -/
def execTeamStart (uid : Nat) (s : State) : Out :=
  s.event (fun s =>
    let t := s.teams.get uid
    if t.phase ≠ .held ∨ s.preempted uid then s
    else ((s.putTeam uid { startTeam (s.gridOf t) (s.ctxOf t) (s.dies.get (dieOf uid)).clk t with lastIssue := s.freeCtr }).haltAtSeam uid))

/-- RACE_EPOCH_ADVANCE: the firmware may advance the epoch while no grid of a race mode runs (R380). -/
def execRaceEpochAdvance (s : State) : Out :=
  s.fwEvent (fun s => if s.noRaceGrid then (s.nextEpoch).getD s else s)

end Sys2Proof.Machine
end

