-- ==== Sys2Proof/Machine/System.lean ====
section
/-! DEFINITION. The system registers and the SYS words that read clocks, write the trace and clear caches and check words
(R95 to R102, R236, R391 to R393, R400), and the words on key-value sequences (R238). -/

namespace Sys2Proof.Machine

/-! ### Reading system registers (R95 to R100, R156, R180, R235, R277, R291, R299, R314, R338, R351, R357, R360, R364,
R390, R394, R397, R402, R405) -/

def one (b : Bool) (k : Nat) : Nat := if b then 2 ^ k else 0

/-- STATUS, with the context's hazard check (R97). -/
def State.statusReg (s : State) (t : Team) : Nat := t.sys.status.toNat + one (s.ctxOf t).cfg.hazard 11

/-- LFSTAT (R156). -/
def Team.lfstat (t : Team) : Nat :=
  (match t.lf with | some u => u.views * 256 | none => 1) + (t.sys.lfsticky &&& 6).toNat

/-- LCFG (R277). -/
def LaunchRec.lcfg (l : LaunchRec) : Nat :=
  l.race * 2 ^ 26 + l.cont * 2 ^ 25 + one (l.kind.testBit 0) 24 + l.kind / 2 % 4 * 2 ^ 22 + l.cluster * 2 ^ 19 + l.teams * 2 ^ 14
    + l.vregs * 2 ^ 7 + l.width / 32

/-- RACQk (R390). -/
def TeamRace.racq (r : TeamRace) (k : Nat) : Nat :=
  match r.acq[k]? with
  | none => 0
  | some a => 2 ^ 63 + a.kind * 2 ^ 61 + a.ident.toNat * 2 ^ 24 + a.clock

/-- What a read of a register of the debugger's gives: a reserved bit reads as 0 (R95, R397, R402). -/
def dbgctlRead (x : W64) : W64 := x &&& ~~~0x7FFFFFFFFF08
def wpctlRead (x : W64) : W64 := x &&& 0xFF17

/-- The register of a number, for a team (R95). -/
def State.sysRead (s : State) (uid n : Nat) : W64 :=
  let t := s.teams.get uid
  let g := s.gridOf t
  let c := s.ctxOf t
  let r := t.race
  let port := Machine.portOf uid
  let acc (k : Nat) : Nat := (s.cores.get (coreOf uid)).account.get (port * 32 + k)
  let x : Nat :=
    if n = 0x0000 then s.statusReg t
    else if n = 0x0001 then (teamloc uid t.place.gen).toNat
    else if n = 0x0002 then t.flow.dstack.length
    else if n = 0x0003 then t.flow.rovf * 256 + t.flow.rstack.length
    else if n = 0x0100 then t.place.ctx * 2 ^ 32 + g.lnum
    else if n = 0x0101 then g.launch.lcfg
    else if n = 0x0200 then (s.wgOf t).ways * 2 ^ 21 + g.launch.stash
    else if n = 0x0210 then (s.cpyseq t).toNat
    else if n = 0x0220 then c.fmtGen.toNat / 2 * 2
    else if n = 0x0400 then t.lfstat
    else if n = 0x0401 then t.sys.lfqtol.toNat
    else if n = 0x0410 then t.sys.lfrate.toNat
    else if n = 0x0500 then t.sys.trspill.toNat
    else if n = 0x0501 then t.sys.trcfg.toNat
    else if n = 0x0502 then t.sys.trroot.toNat
    else if n = 0x0600 then (s.gangstat uid).toNat
    else if n = 0x0601 then (s.mrow uid).toNat
    else if n = 0x0602 then t.sys.mseed.toNat
    else if n = 0x0700 then t.trap.cause * 256 + one t.trap.cont.isSome 2 + one t.trap.handler.isSome 1 + one t.trap.valid 0
    else if n = 0x0701 then t.seamCnt.toNat
    else if n = 0x0702 then t.trap.contpc.toNat
    else if n = 0x0703 then one t.trap.resident 1 + one t.trap.contPending 0
    else if n = 0x0704 then t.seam.pos.pc.toNat
    else if 0x0708 ≤ n ∧ n ≤ 0x070F then (t.trap.record.getD (n - 0x0708) 0).toNat
    else if n = 0x0800 then one r.sat 24 + r.clock
    else if n = 0x0801 then r.floorCl * 2 ^ 24 + r.floorWg
    else if n = 0x0802 then r.floorGrid
    else if n = 0x0803 then one r.lsat 2 + r.level
    else if n = 0x0804 then r.summarised * 2 ^ 32 + r.unplaced
    else if 0x0808 ≤ n ∧ n ≤ 0x080F then r.racq (n - 0x0808)
    else if n = 0x0900 then (regionsOf t.flow).toNat
    else if n = 0x0908 then (dbgctlRead c.dbgctl).toNat
    else if 0x0910 ≤ n ∧ n ≤ 0x092F then
      let w := c.watch.get ((n - 0x0910) / 4)
      (if n % 4 = 0 then w.addr else if n % 4 = 1 then w.val else wpctlRead w.ctl).toNat
    else if 0x0940 ≤ n ∧ n ≤ 0x0948 then acc (n - 0x0940)
    else if 0x0950 ≤ n ∧ n ≤ 0x095A then acc (9 + (n - 0x0950))
    else acc 20
  BitVec.ofNat 64 x

/-- SRD (R95, R102). -/
def execSrd (d : BitVec 6) (n : BitVec 14) (s : State) : Out :=
  s.runWord (.srd d n) (fun _ s => .next (s.withRegs (fun r => r.writeS d.toNat (s.sysRead s.cur n.toNat))))

/-! ### Writing system registers (R95, R97, R100, R156, R314, R338) -/

/-- A written value of a field with a least and a greatest value. -/
def bounded (lo hi x : Nat) : Nat := if x < lo then lo else if hi < x then hi else x

/-- What an SWR makes of the team's registers. -/
def TeamSys.write (y : TeamSys) (n : Nat) (x : W64) : TeamSys :=
  if n = 0x0000 then { y with status := (y.status &&& ~~~(x &&& 0x3E0) &&& ~~~7) ||| (x &&& 7) }
  else if n = 0x0400 then { y with lfsticky := y.lfsticky &&& ~~~(x &&& 6) }
  else if n = 0x0401 then { y with lfqtol := x }
  else if n = 0x0410 then { y with lfrate := BitVec.ofNat 64 (bounded 1 64 (x.toNat % 128)) }
  else if n = 0x0500 then { y with trspill := x &&& ~~~15 }
  else if n = 0x0501 then { y with trcfg := BitVec.ofNat 64 (bounded 0 1024 (x.toNat % 2048)) &&& ~~~15 }
  else if n = 0x0502 then { y with trroot := x }
  else if n = 0x0602 then { y with mseed := (x.extractLsb' 0 32).setWidth 64 }
  else y

/-- SWR (R95, R102). -/
def execSwr (a : BitVec 6) (n : BitVec 14) (s : State) : Out :=
  s.runWord (.swr a n) (fun w s =>
    .next (s.setTeam { s.team with sys := s.team.sys.write n.toNat (w.r.readS a.toNat) }))

/-! ### Clocks, time and the trace (R101, R392, R393, R400) -/

/-- CLK (R101). -/
def execClk (d : BitVec 6) (s : State) : Out :=
  s.runWord (.clk d) (fun _ s =>
    .next (s.withRegs (fun r => r.writeS d.toNat (BitVec.ofNat 64 (s.dies.get (dieOf s.cur)).clk))))

/-- TIME (R393). -/
def execTime (d : BitVec 6) (s : State) : Out :=
  s.runWord (.time d) (fun _ s =>
    let y := s.dies.get (dieOf s.cur)
    let domain := if s.mod.dlock then s.mod.dbound else 0xFFFFFFFF
    .next (s.withRegs (fun r => (r.writeS d.toNat (BitVec.ofNat 64 (s.stampTime (dieOf s.cur)))).writeS (d.toNat + 1)
      (BitVec.ofNat 64 (domain * 2 ^ 32 + y.bound)))))

/-- TREC (R400). (DESIGN CHOICE, log entry 68) -/
def execTrec (a : BitVec 6) (k : BitVec 8) (s : State) : Out :=
  s.runWord (.trec a k) (fun w s =>
    let t := s.team
    if (s.ctxOf t).dbgctl.getLsbD 0 then
      .next (s.trace (dieOf s.cur)
        { kind := 1, loc := whereOf s.cur, data := (t.seamCnt <<< 8) ||| k.setWidth 32, pc := w.pc, regions := regionsOf t.flow,
          payload := w.r.readS a.toNat })
    else .next s)

/-! ### ICINV and RCLR (R236, R391) -/

/-- The PROTECT of a word whose check is of no coded kind of access. -/
def noKindDetail : Nat := Config.noKind.toNat * 16 + Config.noWalkLevel.toNat

/-- ICINV: every core of the scope discards the lines and acknowledges (R236). -/
def execIcinv (a b : BitVec 6) (p : BitVec 3) (s : State) : Out :=
  s.runWord (.icinv a b p) (fun w s =>
    match s.team.wait with
    | .invalidation id _ => if s.waving id then .hold s noReason else .next s
    | _ =>
      let va := w.r.readS a.toNat
      if canonical va = false then .trap s (w.trap s cPROTECT noKindDetail va)
      else
        let (s1, id) := s.startWave [] (s.scopeCores p) (some (va, (w.r.readS b.toNat).toNat))
        .hold (s1.setTeam { s1.team with wait := .invalidation id 0 }) noReason)

/-- How many lines a range touches. -/
def linesTouched (va : W64) (n : Nat) : Nat := if n = 0 then 0 else (va.toNat + n - 1) / 128 - va.toNat / 128 + 1

/-- Whether a range passes the top of the canonical space, or of its lower half. -/
def passesTop (va : W64) (n : Nat) : Bool :=
  decide ((if va.toNat < 2 ^ 56 then 2 ^ 56 else 2 ^ 64) < va.toNat + n)

/-- The lines of a range on race-checked pages; other pages are skipped. -/
def State.checkedLines (s : State) (die ctx : Nat) (va : W64) (n : Nat) : List Nat :=
  (List.range (linesTouched va n)).filterMap (fun k =>
    match s.translate die ctx .load (va - BitVec.ofNat 64 (va.toNat % 128) + BitVec.ofNat 64 (128 * k)) with
    | .ok p => if p.checked then some (lineOf p.pa) else none
    | .error _ => none)

/-- Whether the team has requests to a line that have not been performed. -/
def State.ownPending (s : State) (uid line : Nat) : Bool :=
  (s.cores.get (coreOf uid)).tracker.any (fun r => r.uid == uid && r.line == line && !r.performed) ||
  (s.teams.get uid).words.any (fun w => w.parts.any (fun p => p.line == line && !p.fixed))

/-- A check word cleared in the current epoch. (DEDUCED, log entry 38) -/
def State.clearCheck (s : State) (line : Nat) : State :=
  let none_ : CkEntry := ⟨0, 0, 0, false, false⟩
  s.setCk line ⟨none_, none_, false, false⟩

/-- RCLR: the check words of the range are cleared, after the checks of the team's earlier accesses (R391). -/
def execRclr (a b : BitVec 6) (s : State) : Out :=
  s.runWord (.rclr a b) (fun w s =>
    let va := w.r.readS a.toNat
    let n := (w.r.readS b.toNat).toNat
    if canonical va = false ∨ passesTop va n = true then .trap s (w.trap s cPROTECT noKindDetail va)
    else
      let lines := s.checkedLines (dieOf s.cur) s.team.place.ctx va n
      if lines.any (s.ownPending s.cur) then .hold s noReason
      else .next (lines.foldl State.clearCheck s))

/-! ### Key-value sequences (R238) -/

/-- A block-table entry, read at its home. -/
def State.kvWordEntry (s : State) (d : KvDesc) (seq blk : Nat) : Nat := s.loadNum (d.entryPA seq blk) 8
def kvValid (e : Nat) : Bool := e.testBit 63
def kvBlock (e : Nat) : Nat := e % 2 ^ 32

/-- The virtual address of a block of a sequence. -/
def KvDesc.va (d : KvDesc) (seq blk : Nat) : W64 := BitVec.ofNat 64 (d.base + (seq * 2 ^ d.ib + blk) * d.bs)

/-- Lower the count of an entry's block; whether the block went back to the ring. -/
def State.kvReturn (s : State) (d : KvDesc) (e : Nat) : State × Bool :=
  let full : Bool := (s.loadNum (d.ring + 4) 4 + 2 ^ 32 - s.loadNum d.ring 4) % 2 ^ 32 == 2 ^ d.lring
  let (s1, back) := s.kvDrop d (kvBlock e)
  (s1, back && !full)

/-- One block of a fork; whether its destination now shares a valid source block. -/
def State.forkBlock (s : State) (ctx : Nat) (d : KvDesc) (src dst blk : Nat) : State × Bool :=
  let e := s.kvWordEntry d src blk
  let old := s.kvWordEntry d dst blk
  if kvValid e ∧ s.kvCount d (kvBlock e) = 65535 then (s, kvValid old && kvBlock old == kvBlock e)
  else
    let s1 := if kvValid e then s.kvSetCount d (kvBlock e) (s.kvCount d (kvBlock e) + 1) else s
    let s2 := s1.kvSetEntry ctx d (d.entryPA dst blk) e
    (if kvValid old then (s2.kvReturn d old).1 else s2, kvValid e)

/-- One block of a free; whether its block went back to the ring. -/
def State.freeBlock (s : State) (ctx : Nat) (d : KvDesc) (seq blk : Nat) : State × Bool :=
  let e := s.kvWordEntry d seq blk
  if kvValid e then (s.kvSetEntry ctx d (d.entryPA seq blk) (e % 2 ^ 63)).kvReturn d e else (s, false)

/-- The first block of the named sequences whose page is not present. (DEDUCED, log entry 39) -/
def State.kvAbsent (s : State) (ctx : Nat) (d : KvDesc) (seqs : List Nat) (first n : Nat) : Option W64 :=
  (List.range n).findSome? (fun k => seqs.findSome? (fun q =>
    let va := d.va q (first + k)
    match s.walk ctx va with
    | .error f => if f.cause = cNOTPRESENT then some va else none
    | .ok _ => none))

/-- A copy of a block of the named sequences that is in progress (R188). -/
def State.kvCopying (s : State) (ctx : Nat) (d : KvDesc) (seqs : List Nat) (first n : Nat) : Option KvOp :=
  s.kvOps.find? (fun o => o.ctx == ctx && seqs.any (fun q => (List.range n).any (fun k => d.entryPA q (first + k) == o.entry)))

/-- The two phases of a key-value word: the checks, and then every change. The changes come after the team's acquires (R240), and the
changes of one entry after the copy of its block that is in progress (R188). -/
def State.kvWord (s : State) (w : Wd) (d : BitVec 6) (seqs : List Nat) (x : W64)
    (f : KvDesc → Nat → State → State × Bool) : Eff :=
  let ctx := s.team.place.ctx
  let first := (x.extractLsb' 0 16).toNat
  let n := (x.extractLsb' 16 16).toNat
  match s.kvDesc ctx with
  | none => .trap s (w.trap s cPROTECT noKindDetail)
  | some kv =>
    if 2 ^ kv.ib < first + n then .trap s (w.trap s cPROTECT noKindDetail)
    else match s.kvAbsent ctx kv seqs first n with
      | some va => .trap s (w.trap s cNOTPRESENT (7 * 16 + 5) va)
      | none =>
        if !s.team.acquiresFixed s.team.nextSeq then .hold s noReason
        else match s.kvCopying ctx kv seqs first n with
        | some o => .hold (s.kvStep kv o (s.whoOf s.cur)) noReason
        | none =>
          let (s1, k) := (List.range n).foldl (fun (r : State × Nat) i =>
            let (s, hit) := f kv (first + i) r.1
            (s, if hit then r.2 + 1 else r.2)) (s, 0)
          .next (s1.withRegs (fun r => r.writeS d.toNat (BitVec.ofNat 64 k)))

/-- KVFORK (R238). -/
def execKvfork (d a b : BitVec 6) (s : State) : Out :=
  s.runWord (.kvfork d a b) (fun w s =>
    let x := w.r.readS a.toNat
    let src := (x.extractLsb' 0 16).toNat
    let dst := (x.extractLsb' 16 16).toNat
    s.kvWord w d [src, dst] (w.r.readS b.toNat) (fun kv blk s => s.forkBlock s.team.place.ctx kv src dst blk))

/-- KVFREE (R238). -/
def execKvfree (d a b : BitVec 6) (s : State) : Out :=
  s.runWord (.kvfree d a b) (fun w s =>
    let seq := ((w.r.readS a.toNat).extractLsb' 0 16).toNat
    s.kvWord w d [seq] (w.r.readS b.toNat) (fun kv blk s => s.freeBlock s.team.place.ctx kv seq blk))

end Sys2Proof.Machine
end

