-- ==== Sys2Proof/Machine/Collectives.lean ====
section
/-! DEFINITION. Collectives: COLL, COLLW and what the engine, its peers and halts do (R288, R295, R416 to R419). -/

namespace Sys2Proof.Machine

/-! ### Descriptors (R416) -/

/-- The fields of a descriptor. -/
def Coll.count (c : Coll) : Nat := fieldAt c.desc 24 4
def Coll.op (c : Coll) : Nat := fieldAt c.desc 30 1
def Coll.red (c : Coll) : Nat := fieldAt c.desc 31 1
def Coll.etype (c : Coll) : Nat := fieldAt c.desc 32 1
def Coll.sr (c : Coll) : Bool := (fieldAt c.desc 34 1).testBit 0
def Coll.seed (c : Coll) : W32 := BitVec.ofNat 32 (fieldAt c.desc 36 4)
def Coll.tmo (c : Coll) : Nat := fieldAt c.desc 44 4

/-- The bytes of an element. -/
def etypeSize (e : Nat) : Nat := if e = 1 ∨ e = 2 then 2 else 4
/-- The format of an element type. -/
def etypeFmt (e : Nat) : NFmt := nfmtOf (if e = 1 then 2 else if e = 2 then 1 else 3)

/-- The elements of SRC that a member sends, and those of DST that it writes. -/
def srcElems (op count n : Nat) : Nat := if op = 1 ∨ op = 3 then n * count else count
def dstElems (op count n : Nat) : Nat := if op = 2 ∨ op = 3 then n * count else count

/-- Whether a descriptor breaks no limit. -/
def descOk (l : List Byte) (table : SMap (0#64)) : Bool :=
  let f := fieldAt l
  let wire := f 33 1
  decide (f 0 8 % 4 = 0) && decide (f 8 8 % 4 = 0) && (wire == 0 || decide (f 16 8 ≠ 0)) &&
  decide (1 ≤ f 24 4 ∧ f 24 4 ≤ 2 ^ 30) && decide (f 30 1 ≤ 3) && decide (f 31 1 ≤ 2) && (decide (f 30 1 ≤ 1) || f 31 1 == 0) &&
  decide (f 32 1 ≤ 3) && (f 32 1 ≠ 3 || (decide (2 ≤ f 30 1) && wire == 0)) &&
  (wire == 0 || (decide (wire ≤ 63) && table.get wire ≠ 0 && fmtValid (table.get wire) && (nfmtOf (table.get wire)).kind == 0)) &&
  decide (f 34 1 ≤ 1) && f 35 1 == 0 && fieldAt l 48 80 == 0

/-- The collectives of a context in flight. -/
def State.collsOpen (s : State) (ctx : Nat) : Nat :=
  (s.colls.entries.filter (fun c => c.2.ctx == ctx && c.2.status == 1 && c.2.stop.isNone)).length

/-- COLL: the descriptor is read and checked, and the work starts at a seam (R417). -/
def execColl (d a : BitVec 6) (s : State) : Out :=
  s.runWord (.coll d a) (fun w s =>
    let t := s.team
    let va := w.r.readS a.toNat
    let who := s.engWho s.cur
    let table := (s.ctxOf t).fmt
    if va.toNat % 128 ≠ 0 then .trap s (w.trap s cALIGN 0 va)
    else match s.translate (dieOf s.cur) t.place.ctx .engRead va with
      | .error f => .trap s (w.engTrap s f)
      | .ok _ =>
        if !s.teamQuiet s.cur then .hold s noReason
        else match s.engRead who (dieOf s.cur) (some (coreOf s.cur)) va 128 with
          | .wait s1 => .hold s1 noReason
          | .fault f s => .trap s (w.engTrap s f)
          | .ok l s =>
            let group := (s.ctxOf t).groups.get (fieldAt l 28 2)
            if !descOk l table then .trap s (w.trap s cFORMAT 0 va)
            else match group.idxOf? s.hub.modid with
              | none => .trap s (w.trap s cPROTECT noKindDetail va)
              | some rank =>
                if 64 ≤ s.collsOpen t.place.ctx then .hold s 9
                else
                  let (id, s) := s.fresh
                  let n := (t.copy.colls + 1) % 2 ^ 32
                  let c : Coll := { uid := s.cur, owner := t.key, gid := t.place.grid, ctx := t.place.ctx, num := n, desc := l,
                                    rank := rank, members := group.length, seq := t.nextSeq, upto := id,
                                    wire := table.get (fieldAt l 33 1), start := s.stampTime (dieOf s.cur), who := who }
                  let c := { c with
                    dstLen := dstElems c.op c.count c.members * etypeSize c.etype
                    resLen := if c.wire = 0 then 0 else 4 * srcElems c.op c.count c.members }
                  let s := s.putColl id c
                  let s := s.setTeam { s.team with nextSeq := t.nextSeq + 1, copy := { s.team.copy with colls := n } }
                  .seam (s.withRegs (fun r => r.writeS d.toNat (BitVec.ofNat 64 n))) 0)

/-- COLLW (R417). -/
def execCollw (d a : BitVec 6) (tst : BitVec 1) (s : State) : Out :=
  s.runWord (.collw d a tst) (fun w s =>
    let h := (w.r.readS a.toNat).extractLsb' 0 32
    let done (s : State) (x : Nat) : Eff := .next (s.withRegs (fun r => r.writeS d.toNat (BitVec.ofNat 64 x)))
    match s.colls.entries.find? (fun c => c.2.owner == s.team.key && c.2.num == h.toNat) with
    | none => done s 7
    | some (_, c) =>
      match c.stop with
      | some f => .trap s (w.trap s f.cause f.detail f.addr 0xFFFF h)
      | none => if c.status = 1 ∧ tst = 0 then .hold s 4 else done s c.status)

/-! ### What a collective computes (R295, R416) -/

/-- The codes of a vector in a wire format, as exact values: block by block where the format has scales. -/
def wireValues (f : NFmt) (sr : Bool) (seed : W32) (ts : List XVal) : List XVal :=
  let g := if f.group = 0 then ts.length else f.group
  (List.range ts.length).map (fun n =>
    let t := ts.getD n .nan
    if f.group = 0 then f.decode (f.encode (chooserAt sr seed n) t)
    else
      let s := scaleValue f.sfmt (f.scaleFor ((ts.drop (n / g * g)).take g))
      (f.decode (f.encode (chooserAt sr seed n) (t.over s.rat))).mul s)

def XVal.finite : XVal → Bool
  | .num _ _ => true
  | _ => false

/-- The difference of two exact values. -/
def XVal.sub (a b : XVal) : XVal :=
  match b with
  | .num q n => XVal.sum [a, .num (-q) (!n)]
  | .inf n => XVal.sum [a, .inf (!n)]
  | .nan => .nan

/-- What a member sends, as f32 bits or raw element bits, and its new residuals. (DEDUCED, log entry 52) -/
def Coll.sends (c : Coll) (src : List Byte) (res : List Byte) : List W32 × List W32 :=
  let n := srcElems c.op c.count c.members
  let sz := etypeSize c.etype
  let raw (i : Nat) : Nat := fieldAt src (sz * i) sz
  if c.wire = 0 then
    ((List.range n).map (fun i => if c.op ≤ 1 then ((etypeFmt c.etype).decode (raw i)).f32 else BitVec.ofNat 32 (raw i)), [])
  else
    let ts := (List.range n).map (fun i =>
      XVal.ofF32 (XVal.sum [(etypeFmt c.etype).decode (raw i), .ofF32 (BitVec.ofNat 32 (fieldAt res (4 * i) 4))]).f32)
    let qs := wireValues (nfmtOf c.wire) c.sr c.seed ts
    (qs.map XVal.f32, (List.range n).map (fun i =>
      let t := ts.getD i .nan
      let q := qs.getD i .nan
      if t.finite && q.finite then (XVal.sub t q).f32 else 0))

/-- One step of a reduction. -/
def reduceStep (red : Nat) (x y : W32) : W32 :=
  if red = 0 then BitVec.ofNat 32 (f32.add 0 false x.toNat y.toNat).1
  else BitVec.ofNat 32 (f32.minMax (decide (red = 2)) false x.toNat y.toNat).1

/-- The contribution of every rank, this member's own included. -/
def Coll.blocks (c : Coll) (sent : List W32) (blocks : List (List W32)) : List (List W32) :=
  let own := if c.op = 1 ∨ c.op = 3 then (sent.drop (c.rank * c.count)).take c.count else sent
  blocks.take c.rank ++ [own] ++ blocks.drop c.rank

/-- The elements of DST as raw bits. -/
def Coll.result (c : Coll) (sent : List W32) (blocks : List (List W32)) : List Nat :=
  let all := c.blocks sent blocks
  let convert (i : Nat) (x : W32) : Nat := (etypeFmt c.etype).encode (chooserAt c.sr c.seed i) (.ofF32 x)
  if c.op ≤ 1 then
    (List.range c.count).map (fun i =>
      let xs := all.map (fun b => b.getD i 0)
      convert i ((xs.drop 1).foldl (reduceStep c.red) (xs.headD 0)))
  else
    let l := all.flatten
    if c.wire = 0 then l.map BitVec.toNat else (List.range l.length).map (fun i => convert i (l.getD i 0))

/-- Leave the destination of a collective unspecified. -/
def State.collScramble (s : State) (c : Coll) : State := s.scramble (dieOf c.uid) c.ctx c.dst c.dstLen

/-- End a collective with a status. -/
def State.collEnd (s : State) (id : Nat) (c : Coll) (status : Nat) : State := (s.collScramble c).putColl id { c with status := status }

/-- What a fault does to a collective (R418). -/
def State.collFault (s : State) (id : Nat) (c : Coll) (f : EFault) : State :=
  if f.cause = cNOTPRESENT then (s.holdFault c.ctx f c.uid).putColl id { c with held := some f.addr }
  else (s.collScramble c).putColl id { c with stop := some f }

/-- Whether a collective still runs at this member. -/
def Coll.running (c : Coll) : Bool := c.status == 1 && c.stop.isNone && !c.abandoned && !c.desc.isEmpty

/-- Whether every access of the team before the collective has been performed (R209). -/
def State.collReady (s : State) (c : Coll) : Bool :=
  let t := s.teams.get c.uid
  s.trackerDone (coreOf c.uid) c.upto allPaths && (identOf c.uid t.place.gen ≠ c.who.ident || t.loadsFixed c.seq)

/-- Every contribution has come: the engine reads and computes (R295, R416). -/
def State.collReduce (s : State) (id : Nat) (c : Coll) (blocks : List (List W32)) : State :=
  let die := dieOf c.uid
  let n := srcElems c.op c.count c.members
  let r : Eng (List Byte × List Byte) :=
    (s.engRead c.who die none c.src (n * etypeSize c.etype)).bind (fun src s =>
      (if c.wire = 0 then Eng.ok [] s else s.engRead c.who die none c.res (4 * n)).bind (fun res s => .ok (src, res) s))
  match r with
  | .wait s1 => s1
  | .fault f s1 => s1.collFault id c f
  | .ok (src, res) s1 =>
    let (sent, res1) := c.sends src res
    let bytes := (c.result sent blocks).flatMap (leBytes (etypeSize c.etype))
    s1.putColl id { c with todo := some (stashCuts c.dst.toNat bytes), resNew := res1.flatMap (fun x => leBytes 4 x.toNat) }

/-- Write a piece of a line for a collective. -/
def State.collPut (s : State) (c : Coll) (x : Nat × List Byte) : Eng Unit :=
  s.engWriteLine c.who (dieOf c.uid) (BitVec.ofNat 64 x.1) [(x.1 % 128, x.2)]

/-- Write the new residuals, all of them or none; with them the collective has ended with status 0 (R295, R418). -/
def State.collResiduals (s : State) (id : Nat) (c : Coll) : State :=
  let cuts := stashCuts c.res.toNat c.resNew
  match cuts.foldl (fun (e : Eng Unit) x => e.bind (fun _ s => s.collPut c x)) (.ok () s) with
  | .ok _ s1 => s1.putColl id { c with status := 0 }
  | .fault f _ => s.collFault id c f
  | .wait _ => (cuts.findSome? (fun x => match s.collPut c x with | .wait s1 => some s1 | _ => none)).getD s

/-- Write one of the lines of the destination that are left, in an order that is the engine's, and after the last the residuals. -/
def State.collWrite (s : State) (id : Nat) (c : Coll) (l : List (Nat × List Byte)) : State :=
  let n := Config.freeNat s.freeCtr 11 % l.length
  match l[n]? with
  | none => s.collResiduals id c
  | some x => match s.collPut c x with
    | .wait s1 => s1
    | .fault f s1 => s1.collFault id c f
    | .ok _ s1 => s1.putColl id { c with todo := some (l.eraseIdx n) }

/-- COLLECTIVE_COMPLETION: every contribution has come and the engine computes and writes its results, or a peer's failure ends the
collective; one that its grid's end has abandoned leaves its destination unspecified. -/
def execCollectiveCompletion (id : Nat) (out : CollOutcome) (s : State) : Out :=
  s.event (fun s =>
    let c := s.colls.get id
    if c.abandoned then (if c.status = 1 ∧ c.stop.isNone then s.collScramble c else s).putColl id { c with status := 6 }
    else if !c.running then s
    else match out with
      | .received blocks =>
        if c.held.isSome || c.frozen || !s.collReady c then s
        else match c.todo with
        | some l => s.collWrite id c l
        | none => if blocks.length + 1 ≠ c.members || blocks.any (fun b => b.length ≠ c.count) then s
          else s.collReduce id c blocks
      | .peerHalted => s.collEnd id c 2
      | .link => s.collEnd id c 4
      | .mismatch => s.collEnd id c 5
      | .peerFailed => s.collEnd id c 6)

/-- COLLECTIVE_TIMEOUT: the member has counted its time out (R418). -/
def execCollectiveTimeout (id : Nat) (s : State) : Out :=
  s.event (fun s =>
    let c := s.colls.get id
    let us := if c.tmo = 0 then (s.ctxs.get c.ctx).cfg.collTmo else c.tmo
    if c.running ∧ !c.frozen ∧ c.start + 4000 * us ≤ s.stampTime (dieOf c.uid) then s.collEnd id c 3 else s)

/-! ### Halts (R419) -/

/-- Stop the count of a collective's time, keeping what has passed. -/
def State.freezeColl (s : State) (id : Nat) : State :=
  let c := s.colls.get id
  if c.running ∧ !c.frozen then s.putColl id { c with frozen := true, start := s.stampTime (dieOf c.uid) - c.start } else s

/-- Let the count go on. -/
def State.thawColl (s : State) (id : Nat) : State :=
  let c := s.colls.get id
  if c.running ∧ c.frozen then s.putColl id { c with frozen := false, start := s.stampTime (dieOf c.uid) - c.start } else s

/-- COLLECTIVE_HALT: a member's hub has sent a halt. -/
def execCollectiveHalt (id : Nat) (s : State) : Out := s.event (fun s => s.freezeColl id)

/-- COLLECTIVE_RESUME: the halted member has been released; a halt of this member's own context still holds. -/
def execCollectiveResume (id : Nat) (s : State) : Out :=
  s.event (fun s => if (s.ctxs.get (s.colls.get id).ctx).state = 2 then s else s.thawColl id)

/-- HALT_LIMIT_EXPIRY: a halt has lasted longer than the halted context's HLIMIT, whether it is this member's or a peer's; the
member ends with PEER_HALTED. -/
def execHaltLimitExpiry (id : Nat) (s : State) : Out :=
  s.fwEvent (fun s =>
    let c := s.colls.get id
    let x := s.ctxs.get c.ctx
    let late : Bool := x.state ≠ 2 || decide (x.haltedAt + 4000000 * x.cfg.hlimit ≤ s.stampTime hubDie)
    if c.running ∧ c.frozen ∧ late then s.collEnd id c 2 else s)

end Sys2Proof.Machine
end

