-- ==== Sys2Proof/Machine/Control.lean ====
section
/-! DEFINITION. Clause headers, hints, branches, divergence, regions and returns from traps (R35 to R55, R80 to R94,
R361, R396). EXIT is in Sys2Proof/Machine/Retire.lean. -/

namespace Sys2Proof.Machine

/-- Add a hint to those of the current team: the word takes its port for a clock (R19). -/
def State.addHint (s : State) (f : Hints → Hints) : State :=
  let t := s.team
  (s.setTeam { t with hints := f t.hints, flow := { t.flow with pos := t.flow.pos.next }, stall := none }).issued s.cur 1

/-- CLAUSE: the first word of the clause waits for the flags of the wait mask (R35, R43, R44). -/
def execClause (wait : BitVec 12) (a b : BitVec 4) (l : BitVec 6) (s : State) : Out :=
  s.runWord (.clause wait a b l) (fun w s =>
    let t := s.team
    if t.flagsZero wait then
      .placed (s.setTeam { t with hints := {}, stall := none, flow := { t.flow with
        pos := { pc := w.pc + 4, left := l.toNat + 1, hdr := w.pc, setA := a, setB := b } } })
    else .hold s 4)

/-- HINT.IMM (R51). -/
def execHintImm (p : BitVec 22) (s : State) : Out :=
  s.runWord (.hintImm p) (fun _ s => .placed (s.addHint (fun h => { h with imms := h.imms ++ [p] })))

/-- HINT.SCHED: it affects performance only (R52). -/
def execHintSched (r a b y : BitVec 1) (s : State) : Out :=
  s.runWord (.hintSched r a b y) (fun _ s => .placed (s.addHint (fun h => { h with sched := some (r ++ a ++ b ++ y) })))

/-- HINT.MOD (R53). -/
def execHintMod (c : BitVec 2) (f t e : BitVec 1) (m : BitVec 2) (s : State) : Out :=
  s.runWord (.hintMod c f t e m) (fun _ s =>
    .placed (s.addHint (fun h => { h with modh := some ⟨c, f, t, e, m⟩ })))

/-- HINT.SRC3 (R54). -/
def execHintSrc3 (c : BitVec 2) (r : BitVec 6) (s : State) : Out :=
  s.runWord (.hintSrc3 c r) (fun _ s => .placed (s.addHint (fun h => { h with src3 := some (c, r) })))

/-- HINT.GUARD (R55). -/
def execHintGuard (i : BitVec 1) (m : BitVec 3) (s : State) : Out :=
  s.runWord (.hintGuard i m) (fun _ s => .placed (s.addHint (fun h => { h with guard := some (i, m) })))

/-- A word that is no instruction: its checks always fail, with the lowest of its detail codes (R63 to R66). -/
def execWordNotAnInstruction (x : W32) (s : State) : Out :=
  s.runWord (.wordNotAnInstruction x) (fun w s => .trap s (w.trap s cILLEGAL 0x03))

/-! ### Branches and calls (R80 to R83) -/

/-- The target of an offset in words. -/
def offTarget {n : Nat} (pc : W64) (o : BitVec n) : W64 := pc + (o.signExtend 64 <<< 2)

/-- A transfer to a register's value (R82). -/
def regTransfer (w : Wd) (s : State) (target : W64) (after : State) : Eff :=
  if target.extractLsb' 0 2 ≠ 0 ∨ canonical target = false then .trap s (w.trap s cILLEGAL 0x09 target)
  else .go target (.ok after)

/-- BRA (R80). -/
def execBra (o : BitVec 26) (s : State) : Out :=
  s.runWord (.bra o) (fun w s => .go (offTarget w.pc o) (.ok s))

/-- The conditions of BRC (R81). -/
def brcHolds (c : BitVec 3) (x : W64) : Bool :=
  if c = 0 then x == 0 else if c = 1 then x != 0 else if c = 2 then x.slt 0 else if c = 3 then (0 : W64).sle x
  else if c = 4 then (0 : W64).slt x else if c = 5 then x.sle 0 else x.getLsbD 0

/-- BRC (R81). -/
def execBrc (r : BitVec 6) (c : BitVec 3) (o : BitVec 17) (s : State) : Out :=
  s.runWord (.brc r c o) (fun w s =>
    if brcHolds c (w.r.readS r.toNat) then .go (offTarget w.pc o) (.ok s) else .next s)

/-- CALL (R80). -/
def execCall (o : BitVec 26) (s : State) : Out :=
  s.runWord (.call o) (fun w s => .go (offTarget w.pc o) (.ok (s.withRegs (fun r => r.writeS 63 (w.pc + 4)))))

/-- RET (R82). -/
def execRet (s : State) : Out :=
  s.runWord .ret (fun w s => regTransfer w s (w.r.readS 63) s)

/-- CALLR (R82). -/
def execCallr (a : BitVec 6) (s : State) : Out :=
  s.runWord (.callr a) (fun w s =>
    regTransfer w s (w.r.readS a.toNat) (s.withRegs (fun r => r.writeS 63 (w.pc + 4))))

/-! ### Divergence (R84 to R87) -/

/-- Change the flow of the current team. -/
def State.withFlow (s : State) (f : Flow → Flow) : State := s.setTeam { s.team with flow := f s.team.flow }

/-- MARKJ (R85). -/
def execMarkj (o : BitVec 26) (s : State) : Out :=
  s.runWord (.markj o) (fun w s =>
    if 32 ≤ s.team.flow.dstack.length then .trap s (w.trap s cSTACK)
    else .next (s.withFlow (fun f => { f with dstack := ⟨true, offTarget w.pc o, f.active⟩ :: f.dstack })))

/-- BRD (R86). -/
def execBrd (m : BitVec 3) (p : BitVec 1) (o : BitVec 22) (s : State) : Out :=
  s.runWord (.brd m p o) (fun w s =>
    let mm := w.r.readM m.toNat
    let t := w.active &&& (if p = 0 then mm else ~~~mm)
    let r := w.active &&& ~~~t
    if t = 0 then .next s
    else if r = 0 then .go (offTarget w.pc o) (.ok s)
    else .go (offTarget w.pc o) (
      if 32 ≤ s.team.flow.dstack.length then .error (w.trap s cSTACK)
      else .ok (s.withFlow (fun f => { f with active := t, dstack := ⟨false, w.pc + 4, r⟩ :: f.dstack }))))

/-- Take the top entry of the divergence stack (R87). -/
def joinTop (w : Wd) (s : State) : Eff :=
  match s.team.flow.dstack with
  | [] => .trap s (w.trap s cSTACK)
  | e :: rest => .go e.target (.ok (s.withFlow (fun f => { f with active := e.mask, dstack := rest })))

/-- JOIN (R87). -/
def execJoin (s : State) : Out := s.runWord .join joinTop

/-! ### Other flow words (R91 to R94, R396) -/

/-- NOP (R91). -/
def execNop (s : State) : Out := s.runWord .nop (fun _ s => .next s)

/-- YIELD has no effect on state (R91). -/
def execYield (s : State) : Out := s.runWord .yield (fun _ s => .next s)

/-- SEAM (R92, R350). -/
def execSeam (s : State) : Out := s.runWord .seam (fun _ s => .seam s 0)

/-- Push a region identifier; a full stack drops its bottom entry (R92). (DEDUCED, log entry 56) -/
def Flow.enter (f : Flow) (id : BitVec 16) : Flow :=
  if 16 ≤ f.rstack.length then
    { f with rstack := id :: f.rstack.take 15, rovf := if f.rovf < 255 then f.rovf + 1 else 255 }
  else { f with rstack := id :: f.rstack }

/-- ENTER, with the region break of DBGCTL (R92, R396). -/
def execEnter (i : BitVec 8) (s : State) : Out :=
  s.runWord (.enter i) (fun w s =>
    let id := w.imm.extractLsb' 0 16
    let s1 := s.withFlow (fun f => f.enter id)
    let dbg := (s.ctxOf s.team).dbgctl
    if dbg.getLsbD 47 ∧ dbg.extractLsb' 48 16 = id then .seamTrap s1 (w.trap s cBKPT (cls := 1)) else .seam s1 0)

/-- LEAVE (R92). -/
def execLeave (s : State) : Out :=
  s.runWord .leave (fun w s =>
    match s.team.flow.rstack with
    | _ :: rest => .seam (s.withFlow (fun f => { f with rstack := rest })) 0
    | [] => if s.team.flow.rovf = 0 then .trap s (w.trap s cSTACK)
            else .seam (s.withFlow (fun f => { f with rovf := f.rovf - 1 })) 0)

/-- BKPT (R93). -/
def execBkpt (s : State) : Out := s.runWord .bkpt (fun w s => .trap s (w.trap s cBKPT (cls := 1)))

/-- TRAP (R93). -/
def execTrap (c : BitVec 8) (s : State) : Out :=
  s.runWord (.trap c) (fun w s => .trap s (w.trap s cSWTRAP (aux := c.setWidth 32) (cls := 1)))

/-- ISYNC discards what has been fetched ahead (R94). -/
def execIsync (s : State) : Out :=
  s.runWord .isync (fun _ s => .next (s.setTeam { s.team with prefetch := .empty, line := none }))

/-! ### Continuations and returns (R361) -/

/-- CONTSET (R256, R361). -/
def execContset (a : BitVec 6) (s : State) : Out :=
  s.runWord (.contset a) (fun w s =>
    let x := w.r.readS a.toNat
    if x.extractLsb' 0 2 ≠ 0 then .trap s (w.trap s cALIGN 0 x)
    else if canonical x = false then .trap s (w.trap s cPROTECT (Acc.fetch.code * 16 + Config.noWalkLevel.toNat) x)
    else if (s.gridOf s.team).launch.cont = 1 then
      .next (s.setTeam { s.team with trap := { s.team.trap with contpc := x } })
    else .next s)

/-- CRESUME (R361). -/
def execCresume (s : State) : Out :=
  s.runWord .cresume (fun _ s =>
    if !s.team.flagsZero (BitVec.allOnes 12) then .hold s 4
    else match s.team.returnFromTrap with
      | some t => .placedSeam ((s.setTeam t).issued s.cur 1)
      | none => .hold s 1)

end Sys2Proof.Machine
end

