-- ==== Sys2Proof/Machine/Regroup.lean ====
section
/-! DEFINITION. REGROUP: the rendezvous of its members, and the exchange of their lanes (R131 to R133). -/

namespace Sys2Proof.Machine

/-- A member waiting in REGROUP: its slot, the operands of its word, and the members it names by team index. -/
structure RgMember where
  uid : Nat
  ops : Nat × Nat × Nat × Nat
  members : List Nat
  deriving DecidableEq, Repr

/-- The members that a team's REGROUP names. -/
def State.rgMembers (s : State) (t : Team) (gang : Bool) : List Nat :=
  if gang then gangBits t.sys.gangmask else List.range (s.gridOf t).launch.teams

/-- The teams of a workgroup that wait in REGROUP. -/
def State.rgWaiting (s : State) (wg : Nat) : List RgMember :=
  (s.wgs.get wg).slots.filterMap (fun u =>
    let t := s.teams.get u
    match t.wait with
    | .regroup d a b opt => if t.wgKey = wg ∧ t.phase = .running then some ⟨u, (d, a, b, opt), s.rgMembers t (opt.testBit 0)⟩ else none
    | _ => none)

/-- The slot of a team index. -/
def State.slotOfIndex (s : State) (wg i : Nat) : Option Nat :=
  (s.wgs.get wg).slots.find? (fun u => (s.teams.get u).place.idx == i && (s.teams.get u).wgKey == wg)

/-- Whether some of the teams named have retired. -/
def State.rgRetired (s : State) (wg : Nat) (members : List Nat) : Bool :=
  members.any (fun i => match s.slotOfIndex wg i with
    | some u => (s.wgs.get wg).retired.contains u
    | none => true)

/-- REGROUP issues, and waits for the other members (R132). -/
def execRegroup (d a b : BitVec 6) (n : BitVec 4) (g : BitVec 1) (s : State) : Out :=
  s.runWord (.regroup d a b n g) (fun w s =>
    match s.team.wait with
    | .regroup _ _ _ _ => .hold s 6
    | _ =>
      let t := s.team
      let members := s.rgMembers t (g = 1)
      if t.flow.dstack ≠ [] ∨ w.active ≠ fullMask w.width ∨ !members.contains t.place.idx ∨ s.rgRetired t.wgKey members then
        .trap s (w.trap s cGANG)
      else .hold (s.setTeam { t with wait := .regroup d.toNat a.toNat b.toNat (2 * n.toNat + g.toNat) }) 6)

/-- Make a member that waits in REGROUP trap. -/
def State.rgTrap (s : State) (u : Nat) : State :=
  let t := s.teams.get u
  s.takeTrap u { cause := cGANG, word := s.heldWord u t.flow.pos.pc, pc := t.flow.pos.pc, regions := regionsOf t.flow }

/-- Put an entry of the list before the first one with a greater key. -/
def insertKey (x : Nat × List W32) : List (Nat × List W32) → List (Nat × List W32)
  | [] => [x]
  | y :: r => if x.1 < y.1 then x :: y :: r else y :: insertKey x r

/-- The stable sort by key. -/
def sortKeys (l : List (Nat × List W32)) : List (Nat × List W32) := l.foldl (fun r x => insertKey x r) []

/-- What a member gives: the key and the values of each of its live lanes. -/
def State.rgGive (s : State) (d a b n : Nat) (u : Nat) : List (Nat × List W32) :=
  let t := s.teams.get u
  let r := s.seen t
  (lanesOf t.place.width (r.readM b)).map (fun l =>
    ((r.readV a l).toNat, (List.range n).map (fun j => r.readV (d + j) l)))

/-- What the k-th member takes. -/
def rgTake (width d b n k : Nat) (list : List (Nat × List W32)) (r : Regs) : Regs :=
  let r := (List.range width).foldl (fun r l =>
    let x := (list.getD (k * width + l) (0, [])).2
    (List.range n).foldl (fun r j => r.writeV (d + j) l (x.getD j 0)) r) r
  r.writeM width b (maskOf width (fun l => decide (k * width + l < list.length)))

/-- A member goes on after its REGROUP: its registers are written at the seam that the completion is. -/
def State.rgRelease (s : State) (d b n k : Nat) (list : List (Nat × List W32)) (u : Nat) : State :=
  let t := s.teams.get u
  let dests := useSet [⟨.v, d, n⟩, ⟨.m, b, 1⟩]
  let t1 := { t with regs := rgTake t.place.width d b n k list t.regs }
  let t2 := t1.advance.note ⟨t.wr, t.rbw, dests, fullMask t.place.width, t.nextSeq, 0⟩
  (s.putTeam u (t2.markSeam dests)).afterSeam u

/-- REGROUP_EXCHANGE: every member named by the mask waits. They exchange their lanes; where their words differ, each
traps (R132, R133). -/
def execRegroupExchange (wg mask : Nat) (s : State) : Out :=
  s.event (fun s =>
    let idx (x : RgMember) : Nat := (s.teams.get x.uid).place.idx
    let mine := (s.rgWaiting wg).filter (fun x => mask.testBit (idx x))
    match mine with
    | [] => s
    | m0 :: _ =>
      let named := (List.range 16).filter (fun i => mask.testBit i)
      if !(mine.any (fun x => x.members == named)) || mine.length ≠ named.length then s
      else if mine.any (fun x => x.ops ≠ m0.ops || x.members ≠ named) then mine.foldl (fun s x => s.rgTrap x.uid) s
      else
        let (d, a, b, opt) := m0.ops
        let n := opt / 2 + 1
        let us := named.filterMap (s.slotOfIndex wg)
        let list := sortKeys (us.flatMap (s.rgGive d a b n))
        (List.range us.length).foldl (fun s k => s.rgRelease d b n k list (us.getD k 0)) s)

/-- The members still waiting for a team that retires trap (R133). -/
def State.rgAbandon (s : State) (uid : Nat) : State :=
  let t := s.teams.get uid
  ((s.rgWaiting t.wgKey).filter (fun x => x.uid ≠ uid && x.members.contains t.place.idx)).foldl (fun s x => s.rgTrap x.uid) s

end Sys2Proof.Machine
end

