-- ==== Sys2Proof/Machine/Retire.lean ====
section
/-! DEFINITION. EXIT and retirement, the completion of a grid, and what a lost link or a forced reset ends (R29, R33, R88, R183,
R261 to R263, R317, R357, R368, R420, R421). -/

namespace Sys2Proof.Machine

/-! ### Freeing what a workgroup holds (R29, R33, R183, R184, R317) -/

/-- Close the queues that a workgroup has bound (R317, R326). -/
def State.closePorts (s : State) (wg : Nat) : State :=
  let core := (s.wgs.get wg).core
  (List.range 8).foldl (fun s k =>
    let q := s.queue core k
    if q.bound && q.wg == wg then
      (if q.over then s.unbindQueue core k else s.putQueue core k { q with closing := true, entries := [] })
    else s) s

/-- Write back the mapped lines that the stash of a workgroup holds, but for those of homes that cannot be reached (R183). -/
def State.giveAll (s : State) (key : Nat) : State :=
  let w := s.wgs.get key
  w.ranges.keys.foldl (fun s n =>
    let x := w.ranges.get n
    (List.range x.lines).foldl (fun s k =>
      if x.state.get k = 0 || s.beyond (dieOfCore w.core) (x.pas.get k) then s else s.recallLine key n k) s) s

/-- End a workgroup whose teams have all retired, or have all retired or been stopped: its ranges end with write-back, its slots, ways
and barriers are freed, and its ports close. Its slots stay with the grid where an inherited range may pass on. -/
def State.endWg (s0 : State) (key : Nat) : State :=
  let s := s0.giveAll key
  let w := s.wgs.get key
  let grid := w.grid
  let g := s.grids.get grid
  let s1 := s.closePorts key
  let whole : Bool := w.gone.isEmpty
  let g1 : Grid := { g with bound := g.bound.filter (· ≠ w.index), retired := if whole then g.retired ++ [w.index] else g.retired }
  let keep : Bool := whole && decide (g.launch.inhCnt ≠ 0) && g1.moreToBind
  let s2 := s1.putGrid grid (if keep then { g1 with heldWgs := g.heldWgs ++ [w.index] } else g1)
  let s3 := if keep then s2 else (w.slots.filter (fun u => !w.gone.contains u)).foldl State.freeSlot s2
  let s4 := s3.modCore w.core (fun c => { c with ways := c.ways - w.ways })
  let w1 := s4.wgs.get key
  let w2 := w1.ranges.keys.foldl Wg.unmap w1
  let s5 := s4.putWg key { w2 with bound := false, bars := .empty }
  if (s5.grids.get grid).moreToBind then s5 else s5.releaseHeld grid

/-- Free the slice that a team holds (R297). -/
def State.freeSlice (s : State) (uid : Nat) : State :=
  match s.sliceOf uid with
  | none => s
  | some k => s.putSlice (coreOf uid) k {}

/-- Members that wait in a latch for a team that retires trap (R302). -/
def State.latchAbandon (s : State) (uid : Nat) : State :=
  let t := s.teams.get uid
  ((s.latched t.wgKey).filter (fun x => x.1 ≠ uid && x.2.2.1.testBit t.place.idx)).foldl (fun s x => s.latchTrap cGANG 0 x) s

/-- The stores that a team has observed and that have not been performed (R201). (DEDUCED, log entry 81) -/
def State.openStores (s : State) (uid : Nat) : List Nat :=
  ((s.cores.get (coreOf uid)).tracker.filter (fun r => !r.performed && (s.teams.get uid).observes uid r)).map (·.id)

/-- A team retires, and its workgroup with it when it is the last (R33); the completion of its grid will cover what it has observed
(R261). -/
def State.retire (s0 : State) (uid : Nat) : State :=
  let t := s0.teams.get uid
  let key := t.wgKey
  let s := s0.modGrid t.place.grid (fun g => { g with carried := g.carried ++ s0.openStores uid })
  let s1 := (s.putTeam uid { t with phase := .retired, wait := .none, stall := none, hints := {}, mon := none }).freeSlice uid
  let s2 := s1.modWg key (fun w => { w with retired := w.retired ++ [uid] })
  let s3 := (s2.rgAbandon uid).latchAbandon uid
  let w := s3.wgs.get key
  if w.slots.all (fun u => w.retired.contains u || w.gone.contains u) then s3.endWg key else s3

/-- Whether a team is the last of its workgroup still to retire. -/
def State.lastTeam (s : State) (uid : Nat) : Bool :=
  let w := s.wgs.get (s.teams.get uid).wgKey
  w.slots.all (fun u => u == uid || w.retired.contains u || w.gone.contains u)

/-! ### EXIT (R88) -/

/-- The divergence stack without the active lanes, its entries of no lanes popped from the top. -/
def exitStack (active : Mask) : List DivEntry → List DivEntry
  | [] => []
  | e :: r =>
    let m := e.mask &&& ~~~active
    if m = 0 then exitStack active r else { e with mask := m } :: r.map (fun e => { e with mask := e.mask &&& ~~~active })

/-- Whether an operation still runs on the team's slice. -/
def State.sliceBusy (s : State) (uid : Nat) : Bool :=
  match s.sliceOf uid with
  | none => false
  | some k => (s.slice (coreOf uid) k).op0.busy || (s.slice (coreOf uid) k).op1.busy

/-- EXIT: the active lanes leave; with no lane left the team waits for its flags and its matrix operations, reports a stop, and
retires; the last team of a workgroup writes its mapped ranges back first. That it waits for the operations of its slice too is the
model's reading of R305. (DESIGN CHOICE, log entry 73) -/
def execExit (s : State) : Out :=
  s.runWord .exit (fun w s =>
    match exitStack w.active s.team.flow.dstack with
    | e :: rest => .go e.target (.ok (s.withFlow (fun f => { f with active := e.mask, dstack := rest })))
    | [] =>
      if !s.team.flagsZero (BitVec.allOnes 12) || s.sliceBusy s.cur then .hold s 4
      else match s.matStop s.cur with
        | some f => .trap (s.clearStop s.cur) (w.stopTrap s f)
        | none =>
          if s.lastTeam s.cur then
            match s.team.wait with
            | .resident _ => .hold s noReason
            | _ => match s.flushRanges s.team (s.wgOf s.team).ranges.keys with
              | (s1, none) => .placed ((s1.issued s1.cur 1).retire s1.cur)
              | (s1, some f) => s1.holdFlush w f
          else .placed ((s.issued s.cur 1).retire s.cur))

/-! ### What a grid leaves behind (R234, R317, R359, R418) -/

/-- Whether the engines' work of a grid has ended: its copies, streams, collectives and begun drains. -/
def State.enginesDone (s : State) (grid : Nat) : Bool :=
  s.copies.entries.all (fun c => c.2.gid ≠ grid || !c.2.active) &&
  s.cores.entries.all (fun c => c.2.queues.entries.all (fun q => !q.2.bound || q.2.wg / 2 ^ 32 ≠ grid)) &&
  s.colls.entries.all (fun c => c.2.gid ≠ grid || c.2.status ≠ 1 || c.2.stop.isSome)

/-- Whether a stream of a grid is in the save area of its context. -/
def State.streamsSaved (s : State) (grid : Nat) : Bool :=
  s.savedQueues.entries.any (fun e => match e.2 with | some q => q.wg / 2 ^ 32 == grid | none => false)

/-- Whether what the release of a grid's completion covers has been performed: every store of its teams, and every store that they had
observed; from cluster scope on, at home, wherever that is (R200, R201, R261). -/
def State.gridStoresDone (s : State) (g : Grid) : Bool :=
  s.cores.entries.all (fun c => c.2.tracker.all (fun r =>
    r.performed || !((r.who.ctx == g.ctx && r.who.lnum == g.lnum) || g.carried.contains r.id)))

/-- Discard a team: what it has still to send, its slice and its slot (R368, R420). -/
def State.discardTeam (s : State) (u : Nat) : State := ((s.dropRequests u).freeSlice u).freeSlot u

/-- Forget what a grid still holds (the destinations of saved streams are left unspecified): its saved teams, its bound workgroups and
their slots, and its collectives. -/
def State.forgetGrid (s : State) (grid : Nat) : State :=
  let g := s.grids.get grid
  let s1 := g.bound.foldl (fun s i =>
    let key := wgKey grid i
    let w := s.wgs.get key
    let s1 := if w.saved then s else
      ((w.slots.filter (fun u => (s.teams.get u).wgKey == key)).foldl State.discardTeam s).modCore w.core
        (fun c => { c with ways := c.ways - w.ways })
    s1.putWg key { w with bound := false, saved := false, ranges := .empty, bars := .empty }) s
  let s1 := s1.savedQueues.entries.foldl (fun s e => match e.2 with
    | some q =>
      let p := streamProg q.prog
      if q.wg / 2 ^ 32 = grid ∧ p.on 7 ∧ p.dkind = 0 ∧ !q.ended then
        (List.range p.n).foldl (fun s i => s.scramble (dieOfCore (e.1 % 2 ^ 16 / 8)) q.who.ctx (p.dstOf i) (q.ebits / 8)) s
      else s
    | none => s) s1
  let s2 := s1.releaseHeld grid
  let mineT : Option Team → Bool := fun t => match t with | some t => t.place.grid == grid | none => false
  let mineQ : Option Queue → Bool := fun q => match q with | some q => q.wg / 2 ^ 32 == grid | none => false
  { s2 with
    savedTeams := ⟨s2.savedTeams.entries.filter (fun e => !mineT e.2)⟩
    savedQueues := ⟨s2.savedQueues.entries.filter (fun e => !mineQ e.2)⟩
    colls := ⟨s2.colls.entries.filter (fun e => e.2.gid ≠ grid)⟩ }

/-- Write back what a grid that ends has in mapped stash lines, and end its ranges (R183). (DEDUCED, log entry 48) -/
def State.unmapGrid (s : State) (grid : Nat) : State :=
  (s.grids.get grid).bound.foldl (fun s i =>
    let key := wgKey grid i
    (s.giveAll key).modWg key (fun w => w.ranges.keys.foldl Wg.unmap w)) s

/-! ### Completion (R261, R262, R357, R421) -/

/-- A record of class 3 in the context's trap log. -/
def State.class3 (s : State) (ctx cause detail addr : Nat) : State :=
  let r := leBytes 16 0 ++ leBytes 8 addr ++ leBytes 1 cause ++ leBytes 1 detail ++ leBytes 2 0xFFFF ++ leBytes 11 0 ++ leBytes 1 3
    ++ leBytes 4 0 ++ leBytes 4 (s.stampBound hubDie) ++ leBytes 8 0 ++ leBytes 8 (s.stampTime hubDie)
  (s.ringPut (s.ctxs.get ctx).cfg.trapLog r 2).1

/-- The partial record of a grid that a failed link has ended (R421). -/
def State.partialRecord (s : State) (g : Grid) : State :=
  let c := (s.ctxs.get g.ctx).cfg
  if c.partBase = 0 ∨ c.partN = 0 then s
  else
    let n := g.launch.count
    let room := c.partSz - 16
    let bytes := (n + 7) / 8
    let kept := if bytes < room then bytes else room
    let bitmap := (List.range kept).map (fun i =>
      BitVec.ofNat 8 ((List.range 8).foldl (fun x b => if g.retired.contains (8 * i + b) then x + 2 ^ b else x) 0))
    (s.homeBytes (c.partBase + c.partSz * (g.lnum % c.partN))
      (leBytes 4 g.lnum ++ leBytes 4 n ++ leBytes 1 (if room < bytes then 1 else 0) ++ leBytes 7 0 ++ bitmap)).raise 2

/-- The bytes of a completion record. -/
def State.completion (s : State) (g : Grid) : List Byte :=
  let n := if 2 ^ 32 - 1 < g.retired.length then 2 ^ 32 - 1 else g.retired.length
  let signal := if g.status = 0 then g.launch.sigval else 2 ^ 63 + g.launch.sigval % 2 ^ 63
  leBytes 8 signal ++ leBytes 1 g.status ++ leBytes 1 g.cause ++ leBytes 2 0 ++ leBytes 4 n ++ leBytes 8 (s.stampTime hubDie)
    ++ leBytes 8 (s.stampBound hubDie)

/-- A grid is over: its completion has been performed, and the firmware reads the signal words of its context again (R261). -/
def State.endOfGrid (s : State) (grid : Nat) : State :=
  let s1 := s.forgetGrid grid
  let s2 := s1.modGrid grid (fun g => { g with phase := .done, bound := [], carried := [] })
  let g := s2.grids.get grid
  (if (s2.ctxs.get g.ctx).state = 3 ∧ s2.grids.entries.all (fun e => e.2.ctx ≠ g.ctx || e.2.phase == .done || e.2.phase == .none) then
    s2.modCtx g.ctx (fun c => { c with state := 1 })
  else s2).pollCtx g.ctx

/-- Perform the completion of a grid: its record, a release, and its signal word; or what stands in its way. -/
def State.complete (s : State) (grid : Nat) : State :=
  let g := s.grids.get grid
  let s := if g.status = 4 then s.partialRecord g else s
  if g.launch.compl = 0 then s.endOfGrid grid
  else if !g.launch.complOk then (s.class3 g.ctx cLAUNCH 0 g.addr).endOfGrid grid
  else
    let va := BitVec.ofNat 64 g.launch.compl
    match s.translate hubDie g.ctx .store va with
    | .error f =>
      if f.cause = cNOTPRESENT then s.fwFault g.ctx f else (s.class3 g.ctx f.cause f.detail g.launch.compl).endOfGrid grid
    | .ok p =>
      if s.badRange p.pa 32 then (s.class3 g.ctx cMEMERR 0 g.launch.compl).endOfGrid grid
      else match s.writeTarget p.leaf.kv g.ctx (lineOf p.pa) va {} with
        | .fail c => (s.class3 g.ctx c 0 g.launch.compl).endOfGrid grid
        | .wait s => s
        | .at_ line s => ((s.homeBytes (line + p.pa % 128) (s.completion g)).putRelease line {}).endOfGrid grid

/-- Whether no team of a grid moves any more; a drain of a stopped team is ended first. -/
def State.gridStill (s : State) (grid : Nat) : Bool :=
  let g := s.grids.get grid
  g.bound.all (fun i => (s.wgs.get (wgKey grid i)).slots.all (fun u =>
    let t := s.teams.get u
    t.wgKey ≠ wgKey grid i || (t.phase == .stopped && t.words.all (fun w => w.kind != .mdrain)) || t.phase == .retired ||
      t.phase == .unbound))

/-- End the work that a grid's engines cannot end any more. -/
def State.abandonWork (s : State) (grid : Nat) : State := s.stopGrid grid

/-- GRID_COMPLETION: every workgroup has retired, or the grid has been refused, has failed or has been ended, and its engines
have stopped; its completion is performed (R258, R261, R263, R359, R368, R420). -/
def execGridCompletion (grid : Nat) (s : State) : Out :=
  s.fwEvent (fun s =>
    let g := s.grids.get grid
    let live : Bool := g.phase == .ready || g.phase == .running
    if !live then s
    else if g.status = 0 then
      (if decide (g.retired.length = g.launch.count) && g.bound.isEmpty && s.enginesDone grid && !s.streamsSaved grid && s.gridStoresDone g then
        s.complete grid
      else s)
    else if g.status = 4 then
      (if !g.bound.isEmpty then s
       else if s.enginesDone grid && s.gridStoresDone g then s.complete grid
       else s.abandonWork grid)
    else if s.gridStill grid && s.enginesDone grid && s.gridStoresDone g then (s.unmapGrid grid).complete grid
    else s)

/-! ### Lost links and routes (R414, R420) -/

/-- Whether some die of a team's grid that holds workgroups lies out of reach. -/
def State.gridSplit (s : State) (uid : Nat) : Bool :=
  let t := s.teams.get uid
  (s.gridOf t).bound.any (fun i =>
    s.mod.linksDown.contains (linkOf (dieOf uid) (dieOfCore (s.wgs.get (wgKey t.place.grid i)).core)))

/-- Whether a team has issued a word that needs what is out of reach: an access, a grid barrier with a member there, or a
rendezvous with a member that has been stopped. -/
def State.stranded (s : State) (uid : Nat) : Bool :=
  if s.mod.linksDown = [] ∧ s.mod.routesDown = [] then false
  else
    let t := s.teams.get uid
    let die := dieOf uid
    t.words.any (fun w => w.parts.any (fun p => !p.fixed && s.beyond die p.line)) ||
    (s.cores.get (coreOf uid)).tracker.any (fun r => r.uid == uid && !r.performed && s.beyond die r.line &&
      decide (r.who.ident = identOf uid t.place.gen)) ||
    (match t.wait with
     | .barrier 2 _ _ => s.gridSplit uid
     | .barrier _ _ _ | .latch _ _ _ | .regroup _ _ _ _ =>
       (List.range (s.gridOf t).k).any (fun i =>
         !(s.wgs.get (wgKey t.place.grid (t.place.wg / (s.gridOf t).k * (s.gridOf t).k + i))).gone.isEmpty)
     | _ => false)

/-- Roll a stranded team back to its seam and stop it; its slot is freed, its stores beyond are not performed, and its grid ends
with STATUS 4 (R420). -/
def State.strand (s : State) (uid : Nat) : State :=
  let t := s.teams.get uid
  let lost := t.words.filter (fun w => w.parts.all (fun p => p.fixed || !s.beyond (dieOf uid) p.line))
  let s0 := s.putTeam uid { t with words := lost }
  match s0.rollback uid false with
  | none => s
  | some s1 =>
    let s2 := s1.modCore (coreOf uid) (fun c => { c with tracker := c.tracker.filter (fun r =>
      !(r.uid == uid && !r.performed && s.beyond (dieOf uid) r.line)) })
    let s3 := (s2.discardTeam uid).modGrid t.place.grid
      (fun g => if g.status = 0 then { g with status := 4, cause := cLINK } else g)
    let s4 := s3.modWg t.wgKey (fun w => { w with gone := w.gone ++ [uid] })
    let w := s4.wgs.get t.wgKey
    if w.slots.all (fun u => w.retired.contains u || w.gone.contains u) then s4.endWg t.wgKey else s4

/-! ### Forced reset (R183, R368) -/

/-- End the streams of a grid at once (R368). -/
def State.endStreams (s : State) (grid : Nat) : State :=
  allCores.foldl (fun s core => (List.range 8).foldl (fun s k =>
    let q := s.queue core k
    if q.bound && q.wg / 2 ^ 32 == grid then s.streamAbandon core k q (streamProg q.prog) else s) s) s

/-- Leave what the drains of a grid have begun to write unspecified (R368). -/
def State.endDrains (s : State) (grid : Nat) : State :=
  (s.teams.entries.filter (fun e => e.2.phase ≠ .unbound && e.2.place.grid == grid)).foldl (fun s e =>
    e.2.words.foldl (fun s w => if w.kind = .mdrain ∧ w.begun then s.drainScramble e.1 w else s) s) s

/-- Discard everything of a context: its teams, streams and slices are gone and their slots and ways free, its copies and engine work are
abandoned, and every grid of it that is not complete ends with STATUS 3 (R368). -/
def State.forceReset (s : State) (ctx : Nat) : State :=
  let mine := s.grids.entries.filter (fun g => g.2.ctx == ctx && (match g.2.phase with | .none | .done => false | _ => true))
  let s1 := mine.foldl (fun s g =>
    let s1 := ((((s.unmapGrid g.1).endDrains g.1).stopGrid g.1).endStreams g.1).forgetGrid g.1
    s1.putGrid g.1 { s1.grids.get g.1 with
      phase := if g.2.phase == .running then .running else .ready, bound := [], status := 3, cause := cPREEMPT }) s
  let s2 := { s1 with
    savedTeams := ⟨s1.savedTeams.entries.filter (fun e => e.1 / 2 ^ 16 ≠ ctx)⟩
    savedSlices := ⟨s1.savedSlices.entries.filter (fun e => e.1 / 2 ^ 16 ≠ ctx)⟩ }
  s2.modCtx ctx (fun c => { c with launchQ := [], ladder := .none, state := if !mine.isEmpty then 3 else c.state, faults := [] })

end Sys2Proof.Machine
end

