-- ==== Sys2Proof/Machine/Traversal.lean ====
section
/-! DEFINITION. The traversal unit: nodes and leaves, the lane's state, the walk, and the words TRACE, TRRES, TRGET, TRHIT,
TRSAVE and TRLOAD (R328, R329, R331 to R349). -/

namespace Sys2Proof.Machine

/-! ### Lane states (R335 to R337) -/

/-- The traversal state of a lane in fields. The stack holds its top first. -/
structure TrLane where
  ray : List W32
  node : Int
  pend : Nat
  nkind : Nat
  nprim : Nat
  cursor : Nat
  p : Nat
  pbase : Nat
  hit : Bool
  level : Nat
  status : Nat
  scount : Nat
  stack : List W32
  deriving DecidableEq, Repr, Inhabited

/-- Word k of a record. -/
def trWord (x : BitVec 512) (k : Nat) : W32 := x.extractLsb' (32 * k) 32

/-- Read a record. -/
def trLane (x : BitVec 512) : TrLane :=
  let l := trWord x 9
  let f := trWord x 10
  { ray := (List.range 8).map (trWord x), node := (trWord x 8).toInt, pend := (l.extractLsb' 18 2).toNat,
    nkind := (l.extractLsb' 16 2).toNat, nprim := (l.extractLsb' 8 5).toNat, cursor := (l.extractLsb' 0 5).toNat,
    p := (f.extractLsb' 24 6).toNat, pbase := (f.extractLsb' 17 6).toNat, hit := f.getLsbD 16, level := (f.extractLsb' 8 6).toNat,
    status := (f.extractLsb' 0 4).toNat, scount := (trWord x 11).toNat,
    stack := ((List.range 4).map (fun k => trWord x (12 + k))).take (trWord x 11).toNat }

/-- The words of a record, lowest first, as one number. -/
def joinWords (l : List W32) : BitVec 512 := BitVec.ofNat 512 (l.foldr (fun w r => w.toNat + 2 ^ 32 * r) 0)

/-- The bits of LEAFPOS and of FLAGS. -/
def TrLane.leafpos (x : TrLane) : W32 := BitVec.ofNat 32 (x.pend * 2 ^ 18 + x.nkind * 2 ^ 16 + x.nprim * 256 + x.cursor)
def TrLane.flags (x : TrLane) : W32 :=
  BitVec.ofNat 32 (x.p * 2 ^ 24 + x.pbase * 2 ^ 17 + (if x.hit then 2 ^ 16 else 0) + x.level * 256 + x.status)

/-- Write a record. -/
def TrLane.pack (x : TrLane) : BitVec 512 :=
  joinWords (x.ray ++ [BitVec.ofInt 32 x.node, x.leafpos, x.flags, BitVec.ofNat 32 x.scount]
    ++ (List.range 4).map (fun k => x.stack.getD k 0))

def TrLane.tmin (x : TrLane) : W32 := x.ray.getD 6 0
def TrLane.tmax (x : TrLane) : W32 := x.ray.getD 7 0
def TrLane.setTmax (x : TrLane) (t : W32) : TrLane := { x with ray := x.ray.take 7 ++ [t] }

/-- A stopped lane. -/
def TrLane.stop (x : TrLane) (status : Nat) : TrLane := { x with status := status, pend := 0, nkind := 0, nprim := 0 }

/-! ### Exact tests (R328, R334) -/

/-- Points and directions as rationals. -/
abbrev Vec3 := Rat × Rat × Rat

def cross (a b : Vec3) : Vec3 :=
  (a.2.1 * b.2.2 - a.2.2 * b.2.1, a.2.2 * b.1 - a.1 * b.2.2, a.1 * b.2.1 - a.2.1 * b.1)
def dot (a b : Vec3) : Rat := a.1 * b.1 + a.2.1 * b.2.1 + a.2.2 * b.2.2
def minus (a b : Vec3) : Vec3 := (a.1 - b.1, a.2.1 - b.2.1, a.2.2 - b.2.2)
/-- The order of vertices: by x, then y, then z. -/
def vertexLt (a b : Vec3) : Bool :=
  decide (a.1 < b.1) || (decide (a.1 = b.1) && (decide (a.2.1 < b.2.1) || (decide (a.2.1 = b.2.1) && decide (a.2.2 < b.2.2))))

/-- Three f32 values. -/
def vec3 (l : List W32) (k : Nat) : Option Vec3 :=
  match finite32 (l.getD k 0), finite32 (l.getD (k + 1) 0), finite32 (l.getD (k + 2) 0) with
  | some x, some y, some z => some (x, y, z)
  | _, _, _ => none

/-- The interval that a slab admits: none where it admits no t. -/
def slab (lo hi o d : Rat) : Option (XVal × XVal) :=
  if d = 0 then (if lo ≤ o ∧ o ≤ hi then some (.inf true, .inf false) else none)
  else
    let a := (lo - o) / d
    let b := (hi - o) / d
    if d < 0 then some (.num b false, .num a false) else some (.num a false, .num b false)

def xMax (a b : XVal) : XVal := if a.le b then b else a
def xMin (a b : XVal) : XVal := if a.le b then a else b

/-- The entry distance of a box that a ray hits in an interval. -/
def boxEntry (o d : Vec3) (tmin tmax : XVal) (lo hi : Vec3) : Option XVal :=
  match slab lo.1 hi.1 o.1 d.1, slab lo.2.1 hi.2.1 o.2.1 d.2.1, slab lo.2.2 hi.2.2 o.2.2 d.2.2 with
  | some x, some y, some z =>
    let e := xMax (xMax tmin x.1) (xMax y.1 z.1)
    let f := xMin (xMin tmax x.2) (xMin y.2 z.2)
    if e.le f then some e else none
  | _, _, _ => none

/-- The distance at which a ray meets a triangle: f32 bits, none where it misses. -/
def triangleHit (o d v0 v1 v2 : Vec3) (cull : Bool) : Option W32 :=
  let a0 := minus v0 o
  let a1 := minus v1 o
  let a2 := minus v2 o
  let w0 := dot d (cross a1 a2)
  let w1 := dot d (cross a2 a0)
  let w2 := dot d (cross a0 a1)
  let sum := w0 + w1 + w2
  let covered := sum ≠ 0 ∧ ((0 ≤ w0 ∧ 0 ≤ w1 ∧ 0 ≤ w2) ∨ (w0 ≤ 0 ∧ w1 ≤ 0 ∧ w2 ≤ 0))
  let counts (w : Rat) (a b : Vec3) : Bool := decide (w ≠ 0) || vertexLt a b
  if ¬ covered ∨ !(counts w0 v1 v2) ∨ !(counts w1 v2 v0) ∨ !(counts w2 v0 v1) ∨ (cull ∧ sum < 0) then none
  else
    let n := cross (minus v1 v0) (minus v2 v0)
    some (XVal.num (dot n a0 / dot n d) (decide (dot n a0 / dot n d < 0))).f32

/-! ### Nodes (R331, R332) -/

/-- A REF entry in fields. -/
structure TrRef where
  kind : Nat
  nprim : Nat
  va : W64
  deriving DecidableEq, Repr, Inhabited

def trRef (x : W64) : TrRef :=
  { kind := (x.extractLsb' 61 3).toNat, nprim := (x.extractLsb' 56 5).toNat,
    va := (x.extractLsb' 0 53 ++ (0 : BitVec 4)).signExtend 64 }

/-- Whether an entry breaks no rule, for a root. -/
def refValid (root : W64) (x : W64) : Bool :=
  let r := trRef x
  let d := (r.va - root).toInt
  x.extractLsb' 53 3 = 0 && decide (r.kind ≤ 3) && (decide (2 ≤ r.kind) || r.nprim == 0) &&
  (if r.kind = 1 then r.va.toNat % 128 == 0 && decide (0 ≤ d) && decide (d < 2 ^ 33)
   else r.kind == 0 || (decide (-(2 ^ 35) ≤ d) && decide (d < 2 ^ 35)))

/-- The NODE of a target. -/
def TrRef.node (r : TrRef) (root : W64) : Int := (r.va - root).toInt / 16

/-- A wide node: its 128 bytes. -/
abbrev NodeBytes := List Byte

def nodeRef (l : NodeBytes) (i : Nat) : W64 := BitVec.ofNat 64 (fieldAt l (64 + 8 * i) 8)

/-- Whether a node breaks no rule. -/
def nodeValid (root : W64) (l : NodeBytes) : Bool :=
  (vec3 ((List.range 3).map (fun k => BitVec.ofNat 32 (fieldAt l (4 * k) 4))) 0).isSome &&
  (List.range 3).all (fun k => let e := (l.getD (12 + k) 0).toInt
    decide (-64 ≤ e) && decide (e ≤ 63)) &&
  l.getD 15 0 == 0 && (List.range 8).all (fun i => refValid root (nodeRef l i))

/-- The bounds of a box: none where a lower code lies above an upper one. -/
def nodeBox (l : NodeBytes) (i : Nat) : Option (Vec3 × Vec3) :=
  let q (k : Nat) : Nat := (l.getD (16 + 6 * i + k) 0).toNat
  let at_ (a c : Nat) : Rat :=
    ((finite32 (BitVec.ofNat 32 (fieldAt l (4 * a) 4))).getD 0) + (c : Rat) * (2 : Rat) ^ (l.getD (12 + a) 0).toInt
  if q 3 < q 0 ∨ q 4 < q 1 ∨ q 5 < q 2 then none
  else some ((at_ 0 (q 0), at_ 1 (q 1), at_ 2 (q 2)), (at_ 0 (q 3), at_ 1 (q 4), at_ 2 (q 5)))

/-- Whether a lane's ray hits a child, and its entry distance. A ray that is no number, which only TRLOAD can bring, hits or
misses as the hardware finds. (DESIGN CHOICE, log entry 31) -/
def State.childHit (s : State) (lane : Nat) (x : TrLane) (l : NodeBytes) (i : Nat) : Option XVal :=
  if (trRef (nodeRef l i)).kind = 0 then none
  else match nodeBox l i with
    | none => none
    | some (lo, hi) =>
      let tmin := XVal.ofF32 x.tmin
      let tmax := XVal.ofF32 x.tmax
      match vec3 x.ray 0, vec3 x.ray 3 with
      | some o, some d =>
        if tmin.isNan || tmax.isNan then (if s.choice 12 (lane * 8 + i) then some (.num 0 false) else none)
        else boxEntry o d tmin tmax lo hi
      | _, _ => if s.choice 12 (lane * 8 + i) then some (.num 0 false) else none

/-- Insert a child by its distance; ties go to the lower slot, which comes first. -/
def insertHit (x : Nat × XVal) : List (Nat × XVal) → List (Nat × XVal)
  | [] => [x]
  | y :: r => if y.2.le x.2 then y :: insertHit x r else x :: y :: r

/-- The children that a ray hits, nearest first. -/
def State.hitsOf (s : State) (lane : Nat) (x : TrLane) (l : NodeBytes) : List (Nat × XVal) :=
  (List.range 8).foldl (fun h i => match s.childHit lane x l i with | some e => insertHit (i, e) h | none => h) []

/-! ### The walk (R328, R329, R334, R337) -/

/-- What a step of a walk needs to know of its word and lane. -/
structure Walk where
  who : Who
  die : Nat
  core : Nat
  root : W64
  /-- the lane's spill area, and its bytes -/
  area : W64
  stride : Nat
  lane : Nat

/-- The address of a NODE. -/
def Walk.at_ (k : Walk) (node : Int) : W64 := k.root + BitVec.ofInt 64 (16 * node)

/-- Go on to a target. -/
def TrLane.visit (x : TrLane) (r : TrRef) (root : W64) : TrLane :=
  { x with node := r.node root, nkind := r.kind, nprim := if r.kind = 1 then 0 else r.nprim, cursor := 0, pend := 0 }

/-- Read a wide node. -/
def State.readNode (s : State) (k : Walk) (node : Int) : Eng NodeBytes :=
  let va := k.at_ node
  if va.toNat % 128 ≠ 0 then .fault ⟨cFORMAT, 0, va⟩ s
  else (s.engReadLine k.who k.die (some k.core) va 128).bind (fun l s =>
    if nodeValid k.root l then .ok l s else .fault ⟨cFORMAT, 0, va⟩ s)

/-- Read a spilled position: it needs P and W. -/
def State.readSpill (s : State) (k : Walk) (p : Nat) : Eng W32 :=
  let va := k.area + BitVec.ofNat 64 (4 * p)
  match s.translate k.die k.who.ctx .engRead va with
  | .error f => .fault f s
  | .ok pl =>
    if !pl.leaf.w then .fault ⟨cPROTECT, Acc.engRead.code * 16 + pl.leaf.level, va⟩ s
    else (s.engReadLine k.who k.die (some k.core) va 4).bind (fun l s => .ok (BitVec.ofNat 32 (leNat l)) s)

/-- Write a spilled position. -/
def State.writeSpill (s : State) (k : Walk) (p : Nat) (x : W32) : Eng Unit :=
  let va := k.area + BitVec.ofNat 64 (4 * p)
  s.engWriteLine k.who k.die va [(va.toNat % 128, leBytes 4 x.toNat)]

/-- Push entries in order; the deepest of the four held goes to memory. -/
def State.pushAll (s : State) (k : Walk) (x : TrLane) : List W32 → Eng TrLane
  | [] => .ok x s
  | e :: rest =>
    if 4 + k.stride / 4 ≤ x.scount then .fault ⟨cSTACK, 0, 0⟩ s
    else
      let y : TrLane := { x with scount := x.scount + 1, stack := (e :: x.stack).take 4 }
      if 4 ≤ x.scount then
        (s.writeSpill k (x.scount - 4) (x.stack.getD 3 0)).bind (fun _ s => s.pushAll k y rest)
      else s.pushAll k y rest

/-- The entry that stands for a child of a node. -/
def stackEntry (slot : Nat) (node : Int) : W32 := BitVec.ofInt 32 ((slot : Int) * 2 ^ 29 + node)

/-- A pop: the entry is tested again, reading its parent; the lane visits the child, or pops once more. (DEDUCED, log entry 30) -/
def State.trPop (s : State) (k : Walk) (x : TrLane) : Eng (TrLane × Bool) :=
  match x.stack with
  | [] => .ok (x.stop (if x.hit then 1 else 0), true) s
  | e :: rest =>
    let deep : Eng (List W32) :=
      if 5 ≤ x.scount then (s.readSpill k (x.scount - 5)).bind (fun w s => .ok [w] s) else .ok [] s
    deep.bind (fun w s =>
      (s.readNode k ((e.extractLsb' 0 29).toNat : Int)).bind (fun l s =>
        let y : TrLane := { x with scount := x.scount - 1, stack := rest ++ w, pend := 1 }
        let i := (e.extractLsb' 29 3).toNat
        match s.childHit k.lane y l i with
        | some _ => .ok (y.visit (trRef (nodeRef l i)) k.root, false) s
        | none => .ok (y, false) s))

/-- Visit a wide node. -/
def State.trNode (s : State) (k : Walk) (x : TrLane) : Eng (TrLane × Bool) :=
  (s.readNode k x.node).bind (fun l s =>
    match s.hitsOf k.lane x l with
    | [] => .ok ({ x with pend := 1 }, false) s
    | h :: others =>
      (s.pushAll k x ((others.map (fun o => stackEntry o.1 x.node)).reverse)).bind (fun y s =>
        .ok (y.visit (trRef (nodeRef l h.1)) k.root, false) s))

/-- The next entry of a leaf, or a pop after the last one. -/
def TrLane.nextEntry (x : TrLane) : TrLane :=
  if x.cursor < x.nprim then { x with cursor := x.cursor + 1 } else { x with cursor := 0, pend := 1 }

/-- The parts of a leaf that the entry at a cursor needs, each in one line: its first address and its length. -/
def leafSegs (start size cursor n : Nat) : List (Nat × Nat) :=
  (rangeOf (start + size * cursor) size).map (fun l =>
    let lo := if 128 * l < start then start else 128 * l
    let hi := if 128 * l + 128 < start + size * n then 128 * l + 128 else start + size * n
    (lo, hi - lo))

/-- A step towards the entry at a lane's cursor: each line of the leaf that it needs is read whole in one operation (R348); the bytes
of the entry, once they have been read. (DEDUCED, log entry 80) -/
def State.leafStep (s : State) (k : Walk) (w : LongWord) (x : TrLane) (size : Nat) : Eng (LongWord × Option (List Byte)) :=
  let start := (k.at_ x.node).toNat
  let a := start + size * x.cursor
  let segs := leafSegs start size x.cursor (x.nprim + 1)
  let held (g : Nat × Nat) : Option (List Byte) := (w.bufs.find? (fun b => b.1 == k.lane && b.2.1 == g.1)).map (·.2.2)
  match segs.find? (fun g => (held g).isNone) with
  | some g =>
    (match s.engReadLine k.who k.die (some k.core) (BitVec.ofNat 64 g.1) g.2 with
     | .ok l s =>
       .ok ({ w with bufs := (k.lane, g.1, l) :: w.bufs.filter (fun b => b.1 != k.lane || segs.any (fun h => h.1 == b.2.1)) }, none) s
     | .wait s => .wait s
     | .fault f s => .fault { f with addr := if f.addr.toNat < a then BitVec.ofNat 64 a else f.addr } s)
  | none =>
    .ok (w, some (((segs.flatMap (fun g => (held g).getD [])).drop (a - (segs.headD (0, 0)).1)).take size)) s

/-- Test the triangle at the cursor, from its bytes: the lane, and a hit that is committed, with its PRIM and USER; none where the entry
breaks a rule. -/
def TrLane.triangle (x : TrLane) (l : List Byte) : Option (TrLane × Option (W32 × W32)) :=
  let w (i : Nat) : W32 := BitVec.ofNat 32 (fieldAt l (4 * i) 4)
  if (w 11).extractLsb' 1 31 ≠ 0 then none
  else
    let ws := (List.range 9).map w
    let t := match vec3 x.ray 0, vec3 x.ray 3, vec3 ws 0, vec3 ws 3, vec3 ws 6 with
      | some o, some d, some v0, some v1, some v2 => triangleHit o d v0 v1 v2 ((w 11).getLsbD 0)
      | _, _, _, _, _ => none
    match t with
    | some t =>
      if le32 x.tmin t && lt32 t x.tmax then some ({ x.setTmax t with hit := true }.nextEntry, some (w 9, w 10))
      else some (x.nextEntry, none)
    | none => some (x.nextEntry, none)

/-- What a step of a walk leaves: its word, its lane, whether the lane has stopped or suspended, and a hit. -/
abbrev WalkStep := LongWord × TrLane × Bool × Option (W32 × W32)

/-- The next step of a walking lane. -/
def State.walkStep (s : State) (k : Walk) (w : LongWord) (x : TrLane) : Eng WalkStep :=
  if x.pend = 1 then (s.trPop k x).bind (fun r s => .ok (w, r.1, r.2, none) s)
  else if x.nkind = 1 then (s.trNode k x).bind (fun r s => .ok (w, r.1, r.2, none) s)
  else if x.nkind = 2 then
    (s.leafStep k w x 48).bind (fun r s => match r.2 with
      | none => .ok (r.1, x, false, none) s
      | some l => match x.triangle l with
        | none => .fault ⟨cFORMAT, 0, k.at_ x.node + BitVec.ofNat 64 (48 * x.cursor)⟩ s
        | some y => .ok (r.1, y.1, false, y.2) s)
  else
    (s.leafStep k w x 8).bind (fun r s => match r.2 with
      | none => .ok (r.1, x, false, none) s
      | some _ => .ok (r.1, { x with status := 3 }, true, none) s)

/-- The walks of a team's outstanding word. -/
def State.walkOf (s : State) (uid : Nat) (w : LongWord) (lane : Nat) : Walk :=
  let t := s.teams.get uid
  let stride := (w.args.getD 2 0).toNat
  { who := w.who, die := dieOf uid, core := coreOf uid, root := w.args.getD 0 0, stride := stride, lane := lane,
    area := w.args.getD 1 0 + BitVec.ofNat 64 ((t.place.idx * t.place.width + lane) * stride) }

/-- Put the state of a walking lane; `done` when it has stopped or suspended. -/
def Team.putLane (t : Team) (lane : Nat) (x : TrLane) : Team :=
  { t with trav := { t.trav with lanes := t.trav.lanes.set lane x.pack } }

/-- A lane's committed hit replaces an earlier one of the word. -/
def LongWord.keepHit (w : LongWord) (lane : Nat) (h : Option (W32 × W32)) : LongWord :=
  match h with
  | none => w
  | some (p, u) => { w with raw := (lane, 0, p) :: (lane, 1, u) :: w.raw.filter (fun r => r.1 != lane) }

/-- A lane's failure: the word keeps that of the lowest lane (R343). -/
def LongWord.keepErr (w : LongWord) (lane node : Nat) (f : EFault) : LongWord :=
  let new_ : LongWord := { w with err := some (f.cause, lane, node, f.addr), errDetail := f.detail }
  match w.err with
  | some e => if e.2.1 ≤ lane then w else new_
  | none => new_

/-- Whether the accesses of a team before an engine's word have been performed (R209). -/
def State.wordReady (s : State) (uid : Nat) (w : LongWord) : Bool :=
  s.trackerDone (coreOf uid) w.upto allPaths && (s.teams.get uid).loadsFixed w.seq

/-- LOAD_AT_HOME of a walk: the next fetch of one of its lanes. -/
def State.travPart (s : State) (uid id k : Nat) : State :=
  let t := s.teams.get uid
  match t.word? id with
  | none => s
  | some w => match w.parts[k]? with
    | none => s
    | some p =>
      if p.fixed || !s.wordReady uid w then s
      else
        let lane := (p.elems.headD { lane := 0, off := 0, size := 0 }).lane
        let x := trLane (t.trav.lanes.get lane)
        let walk := s.walkOf uid w lane
        let fixed (done : Bool) (w : LongWord) : LongWord := if done then w.setPart k (fun p => { p with fixed := true }) else w
        match s.walkStep walk w x with
        | .wait s1 => s1
        | .ok (v, y, done, h) s1 =>
          s1.modTeam uid (fun t => (t.putLane lane y).setWord (fixed done (v.keepHit lane h)))
        | .fault f s1 =>
          if f.cause = cNOTPRESENT then
            (s1.reportFault w.who.ctx f.addr (f.detail / 16) (f.detail % 16) (whereOf uid) (dieOf uid)).modTeam uid (fun t =>
              (t.putLane lane { x with status := 4 }).setWord (fixed true w))
          else
            s1.modTeam uid (fun t => (t.putLane lane (x.stop 5)).setWord
              (fixed true (w.keepErr lane (BitVec.ofInt 32 x.node).toNat f)))

/-- LOAD_AT_HOME of a TRGET: a lane rereads its entry. -/
def State.trgetPart (s : State) (uid id k : Nat) : State :=
  let t := s.teams.get uid
  match t.word? id with
  | none => s
  | some w => match w.parts[k]? with
    | none => s
    | some p =>
      if p.fixed || !s.wordReady uid w then s
      else
        let lane := (p.elems.headD { lane := 0, off := 0, size := 0 }).lane
        let fixed (w : LongWord) : LongWord := w.setPart k (fun p => { p with fixed := true })
        match s.engRead w.who (dieOf uid) (some (coreOf uid)) p.va 8 with
        | .wait s1 => s1
        | .ok l s1 =>
          s1.modTeam uid (fun t => t.setWord { fixed w with results := w.results ++
            [(lane, w.reg, BitVec.ofNat 32 (fieldAt l 0 4)), (lane, w.reg + 1, BitVec.ofNat 32 (fieldAt l 4 4))] })
        | .fault f s1 => s1.modTeam uid (fun t => t.setWord ((fixed w).keepErr lane 0 f))

/-! ### Completion (R341 to R343) -/

/-- What a walk writes at its completion: status and distance, and the hit that the unit committed. -/
def LongWord.walkResults (w : LongWord) (t : Team) : List (Nat × Nat × W32) :=
  w.parts.flatMap (fun p =>
    let lane := (p.elems.headD { lane := 0, off := 0, size := 0 }).lane
    let x := trLane (t.trav.lanes.get lane)
    let hit := w.raw.any (fun r => r.1 == lane)
    [(lane, w.reg, BitVec.ofNat 32 x.status), (lane, w.reg + 1, x.tmax)] ++
    (if hit then [(lane, w.reg + 2, w.piece lane 0), (lane, w.reg + 3, w.piece lane 1)]
     else if w.kind = .trace then [(lane, w.reg + 2, 0xFFFFFFFF), (lane, w.reg + 3, 0)] else []))

/-! ### The words (R339 to R347) -/

/-- Whether a traversal word of the team must wait for an earlier one (R340). -/
def Team.tracing (t : Team) : Bool := t.words.any (fun w => w.kind.byEngine)

/-- Lanes that walk on a core. -/
def State.walking (s : State) (core : Nat) : Nat :=
  ((uidsOf core).map (fun u => ((s.teams.get u).words.map (fun w =>
    if w.kind = .trace ∨ w.kind = .trres then (w.parts.filter (fun p => !p.fixed)).length else 0)).sum)).sum

/-- The part of a word that stands for a lane. -/
def lanePart (lane : Nat) (fixed : Bool) : Part :=
  { line := 2 ^ 70, va := 0, elems := [{ lane := lane, off := 0, size := 0 }], fixed := fixed }

/-- The virtual lines in which lanes may spill: their engine owns them from the word's issue on (R210, R337). -/
def Team.spillLines (t : Team) (lanes : List Nat) : List Nat :=
  let stride := (t.sys.trcfg.extractLsb' 0 11).toNat
  (lanes.flatMap (fun l => rangeOf (t.sys.trspill + BitVec.ofNat 64 ((t.place.idx * t.place.width + l) * stride)).toNat stride)).eraseDups

/-- Issue a walk over lanes whose states are given, or go on with the saved walk of the same word. A TRRES that resumes no lane completes
at once (R342). -/
def State.issueWalk (s : State) (w : Wd) (kind : LongKind) (d : BitVec 6) (root : W64) (lanes : List (Nat × TrLane)) : Eff :=
  let t := s.team
  let mine := t.trav.saved.filter (fun v => v.pc == w.pc && v.word == wordBits w.ins && v.mask == w.mask)
  let parts := match mine with
    | some v => v.parts
    | none => lanes.map (fun x => lanePart x.1 (x.2.status ≠ 4))
  if kind = .trres ∧ parts.isEmpty then .seam s (useSet w.f.seamWrites)
  else if 2048 < s.walking (coreOf s.cur) + (parts.filter (fun p => !p.fixed)).length then .hold s 10
  else
    let (upto, s1) := s.fresh
    let states := match mine with
      | some v => v.lanes
      | none => lanes.foldl (fun (m : SMap (0#512)) x => m.set x.1 x.2.pack) t.trav.lanes
    let s2 := s1.setTeam { s1.team with trav := { lanes := states, old := t.trav.lanes, saved := none },
                                        sys := { s1.team.sys with trroot := root } }
    s2.outstanding w { id := 0, kind := kind, dests := useSet w.f.seamWrites, reg := d.toNat, parts := parts, upto := upto,
                       raw := (mine.map (·.hits)).getD [], err := mine.bind (·.err), errDetail := (mine.map (·.errDetail)).getD 0,
                       lines := t.spillLines (parts.map (fun p => (p.elems.headD { lane := 0, off := 0, size := 0 }).lane)),
                       who := s.engWho s.cur,
                       args := [root, t.sys.trspill, t.sys.trcfg.extractLsb' 0 11 |>.setWidth 64] } true

/-- Whether the values of a ray let it walk. -/
def rayWalks (ray : List W32) : Bool :=
  let nan := ray.any (fun x => (f32.read false x.toNat).isNaN)
  match vec3 ray 0, vec3 ray 3 with
  | some _, some d => !nan && d != (0, 0, 0) && le32 (ray.getD 6 0) (ray.getD 7 0)
  | _, _ => false

/-- TRACE (R341). -/
def execTrace (d a b : BitVec 6) (f : BitVec 1) (s : State) : Out :=
  s.runWord (.trace d a b f) (fun w s =>
    let t := s.team
    let root := w.r.readS b.toNat
    let ctl := w.r.readS (b.toNat + 1)
    let p := (ctl.extractLsb' 0 6).toNat
    let level := (ctl.extractLsb' 8 6).toNat
    let launch := (s.gridOf t).launch
    if t.tracing then .hold s 10
    else if root.toNat % 128 ≠ 0 then .trap s (w.trap s cALIGN 0 root)
    else if canonical root = false then .trap s (w.trap s cPROTECT (Acc.engRead.code * 16 + Config.noWalkLevel.toNat) root)
    else if ctl.extractLsb' 6 2 ≠ 0 ∨ ctl.extractLsb' 14 50 ≠ 0 then .trap s (w.trap s cFORMAT)
    else if launch.payload < p ∨ (0 < p ∧ t.place.vregs < d.toNat + 4 + p) then .trap s (w.trap s cPAYLOAD)
    else
      let lanes := w.lanes.map (fun l =>
        let ray := (List.range 8).map (fun k => w.r.readV (a.toNat + k) l)
        let x : TrLane := { ray := ray, node := 0, pend := 0, nkind := 0, nprim := 0, cursor := 0, p := p,
                            pbase := if 0 < p then d.toNat + 4 else 0, hit := false, level := level, status := 0, scount := 0,
                            stack := [] }
        (l, if launch.depth < level then { x with status := 2 }
            else if rayWalks ray then { x with status := 4, nkind := 1 } else x))
      s.issueWalk w .trace d root lanes)

/-- The addresses of the fetch that a parked lane waits for: of its node, of the first and the last byte of its entry, or, for a pop, of
the parent of the entry on top and of the spilled position that the pop brings back. -/
def Team.pendingFetch (t : Team) (x : TrLane) (lane : Nat) : List W64 :=
  let root := t.sys.trroot
  let node := root + BitVec.ofInt 64 (16 * x.node)
  let entry (size : Nat) : List W64 :=
    [node + BitVec.ofNat 64 (size * x.cursor), node + BitVec.ofNat 64 (size * x.cursor + size - 1)]
  if x.pend = 1 then
    (if 5 ≤ x.scount then
      [t.sys.trspill + BitVec.ofNat 64 ((t.place.idx * t.place.width + lane) * (t.sys.trcfg.extractLsb' 0 11).toNat + 4 * (x.scount - 5))]
     else []) ++ (match x.stack with
      | [] => []
      | e :: _ => [root + BitVec.ofNat 64 (16 * (e.extractLsb' 0 29).toNat)])
  else if x.nkind = 2 then entry 48 else if x.nkind = 3 then entry 8 else [node]

/-- The first of some addresses that is not present. -/
def State.firstAbsent (s : State) (die ctx : Nat) (l : List W64) : Option EFault :=
  l.findSome? (fun va => match s.translate die ctx .engRead va with
    | .error f => if f.cause = cNOTPRESENT then some f else none
    | .ok _ => none)

/-- The lowest parked lane whose pending fetch is still not present. -/
def State.stillParked (s : State) (t : Team) (die : Nat) (l : List (Nat × TrLane)) : Option (Nat × EFault) :=
  l.findSome? (fun x => if x.2.status ≠ 4 then none
    else (s.firstAbsent die t.place.ctx (t.pendingFetch x.2 x.1)).map (fun f => (x.1, f)))

/-- A suspended lane as it walks on: past its procedural entry, or from what it was parked on. -/
def TrLane.resume (x : TrLane) : TrLane :=
  if x.status = 3 then { x.nextEntry with status := 4 } else x

/-- TRRES (R329, R342). -/
def execTrres (d : BitVec 6) (f : BitVec 1) (s : State) : Out :=
  s.runWord (.trres d f) (fun w s =>
    let t := s.team
    let lanes := (w.lanes.map (fun l => (l, trLane (t.trav.lanes.get l)))).filter (fun x => x.2.status = 3 ∨ x.2.status = 4)
    if t.tracing then .hold s 10
    else match s.stillParked t (dieOf s.cur) lanes with
      | some f => .trap s (w.laneTrap s f)
      | none => s.issueWalk w .trres d t.sys.trroot (lanes.map (fun x => (x.1, x.2.resume))))

/-- TRGET (R344). -/
def execTrget (d : BitVec 6) (f : BitVec 1) (k : BitVec 2) (s : State) : Out :=
  s.runWord (.trget d f k) (fun w s =>
    let t := s.team
    let die := dieOf s.cur
    let who := s.engWho s.cur
    let lane (l : Nat) : TrLane := trLane (t.trav.lanes.get l)
    let lw : LongWord := { id := 0, kind := .trget, dests := useSet w.f.writes, reg := d.toNat, who := who }
    if t.tracing then .hold s 10
    else
      let s := s.setTeam { t with trav := { t.trav with saved := none } }
      if k = 0 then
        let ls := w.lanes.filter (fun l => (lane l).status = 3)
        let va (l : Nat) : W64 := t.sys.trroot + BitVec.ofInt 64 (16 * (lane l).node) + BitVec.ofNat 64 (8 * (lane l).cursor)
        match s.checkLanes die t.place.ctx who.race .engRead false (ls.map (fun l => { lane := l, va := va l, size := 8 })) with
        | .error f => .trap s (w.laneTrap s f)
        | .ok _ =>
          let (upto, s1) := s.fresh
          s1.outstanding w { lw with upto := upto, parts := ls.map (fun l => { lanePart l false with va := va l }) } false
      else
        s.outstanding w { lw with results := w.lanes.flatMap (fun l =>
          let x := lane l
          if k = 1 then [(l, d.toNat, x.flags), (l, d.toNat + 1, BitVec.ofNat 32 x.scount)]
          else [(l, d.toNat, x.tmin), (l, d.toNat + 1, x.tmax)]) } false)

/-- TRHIT (R345). -/
def execTrhit (d a : BitVec 6) (s : State) : Out :=
  s.runWord (.trhit d a) (fun w s =>
    if s.team.tracing then .hold s 10
    else
      let s := s.setTeam { s.team with trav := { s.team.trav with saved := none } }
      .next (w.lanes.foldl (fun s l =>
        let x := trLane (s.team.trav.lanes.get l)
        let t := w.r.readV (a.toNat + 2) l
        if x.status = 3 ∧ le32 x.tmin t ∧ lt32 t x.tmax then
          (s.setTeam (s.team.putLane l { x.setTmax t with hit := true })).withRegs (fun r =>
            ((r.writeV (d.toNat + 1) l t).writeV (d.toNat + 2) l (w.r.readV a.toNat l)).writeV (d.toNat + 3) l
              (w.r.readV (a.toNat + 1) l))
        else s) s))

/-! ### TRSAVE and TRLOAD (R346, R347) -/

/-- The address of a lane's record. -/
def Wd.recordVa (w : Wd) (a b : BitVec 6) (ix : BitVec 1) (l : Nat) : W64 :=
  w.r.aLane a.toNat l + (if ix = 1 then (w.r.readV b.toNat l).signExtend 64 else 0)

/-- Check lanes' records: each is a multiple of 64, and each access of it is checked. -/
def State.checkRecords (s : State) (die ctx race : Nat) (acc : Acc) : List (Nat × W64 × List LaneReq) →
    Except (Nat × EFault) (List LaneAcc)
  | [] => .ok []
  | (l, va, reqs) :: rest =>
    if va.toNat % 64 ≠ 0 then .error (l, ⟨cALIGN, 0, va⟩)
    else match s.checkLanes die ctx race acc false reqs with
      | .error f => .error f
      | .ok x => match s.checkRecords die ctx race acc rest with
        | .error f => .error f
        | .ok y => .ok (x ++ y)

/-- Accesses that store words: 16 bytes at a time, and what is left word by word. -/
def storeWords (lane : Nat) (va : W64) (ws : List W32) : List LaneReq :=
  let one (o : Nat) (part : List W32) : LaneReq :=
    { lane := lane, va := va + BitVec.ofNat 64 o, size := 4 * part.length,
      x := BitVec.ofNat 128 (part.foldr (fun w r => w.toNat + 2 ^ 32 * r) 0) }
  (List.range (ws.length / 4)).map (fun k => one (16 * k) ((ws.drop (4 * k)).take 4)) ++
  (List.range (ws.length % 4)).map (fun k =>
    let i := ws.length / 4 * 4 + k
    one (4 * i) [ws.getD i 0])

/-- The payload registers of a lane, at most those that the launch has. -/
def TrLane.payload (x : TrLane) (vregs : Nat) : List Nat :=
  ((List.range x.p).map (fun j => x.pbase + j)).filter (fun r => r < vregs)

/-- The set of payload registers of lanes. -/
def payloadSet (vregs : Nat) (l : List TrLane) : RegSet :=
  useSet (l.flatMap (fun x => (x.payload vregs).map (fun r => { cls := .v, num := r, cnt := 1 })))

/-- Go on past a word that has read registers which its fields do not name. -/
def State.passReading (s : State) (w : Wd) (extra : RegSet) : Eff :=
  let t := s.team
  let reads := readSet w.f w.h ||| extra
  .placed (s.finish ⟨t.wr, t.rbw ||| (reads &&& ~~~t.wr), 0, 0, t.nextSeq, w.clocks⟩)

/-- TRSAVE: relaxed stores of each active lane's state and, with PL, of its payload. (DEDUCED, log entry 33) -/
def execTrsave (a b : BitVec 6) (p x : BitVec 1) (s : State) : Out :=
  s.runWord (.trsave a b p x) (fun w s =>
    let t := s.team
    let who := s.whoOf s.cur
    let lane (l : Nat) : TrLane := trLane (t.trav.lanes.get l)
    let extra := if p = 1 then payloadSet t.place.vregs (w.lanes.map lane) else 0
    let pass (s : State) : Eff := s.passReading w extra
    if t.tracing then .hold s 10
    else match t.wait with
      | .access _ => s.issueStores w [] none false who false pass
      | _ =>
        if (s.ctxOf t).cfg.hazard ∧ extra &&& t.pendingRegs ≠ 0 then .trap s (w.trap s cHAZARD)
        else
          let s := s.setTeam { t with trav := { t.trav with saved := none } }
          let recs := w.lanes.map (fun l =>
            let va := w.recordVa a b x l
            let ws := (List.range 16).map (trWord (lane l).pack)
            let pl := if p = 1 then ((lane l).payload t.place.vregs).map (fun r => w.r.readV r l) else []
            (l, va, storeWords l va ws ++ storeWords l (va + 64) pl))
          match s.checkRecords (dieOf s.cur) t.place.ctx who.race .store recs with
          | .error f => .trap s (w.laneTrap s f)
          | .ok l => (s.fillCaches (coreOf s.cur) t.place.ctx (some s.cur) (recs.map (fun r => r.2.1))).issueStores w (gather l) none false who false pass)

/-- Whether a record may be loaded. -/
def recordOk (x : BitVec 512) (stride payload vregs : Nat) : Bool :=
  let y := trLane x
  let l := trWord x 9
  let f := trWord x 10
  l.extractLsb' 20 12 = 0 && l.extractLsb' 13 3 = 0 && l.extractLsb' 5 3 = 0 &&
  f.extractLsb' 30 2 = 0 && f.getLsbD 23 = false && f.extractLsb' 14 2 = 0 && f.extractLsb' 4 4 = 0 &&
  decide (y.status ≤ 5) &&
  (if y.status = 3 then y.nkind == 3 && y.pend == 0
   else if y.status = 4 then y.nkind != 0 && decide (y.pend ≤ 1) else y.nkind == 0 && y.pend == 0) &&
  (decide (2 ≤ y.nkind) || y.nprim == 0) && decide (y.scount ≤ 4 + stride / 4) && decide (y.p ≤ payload) &&
  decide (y.pbase + y.p ≤ vregs)

/-- The words of a lane's record, from what the word has read. -/
def recordOf (w : LongWord) (lane : Nat) : BitVec 512 := joinWords ((List.range 16).map (fun k => w.piece lane k))

/-- Read the spilled positions of lanes from another area; a fault with its lane. -/
def State.readAreas (s : State) : List (Walk × Nat × Nat) → Eng (Except (Nat × EFault) (List (Nat × Nat × W32)))
  | [] => .ok (.ok []) s
  | (k, lane, p) :: rest =>
    match s.readSpill k p with
    | .wait s => .wait s
    | .fault f s => .ok (.error (lane, f)) s
    | .ok w s => (s.readAreas rest).bind (fun r s => .ok (r.map (fun l => (lane, p, w) :: l)) s)

/-- The first spilled position of the lanes' own areas that may not be written, with its lane; nothing is written yet. A block that
another context shares is copied first (R188). -/
def State.checkAreas (s : State) (ks : Nat → Walk) : List (Nat × Nat × W32) → Eng (Option (Nat × EFault))
  | [] => .ok none s
  | (lane, p, _) :: rest =>
    let k := ks lane
    let va := k.area + BitVec.ofNat 64 (4 * p)
    match s.translate k.die k.who.ctx .engWrite va with
    | .error f => .ok (some (lane, f)) s
    | .ok pl =>
      if s.shadowFails k.who.race pl then .ok (some (lane, ⟨cPROTECT, Acc.engWrite.code * 16 + pl.leaf.level, va⟩)) s
      else match s.writeTarget pl.leaf.kv k.who.ctx (lineOf pl.pa) va k.who with
        | .fail c => .ok (some (lane, ⟨c, 0, va⟩)) s
        | .wait s => .wait s
        | .at_ _ s => s.checkAreas ks rest

/-- Write spilled positions to the lanes' own areas. -/
def State.writeAreas (s : State) (ks : Nat → Walk) : List (Nat × Nat × W32) → Eng Unit
  | [] => .ok () s
  | (lane, p, w) :: rest => (s.writeSpill (ks lane) p w).bind (fun _ s => s.writeAreas ks rest)

/-- A walk of a lane of the current team whose spilled positions lie in an area. -/
def State.laneWalk (s : State) (area : W64) (lane : Nat) : Walk :=
  { who := s.engWho s.cur, die := dieOf s.cur, core := coreOf s.cur, root := s.team.sys.trroot, area := area,
    stride := (s.team.sys.trcfg.extractLsb' 0 11).toNat, lane := lane }

/-- A lane's own area. -/
def State.ownArea (s : State) (lane : Nat) : W64 :=
  let t := s.team
  t.sys.trspill + BitVec.ofNat 64 ((t.place.idx * t.place.width + lane) * (t.sys.trcfg.extractLsb' 0 11).toNat)

/-- The spilled positions of records, each with a walk of its lane over the area that it was saved from. -/
def State.spillsOf (s : State) (recs : List (Nat × BitVec 512)) (area : Nat → W64) : List (Walk × Nat × Nat) :=
  recs.flatMap (fun r => (List.range ((trLane r.2).scount - 4)).map (fun q => (s.laneWalk (area r.1) r.1, r.1, q)))

/-- Write records, and with PL their payload, to the lanes. -/
def State.putRecords (s : State) (p : BitVec 1) (recs : List (Nat × BitVec 512)) (pay : Nat → Nat → W32) : State :=
  recs.foldl (fun s r =>
    let y := trLane r.2
    let s := s.setTeam (s.team.putLane r.1 y)
    if p = 1 then s.withRegs (fun g => (List.range y.p).foldl (fun g j =>
      if y.pbase + j < s.team.place.vregs then g.writeV (y.pbase + j) r.1 (pay r.1 j) else g) g) else s) s

/-- Note the payload registers that records have written, lane by lane, in the words that are outstanding (R47). -/
def Team.wrotePayload (t : Team) (recs : List (Nat × BitVec 512)) : Team :=
  { t with words := t.words.map (fun v => recs.foldl (fun v r =>
      ((trLane r.2).payload t.place.vregs).foldl (fun v n => v.rewrote n (BitVec.ofNat 1024 (2 ^ r.1))) v) v) }

/-- The last part of TRLOAD: the records are checked, the spilled positions are read, the payload registers are tested, and everything is
written. `vaOf` is the address of a lane's record, and `area` that of its spilled positions. -/
def State.loadRecords (s s0 : State) (w : Wd) (p x : BitVec 1) (recs : List (Nat × BitVec 512)) (vaOf : Nat → W64)
    (area : Nat → W64) (pay : Nat → Nat → W32) : Eff :=
  let t := s.team
  let stride := (t.sys.trcfg.extractLsb' 0 11).toNat
  let set := if p = 1 then payloadSet t.place.vregs (recs.map (fun r => trLane r.2)) else 0
  let rbw := t.rbw ||| (readSet w.f w.h &&& ~~~t.wr)
  let own (lane : Nat) : Walk := s.laneWalk (s.ownArea lane) lane
  match recs.find? (fun r => !recordOk r.2 stride (s.gridOf t).launch.payload t.place.vregs) with
  | some r => .trap s (w.trap s cFORMAT 0 (vaOf r.1) r.1)
  | none =>
    if x = 1 ∧ s.teamQuiet s.cur = false then .hold s0 noReason
    else match s.readAreas (if x = 1 then s.spillsOf recs area else []) with
      | .wait _ => .hold s0 noReason
      | .fault f s1 => .trap s1 (w.trap s1 f.cause f.detail f.addr)
      | .ok (.error f) s1 => .trap s1 (w.laneTrap s1 f)
      | .ok (.ok words) s1 =>
        if set &&& rbw ≠ 0 then .trap s1 (w.trap s1 cCONTRACT 0 0 0xFFFF (auxOf (set &&& rbw)))
        else if (s1.ctxOf t).cfg.hazard ∧ set &&& t.pendingRegs ≠ 0 then .trap s1 (w.trap s1 cHAZARD)
        else match s1.checkAreas own words with
          | .wait s2 => .hold (s2.setTeam s0.team) noReason
          | .fault f s2 => .trap s2 (w.trap s2 f.cause f.detail f.addr)
          | .ok (some f) s2 => .trap s2 (w.laneTrap s2 f)
          | .ok none s2 => match s2.writeAreas own words with
            | .wait _ => .hold s0 noReason
            | .fault f s3 => .trap s3 (w.trap s3 f.cause f.detail f.addr)
            | .ok _ s3 =>
              let s4 := s3.putRecords p recs pay
              let s5 := if p = 1 then s4.setTeam (s4.team.wrotePayload recs) else s4
              .placed (s5.finish ⟨t.wr ||| set, rbw, 0, 0, t.nextSeq, w.clocks⟩)

/-- Requests that load words, 16 bytes at a time. -/
def loadWords (lane : Nat) (va : W64) (n idx : Nat) : List LaneReq :=
  (storeWords lane va (List.replicate n 0)).map (fun r => { r with idx := idx + (r.va - va).toNat / 4 })

/-- TRLOAD: each active lane's record is read and checked, then its payload, and then the lanes are written (R347). The
word keeps the addresses that it read at its issue: the records', and those of the spilled positions. -/
def execTrload (d a b : BitVec 6) (p i x : BitVec 1) (s : State) : Out :=
  s.runWord (.trload d a b p i x) (fun w s =>
    let t := s.team
    let who := s.whoOf s.cur
    let die := dieOf s.cur
    let lw : LongWord := { id := 0, kind := .gather, width := 4, who := who }
    let stride := (t.sys.trcfg.extractLsb' 0 11).toNat
    let n := w.lanes.length
    let place (l : Nat) : Nat := w.lanes.findIdx (· == l)
    let vaOf (v : LongWord) (l : Nat) : W64 := BitVec.ofNat 64 (v.lines.getD (place l) 0)
    let areaOf (v : LongWord) (l : Nat) : W64 := BitVec.ofNat 64 (v.lines.getD (n + place l) 0)
    let recsOf (args : List W64) : List (Nat × BitVec 512) :=
      (List.range n).map (fun k =>
        (w.lanes.getD k 0, joinWords ((List.range 8).flatMap (fun j =>
          let y := args.getD (8 * k + j) 0
          [y.extractLsb' 0 32, y.extractLsb' 32 32]))))
    let final (s0 s : State) (v : LongWord) : Eff :=
      s.loadRecords s0 w p x (recsOf v.args) (vaOf v) (areaOf v) (fun l j => v.piece l j)
    let second (s0 s : State) (v : LongWord) : Eff :=
      let recs := w.lanes.map (fun l => (l, recordOf v l))
      let args := recs.flatMap (fun r => (List.range 8).map (fun k => r.2.extractLsb' (64 * k) 64))
      let reqs := if p = 1 then recs.flatMap (fun r => loadWords r.1 (vaOf v r.1 + 64) (trLane r.2).p 0) else []
      if reqs.isEmpty then final s0 s { v with args := args, raw := [] }
      else match s.checkLanes die t.place.ctx who.race .load false reqs with
        | .error f => .trap s (w.laneTrap s f)
        | .ok l =>
          (s.setTeam { s.team with wait := .none }).gatherWord w (gather l) { lw with args := args, lines := v.lines }
            (fun s v => final s0 s v)
    if t.tracing then .hold s 10
    else match t.wait with
      | .access _ => s.gatherWord w [] lw (fun s1 v => if v.args = [] then second s s1 v else final s s1 v)
      | _ =>
        if w.lanes = [] then .next s
        else
          let s := s.setTeam { t with trav := { t.trav with saved := none } }
          let vas := w.lanes.map (w.recordVa a b i)
          let areas := w.lanes.map (fun l =>
            w.r.readS d.toNat + BitVec.ofInt 64 ((w.r.readV b.toNat l).toInt / 64 * stride))
          match s.checkRecords die t.place.ctx who.race .load
              ((w.lanes.zip vas).map (fun r => (r.1, r.2, loadWords r.1 r.2 16 0))) with
          | .error f => .trap s (w.laneTrap s f)
          | .ok l => (s.fillCaches (coreOf s.cur) t.place.ctx (some s.cur) vas).gatherWord w (gather l)
              { lw with lines := (vas ++ areas).map BitVec.toNat } (fun s v => second s s v))

end Sys2Proof.Machine
end

