-- ==== Sys2Proof/Machine/Port.lean ====
section
/-! DEFINITION. What holds the teams of a port, and the order in which the port takes them (R30, R268, R270). -/

namespace Sys2Proof.Machine

/-- What a team's next word would do now, where it is one of those that R270 lets a team wait at. -/
def State.tried (s0 : State) (uid : Nat) : Option Out :=
  let s := { s0 with cur := uid }
  match fetched (s.heldWord uid s.team.flow.pos.pc) with
  | .clause wait a b l => some (execClause wait a b l s)
  | .cresume => some (execCresume s)
  | .exit => some (execExit s)
  | .cpy a b d => some (execCpy a b d s)
  | .cpy2d a b d => some (execCpy2d a b d s)
  | .cpyb d => some (execCpyb d s)
  | .cpyw a => some (execCpyw a s)
  | .lnch d a => some (execLnch d a s)
  | .coll d a => some (execColl d a s)
  | .collw d a t => some (execCollw d a t s)
  | .bar l n => some (execBar l n s)
  | .bara l n => some (execBara l n s)
  | .barw l n => some (execBarw l n s)
  | .mgang a => some (execMgang a s)
  | .mma a b n => some (execMma a b n s)
  | .regroup d a b n g => some (execRegroup d a b n g s)
  | .waitl a b w => some (execWaitl a b w s)
  | .stream d a => some (execStream d a s)
  | .qpop d a f => some (execQpop d a f s)
  | .trace d a b f => some (execTrace d a b f s)
  | .trres d f => some (execTrres d f s)
  | .trget d f k => some (execTrget d f k s)
  | .trhit d a => some (execTrhit d a s)
  | .trsave a b p x => some (execTrsave a b p x s)
  | .trload d a b p x i => some (execTrload d a b p x i s)
  | _ => none

/-- The reason for which the next word of a running team waits. -/
def State.wordReason (s : State) (uid : Nat) : Option Nat :=
  let t := s.teams.get uid
  let i := fetched (s.heldWord uid t.flow.pos.pc)
  let full : Bool := match flagOf (info i) t.flow.pos with | some n => t.wait == .none && t.flags.get n == 63 | none => false
  if full then some 4
  else match s.tried uid with
    | some (.next s1) =>
      let t1 := s1.teams.get uid
      if t1.phase = .running ∧ t1.trap.pending = none then t1.stall else none
    | _ => none

/-- Whether a team has to wait for the line of its next word from the instruction cache; where it does not run from that line already,
that is the hardware's choice. (DEDUCED, log entry 57) -/
def State.awaitsFetch (s : State) (uid : Nat) : Bool :=
  let t := s.teams.get uid
  let n := t.flow.pos.pc.toNat / 128
  t.wait == .none && t.trap.pending.isNone && !(t.line == some n && t.prefetch.get n ≠ []) && s.choice 13 uid

/-- Why a resident team is not eligible: the first reason of R270 that holds it now. -/
def State.reasonOf (s : State) (uid : Nat) : Option Nat :=
  let t := s.teams.get uid
  if s.preempted uid then some 0
  else if t.phase = .replay then some 1
  else if t.phase ≠ .running then none
  else if s.awaitsFetch uid then some 2
  else if t.trap.pending.isSome then some 3
  else s.wordReason uid

/-- Whether a list comes before another, entry by entry. -/
def lexLt : List Nat → List Nat → Bool
  | [], [] => false
  | [], _ :: _ => true
  | _ :: _, [] => false
  | a :: l, b :: m => decide (a < b) || (a == b && lexLt l m)

/-- A team's place in the order of its port: promoted teams first, the one promoted longest ago before the others; then by class, by the
latest issue, and by slot (R268). -/
def State.portKey (s : State) (uid : Nat) : List Nat :=
  let t := s.teams.get uid
  match t.promoted with
  | some clk => [0, clk, 0, uid]
  | none =>
    if 896 ≤ t.eligible then [0, (s.dies.get (dieOf uid)).clk, 0, uid]
    else [1, (s.gridOf t).launch.prio, t.lastIssue, uid]

/-- Put a team into a list by its place in the order. -/
def State.insertTeam (s : State) (u : Nat) : List Nat → List Nat
  | [] => [u]
  | v :: rest => if lexLt (s.portKey u) (s.portKey v) then u :: v :: rest else v :: s.insertTeam u rest

/-- The other running teams of a team's port that come before it, in order. -/
def State.rivals (s : State) (uid : Nat) : List Nat :=
  (((s.teams.entries.filter (fun e => e.1 ≠ uid && coreOf e.1 == coreOf uid && Machine.portOf e.1 == Machine.portOf uid && e.2.phase == .running)).map
    Prod.fst).filter (fun v => lexLt (s.portKey v) (s.portKey uid))).foldl (fun l v => s.insertTeam v l) []

end Sys2Proof.Machine
end

