-- ==== Sys2Proof/Machine/Debug.lean ====
section
/-! DEFINITION. The stall account, samples, and the frames that a wringer writes to its sink (R268, R270, R271, R401 to R405). -/

namespace Sys2Proof.Machine

/-! ### The stall account (R270, R271) -/

/-- The teams of a port that have started and not ended. -/
def State.residents (s : State) (core port : Nat) : List Nat :=
  ((uidsOf core).filter (fun u => Machine.portOf u == port)).filter (fun u => match (s.teams.get u).phase with
    | .running | .replay | .halted => true
    | _ => false)

/-- The oldest of some teams: the one started earliest, and of those the one in the lowest slot. -/
def State.oldest (s : State) : List Nat → Option Nat
  | [] => none
  | u :: r => match s.oldest r with
    | none => some u
    | some v => if (s.teams.get v).place.started < (s.teams.get u).place.started then some v else some u

/-- Add 1 to a counter of a port. -/
def Core.count (c : Core) (port k : Nat) : Core := { c with account := c.account.set (port * 32 + k) (c.account.get (port * 32 + k) + 1) }

/-- STALL_ACCOUNT_CLOCK: a port counts one clock of its die; its teams' counts towards promotion go on or start again (R268). -/
def execStallAccountClock (core port : Nat) (s : State) : Out :=
  s.event (fun s =>
    let l := s.residents core port
    let able := l.filter (fun u => (s.reasonOf u).isNone)
    let s1 := s.modCore core (fun c => c.count port able.length)
    let s2 := if l.isEmpty then s1.modCore core (fun c => c.count port 20)
      else if able.isEmpty then match (s.oldest l).bind s.reasonOf with
        | some r => s1.modCore core (fun c => c.count port (9 + r))
        | none => s1
      else s1
    let clocks := ((List.range 9).map (fun k => (s2.cores.get core).account.get (port * 32 + k))).sum
    let s3 := s2.modDie (dieOfCore core) (fun d => if d.clk < clocks then { d with clk := clocks } else d)
    l.foldl (fun s u => s.modTeam u (fun t =>
      if able.contains u then { t with eligible := t.eligible + 1 } else { t with eligible := 0, promoted := none })) s3)

/-- TEAM_PROMOTION: a team that has been eligible for 896 clocks without issuing is promoted (R268). -/
def execTeamPromotion (uid : Nat) (s : State) : Out :=
  s.event (fun s =>
    let t := s.teams.get uid
    if 896 ≤ t.eligible ∧ t.promoted = none ∧ (s.reasonOf uid).isNone ∧ t.phase = .running then
      s.putTeam uid { t with promoted := some (s.dies.get (dieOf uid)).clk }
    else s)

/-- Whether a port's sample period is over since its latest sample, where that was of the same period (R401). (DEDUCED, log entry 57) -/
def State.sampleDue (s : State) (core port sper : Nat) : Bool :=
  let last := (s.cores.get core).sampled.get port
  last.1 == 0 || last.2 != sper || decide (last.1 + 2 ^ (sper + 10) ≤ (s.dies.get (dieOfCore core)).clk + 1)

/-- TRACE_SAMPLE: a port's sample names its oldest resident team. -/
def execTraceSample (core port : Nat) (s : State) : Out :=
  s.event (fun s =>
    let l := s.residents core port
    match s.oldest l with
    | none => s
    | some u =>
      let t := s.teams.get u
      let sper := ((s.ctxOf t).dbgctl.extractLsb' 4 4).toNat
      if (s.ctxOf t).dbgctl.getLsbD 2 && s.sampleDue core port sper then
        let able := l.filter (fun u => (s.reasonOf u).isNone)
        let reason := if able.isEmpty then (s.reasonOf u).getD 0xFF else 0xFF
        let s1 := s.modCore core (fun c => { c with sampled := c.sampled.set port ((s.dies.get (dieOfCore core)).clk + 1, sper) })
        s1.trace (dieOfCore core) { kind := 2, loc := whereOf u, data := BitVec.ofNat 32 (reason * 256 + able.length),
                                    pc := t.flow.pos.pc, regions := regionsOf t.flow }
      else s)

/-! ### The coding of frames (R403) -/

/-- LEB128. -/
def leb128 : Nat → Nat → List Byte
  | 0, _ => []
  | n + 1, x => if x < 128 then [BitVec.ofNat 8 x] else BitVec.ofNat 8 (128 + x % 128) :: leb128 n (x / 128)

/-- The zigzag code of a difference. -/
def zigzag (x : Int) : Nat := if 0 ≤ x then 2 * x.toNat else 2 * (-x).toNat - 1

/-- What the coder of a frame has seen: the previous record and the PCs coded literally. -/
structure Coder where
  prev : TraceRec
  pcs : List W64
  deriving Repr

/-- The parts of a record's first eight bytes. -/
def TraceRec.head (r : TraceRec) : List Byte := r.bytes.take 8

/-- The coding of a PC: the same as before; or, as the hardware chooses, a delta, an index into the list where it stands there,
or literally. -/
def pcCoding (c : Coder) (pc : W64) (pick : Nat) : Nat × List Byte × List W64 :=
  let delta : Nat × List Byte × List W64 := (2, leb128 10 (zigzag (pc - c.prev.pc).toInt), c.pcs)
  let full : Nat × List Byte × List W64 := (0, leBytes 8 pc.toNat, c.pcs ++ [pc])
  if pc = c.prev.pc then (1, [], c.pcs)
  else match c.pcs.idxOf? pc with
    | some k => if k < 256 ∧ pick % 3 = 0 then (3, [BitVec.ofNat 8 k], c.pcs) else if pick % 3 = 1 then delta else full
    | none => if pick % 2 = 0 then delta else full

/-- One record after the first. -/
def codeNext (c : Coder) (r : TraceRec) (pick : Nat) : List Byte × Coder :=
  let same (b : Bool) (k : Nat) : Nat := if b then 2 ^ k else 0
  let h := decide (r.head = c.prev.head)
  let g := decide (r.regions = c.prev.regions)
  let p := decide (r.payload = c.prev.payload)
  let b := decide (r.bound % 65536 = c.prev.bound % 65536)
  let (code, pc, pcs) := pcCoding c r.pc pick
  let ctl := same h 0 + 2 * code + same g 3 + same p 4 + same b 5
  (leBytes 1 ctl ++ (if h then [] else r.head) ++ pc ++ (if g then [] else leBytes 8 r.regions.toNat) ++
    (if p then [] else leBytes 8 r.payload.toNat) ++ (if b then [] else leBytes 2 r.bound) ++
    leb128 10 (zigzag ((r.time % 2 ^ 48 : Nat) - (c.prev.time % 2 ^ 48 : Nat))),
   ⟨r, pcs⟩)

/-- The first record of a frame: every field literally. -/
def codeFirst (r : TraceRec) : List Byte × Coder :=
  (leBytes 1 0 ++ r.head ++ leBytes 8 r.pc.toNat ++ leBytes 8 r.regions.toNat ++ leBytes 8 r.payload.toNat ++ leBytes 2 r.bound ++
    leb128 10 (zigzag ((r.time % 2 ^ 48 : Nat) : Int)), ⟨r, [r.pc]⟩)

/-- Code records for as long as they fit: the bytes, how many records they are, and the records left. -/
def codeRest (s : State) (c : Coder) (room : Nat) : List TraceRec → List Byte × Nat × List TraceRec
  | [] => ([], 0, [])
  | r :: rest =>
    let (b, c1) := codeNext c r (Config.freeNat s.freeCtr (16 + rest.length))
    if room < b.length then ([], 0, r :: rest)
    else
      let (bs, n, left) := codeRest s c1 (room - b.length) rest
      (b ++ bs, n + 1, left)

/-- A frame that follows a drop or does not, of some records, the first of which always fits. -/
def State.frame (s : State) (die : Nat) (drop : Bool) : List TraceRec → List Byte × List TraceRec
  | [] => ([], [])
  | r :: rest =>
    let (b, c) := codeFirst r
    let (bs, n, left) := codeRest s c (4080 - b.length) rest
    let body := b ++ bs
    (leBytes 2 1 ++ leBytes 1 die ++ leBytes 1 (if drop then 1 else 0) ++ leBytes 4 (s.dies.get die).frames ++ leBytes 2 (n + 1)
      ++ leBytes 2 (16 + body.length) ++ leBytes 4 0 ++ body ++ List.replicate (4080 - body.length) 0, left)

/-! ### The sink ring (R404) -/

/-- WRINGER_FRAME: a die's wringer makes a frame of the records it has received, and writes it to the die's sink ring or drops
it whole. (DEDUCED, log entry 58) -/
def execWringerFrame (die : Nat) (s : State) : Out :=
  s.event (fun s =>
    let d := s.dies.get die
    if d.trace = [] ∨ d.sink = 0 then s
    else
      let head := s.loadNum d.sink 4
      let tail := s.loadNum (d.sink + 4) 4
      let cap := s.loadNum (d.sink + 12) 4
      let stop := s.loadNum (d.sink + 16) 1 = 1
      let after := decide (d.drops ≠ 0)
      let counter : TraceRec := { kind := 6, loc := die * 2 ^ 13, data := BitVec.ofNat 32 d.drops, payload := BitVec.ofNat 64 d.recDrops,
                                  time := s.stampTime die, bound := d.bound }
      let (bytes, left) := s.frame die after (if after then counter :: d.trace else d.trace)
      let taken := d.trace.length - left.length
      if (tail + 2 ^ 32 - head) % 2 ^ 32 = cap ∨ d.sinkStopped then
        let n := s.loadNum (d.sink + 8) 4
        let s1 := (s.homeNum (d.sink + 8) 4 (if n < 2 ^ 32 - 1 then n + 1 else n)).modDie die (fun d =>
          { d with trace := left, frames := d.frames + 1, drops := d.drops + 1, recDrops := d.recDrops + taken,
                   sinkStopped := d.sinkStopped || decide stop })
        if stop ∨ d.sinkStopped then s1.raise 3 else s1
      else
        ((s.homeBytes (d.sink + 4096 + 4096 * (tail % cap)) bytes).homeNum (d.sink + 4) 4 ((tail + 1) % 2 ^ 32)).modDie die (fun d =>
          { d with trace := left, frames := d.frames + 1, drops := 0, recDrops := 0 }))

end Sys2Proof.Machine
end

