-- ==== Sys2Proof/Machine/Float.lean ====
section
/-! DEFINITION. Float vector words and conversions (R114 to R124). -/

namespace Sys2Proof.Machine

/-- FADD (R117, R119). -/
def execFadd (d a b : BitVec 6) (k : BitVec 2) (g : BitVec 1) (t : BitVec 3) (s : State) : Out :=
  s.runWord (.fadd d a b k g t) (fun w s => w.fltWord s d a b k t (fun f x y _ =>
    w.saturated f (f.add (w.rm s) (w.ftz s) x y)))

/-- FSUB (R117, R119). -/
def execFsub (d a b : BitVec 6) (k : BitVec 2) (g : BitVec 1) (t : BitVec 3) (s : State) : Out :=
  s.runWord (.fsub d a b k g t) (fun w s => w.fltWord s d a b k t (fun f x y _ =>
    w.saturated f (f.sub (w.rm s) (w.ftz s) x y)))

/-- FMUL (R117, R119). -/
def execFmul (d a b : BitVec 6) (k : BitVec 2) (g : BitVec 1) (t : BitVec 3) (s : State) : Out :=
  s.runWord (.fmul d a b k g t) (fun w s => w.fltWord s d a b k t (fun f x y _ =>
    w.saturated f (f.mul (w.rm s) (w.ftz s) x y)))

/-- FFMA (R117 to R119). -/
def execFfma (d a b : BitVec 6) (k : BitVec 2) (g : BitVec 1) (t : BitVec 3) (s : State) : Out :=
  s.runWord (.ffma d a b k g t) (fun w s => w.fltWord s d a b k t (fun f x y c =>
    w.saturated f (f.fma (w.rm s) (w.ftz s) x y c)))

/-- FMIN (R117, R118). -/
def execFmin (d a b : BitVec 6) (k : BitVec 2) (g : BitVec 1) (t : BitVec 3) (s : State) : Out :=
  s.runWord (.fmin d a b k g t) (fun w s => w.fltWord s d a b k t (fun f x y _ =>
    f.minMax false (w.ftz s) x y))

/-- FMAX (R117, R118). -/
def execFmax (d a b : BitVec 6) (k : BitVec 2) (g : BitVec 1) (t : BitVec 3) (s : State) : Out :=
  s.runWord (.fmax d a b k g t) (fun w s => w.fltWord s d a b k t (fun f x y _ =>
    f.minMax true (w.ftz s) x y))

/-- FCPSGN (R117, R118). -/
def execFcpsgn (d a b : BitVec 6) (k : BitVec 2) (g : BitVec 1) (t : BitVec 3) (s : State) : Out :=
  s.runWord (.fcpsgn d a b k g t) (fun w s => w.fltWord s d a b k t (fun f x y _ =>
    f.copySign x y))

/-- FDIV (R117). -/
def execFdiv (d a b : BitVec 6) (k : BitVec 2) (g : BitVec 1) (t : BitVec 3) (s : State) : Out :=
  s.runWord (.fdiv d a b k g t) (fun w s => w.fltWord s d a b k t (fun f x y _ =>
    f.div (w.rm s) (w.ftz s) x y))

/-- FRND (R117, R118). -/
def execFrnd (d a : BitVec 6) (g : BitVec 1) (t : BitVec 3) (s : State) : Out :=
  s.runWord (.frnd d a g t) (fun w s => w.fltWord1 s d a t (fun f x => f.rnd (w.rm s) (w.ftz s) x))

/-- FSQRT (R117, R121). -/
def execFsqrt (d a : BitVec 6) (g : BitVec 1) (t : BitVec 3) (s : State) : Out :=
  s.runWord (.fsqrt d a g t) (fun w s => w.fltWord1 s d a t (fun f x => f.sqrt (w.rm s) (w.ftz s) x))

/-- FRCP (R117, R120, R121). -/
def execFrcp (d a : BitVec 6) (g : BitVec 1) (t : BitVec 3) (s : State) : Out :=
  s.runWord (.frcp d a g t) (fun w s => w.fltWord1 s d a t (fun f x => f.special 0 (w.ftz s) x))

/-- FRSQ (R117, R120, R121). -/
def execFrsq (d a : BitVec 6) (g : BitVec 1) (t : BitVec 3) (s : State) : Out :=
  s.runWord (.frsq d a g t) (fun w s => w.fltWord1 s d a t (fun f x => f.special 1 (w.ftz s) x))

/-- FEXP2 (R117, R120, R121). -/
def execFexp2 (d a : BitVec 6) (g : BitVec 1) (t : BitVec 3) (s : State) : Out :=
  s.runWord (.fexp2 d a g t) (fun w s => w.fltWord1 s d a t (fun f x => f.special 2 (w.ftz s) x))

/-- FLOG2 (R117, R120, R121). -/
def execFlog2 (d a : BitVec 6) (g : BitVec 1) (t : BitVec 3) (s : State) : Out :=
  s.runWord (.flog2 d a g t) (fun w s => w.fltWord1 s d a t (fun f x => f.special 3 (w.ftz s) x))

/-- FSIN (R117, R120, R121). -/
def execFsin (d a : BitVec 6) (g : BitVec 1) (t : BitVec 3) (s : State) : Out :=
  s.runWord (.fsin d a g t) (fun w s => w.fltWord1 s d a t (fun f x => f.special 4 (w.ftz s) x))

/-- FCOS (R117, R120, R121). -/
def execFcos (d a : BitVec 6) (g : BitVec 1) (t : BitVec 3) (s : State) : Out :=
  s.runWord (.fcos d a g t) (fun w s => w.fltWord1 s d a t (fun f x => f.special 5 (w.ftz s) x))

/-- FCMP (R122). -/
def execFcmp (c m : BitVec 3) (a b : BitVec 6) (k : BitVec 2) (g : BitVec 1) (t : BitVec 3) (s : State) : Out :=
  s.runWord (.fcmp c m a b k g t) (fun w s =>
    let f := fltFmt t
    let one (l : Nat) : Bool × FFlags := f.compare c (w.ftz s)
      ((w.vec a.toNat (fltCnt t) l).toNat % 2 ^ f.width) ((w.fltB b k t l).toNat % 2 ^ f.width)
    let r := maskOf w.width (fun l => w.mask.getLsbD l && (one l).1)
    .next ((s.withRegs (fun x => x.writeM w.width m.toNat r)).raiseFlags
      (w.lanes.foldl (fun fl l => fl ||| (one l).2) 0)))

/-- Element h of the source of FCVT in one lane, and the elements of its result (R123). -/
def fcvtLane (w : Wd) (s : State) (a : BitVec 6) (t sty : BitVec 3) (l : Nat) : W64 × FFlags :=
  let f := fltFmt sty
  let e := fltFmt t
  let cv (x : Nat) : FRes := w.saturated e (f.convert e (w.rm s) (w.ftz s) x)
  if sty = 0 ∧ e.width = 16 then
    let p := cv (w.r.readV a.toNat l).toNat
    let q := cv (w.r.readV (a.toNat + 1) l).toNat
    (BitVec.ofNat 64 (p.1 + 65536 * q.1), p.2 ||| q.2)
  else
    let x := w.vec a.toNat (fltCnt sty) l
    if f.width = 16 ∧ t = 0 then
      let p := cv (half x 0)
      let q := cv (half x 1)
      (BitVec.ofNat 64 (p.1 + 2 ^ 32 * q.1), p.2 ||| q.2)
    else if f.width = 16 then
      let p := cv (half x 0)
      let q := cv (half x 1)
      (BitVec.ofNat 64 (p.1 + 65536 * q.1), p.2 ||| q.2)
    else
      let p := cv (x.toNat % 2 ^ f.width)
      (BitVec.ofNat 64 p.1, p.2)

/-- FCVT (R119, R123). -/
def execFcvt (d a : BitVec 6) (sty : BitVec 3) (g : BitVec 1) (t : BitVec 3) (s : State) : Out :=
  s.runWord (.fcvt d a sty g t) (fun w s => .next (w.putFlt s d (fcvtCnt t sty).1 (fcvtLane w s a t sty)))

/-- CVTI (R123). -/
def execCvti (d a : BitVec 6) (sty : BitVec 3) (g : BitVec 1) (t : BitVec 3) (s : State) : Out :=
  s.runWord (.cvti d a sty g t) (fun w s =>
    let f := fltFmt sty
    let wd := tyWidth t
    let lo : Int := if tySigned t then -(2 ^ (wd - 1)) else 0
    let hi : Int := if tySigned t then 2 ^ (wd - 1) - 1 else 2 ^ wd - 1
    .next (w.putFlt s d (intCnt t) (fun l =>
      let r := f.toInt (w.rm s) (w.ftz s) lo hi ((w.vec a.toNat (fltCnt sty) l).toNat % 2 ^ f.width)
      (BitVec.ofNat 64 (wrap wd r.1), r.2))))

/-- CVTF (R123). -/
def execCvtf (d a : BitVec 6) (sty : BitVec 3) (g : BitVec 1) (t : BitVec 3) (s : State) : Out :=
  s.runWord (.cvtf d a sty g t) (fun w s =>
    .next (w.putFlt s d (fltCnt t) (fun l =>
      let wd := tyWidth sty
      let r := (fltFmt t).ofInt (w.rm s) (w.ftz s)
        (ordered (tySigned sty) wd ((w.vec a.toNat (intCnt sty) l).toNat % 2 ^ wd))
      (BitVec.ofNat 64 r.1, r.2))))

/-- FCLASS (R124). -/
def execFclass (d a : BitVec 6) (g : BitVec 1) (t : BitVec 3) (s : State) : Out :=
  s.runWord (.fclass d a g t) (fun w s =>
    .next (w.putVec s d 1 (fun l =>
      (liftFlt t (fun f x _ _ => (f.classOf x, 0)) (w.vec a.toNat (fltCnt t) l) 0 0).1)))

end Sys2Proof.Machine
end

