-- ==== Sys2Proof/Machine/Preempt.lean ====
section
/-! DEFINITION. Pre-emption: drain, save, forced reset and restore (R22, R29, R306, R327, R349, R354, R365 to R369). -/

namespace Sys2Proof.Machine

/-- The bound workgroups of a context. -/
def State.ctxWgs (s : State) (ctx : Nat) : List (Nat × Wg) :=
  s.wgs.entries.filter (fun w => w.2.bound && (s.grids.get w.2.grid).ctx == ctx)

/-- The cores that hold a member of a gang of which some core of the set holds one. -/
def State.widenOnce (s : State) (ctx : Nat) (cores : List Nat) : List Nat :=
  let l := s.ctxWgs ctx
  (cores ++ (l.filter (fun w => l.any (fun v => cores.contains v.2.core && v.2.grid == w.2.grid &&
    (s.grids.get w.2.grid).groupOf v.2.index == (s.grids.get w.2.grid).groupOf w.2.index))).map (fun w => w.2.core)).eraseDups

def State.widen (s : State) (ctx : Nat) : Nat → List Nat → List Nat
  | 0, l => l
  | n + 1, l => s.widen ctx n (s.widenOnce ctx l)

/-- The teams of a context that hold a slot of a core. -/
def State.ctxTeams (s : State) (ctx core : Nat) : List Nat :=
  (uidsOf core).filter (fun u => (s.teams.get u).phase ≠ .unbound && (s.teams.get u).place.ctx == ctx)

/-- The state as it would be with nothing of a context on some cores. -/
def State.without (s : State) (ctx : Nat) (cores : List Nat) : State :=
  let l := (s.ctxWgs ctx).filter (fun w => cores.contains w.2.core)
  let s1 := (cores.flatMap (s.ctxTeams ctx)).foldl State.freeSlot s
  l.foldl (fun s w => (s.modCore w.2.core (fun c => { c with ways := c.ways - w.2.ways })).putWg w.1 { w.2 with bound := false }) s1

/-- Whether a set of cores of a context is what some grid of a higher class needs: it cannot be bound now, it could be with the set free of
that context, and with one core fewer it could not (R275). (DEDUCED, log entry 49) -/
def State.needs (s : State) (ctx : Nat) (cores : List Nat) : Bool :=
  s.grids.entries.any (fun h => h.2.phase == .running && h.2.ctx ≠ ctx &&
    (s.ctxWgs ctx).all (fun w => !cores.contains w.2.core || decide (h.2.launch.prio < (s.grids.get w.2.grid).launch.prio)) &&
    !s.couldBind h.1 && (s.without ctx cores).couldBind h.1 &&
    cores.all (fun k => !(s.without ctx (cores.filter (· ≠ k))).couldBind h.1))

/-- PREEMPTION_DECISION: the firmware pre-empts a context on the cores that are needed, widened to whole gangs; the drain begins, on the
synchronised time of each die (R275, R365). (DEDUCED, log entry 49) -/
def execPreemptionDecision (ctx : Nat) (cores : List Nat) (s : State) : Out :=
  s.fwEvent (fun s =>
    let c := s.ctxs.get ctx
    if (c.state = 1 ∨ c.state = 2) ∧ c.ladder = .none ∧ cores.all (fun k => decide (k < 96)) = true ∧ s.needs ctx cores = true then
      s.putCtx ctx { c with ladder := .drain (s.widen ctx 96 cores.eraseDups) ((List.range 8).map s.stampTime) }
    else s)

/-- Whether cores hold nothing of a context: no bound workgroup, and no slot kept for an inherited range. -/
def State.drained (s : State) (ctx : Nat) (cores : List Nat) : Bool :=
  cores.all (fun k => (uidsOf k).all (fun u => (s.teams.get u).phase == .unbound || (s.teams.get u).place.ctx ≠ ctx))

/-- Whether cores of a set lie on a die. -/
def onDie (cores : List Nat) (die : Nat) : Bool := cores.any (fun k => dieOfCore k == die)

/-- The time at which a step of the ladder that lasts some microseconds is over, on each die. -/
def deadlines (since : List Nat) (us : Nat) : List Nat := since.map (· + 4000 * us)

/-- DRAIN_DEADLINE: the drain ends, with the cores empty or when DRAIN passes on a die; then the save begins, or a context without a save
area is reset. (DEDUCED, log entry 49) -/
def execDrainDeadline (ctx die : Nat) (s : State) : Out :=
  s.fwEvent (fun s =>
    let c := s.ctxs.get ctx
    match c.ladder with
    | .drain cores since =>
      let ends := deadlines since c.cfg.drain
      if s.drained ctx cores then s.putCtx ctx { c with ladder := .none }
      else if onDie cores die ∧ ends.getD die 0 ≤ s.stampTime die then
        (if c.cfg.saveArea = 0 then s.forceReset ctx else s.putCtx ctx { c with ladder := .save cores [] ends })
      else s
    | _ => s)

/-! ### The save area (R367) -/

/-- The start of a core's area. -/
def areaOf (base core : Nat) : Nat := base + core * 0x2280000

/-- A multiple of 4 KiB. -/
def page4 (n : Nat) : Nat := (n + 4095) / 4096 * 4096

/-- A mask with its summary. -/
def maskBytes (m : Mask) : List Byte := (List.range 32).flatMap (fun j => leBytes 4 (maskWord m j).toNat) ++ leBytes 4 (maskSummary m).toNat ++ leBytes 4 0

/-- A section whose inside the spec leaves to the part. -/
def freeSection {α : Type} (kind n : Nat) (content : α) : List Byte := (List.range n).map (Config.saveImage kind content)

/-- The sections of a team's record: offset and bytes. (DEDUCED, log entry 49) -/
def State.teamSections (s : State) (uid : Nat) : List (Nat × List Byte) :=
  let t := s.teams.get uid
  let r := t.regs
  let w := t.place.width
  let v := 0x6000
  let i := v + page4 (4 * t.place.vregs * w)
  let tr := i + page4 (80 * w)
  let m := tr + page4 (64 * w)
  [(0, (List.range 64).flatMap (fun k => leBytes 8 (r.readS k).toNat)),
   (0x200, (List.range 32).flatMap (fun k => leBytes 8 (r.readABase k).toNat ++ leBytes 4 (r.readAStride k).toNat ++ leBytes 4 0)),
   (0x400, maskBytes t.flow.active ++ (List.range 8).flatMap (fun k => maskBytes (r.readM k))),
   (0x900, freeSection 0 (32 * 160) t.flow.dstack),
   (0x1D00, freeSection 1 0x40 (t.flow.rstack, t.flow.rovf)),
   (0x1D40, freeSection 2 0x80 (t.seam, t.seamCnt, t.wr, t.rbw)),
   (0x1DC0, freeSection 3 0x200 (t.sys, t.race, t.copy, t.arrivals, t.trap.contpc)),
   (0x1FC0, freeSection 4 0x140 t.lf),
   (0x2100, freeSection 5 0x1500 t.trap.handler),
   (0x3600, freeSection 5 0x1500 t.trap.cont),
   (0x4B00, t.trap.record.flatMap (fun x => leBytes 8 x.toNat)),
   (v, (List.range t.place.vregs).flatMap (fun k => (List.range w).flatMap (fun l => leBytes 4 (r.readV k l).toNat))),
   (i, (List.range 4).flatMap (fun k => (List.range w).flatMap (fun l =>
     let x := r.readI k l
     leBytes 4 x.status.toNat ++ leBytes 8 x.mask.toNat ++ leBytes 4 x.px.toNat ++ leBytes 4 x.py.toNat))),
   (tr, (List.range w).flatMap (fun l => leBytes 64 (t.trav.lanes.get l).toNat))] ++
  (match s.sliceOf uid with
   | none => []
   | some k =>
     let x := s.slice (coreOf uid) k
     let acc (a : SMap (0#32)) : List Byte := (List.range 16384).flatMap (fun j => leBytes 4 (a.get j).toNat)
     [(m, acc x.acc0), (m + 0x10000, acc x.acc1), (m + 0x20000, (List.range 16384).flatMap (fun j => leBytes 2 (x.press.get j).toNat)),
      (m + 0x28000, freeSection 6 0x1000 (x.pvalid, x.pfmt, x.op0, x.op1))])

/-- The bytes of a team's record. -/
def State.recordSize (s : State) (uid : Nat) : Nat :=
  let t := s.teams.get uid
  0x6000 + page4 (4 * t.place.vregs * t.place.width) + page4 (80 * t.place.width) + page4 (64 * t.place.width) +
    (if (s.sliceOf uid).isSome then 164 * 1024 else 0)

/-- Write the records of some teams of a port, each on the 4 KiB boundary after the one before. -/
def State.writeRecords (s : State) (a : Nat) : List Nat → State
  | [] => s
  | u :: rest =>
    let s1 := (s.teamSections u).foldl (fun s p => s.homeBytes (a + p.1) p.2) s
    s1.writeRecords (a + page4 (s.recordSize u)) rest

/-- Write the stash images of workgroups, one after another. -/
def State.writeImages (s : State) (a : Nat) : List Nat → State
  | [] => s
  | key :: rest =>
    let w := s.wgs.get key
    (s.homeBytes a (w.stashBytes 0 (49152 * w.ways))).writeImages (a + 49152 * w.ways) rest

/-- Put a workgroup into a list by its first slot. -/
def State.insertWg (s : State) (key : Nat) : List Nat → List Nat
  | [] => [key]
  | k :: rest => if (s.wgs.get key).slots.headD 0 < (s.wgs.get k).slots.headD 0 then key :: k :: rest else k :: s.insertWg key rest

/-- The 16 KiB of a queue: its entries, oldest first, and then their count. -/
def queueImage (q : Queue) : List Byte :=
  let l := q.entries.flatMap (fun e => e)
  l ++ freeSection 7 (0x4000 - l.length) q.entries.length

/-- Write a core's area: the sections of its teams' records, the producer slot, the stashes and their map states, the queues and the
barriers; the rest of the area holds what the spec leaves unspecified (R367). (DEDUCED, log entry 49) -/
def State.writeArea (s : State) (ctx base core : Nat) (uids wgs : List Nat) : State :=
  let a := areaOf base core
  let order := wgs.foldl (fun l k => s.insertWg k l) []
  let queues := (List.range 8).map (fun k => let q := s.queue core k; if q.who.ctx = ctx then q else {})
  let s1 := s.homeBytes a ((List.range 0x2280000).map (fun i => Config.freeByte s.freeCtr (a + i)))
  let s2 := (List.range 8).foldl (fun s p => s.writeRecords (a + 0x400000 * p) (uids.filter (fun u => Machine.portOf u == p))) s1
  let s3 := (s2.homeBytes (a + 0x2000000) (freeSection 8 0x80000 queues)).writeImages (a + 0x2080000) order
  let s4 := s3.homeBytes (a + 0x2200000) (freeSection 9 0x10000 (order.map (fun k => (s.wgs.get k).ranges)))
  let s5 := (List.range 8).foldl (fun s k => s.homeBytes (a + 0x2210000 + 0x4000 * k) (queueImage (queues.getD k {}))) s4
  s5.homeBytes (a + 0x2230000) (freeSection 10 0x10000 (order.map (fun k =>
    let w := s.wgs.get k
    (w.bars, (s.grids.get w.grid).clBars, (s.grids.get w.grid).gridBars))))

/-! ### Saving (R306, R327, R349, R354, R365, R366) -/

/-- Roll the running teams of a list back to their seams; none while a word must complete first. -/
def State.rollAll (s : State) : List Nat → Option State
  | [] => some s
  | u :: rest =>
    if (s.teams.get u).phase = .running then
      (match s.rollback u true with
       | some s1 => s1.rollAll rest
       | none => none)
    else s.rollAll rest

/-- Write the dirty mapped lines of a workgroup back; they return invalid (R183). -/
def State.cleanStash (s : State) (key : Nat) : State :=
  let w := s.wgs.get key
  w.ranges.keys.foldl (fun s n =>
    let x := w.ranges.get n
    (List.range x.lines).foldl (fun s k => if x.state.get k ≤ 1 then s else s.recallLine key n k) s) s

/-- Save one core: its teams go back to their seams, its area is written, and its workgroups, the slots kept for inherited ranges and the
streams that workgroups have left move out. -/
def State.saveCore (s : State) (ctx core : Nat) : Option State :=
  let wgs := ((s.ctxWgs ctx).filter (fun w => w.2.core == core)).map Prod.fst
  match s.rollAll (s.ctxTeams ctx core) with
  | none => none
  | some s1 =>
    let s2 := wgs.foldl State.cleanStash s1
    let s3 := s2.writeArea ctx (s2.ctxs.get ctx).cfg.saveArea core (s2.ctxTeams ctx core) wgs
    let s4 := wgs.foldl (fun s key => s.wgOut ctx key) s3
    some (((s4.ctxTeams ctx core).foldl (fun s u => s.teamOut ctx u) s4).queuesOut ctx core (fun q => q.who.ctx == ctx))

def State.saveCores (s : State) (ctx : Nat) : List Nat → Option State
  | [] => some s
  | k :: rest => match s.saveCore ctx k with
    | none => none
    | some s1 => s1.saveCores ctx rest

/-- SAVE_COMPLETE: every core of a die has written its area, within SAVE of the deadline; with the last die the save ends. Where the die is
too late, the context is reset (R365, R368). -/
def execSaveComplete (ctx die : Nat) (s : State) : Out :=
  s.fwEvent (fun s =>
    let c := s.ctxs.get ctx
    match c.ladder with
    | .save cores done since =>
      if done.contains die ∨ onDie cores die = false then s
      else if (deadlines since c.cfg.save).getD die 0 < s.stampTime die then s.forceReset ctx
      else match s.saveCores ctx (cores.filter (fun k => dieOfCore k == die)) with
        | none => s
        | some s1 =>
          let all := cores.all (fun k => (die :: done).contains (dieOfCore k))
          s1.modCtx ctx (fun c => { c with ladder := if all then .saved cores else .save cores (die :: done) since })
    | _ => s)

/-- SAVE_DEADLINE: SAVE passes on a die before its save has ended; the context is reset (R368). -/
def execSaveDeadline (ctx : Nat) (s : State) : Out :=
  s.fwEvent (fun s =>
    let c := s.ctxs.get ctx
    match c.ladder with
    | .save cores done since =>
      let ends := deadlines since c.cfg.save
      if (List.range 8).any (fun d => onDie cores d && !done.contains d && decide (ends.getD d 0 ≤ s.stampTime d)) then s.forceReset ctx
      else s
    | _ => s)

/-! ### Restoring (R22, R369) -/

/-- Put a saved queue back into a free queue of its core, and bind its ports to it. -/
def State.queueBack (s : State) (ctx core key k : Nat) : State :=
  match s.savedQueues.get (savedKey ctx (core * 8 + k)) with
  | none => s
  | some q =>
    if q.wg ≠ key then s
    else match (k :: List.range 8).find? (fun j => !(s.queue core j).bound) with
      | none => s
      | some j =>
        (({ s with savedQueues := s.savedQueues.drop (savedKey ctx (core * 8 + k)) }).putQueue core j q).modWg key
          (fun w => { w with ports := ⟨w.ports.entries.map (fun (p : Nat × Nat) => if p.2 = k + 1 then (p.1, j + 1 + 8) else p)⟩ })

/-- Put the saved slices of some teams back into free slices of their core. -/
def State.sliceBack (s : State) (ctx core : Nat) (uids : List Nat) (k : Nat) : State :=
  match s.savedSlices.get (savedKey ctx (core * 8 + k)) with
  | none => s
  | some x =>
    match x.owner with
    | none => s
    | some u =>
      if !uids.contains u then s
      else match (k :: List.range 6).find? (fun j => (s.slice core j).owner.isNone) with
        | none => s
        | some j => ({ s with savedSlices := s.savedSlices.drop (savedKey ctx (core * 8 + k)) }).putSlice core j x

/-- Whether a core has the queues and slices that a saved workgroup needs. -/
def State.enginesFree (s : State) (ctx core key : Nat) (uids : List Nat) : Bool :=
  let qs := ((List.range 8).filter (fun k => match s.savedQueues.get (savedKey ctx (core * 8 + k)) with | some q => q.wg == key | none => false)).length
  let xs := ((List.range 6).filter (fun k => match s.savedSlices.get (savedKey ctx (core * 8 + k)) with
    | some x => (match x.owner with | some u => uids.contains u | none => false) | none => false)).length
  decide (qs ≤ ((List.range 8).filter (fun k => !(s.queue core k).bound)).length) &&
  decide (xs ≤ ((List.range 6).filter (fun k => (s.slice core k).owner.isNone)).length)

/-- Put the saved streams of retired workgroups of a context back into free queues of their core: they run on (R317, R327). -/
def State.streamsBack (s : State) (ctx core : Nat) : State :=
  (List.range 8).foldl (fun s k =>
    let key := savedKey ctx (core * 8 + k)
    match s.savedQueues.get key with
    | none => s
    | some q =>
      if (s.wgs.get q.wg).saved then s
      else match (k :: List.range 8).find? (fun j => !(s.queue core j).bound) with
        | none => s
        | some j => ({ s with savedQueues := s.savedQueues.drop key }).putQueue core j q) s

/-- End the ladder once nothing of the context is left in its save area. -/
def State.allBack (s : State) (ctx : Nat) : State :=
  if s.savedTeams.keys.any (fun k => k / 2 ^ 16 == ctx) || s.savedQueues.keys.any (fun k => k / 2 ^ 16 == ctx) then s
  else s.modCtx ctx (fun c => { c with ladder := .none })

/-- Put saved teams back into their slots, whose requests go on being numbered. -/
def State.teamsBack (s : State) (ctx : Nat) (uids : List Nat) : State :=
  uids.foldl (fun s u => match s.savedTeams.get (savedKey ctx u) with
    | some t =>
      let n := (s.teams.get u).nextSeq
      let n := if t.nextSeq < n then n else t.nextSeq
      (({ s with savedTeams := s.savedTeams.drop (savedKey ctx u) }).putTeam u { t with nextSeq := n, seamSeq := n }).haltAtSeam u
    | none => s) s

/-- Put a saved workgroup back on its core: its ways, its teams, its queues and its slices (R22, R306, R327, R369). -/
def State.wgBack (s : State) (ctx core key : Nat) (uids : List Nat) (hold : Bool) : State :=
  let s1 := (s.teamsBack ctx uids).takeWays core (s.wgs.get key).ways
  let s2 := (List.range 8).foldl (fun s k => s.queueBack ctx core key k) s1
  let s3 := (List.range 6).foldl (fun s k => s.sliceBack ctx core uids k) s2
  s3.modWg key (fun w => { w with
    bound := true, saved := false, restored := true, hold := hold,
    ports := ⟨w.ports.entries.map (fun (p : Nat × Nat) => if 8 < p.2 then (p.1, p.2 - 8) else p)⟩ })

/-- CONTEXT_RESTORE: a bind record with RESTORE puts a saved workgroup, or the slots kept for an inherited range, back where they
were; each team resumes at its seam. The rejection of a record of a group withdraws the group (R22, R267, R369). -/
def execContextRestore (core : Nat) (rec0 : BindRec) (s : State) : Out :=
  s.fwEvent (fun s =>
    let ctx := rec0.ctx
    let grid := gridKey ctx rec0.lnum
    let key := wgKey grid rec0.wg
    let uids := rec0.slots.map (fun n => core * 64 + n)
    let inArea : Bool := match (s.ctxs.get ctx).ladder with | .saved cores => cores.contains core | _ => false
    if !rec0.restore || !inArea then s
    else
      let s := s.streamsBack ctx core
      let w := s.wgs.get key
      if w.core ≠ core || w.slots ≠ uids then s.allBack ctx
      else if (s.grids.get grid).heldWgs.contains rec0.wg then
        (if s.slotsFit ctx core uids then (s.teamsBack ctx uids).allBack ctx else s)
      else if !w.saved || !s.bindAllowed core rec0 then s.allBack ctx
      else if !s.slotsFit ctx core (uids.filter (fun u => !w.gone.contains u)) || decide (32 < (s.cores.get core).ways + w.ways) || !s.enginesFree ctx core key uids then
        (if rec0.hold then s.withdraw grid ((s.grids.get grid).groupOf rec0.wg) else s)
      else
        let s1 := s.wgBack ctx core key uids rec0.hold
        if s.keepsRoom s1 grid true then s1.allBack ctx else s)

end Sys2Proof.Machine
end

