-- ==== Sys2Proof/Machine/Host.lean ====
section
/-! DEFINITION. The world outside: registers and commands of the host, module reset, the host's accesses, links and routes that
fail, clocks and time (R163, R170, R173, R207, R208, R372, R392, R395, R404, R407 to R415, R419, R420, R422 to R424). -/

namespace Sys2Proof.Machine

/-! ### Registers of BAR0 (R407) -/

/-- What a host write leaves in a register that a host may write. A write of 0 to MBOXGO, also while a RESYNC is pending, changes nothing:
the device clears it. (DESIGN CHOICE, log entry 76) -/
def Hub.write (h : Hub) (offset value : Nat) : Hub :=
  if offset = 0x0040 then { h with cmdBase := value % 2 ^ 64 }
  else if offset = 0x0048 then { h with cmdCap := value % 2 ^ 32 }
  else if offset = 0x0050 then { h with cmdTail := value % 2 ^ 32 }
  else if offset = 0x0100 then { h with mbox := value % 2 ^ 64 }
  else if offset = 0x0108 then { h with mboxGo := h.mboxGo || decide (value % 2 = 1) }
  else h

/-- REGISTER_WRITE. -/
def execRegisterWrite (offset value : Nat) (s : State) : Out :=
  s.event (fun s => { s with hub := s.hub.write offset value })

/-! ### The host's accesses (R207) -/

/-- The contexts whose fault ring has its head in a line: what waits for room there is tried again when the host writes it (R172). -/
def State.ringCtxs (s : State) (line : Nat) : List Nat :=
  (s.ctxs.entries.filter (fun c => c.2.cfg.faultRing ≠ 0 && lineOf c.2.cfg.faultRing == line)).map Prod.fst

/-- HOST_ACCESS: an access of a host agent to bytes of one line, performed at the line's home; a stash that holds the line gives it back
first. A write is a plain store, which ends the line's release record (R372). (DEDUCED, log entry 47) (DESIGN CHOICE, log entry 70) -/
def execHostAccess (addr : Nat) (bytes : List (BitVec 8)) (write : Bool) (s : State) : Out :=
  s.event (fun s =>
    let line := lineOf addr
    if paReserved addr || decide (2 ^ 52 ≤ addr) || decide (128 < addr % 128 + bytes.length) then s
    else if !write then (s.handBack line).fillSectors addr bytes.length
    else
      let s1 := (((s.handBack line).storeSectors addr bytes.length).homeBytes addr bytes).putRelease line {}
      (s1.ringCtxs line).foldl State.flushFaults s1)

/-! ### Time and clocks (R392, R424) -/

/-- TIME_SYNC_EXCHANGE: a die learns how far its copy may lie from the master's time. The value itself is never stepped; how fast
it runs is free. -/
def execTimeSyncExchange (die reading bound : Nat) (s : State) : Out :=
  s.event (fun s =>
    let t := s.stampTime die
    if bound ≤ 12 ∧ t ≤ reading + bound ∧ reading ≤ t + bound ∧ t ≤ s.now + bound then
      s.modDie die (fun d => { d with time := t, bound := bound })
    else s)

/-- DOMAIN_TIME_EXCHANGE: the hub's exchange with the domain's time master; the master's rate, which the correction changes, is
free. -/
def execDomainTimeExchange (_slew bound : Nat) (locked : Bool) (s : State) : Out :=
  s.event (fun s =>
    if !s.hub.timeLock then s
    else { s with mod := { s.mod with dlock := locked && decide (bound ≤ 160), dbound := bound } })

/-- DVFS_CLOCK_CHANGE. -/
def execDvfsClockChange (die mhz : Nat) (s : State) : Out :=
  s.event (fun s => s.modDie die (fun d => if 800 ≤ mhz ∧ mhz ≤ 1900 then { d with mhz := mhz } else d))

/-- THERMAL_THROTTLE. -/
def execThermalThrottle (die mhz : Nat) (s : State) : Out :=
  s.event (fun s => s.modDie die (fun d => if 800 ≤ mhz ∧ mhz < d.mhz then { d with mhz := mhz } else d))

/-- THERMAL_SHUTDOWN. -/
def execThermalShutdown (s : State) : Out := s.event (fun s => { s with mod := { s.mod with powered := false } })

/-! ### Module reset (R422) -/

/-- The boot ROM's verdict on an image: 0 the hub's, 1 + d die d's. -/
def imageAt (images : List BootImage) (k : Nat) : BootImage := images.getD k ⟨false, 0, 0⟩

/-- BOOTSTAT after the boot. (DEDUCED, log entry 62) -/
def bootstat (images : List BootImage) : Nat :=
  (List.range 9).foldl (fun x k => if (imageAt images k).accepted then x else x + 2 ^ (8 + k))
    (if (imageAt images 0).accepted then 1 else 0)

/-- What memory holds after a module reset: the module's DRAM holds what the hardware left there. (DESIGN CHOICE, log entry 67) -/
def State.resetMem (s : State) : SMap (0xFF#8) :=
  s.mem.entries.foldl (fun (m : SMap (0xFF#8)) e =>
    m.set e.1 (if paModule e.1 ≠ s.hub.modid ∨ paHost e.1 then e.2 else Config.freeByte s.freeCtr e.1)) .empty

/-- MODULE_RESET: every register of the module at its reset value, every image verified and measured. -/
def execModuleReset (images : List BootImage) (s : State) : Out :=
  s.event (fun s =>
    let good := (List.range 9).filter (fun k => (imageAt images k).accepted)
    { State.reset with
      agenda := s.agenda, freeCtr := s.freeCtr, mem := s.resetMem, bad := ⟨s.bad.entries.filter (fun e => e.1 % 8 == 0)⟩,
      hub := { bootstat := bootstat images },
      mod := { boot := good.foldl (fun (m : SMap (0#384)) k => m.set k (imageAt images k).digest) .empty,
               versions := good.foldl (fun (m : SMap (0 : Nat)) k => m.set k (imageAt images k).version) .empty } })

/-! ### Links and routes (R414, R420) -/

/-- Requests of a die's cores that were crossing a link when it failed: each is performed whole or not at all, and those of teams
that have gone are then forgotten. (DEDUCED, log entry 51) -/
def State.crossing (s : State) (die other : Nat) : State :=
  (coresOfDie die).foldl (fun s core =>
    (s.cores.get core).tracker.foldl (fun s r =>
      if r.performed || r.held || paModule r.line != s.hub.modid || paHost r.line || paDie r.line != other then s
      else
        let t := s.teams.get r.uid
        let gone := decide (identOf r.uid t.place.gen ≠ r.who.ident) || t.phase == .unbound || t.phase == .retired
        let s1 := if s.choice 14 r.id then s.trackerHome core r.id else s
        if gone then s1.modCore core (fun c => { c with tracker := c.tracker.filter (fun q => q.performed || q.id != r.id) }) else s1) s) s

/-- Whether a grid has workgroups on both of two dies. -/
def State.onBoth (s : State) (g : Grid) (key a b : Nat) : Bool :=
  let dies := g.bound.map (fun i => dieOfCore (s.wgs.get (wgKey key i)).core)
  g.phase == .running && dies.contains a && dies.contains b

/-- SHORELINE_LINK_FAILURE: the link between two dies fails; grids with workgroups on both sides end with STATUS 4. -/
def execShorelineLinkFailure (a b : Nat) (s : State) : Out :=
  s.event (fun s =>
    if a = b ∨ 8 ≤ a ∨ 8 ≤ b ∨ s.mod.linksDown.contains (linkOf a b) then s
    else
      let s1 := (s.crossing a b).crossing b a
      { s1 with
        mod := { s1.mod with linksDown := linkOf a b :: s1.mod.linksDown },
        grids := ⟨s1.grids.entries.map (fun (e : Nat × Grid) =>
          if s1.onBoth e.2 e.1 a b ∧ e.2.status = 0 then (e.1, { e.2 with status := 4, cause := cLINK }) else e)⟩ })

/-- FABRIC_ROUTE_LOSS: no route reaches a module any more. -/
def execFabricRouteLoss (m : Nat) (s : State) : Out :=
  s.event (fun s =>
    if m = s.hub.modid ∨ 512 ≤ m ∨ s.mod.routesDown.contains m then s
    else { s with mod := { s.mod with routesDown := m :: s.mod.routesDown } })

/-! ### Commands (R408) -/

/-- What a command has come to: it goes on, or it is done with a status and data. -/
inductive Cmd where
  | pending (s : State)
  | done (s : State) (status : Nat) (data : Nat)

/-- The address of the command to be performed. -/
def Hub.cmdAddr (h : Hub) : Nat := h.cmdBase + 64 * (h.cmdHead % h.cmdCap)

/-- Whether CMDCAP is a legal capacity. -/
def powerOfTwo (lo hi n : Nat) : Bool := decide (lo ≤ n ∧ n ≤ hi) && (List.range 33).any (fun k => n == 2 ^ k)

/-- Complete the present command. -/
def State.cmdDone (s : State) (status data : Nat) : State :=
  let s1 := s.homeBytes (s.hub.cmdAddr + 56) (leBytes 4 status ++ leBytes 4 data)
  ({ s1 with hub := { s1.hub with cmdHead := (s1.hub.cmdHead + 1) % 2 ^ 32 } }).raise 0

/-- Argument k of a command. (DEDUCED, log entry 61) -/
def cmdArg (l : List Byte) (k : Nat) : Nat := fieldAt l (8 + 8 * k) 8
/-- The context that a command names. -/
def cmdCtx (l : List Byte) : Nat := fieldAt l 2 2

/-- A step of the hub controller on the command at the head of the ring, which `f` performs where its OP is `op`. -/
def State.command (s : State) (op : Nat) (f : State → List Byte → Cmd) : State :=
  let h := s.hub
  if !powerOfTwo 2 4096 h.cmdCap || h.cmdHead == h.cmdTail then s
  else
    let l := s.loadBytes h.cmdAddr 64
    let o := fieldAt l 0 2
    if !h.started ∧ o ≠ 0x01 ∧ o ≠ 0x0B then s.cmdDone 4 0
    else if o = 0 ∨ 0x0C < o then s.cmdDone 1 0
    else if o ≠ op then s
    else match f s l with
      | .pending s1 => s1
      | .done s1 status data => s1.cmdDone status data

/-- A command on an existing context. -/
def State.onCtx (s : State) (l : List Byte) (f : State → Nat → Ctx → Cmd) : Cmd :=
  let n := cmdCtx l
  let c := s.ctxs.get n
  if 256 ≤ n ∨ c.state = 0 then .done s 3 0 else f s n c

/-! ### START (R409, R410) -/

/-- The feature vector of the HN-920. -/
def featVector : Nat := 0x3FF

/-- Name a ring: its capacity is read; none where the address is 0. -/
def State.nameRing (s : State) (base : Nat) : State :=
  if base = 0 then s else { s with mod := { s.mod with ringCaps := s.mod.ringCaps.set base (s.loadNum (base + 12) 4) } }

/-- Whether the capacity of a ring keeps its limit. -/
def State.ringOk (s : State) (base : Nat) : Bool := base == 0 || powerOfTwo 2 (2 ^ 20) (s.loadNum (base + 12) 4)

/-- The limits of a start block. -/
def State.startOk (s : State) (b : List Byte) : Bool :=
  let f := fieldAt b
  let feats := f 0 32
  decide (feats < 2 ^ 10) && feats.testBit 0 && decide (f 32 2 ≤ 511) && decide (f 34 1 ≤ 1) && f 35 1 == 0 &&
  (List.range 8).all (fun d => decide (f (36 + d) 1 ≤ 12)) && decide (1000 ≤ f 44 4 ∧ f 44 4 ≤ 3200) && f 48 16 == 0 &&
  (List.range 8).all (fun d => s.ringOk (f (256 + 8 * d) 8))

/-- START. -/
def execStart (s : State) : Out :=
  s.fwEvent (fun s => s.command 0x01 (fun s l =>
    let b := s.loadBytes (cmdArg l 0) 320
    let f := fieldAt b
    if s.hub.started then .done s 2 0
    else if !s.startOk b then .done s 3 0
    else if s.hub.bootstat / 256 % 512 ≠ 0 then .done s 5 0
    else
      let s1 := (List.range 8).foldl (fun s d => (s.modDie d (fun x =>
        { x with shBase := f (64 + 8 * d) 8, shLen := f (128 + 8 * d) 8, sink := f (192 + 8 * d) 8,
                 errLog := f (256 + 8 * d) 8 })).nameRing (f (256 + 8 * d) 8)) s
      .done { s1 with hub := { s1.hub with
        started := true, featacc := f 0 32, modid := f 32 2, timeLock := (f 34 1).testBit 0 && (f 0 32).testBit 8,
        c0 := (List.range 8).map (fun d => f (36 + d) 1), cap := f 44 4 } } 0 0))

/-! ### Contexts (R408, R411) -/

/-- The fields of a context block. -/
def ctxCfg (b : List Byte) : CtxCfg :=
  let f := fieldAt b
  { root := f 0 8, faultRing := f 8 8, faultCap := f 16 4,
    drain := if f 20 2 = 0xFFFF then 50 else f 20 2, save := if f 22 2 = 0xFFFF then 30 else f 22 2,
    saveArea := f 24 8, trapLog := f 32 8, raceLog := f 40 8, errLog := f 48 8, sink := f 56 8, kv := f 64 8,
    partBase := f 72 8, partSz := f 80 4, partN := f 84 4, hazard := (f 88 1).testBit 0,
    rm := BitVec.ofNat 2 (f 88 1 / 2), ftz := (f 88 1).testBit 3, hlimit := f 92 4, collTmo := f 96 4 }

/-- The limits of a key-value descriptor (R186). -/
def State.kvOk (s : State) (a : Nat) : Bool :=
  let f (o n : Nat) : Nat := s.loadNum (a + o) n
  let w := f 8 8
  let lbs := w % 8
  let ib := w / 256 % 32
  f 0 8 % 2 ^ 40 == 0 && w == lbs + 256 * ib && decide (lbs ≤ 4) && decide (ib ≤ 12) && decide (lbs + ib ≤ 12) &&
  f 24 8 % (4096 * 2 ^ lbs) == 0 && f 36 4 == 0 && decide (f 56 8 < 32)

/-- The limits of a context block. -/
def State.ctxOk (s : State) (b : List Byte) : Bool :=
  let f := fieldAt b
  let c := ctxCfg b
  c.root % 4096 == 0 && (f 20 2 == 0xFFFF || decide (f 20 2 ≤ 1000)) && (f 22 2 == 0xFFFF || decide (f 22 2 ≤ 1000)) &&
  s.ringOk c.faultRing && (c.faultRing == 0 || c.faultCap == s.loadNum (c.faultRing + 12) 4) && s.ringOk c.trapLog &&
  s.ringOk c.raceLog && s.ringOk c.errLog && s.ringOk c.sink && (c.kv == 0 || (s.feature 6 && s.kvOk c.kv)) &&
  (c.partBase == 0 || (c.partSz % 64 == 0 && decide (64 ≤ c.partSz))) && decide (f 88 1 < 16) && f 89 3 == 0 &&
  decide (1 ≤ c.hlimit ∧ c.hlimit ≤ 60000) && decide (1 ≤ c.collTmo ∧ c.collTmo ≤ 10 ^ 7) && f 100 156 == 0

/-- CTXNEW: which free context it creates is the device's choice. (DESIGN CHOICE, log entry 63) -/
def execCtxnew (s : State) : Out :=
  s.fwEvent (fun s => s.command 0x02 (fun s l =>
    let b := s.loadBytes (cmdArg l 0) 256
    let free := (List.range 256).filter (fun n => (s.ctxs.get n).state == 0)
    if !s.ctxOk b then .done s 3 0
    else match free[Config.freeNat s.freeCtr 9 % free.length]? with
      | none => .done s 2 0
      | some n =>
        let c := ctxCfg b
        let s1 := [c.faultRing, c.trapLog, c.raceLog, c.errLog, c.sink].foldl State.nameRing s
        .done (s1.putCtx n { state := 1, cfg := c, nextLnum := 1 }) 0 n))

/-- The grids of a context that have not ended. -/
def State.liveGrids (s : State) (ctx : Nat) : List (Nat × Grid) :=
  s.grids.entries.filter (fun g => g.2.ctx == ctx && (match g.2.phase with | .none | .done => false | _ => true))

/-- End a context: its keys are revoked and its collectives forgotten. -/
def State.dropCtx (s : State) (n : Nat) : State :=
  { s with
    ctxs := s.ctxs.drop n
    colls := ⟨s.colls.entries.filter (fun c => c.2.ctx ≠ n)⟩
    mod := { s.mod with keys := ⟨s.mod.keys.entries.filter (fun k => k.2.1 ≠ n)⟩ } }

/-- CTXFREE: with FORCE the context is reset first, but for a save under way, which nothing aborts (R276). (DEDUCED, log entry 64) -/
def execCtxfree (s : State) : Out :=
  s.fwEvent (fun s => s.command 0x03 (fun s l => s.onCtx l (fun s n c =>
    if (s.liveGrids n).isEmpty then .done (s.dropCtx n) 0 0
    else if cmdArg l 0 % 2 = 0 then .done s 2 0
    else if c.state = 3 ∨ (match c.ladder with | .save _ _ _ => true | _ => false) = true then .pending s
    else .pending (s.forceReset n))))

/-- QREG: argument 0 is the queue, 1 the base of its ring, 2 its capacity. -/
def execQreg (s : State) : Out :=
  s.fwEvent (fun s => s.command 0x04 (fun s l => s.onCtx l (fun s n c =>
    let k := cmdArg l 0
    let cap := cmdArg l 2
    if 15 < k ∨ powerOfTwo 2 65536 cap = false then .done s 3 0
    else .done (s.putCtx n { c with queues := c.queues.put k { registered := true, base := cmdArg l 1, cap := cap, head := 0 } }) 0 0)))

/-! ### Translation and residency (R170, R173) -/

/-- Whether an address lies in the range that a command names. -/
def inRange (l : List Byte) (va : W64) : Bool := decide (cmdArg l 0 ≤ va.toNat) && decide (va.toNat < cmdArg l 0 + cmdArg l 1)

/-- Whether an access of a context that a translation of the range has placed has still to be performed. -/
def State.rangeBusy (s : State) (ctx a n : Nat) : Bool :=
  s.teams.entries.any (fun t => t.2.place.ctx == ctx && t.2.words.any (fun w => w.parts.any (fun p =>
    !p.fixed && overlap p.va.toNat 128 a n))) ||
  s.cores.entries.any (fun c => c.2.tracker.any (fun r => r.who.ctx == ctx && !r.performed && overlap r.va.toNat 128 a n))

/-- INVAL: no translation cache holds an entry of the range any more, and the accesses that used one have been performed. (DEDUCED, log entry 65) -/
def execInval (s : State) : Out :=
  s.fwEvent (fun s => s.command 0x05 (fun s l => s.onCtx l (fun s n _ =>
    let a := cmdArg l 0
    let len := cmdArg l 1
    let bs := match s.kvDesc n with | some d => d.bs | none => 65536
    let gone (e : TlbEntry) : Bool := e.ctx == n &&
      (if e.level = kvLevel then overlap e.va bs a len else overlap e.va (2 ^ levelShift e.level) (a % 2 ^ 57) len)
    let s1 := { s with
      dies := ⟨s.dies.entries.map (fun (d : Nat × Die) => (d.1, { d.2 with tlb := d.2.tlb.filter (fun e => !gone e) }))⟩
      cores := ⟨s.cores.entries.map (fun (c : Nat × Core) => (c.1, { c.2 with tlb := c.2.tlb.filter (fun e => !gone e) }))⟩ }
    if s1.rangeBusy n a len then .pending s1 else .done s1 0 0)))

/-- Let held work go on. -/
def unhold (hit : W64 → Bool) (held : Option W64) : Option W64 := held.filter (fun a => !hit a)

/-- What a residency signal does for a team: a replayable team replays, a continuation learns of it, and a held write-back or drain goes
on. -/
def Team.resident (t0 : Team) (ctx : Nat) (hit : W64 → Bool) : Team :=
  if t0.place.ctx ≠ ctx then t0
  else
    let wait : Wait := match t0.wait with | .resident a => if hit a then .none else t0.wait | x => x
    let t : Team := { t0 with wait := wait, words := t0.words.map (fun (w : LongWord) => { w with held := unhold hit w.held }) }
    let t1 := if t.trap.contPending && hit t.trap.contFault then { t with trap := { t.trap with resident := true } } else t
    match t1.trap.fault with
    | some (_, va) => if t1.phase = .replay ∧ hit va then
        { t1 with phase := .running, stall := none, trap := { t1.trap with fault := none } } else t1
    | none => t1

/-- What a residency signal does for a context's engines. -/
def State.engineResident (s : State) (ctx : Nat) (hit : W64 → Bool) : State :=
  let mat (o : MatOp) : MatOp := if o.who.ctx = ctx then { o with held := unhold hit o.held } else o
  let slice (x : Slice) : Slice := { x with op0 := mat x.op0, op1 := mat x.op1 }
  let queue (q : Queue) : Queue := if q.who.ctx = ctx then { q with held := unhold hit q.held } else q
  { s with
    copies := ⟨s.copies.entries.map (fun e => if e.2.who.ctx = ctx then (e.1, { e.2 with held := unhold hit e.2.held }) else e)⟩
    colls := ⟨s.colls.entries.map (fun e => if e.2.ctx = ctx then (e.1, { e.2 with held := unhold hit e.2.held }) else e)⟩
    savedQueues := ⟨s.savedQueues.entries.map (fun e => (e.1, e.2.map queue))⟩
    savedSlices := ⟨s.savedSlices.entries.map (fun e => (e.1, e.2.map slice))⟩
    cores := ⟨s.cores.entries.map (fun e => (e.1, { e.2 with
      queues := ⟨e.2.queues.entries.map (fun q => (q.1, queue q.2))⟩,
      slices := ⟨e.2.slices.entries.map (fun k => (k.1, slice k.2))⟩ }))⟩ }

/-- RESIDENT: every team and engine that waits on a fault in the range retries; a record that has waited for room is written when
the ring has it (R172, R173, R363). -/
def execResident (s : State) : Out :=
  s.fwEvent (fun s => s.command 0x06 (fun s l => s.onCtx l (fun s n _ =>
    let hit := inRange l
    let s1 := s.modCtx n (fun c => { c with
      faults := (c.faults.map (fun f => if hit f.va then { f with resolved := true } else f)).filter (fun f =>
        !(f.resolved && f.written.isSome)) })
    let s2 := (s1.engineResident n hit).flushFaults n
    let s3 := { s2 with
      teams := ⟨s2.teams.entries.map (fun (e : Nat × Team) => (e.1, e.2.resident n hit))⟩
      savedTeams := ⟨s2.savedTeams.entries.map (fun (e : Nat × Option Team) => (e.1, e.2.map (fun (t : Team) => t.resident n hit)))⟩ }
    .done (s3.teams.keys.foldl (fun s u => if (s.teams.get u).place.ctx = n ∧ (s.teams.get u).flow = (s.teams.get u).seam then
      s.haltAtSeam u else s) s3) 0 0)))

/-! ### Halts (R395, R419) -/

/-- Whether a team waits where a halt rolls it back. -/
def State.heldForHalt (s : State) (uid : Nat) : Bool :=
  let t := s.teams.get uid
  if t.phase = .replay then true
  else if t.phase ≠ .running then false
  else match t.wait with
    | .barrier _ _ _ | .latch _ _ _ | .regroup _ _ _ _ | .monitor => true
    | .queue _ since => since ≠ 0
    | .none => (match fetched (s.heldWord uid t.flow.pos.pc) with | .cpyw _ | .collw _ _ _ => s.wordReason uid == some 4 | _ => false)
    | _ => false

/-- Roll a held team back to its seam and stop it. -/
def State.haltHeld (s : State) (uid : Nat) : State :=
  if !s.heldForHalt uid then s
  else match s.rollback uid true with
    | none => s
    | some s1 =>
      (s1.modTeam uid (fun t => { t with phase := .halted, trap := { t.trap with fault := none } })).haltRecord uid

/-- Whether a team of a context still moves. -/
def Team.moves (t : Team) (ctx : Nat) : Bool := t.place.ctx == ctx && (t.phase == .running || t.phase == .replay)

/-- The collectives of a context. -/
def State.collsOf (s : State) (ctx : Nat) : List Nat := (s.colls.entries.filter (fun c => c.2.ctx == ctx)).map Prod.fst

/-- HALT: each team stops at its next seam, one that waits at the seam behind it; the command completes when all have stopped. -/
def execHalt (s : State) : Out :=
  s.fwEvent (fun s => s.command 0x07 (fun s l => s.onCtx l (fun s n c =>
    let s1 := if c.state = 2 then s else
      (s.collsOf n).foldl State.freezeColl (s.putCtx n { c with state := 2, haltedAt := s.stampTime hubDie })
    let mine := (s1.teams.entries.filter (fun t => t.2.moves n)).map Prod.fst
    let s2 := mine.foldl State.haltHeld s1
    if s2.teams.entries.any (fun t => t.2.moves n) then .pending s2 else .done s2 0 0)))

/-- A stopped team goes on at its seam. -/
def Team.resume (t : Team) (ctx : Nat) : Team := if t.place.ctx = ctx ∧ t.phase = .halted then { t with phase := .running } else t

/-- RELEASE. -/
def execRelease (s : State) : Out :=
  s.fwEvent (fun s => s.command 0x08 (fun s l => s.onCtx l (fun s n c =>
    if c.state ≠ 2 then .done s 0 0
    else
      let s1 := { s with
        ctxs := s.ctxs.put n { c with state := 1 }
        teams := ⟨s.teams.entries.map (fun (e : Nat × Team) => (e.1, e.2.resume n))⟩
        savedTeams := ⟨s.savedTeams.entries.map (fun (e : Nat × Option Team) => (e.1, e.2.map (fun (t : Team) => t.resume n)))⟩ }
      .done ((s1.collsOf n).foldl State.thawColl s1) 0 0)))

/-! ### Groups, keys, reports, sinks (R404, R415, R423) -/

/-- GROUP: argument 0 is the group, 1 the address of a list of 16-bit module numbers, 2 their count. -/
def execGroup (s : State) : Out :=
  s.fwEvent (fun s => s.command 0x09 (fun s l => s.onCtx l (fun s n c =>
    let g := cmdArg l 0
    let cnt := cmdArg l 2
    let list := (List.range cnt).map (fun k => s.loadNum (cmdArg l 1 + 2 * k) 2)
    if 255 < g ∨ cnt < 2 ∨ 512 < cnt ∨ list.any (fun m => decide (511 < m)) then .done s 3 0
    else .done (s.putCtx n { c with groups := c.groups.put g list }) 0 0)))

/-- KEYLOAD: argument 0 is the slot, 1 the address of the blob, 2 the context granted. -/
def execKeyload (s : State) : Out :=
  s.fwEvent (fun s => s.command 0x0A (fun s l =>
    let slot := cmdArg l 0
    let n := cmdArg l 2
    if 63 < slot ∨ 255 < n ∨ (s.ctxs.get n).state = 0 then .done s 3 0
    else match Config.keyBlob (s.loadBytes (cmdArg l 1) Config.keyBlobBytes) with
      | none => .done s 5 0
      | some k => .done { s with mod := { s.mod with keys := s.mod.keys.put slot (n, k.toNat) } } 0 0))

/-- ATTEST: argument 0 is the address of the nonce, 1 the report buffer. -/
def execAttest (s : State) : Out :=
  s.fwEvent (fun s => s.command 0x0B (fun s l =>
    let r := Config.report (s.loadBytes (cmdArg l 0) 32) ([s.hub.modid, featVector, s.hub.featacc, s.stampTime hubDie, s.stampBound hubDie]
      ++ (List.range 9).map (fun k => (s.mod.boot.get k).toNat) ++ (List.range 9).map s.mod.versions.get)
    .done (s.homeBytes (cmdArg l 1) r) 0 0))

/-- SINKRST: argument 0 is the die. -/
def execSinkrst (s : State) : Out :=
  s.fwEvent (fun s => s.command 0x0C (fun s l =>
    let d := cmdArg l 0
    if 7 < d then .done s 3 0 else .done (s.modDie d (fun x => { x with sinkStopped := false })) 0 0))

/-! ### RESYNC (R413) -/

/-- The entry of a context. -/
def State.syncCtx (s : State) (n : Nat) : List Byte :=
  let c := s.ctxs.get n
  let grids := s.liveGrids n
  let count (p : Nat × Grid → Bool) : Nat := (grids.filter p).length
  let tail (ring : Nat) : Nat := if ring = 0 then 0 else s.loadNum (ring + 4) 4
  leBytes 1 c.state ++ leBytes 1 (c.queues.entries.filter (fun q => q.2.registered)).length
    ++ leBytes 2 (c.faults.filter (fun f => !f.resolved)).length ++ leBytes 4 (if c.state = 0 then 0 else c.nextLnum + 2 ^ 32 - 1)
    ++ leBytes 4 (count (fun g => g.2.phase == .running)) ++ leBytes 4 (count (fun g => g.2.phase != .running))
    ++ leBytes 4 (tail c.cfg.faultRing) ++ leBytes 4 (tail c.cfg.raceLog) ++ leBytes 40 0
    ++ (List.range 16).flatMap (fun k => leBytes 4 (c.queues.get k).head)

/-- The pairs of dies, in ascending order. -/
def diePairs : List (Nat × Nat) := (List.range 8).flatMap (fun a => ((List.range 8).filter (fun b => decide (a < b))).map (fun b => (a, b)))

/-- The header of the summary. (DEDUCED, log entry 66) -/
def State.syncHead (s : State) : List Byte :=
  let bits (l : List Bool) : Nat := l.foldr (fun b x => 2 * x + if b then 1 else 0) 0
  let dies := (List.range 8).map s.dies.get
  let dbound := if s.mod.dlock then s.mod.dbound else 0xFFFFFFFF
  leBytes 4 1 ++ leBytes 4 ((if s.hub.started then 1 else 0) + s.hub.modid * 65536) ++ leBytes 8 (s.stampTime hubDie)
    ++ leBytes 4 (s.stampBound hubDie)
    ++ leBytes 4 ((if dies.all (fun d => decide (d.bound ≤ 12)) then 1 else 0) + (if s.mod.dlock then 2 else 0)
        + (if dbound < 2 ^ 24 then dbound else 2 ^ 24 - 1) * 256)
    ++ leBytes 4 (bits (diePairs.map (fun p => !s.mod.linksDown.contains p))) ++ leBytes 4 (Config.freeNat s.freeCtr 10 % 2 ^ 18)
    ++ leBytes 4 s.hub.cmdHead ++ leBytes 4 ((s.hub.cmdTail + 2 ^ 32 - s.hub.cmdHead) % 2 ^ 32)
    ++ leBytes 8 (dies.map Die.soft).sum ++ leBytes 8 (dies.map Die.hard).sum ++ leBytes 8 0

/-- RESYNC: the host's 1 in MBOXGO makes the device write the summary to the MBOX buffer; MBOXGO is then clear. (DEDUCED, log entry 60) -/
def execResync (s : State) : Out :=
  s.fwEvent (fun s =>
    let s1 := s.homeBytes s.hub.mbox (s.syncHead ++ (List.range 256).flatMap s.syncCtx)
    { s1 with hub := { s1.hub with mboxGo := false } })

end Sys2Proof.Machine
end

