-- ==== Sys2Proof/Machine/Lanes.lean ====
section
/-! DEFINITION. Mask words and the cross-lane words of one team (R125 to R130). -/

namespace Sys2Proof.Machine

/-! ### Mask words -/

/-- MAND (R126). -/
def execMand (d a b : BitVec 6) (s : State) : Out :=
  s.runWord (.mand d a b) (fun w s => .next (s.withRegs (fun r =>
    r.writeM w.width d.toNat (w.r.readM a.toNat &&& w.r.readM b.toNat))))

/-- MOR (R126). -/
def execMor (d a b : BitVec 6) (s : State) : Out :=
  s.runWord (.mor d a b) (fun w s => .next (s.withRegs (fun r =>
    r.writeM w.width d.toNat (w.r.readM a.toNat ||| w.r.readM b.toNat))))

/-- MXOR (R126). -/
def execMxor (d a b : BitVec 6) (s : State) : Out :=
  s.runWord (.mxor d a b) (fun w s => .next (s.withRegs (fun r =>
    r.writeM w.width d.toNat (w.r.readM a.toNat ^^^ w.r.readM b.toNat))))

/-- MNOT (R126). -/
def execMnot (d a : BitVec 6) (s : State) : Out :=
  s.runWord (.mnot d a) (fun w s => .next (s.withRegs (fun r => r.writeM w.width d.toNat (~~~w.r.readM a.toNat))))

/-- MPOP (R126). -/
def execMpop (d a : BitVec 6) (s : State) : Out :=
  s.runWord (.mpop d a) (fun w s => .next (s.withRegs (fun r =>
    r.writeS d.toNat (BitVec.ofNat 64 (popMask w.width (w.r.readM a.toNat))))))

/-- MFIRST (R126). -/
def execMfirst (d a : BitVec 6) (s : State) : Out :=
  s.runWord (.mfirst d a) (fun w s => .next (s.withRegs (fun r =>
    r.writeS d.toNat (match lanesOf w.width (w.r.readM a.toNat) with
      | [] => BitVec.allOnes 64
      | l :: _ => BitVec.ofNat 64 l))))

/-- MTOS (R126). -/
def execMtos (d a k : BitVec 6) (s : State) : Out :=
  s.runWord (.mtos d a k) (fun w s => .next (s.withRegs (fun r =>
    r.writeS d.toNat ((w.r.readM a.toNat).extractLsb' (64 * k.toNat) 64))))

/-- STOM (R126). -/
def execStom (d a k : BitVec 6) (s : State) : Out :=
  s.runWord (.stom d a k) (fun w s => .next (s.withRegs (fun r =>
    let block : Mask := (BitVec.allOnes 64).setWidth 1024 <<< (64 * k.toNat)
    r.writeM w.width d.toNat
      ((w.r.readM d.toNat &&& ~~~block) ||| ((w.r.readS a.toNat).setWidth 1024 <<< (64 * k.toNat))))))

/-! ### Cross-lane words -/

/-- VSHUF (R128). -/
def execVshuf (d a b : BitVec 6) (k : BitVec 2) (g : BitVec 1) (t : BitVec 3) (s : State) : Out :=
  s.runWord (.vshuf d a b k g t) (fun w s =>
    let n := intCnt t
    .next (w.putVec s d n (fun l => w.vec a.toNat n ((w.vecB b k n l).toNat % 2 ^ 32 % w.width))))

/-- VBCAST (R128). -/
def execVbcast (d a : BitVec 6) (g : BitVec 1) (t : BitVec 3) (s : State) : Out :=
  s.runWord (.vbcast d a g t) (fun w s =>
    let n := intCnt t
    .next (w.putVec s d n (fun _ => w.vec a.toNat n (w.lanes.headD 0))))

/-- One operation of VSCAN and VRED on two elements (R129). -/
def combine (w : Wd) (s : State) (f : BitVec 1) (o : BitVec 3) (t : BitVec 3) (x y : W64) : W64 × FFlags :=
  if f = 1 then
    liftFlt t (fun e x y _ => if o = 0 then e.add (w.rm s) (w.ftz s) x y else e.minMax (o = 2) (w.ftz s) x y) x y 0
  else
    (liftInt t false (fun wd x y _ =>
      if o = 0 then (x + y) % 2 ^ wd else if o = 1 then lesser (tySigned t) wd x y
      else if o = 2 then greater (tySigned t) wd x y else if o = 3 then Nat.land x y
      else if o = 4 then Nat.lor x y else Nat.xor x y) x y 0, 0)

/-- The combination of one lane alone: a float word still delivers a canonical NaN, and a flushed zero. -/
def single (w : Wd) (s : State) (f : BitVec 1) (t : BitVec 3) (x : W64) : W64 × FFlags :=
  if f = 1 then
    liftFlt t (fun e x _ _ => let v := e.read (w.ftz s) x
      if v.isNaN then e.nanOf [v] else (e.flushIn (w.ftz s) x, 0)) x 0 0
  else (x, 0)

/-- The identities (R129). -/
def identity (f : BitVec 1) (o : BitVec 3) (t : BitVec 3) : W64 :=
  if f = 1 then
    (liftFlt t (fun e _ _ _ =>
      (if o = 0 then e.signBit else if o = 1 then e.inf else e.signBit + e.inf, 0)) 0 0 0).1
  else
    let wd := tyWidth t
    let sg := tySigned t
    BitVec.ofNat 64 (if o = 1 then (if sg then 2 ^ (wd - 1) - 1 else 2 ^ wd - 1)
      else if o = 2 then (if sg then 2 ^ (wd - 1) else 0) else if o = 3 then 2 ^ wd - 1 else 0)

/-- The running combinations of a list of lanes: for each lane, what stands before it and what stands with it, and the
flags raised. -/
def scanLanes (w : Wd) (s : State) (f : BitVec 1) (o : BitVec 3) (t : BitVec 3) (x : Nat → W64) :
    List Nat → Option W64 → FFlags → List (Nat × W64 × W64) × FFlags
  | [], _, fl => ([], fl)
  | l :: ls, acc, fl =>
    let r := match acc with | none => single w s f t (x l) | some v => combine w s f o t v (x l)
    let (rest, fl') := scanLanes w s f o t x ls (some r.1) (fl ||| r.2)
    ((l, acc.getD (identity f o t), r.1) :: rest, fl')

/-- VSCAN (R129). The value of the last effective lane enters no result of an exclusive scan, and raises no flag. (DESIGN CHOICE, log entry
74) -/
def execVscan (d a : BitVec 6) (e f : BitVec 1) (o : BitVec 3) (g : BitVec 1) (t : BitVec 3) (s : State) : Out :=
  s.runWord (.vscan d a e f o g t) (fun w s =>
    let n := scanCnt f t
    let lanes := if e = 1 then w.lanes.dropLast else w.lanes
    let (l, fl) := scanLanes w s f o t (fun l => w.vec a.toNat n l) w.lanes none 0
    let used := if e = 1 then (scanLanes w s f o t (fun l => w.vec a.toNat n l) lanes none 0).2 else fl
    .next ((s.withRegs (fun r => l.foldl (fun r (x : Nat × W64 × W64) =>
      r.writeVec d.toNat n x.1 (if e = 1 then x.2.1 else x.2.2)) r)).raiseFlags used))

/-- VRED (R129). -/
def execVred (d a : BitVec 6) (f : BitVec 1) (o : BitVec 3) (g : BitVec 1) (t : BitVec 3) (s : State) : Out :=
  s.runWord (.vred d a f o g t) (fun w s =>
    let n := scanCnt f t
    let (l, fl) := scanLanes w s f o t (fun l => w.vec a.toNat n l) w.lanes none 0
    let v := match l.getLast? with | none => identity f o t | some x => x.2.2
    let v := if f = 0 ∧ tyWidth t = 32 then scalarExt t v.toNat else v
    .next ((s.withRegs (fun r => r.writeS d.toNat v)).raiseFlags fl))

/-- VVOTE (R130). -/
def execVvote (d a : BitVec 6) (k : BitVec 2) (s : State) : Out :=
  s.runWord (.vvote d a k) (fun w s =>
    let on (l : Nat) : Bool := w.r.readV a.toNat l ≠ 0
    let bit (b : Bool) : State := s.withRegs (fun r => r.writeS d.toNat (if b then 1 else 0))
    .next (
      if k = 0 then bit (w.lanes.any on)
      else if k = 1 then bit (w.lanes.all on)
      else if k = 2 then s.withRegs (fun r => r.writeM w.width d.toNat (maskOf w.width (fun l => w.mask.getLsbD l && on l)))
      else bit (w.lanes.all (fun l => w.r.readV a.toNat l == w.r.readV a.toNat (w.lanes.headD 0)))))

end Sys2Proof.Machine
end

