-- ==== Sys2Proof/Machine/LightField.lean ====
section
/-! DEFINITION. The span unit: triangle setups and edge functions, spans, interpolation, depth tests, shades, merging of
quads and meshlet decoding (R134 to R157). -/

namespace Sys2Proof.Machine

/-! ### The stash as a word reads it at once (R144) -/

/-- The race updates of the stash requests that a word has read, and the release records that they have found (R378, R384). -/
def State.stashNoted (s : State) (wg : Nat) (parts : List Part) (who : Who) : State :=
  parts.foldl (fun s p =>
    let s := if who.checks p.rc then
        let q := s.stashReq wg p who false
        let s := if who.race = 1 then s else (s.raceCheck q (s.earlyEntries (coreOf s.cur) p.line)).st
        s.raceUpdate q p.elems false
      else s
    if p.line < 2 ^ 64 then
      let r := s.releaseRec p.line
      let s := s.putRelease p.line r
      s.setTeam { s.team with race := s.team.race.pend r.some? }
    else s) s

/-- Whether a word that reads or writes stash lines at once may do so now: its lines are ready, the team's earlier acquires and its
earlier loads of the lines are fixed, and no engine of the team has still to write them (R195, R198, R210). -/
def State.stashReady (s : State) (wg : Nat) (lines : List (Nat × Nat × Nat)) (offs : List Nat) : Bool :=
  s.linesReady s.cur wg lines && s.team.acquiresFixed s.team.nextSeq && !s.team.stashPending lines &&
    !offs.any (fun o => s.engineOwnsStash s.cur o)

/-- Read stash elements as a VLDS of the team would, before the word goes on: their bytes in order. -/
def State.stashNow (s : State) (w : Wd) (reqs : List LaneReq) (go : State → List (List Byte) → Eff) : Eff :=
  let t := s.team
  match s.checkStash t (dieOf s.cur) .load reqs with
  | .error f => .trap s (w.laneTrap s f)
  | .ok l =>
    let wg := t.wgKey
    let parts := l.foldl (fun ps a => insertStash a ps) []
    let s := parts.foldl (fun s p => s.mendStash p.line s.cur t.place.ctx) s
    if !s.stashReady wg (linesOf l) (l.map (fun a => a.req.va.toNat)) then .hold s noReason
    else
      let who := s.whoOf s.cur
      match (s.fillLines wg (linesOf l)).stashTrap w wg parts who false with
      | (s1, some r) => .trap s1 r
      | (s1, none) =>
        match parts.findSome? (fun p => (s1.badStash wg p).map (fun e => p.va + BitVec.ofNat 64 e.off)) with
        | some a => let s2 := s1.errRecord 0 2 (dieOf s1.cur) (some s1.cur) (some t.place.ctx); .trap s2 (w.trap s2 cMEMERR 0 a)
        | none => go (s1.stashNoted wg parts who) (reqs.map (fun r => (s1.wgs.get wg).stashBytes r.va.toNat r.size))

/-! ### The span unit (R143, R269) -/

/-- Whether the span unit of the core refuses a pass of the current team: it has taken one at this clock, or an earlier pass of its wait
order can use it. -/
def State.spanRefuses (s : State) : Bool :=
  let c := s.cores.get (coreOf s.cur)
  decide ((s.dies.get (dieOf s.cur)).clk < c.spanAt) ||
    (c.spanWait.takeWhile (· ≠ s.cur)).any (fun u => (s.teams.get u).phase == .running)

/-- A refused pass takes the next place in the span unit's wait order, or keeps its own. -/
def State.spanWaits (s : State) : State :=
  s.modCore (coreOf s.cur) (fun c => if c.spanWait.contains s.cur then c else { c with spanWait := c.spanWait ++ [s.cur] })

/-- The span unit takes the passes of a word, one in each clock. -/
def State.spanTake (s : State) (w : Wd) : State :=
  let n := (passesOf w.mask).length
  (s.leaveWaits s.cur).modCore (coreOf s.cur) (fun c => { c with spanAt := (s.dies.get (dieOf s.cur)).clk + n })

/-- A word of the span unit: it stalls where the unit refuses it. -/
def State.spanWord (s : State) (w : Wd) (go : State → Eff) : Eff :=
  if w.mask ≠ 0 ∧ s.spanRefuses = true then .hold s.spanWaits noReason
  else match go s with
    | .next s => .next (s.spanTake w)
    | .seam s d => .seam (s.spanTake w) d
    | e => e

/-! ### Setups (R134 to R136) -/

/-- A signed 32-bit number in bytes. -/
def intOf (l : List Byte) (a : Nat) : Int := (BitVec.ofNat 32 (fieldAt l a 4)).toInt

/-- The snapped disparity, and whether it was clamped. -/
def disparity (kappa wf w : Rat) : Int × Bool :=
  let d := roundEven (4096 * kappa * (w - wf))
  if d < -(2 ^ 20) then (-(2 ^ 20), true) else if 2 ^ 20 ≤ d then (2 ^ 20 - 1, true) else (d, false)

/-- The five coefficients of an edge. -/
def edgeOf (p q : Int × Int) (dp dq : Int) : List Int :=
  [32 * (p.2 - q.2), 32 * (q.1 - p.1), 32 * (p.1 * q.2 - q.1 * p.2), dp * q.2 - dq * p.2, dq - dp]

def coef (e : List Int) (k : Nat) : Int := e.getD k 0

/-- S_a and S_b. -/
def LfSetup.sa (u : LfSetup) : Int := u.edges.foldl (fun r e => r + coef e 2) 0
def LfSetup.sb (u : LfSetup) : Int := u.edges.foldl (fun r e => r + coef e 3) 0

/-- Build a setup from three vertex records and a descriptor: the setup, or null, and whether a disparity was clamped. (DEDUCED, log entry 35) -/
def buildSetup (desc : W64 × W64) (recs : List (List Byte)) (idx : List Nat) (cull : Bool) : Option LfSetup × Bool :=
  let views := (desc.2.extractLsb' 0 7).toNat
  let yoff := (desc.2.extractLsb' 16 16).toInt
  let ws := recs.map (fun r => BitVec.ofNat 32 (fieldAt r 8 4))
  match finite32 (desc.1.extractLsb' 0 32), finite32 (desc.1.extractLsb' 32 32), ws.mapM finite32 with
  | some kappa, some wf, some w =>
    if views = 0 ∨ 64 < views ∨ w.any (fun x => decide (x ≤ 0)) then (none, false)
    else
      let dc := w.map (disparity kappa wf)
      let clamped := dc.any (·.2)
      let d := dc.map (·.1)
      let v := recs.map (fun r => (intOf r 0, intOf r 4 + yoff))
      let at_ (k : Nat) : Int × Int := v.getD k (0, 0)
      let dis (k : Nat) : Int := d.getD k 0
      let e := [edgeOf (at_ 1) (at_ 2) (dis 1) (dis 2), edgeOf (at_ 2) (at_ 0) (dis 2) (dis 0), edgeOf (at_ 0) (at_ 1) (dis 0) (dis 1)]
      let u : LfSetup := { views := views, verts := v, w := ws, d := d, idx := idx, edges := e, desc := [desc.1, desc.2] }
      if u.sa = 0 ∨ (u.sa < 0 ∧ cull = true) then (none, clamped)
      else if u.sa < 0 then (some { u with edges := e.map (fun c => c.map (fun x => -x)) }, clamped)
      else (some u, clamped)
  | _, _, _ => (none, false)

/-- The requests that read the three vertex records that s[A] names. -/
def recordReqs (x : W64) : List Nat × List LaneReq :=
  let idx := [(x.extractLsb' 16 8).toNat, (x.extractLsb' 24 8).toNat, (x.extractLsb' 32 8).toNat]
  let off := (x.extractLsb' 0 16).toNat
  (idx, idx.map (fun i => { lane := noLane, va := BitVec.ofNat 64 (off + 16 * i), size := 16 }))

/-- Set sticky bits of LFSTAT (R156). -/
def State.lfFlags (s : State) (bad clamp : Bool) : State :=
  let t := s.team
  s.setTeam { t with sys := { t.sys with
    lfsticky := t.sys.lfsticky ||| (if bad then 2 else 0) ||| (if clamp then 4 else 0) } }

/-- LFSET (R135, R144). -/
def execLfset (a b : BitVec 6) (c : BitVec 1) (s : State) : Out :=
  s.runWord (.lfset a b c) (fun w s =>
    let x := w.r.readS a.toNat
    let (idx, reqs) := recordReqs x
    let off := x.extractLsb' 0 16
    if off.toNat % 16 ≠ 0 then .trap s (w.trap s cALIGN 0 (off.setWidth 64))
    else s.stashNow w reqs (fun s recs =>
      let (u, clamp) := buildSetup (w.r.readS b.toNat, w.r.readS (b.toNat + 1)) recs idx (c = 1)
      .next ((s.setTeam { s.team with lf := u }).lfFlags u.isNone clamp)))

/-! ### Edge functions and spans (R136 to R141) -/

/-- The sample of a pixel coordinate, in 1/256 pixel. -/
def sampleAt (x : W32) : Int := 256 * x.toInt + 128

/-- The view number as t. -/
def LfSetup.t (u : LfSetup) (v : Nat) : Int := 2 * (v : Int) - ((u.views : Int) - 1)

/-- An edge function. -/
def edgeAt (e : List Int) (x y t : Int) : Int := coef e 0 * x + coef e 1 * y + coef e 2 + (coef e 3 + coef e 4 * y) * t

/-- E_0, E_1, E_2 and S. -/
def LfSetup.es (u : LfSetup) (x y t : Int) : List Int := u.edges.map (fun e => edgeAt e x y t)
def LfSetup.area (u : LfSetup) (t : Int) : Int := u.sa + u.sb * t

/-- Whether an edge includes its ties: a left edge, or a top edge. -/
def LfSetup.ties (u : LfSetup) (k : Nat) : Bool :=
  let a := coef (u.edges.getD k []) 0
  decide (0 < a) || (decide (a = 0) && decide ((u.verts.getD ((k + 1) % 3) (0, 0)).2 < (u.verts.getD k (0, 0)).2))

/-- An interval of views, open where none; `dead` when a condition without a view has failed. -/
structure Span where
  lo : Option Int := none
  hi : Option Int := none
  dead : Bool := false
  deriving DecidableEq, Repr, Inhabited

/-- Quotients rounded down and up, for a positive divisor. -/
def floorDiv (a b : Int) : Int := a / b
def ceilDiv (a b : Int) : Int := -((-a) / b)

/-- Narrow an interval by P + Q·v > 0, or ≥ 0 where ties are included. -/
def Span.narrow (i : Span) (p q : Int) (tie : Bool) : Span :=
  let up (x : Int) : Span := { i with lo := some (match i.lo with | some l => if l < x then x else l | none => x) }
  let down (x : Int) : Span := { i with hi := some (match i.hi with | some h => if x < h then x else h | none => x) }
  if 0 < q then up (if tie then ceilDiv (-p) q else floorDiv (-p) q + 1)
  else if q < 0 then down (if tie then floorDiv p (-q) else ceilDiv p (-q) - 1)
  else if 0 < p ∨ (p = 0 ∧ tie = true) then i else { i with dead := true }

/-- The unclipped interval of a pixel. -/
def LfSetup.span (u : LfSetup) (x y : Int) : Span :=
  let m : Int := (u.views : Int) - 1
  let i := (List.range 3).foldl (fun (i : Span) k =>
    let e := u.edges.getD k []
    let al := coef e 0 * x + coef e 1 * y + coef e 2
    let be := coef e 3 + coef e 4 * y
    i.narrow (al - be * m) (2 * be) (u.ties k)) {}
  i.narrow (u.sa - u.sb * m) (2 * u.sb) false

/-- The bits lo to hi. -/
def viewBits (lo hi : Nat) : W64 := BitVec.ofNat 64 (2 ^ (hi + 1) - 2 ^ lo)

/-- The i-register value of a pixel. -/
def Span.ireg (i : Span) (views : Nat) (x y : W32) : IReg :=
  let m : Int := (views : Int) - 1
  let ordered : Bool := !i.dead && (match i.lo, i.hi with | some l, some h => decide (l ≤ h) | _, _ => true)
  let l := match i.lo with | some l => if l < 0 then 0 else l | none => 0
  let h := match i.hi with | some h => if m < h then m else h | none => m
  let below : Bool := match i.lo with | some l => decide (l < 0) | none => true
  let above : Bool := match i.hi with | some h => decide (m < h) | none => true
  let empty := !ordered || decide (h < l)
  let st := (if ordered && above then 2 ^ 14 else 0) + (if ordered && below then 2 ^ 13 else 0) +
    (if empty then 2 ^ 12 else h.toNat * 64 + l.toNat)
  { status := BitVec.ofNat 32 st, mask := if empty then 0 else viewBits l.toNat h.toNat, px := x, py := y }

/-- LFSPAN (R139, R145). -/
def execLfspan (d a b : BitVec 6) (s : State) : Out :=
  s.runWord (.lfspan d a b) (fun w s => s.spanWord w (fun s =>
    let y := (w.r.readS a.toNat).extractLsb' 0 32
    .next (s.withRegs (fun r => w.lanes.foldl (fun r l =>
      let x := (w.r.aLane b.toNat l).extractLsb' 0 32
      r.writeI d.toNat l (match s.team.lf with
        | none => { status := 0x1000, mask := 0, px := x, py := y }
        | some u => (u.span (sampleAt x) (sampleAt y)).ireg u.views x y)) r))))

/-- The weights w_k·E_k, exactly. -/
def LfSetup.wes (u : LfSetup) (x y t : Int) : List Rat :=
  ((u.w.map (fun w => (finite32 w).getD 0)).zip (u.es x y t)).map (fun p => p.1 * (p.2 : Rat))

def sumRat (l : List Rat) : Rat := l.foldl (· + ·) 0

/-- w_tri of a view at a pixel: f32 bits, none where S(t) ≤ 0 (R141). -/
def LfSetup.wTri (u : LfSetup) (px py : W32) (v : Nat) : Option W32 :=
  let t := u.t v
  if u.area t ≤ 0 then none
  else some (XVal.num (sumRat (u.wes (sampleAt px) (sampleAt py) t) / (u.area t : Rat)) false).f32

/-- The lowest set bit of a view mask. -/
def firstView (m : W64) : Option Nat := (List.range 64).find? (fun v => m.getLsbD v)

/-! ### LFINT (R149) -/

/-- What LFINT gives a lane, from its attributes. (DEDUCED, log entry 34) -/
def LfSetup.interpolate (u : LfSetup) (lin wOnly ftz : Bool) (i : IReg) (v : Nat) (attrs : List W32) : FRes :=
  let x := sampleAt i.px
  let y := sampleAt i.py
  let t := u.t v
  let es := u.es x y t
  let wes := u.wes x y t
  let den : Rat := if lin || wOnly then (u.area t : Rat) else sumRat wes
  match (if wOnly then some [] else attrs.mapM finite32) with
  | none => f32.invalid
  | some a =>
    if den ≤ 0 then f32.invalid
    else
      let num : Rat := if wOnly then sumRat wes
        else if lin then sumRat ((a.zip es).map (fun p => p.1 * (p.2 : Rat)))
        else sumRat ((a.zip wes).map (fun p => p.1 * p.2))
      f32.roundRat 0 ftz false (num / den)

/-- LFINT. -/
def execLfint (d a b : BitVec 6) (o l : BitVec 1) (s : State) : Out :=
  s.runWord (.lfint d a b o l) (fun w s => s.spanWord w (fun s =>
    let go (s : State) (attrs : List W32) : Eff :=
      match s.team.lf with
      | none => .next s
      | some u =>
        let lanes := w.lanes.filter (fun n => (w.r.readI a.toNat n).mask ≠ 0)
        let res (n : Nat) : FRes :=
          let i := w.r.readI a.toNat n
          u.interpolate (l = 1) (o = 1) (w.ftz s) i ((firstView i.mask).getD 0) attrs
        .next ((s.withRegs (fun r => lanes.foldl (fun r n => r.writeV d.toNat n (BitVec.ofNat 32 (res n).1)) r)).raiseFlags
          (lanes.foldl (fun f n => f ||| (res n).2) 0))
    if o = 1 then go s []
    else
      let off := ((w.r.readS b.toNat).extractLsb' 0 16).toNat
      let idx := match s.team.lf with | some u => u.idx | none => [0]
      s.stashNow w (idx.map (fun k => { lane := noLane, va := BitVec.ofNat 64 (off + 4 * k), size := 4 })) (fun s l =>
        go s (l.map (fun x => BitVec.ofNat 32 (leNat x))))))

/-! ### LFZ (R146 to R148) -/

/-- The views of a lane that LFZ tests, each with its w_tri. -/
def lfzViews (u : Option LfSetup) (i : IReg) : List (Nat × W32) :=
  match u with
  | none => []
  | some u => ((List.range 64).filter (fun v => i.mask.getLsbD v)).filterMap (fun v => (u.wTri i.px i.py v).map (fun x => (v, x)))

/-- LFZ: the elements are checked, and then read, or tested and written at their homes; the i-register is written at the
completion, which is a seam. -/
def execLfz (d a : BitVec 6) (wr : BitVec 1) (s : State) : Out :=
  s.runWord (.lfz d a wr) (fun w s =>
    let t := s.team
    let who := s.whoOf s.cur
    let lw : LongWord := { id := 0, kind := .gather, width := 2, who := who, op := if wr = 1 then some .depth else none, fin := true }
    let views (l : Nat) : List (Nat × W32) := lfzViews t.lf (w.r.readI d.toNat l)
    let finish (s : State) (v : LongWord) : Eff :=
      .seam (s.withRegs (fun r => w.lanes.foldl (fun r l =>
        let i := w.r.readI d.toNat l
        let kept := (views l).filter (fun x => lt32 (v.piece l x.1) x.2)
        r.writeI d.toNat l { i with mask := BitVec.ofNat 64 ((kept.map (fun x => 2 ^ x.1)).sum) }) r)) (useSet w.f.seamWrites)
    match t.wait with
    | .access _ => s.gatherWord w [] lw finish
    | _ =>
      let reqs := w.lanes.flatMap (fun l => (views l).map (fun x =>
        { lane := l, va := w.r.aLane a.toNat l + BitVec.ofNat 64 (4 * x.1), size := 4, idx := x.1, x := x.2.setWidth 128 }))
      match s.checkLanes (dieOf s.cur) t.place.ctx who.race (if wr = 1 then .store else .load) true reqs with
      | .error f => .trap s (w.laneTrap s f)
      | .ok l =>
        if l.isEmpty then finish s lw
        else (s.fillCaches (coreOf s.cur) t.place.ctx (some s.cur) (reqs.map (·.va))).gatherWord w
          (if wr = 1 then gatherLines l else gather l) lw finish)

/-! ### LFOUT (R147, R148, R150) -/

/-- The views of a run: from the lowest set bit on, at most `rate`. -/
def runLen (m : W64) (f rate : Nat) : Nat :=
  ((List.range rate).takeWhile (fun k => decide (f + k ≤ 63) && m.getLsbD (f + k))).length

/-- The run of a mask: its first view and its length. -/
def runOf (m : W64) (rate : Nat) : Nat × Nat :=
  match firstView m with
  | none => (0, 0)
  | some f => (f, runLen m f rate)

/-- LFOUT. -/
def execLfout (d a b : BitVec 6) (c : BitVec 1) (z : BitVec 2) (s : State) : Out :=
  s.runWord (.lfout d a b c z) (fun w s =>
    let t := s.team
    let who := s.whoOf s.cur
    let size := if z = 1 then 8 else if z = 2 then 2 else 4
    let rate := t.sys.lfrate.toNat % 128
    let run (l : Nat) : Nat × Nat := runOf (w.r.readI a.toNat l).mask rate
    let finish (s : State) : Eff :=
      .seam (s.withRegs (fun r => w.lanes.foldl (fun r l =>
        let i := w.r.readI a.toNat l
        let (f, n) := run l
        r.writeI a.toNat l { i with mask := if n = 0 then i.mask else i.mask &&& ~~~(viewBits f (f + n - 1)) }) r))
        (useSet w.f.seamWrites)
    match t.wait with
    | .access _ => s.issueStores w [] none false who true finish
    | _ =>
      let reqs := w.lanes.flatMap (fun l =>
        let (f, n) := run l
        (List.range n).map (fun k =>
          { lane := l, va := w.r.aLane b.toNat l + BitVec.ofNat 64 ((f + k) * size), size := size,
            x := (w.vec d.toNat (if z = 1 then 2 else 1) l).setWidth 128 }))
      match s.checkLanes (dieOf s.cur) t.place.ctx who.race .store true reqs with
      | .error f => .trap s (w.laneTrap s f)
      | .ok l =>
        (s.fillCaches (coreOf s.cur) t.place.ctx (some s.cur) (reqs.map (·.va))).issueStores w (gather l) none false who true finish)

/-! ### LFQRY (R151) -/

/-- LFQRY. -/
def execLfqry (d a : BitVec 6) (q : BitVec 3) (s : State) : Out :=
  s.runWord (.lfqry d a q) (fun w s =>
    let rate := s.team.sys.lfrate.toNat % 128
    let val (i : IReg) : W32 :=
      if q = 0 then i.status
      else if q = 1 then i.mask.extractLsb' 0 32
      else if q = 2 then i.mask.extractLsb' 32 32
      else if q = 3 then BitVec.ofNat 32 (popBits 64 i.mask.toNat)
      else if q = 4 then BitVec.ofNat 32 ((firstView i.mask).getD 64)
      else if q = 5 then i.px
      else if q = 6 then i.py
      else BitVec.ofNat 32 (runOf i.mask rate).2
    .next (s.withRegs (fun r => w.lanes.foldl (fun r l => r.writeV d.toNat l (val (w.r.readI a.toNat l))) r)))

/-! ### QMERGE (R152) -/

/-- The gradients of w at t = 0, per pixel, as f32. (DEDUCED, log entry 36) -/
def LfSetup.gradient (u : LfSetup) : W32 × W32 :=
  let ws := u.w.map (fun w => (finite32 w).getD 0)
  let part (k : Nat) : Rat := sumRat ((ws.zip u.edges).map (fun p => p.1 * ((coef p.2 k : Int) : Rat))) * 256 / (u.sa : Rat)
  ((XVal.num (part 0) false).f32, (XVal.num (part 1) false).f32)

/-- Whether two f32 values differ by at most a tolerance. -/
def within (tol x y : W32) : Bool :=
  let t := f32.read false tol.toNat
  if t.isNaN || t.lt (.fin false 0 0) then false
  else match finite32 x, finite32 y with
    | some a, some b => (XVal.num (if a < b then b - a else a - b) false).le (.ofF t)
    | _, _ => false

/-- The lanes outside c that a quad's view fills: none where it fills nothing. -/
def quadFill (wt wu : Nat → Option W32) (wtol : W32) (c u : Nat → Bool) : List Nat :=
  let outside := (List.range 4).filter (fun k => !c k)
  if outside = [] ∨ outside.length = 4 then []
  else if outside.all (fun k => u k && (match wt k, wu k with
      | some x, some y => within wtol x y
      | _, _ => false)) then outside
  else []

/-- The bits that a quad moves: lane of the quad, and view. Both triangles' w is taken at the PX of i[D]. (DESIGN CHOICE, log entry 75) -/
def quadMoves (t u : LfSetup) (wtol : W32) (d a : Nat → IReg) : List (Nat × Nat) :=
  let same := (List.range 4).all (fun k => (d k).py == (d 0).py && (a k).py == (d 0).py &&
    decide ((d k).px.toInt = (d 0).px.toInt + k) && decide ((a k).px.toInt = (a 0).px.toInt + k))
  if !same then []
  else (List.range 64).flatMap (fun v =>
    (quadFill (fun k => t.wTri (d k).px (d k).py v) (fun k => u.wTri (d k).px (d k).py v) wtol
      (fun k => (d k).mask.getLsbD v) (fun k => (a k).mask.getLsbD v)).map (fun k => (k, v)))

/-- QMERGE (R152). s[B] is checked as LFSET checks s[A] (ALIGN, STASHRANGE), also where the current setup is null. (DESIGN CHOICE, log entry
75) -/
def execQmerge (d a b : BitVec 6) (s : State) : Out :=
  s.runWord (.qmerge d a b) (fun w s => s.spanWord w (fun s =>
    let x := w.r.readS b.toNat
    let (idx, reqs) := recordReqs x
    let off := x.extractLsb' 0 16
    if off.toNat % 16 ≠ 0 then .trap s (w.trap s cALIGN 0 (off.setWidth 64))
    else s.stashNow w reqs (fun s recs =>
      let dests := useSet w.f.seamWrites
      match s.team.lf with
      | none => .seam s dests
      | some t =>
        let (u, clamp) := buildSetup (t.desc.getD 0 0, t.desc.getD 1 0) recs idx false
        let s := s.lfFlags false clamp
        match u with
        | none => .seam s dests
        | some u =>
          let gtol := s.team.sys.lfqtol.extractLsb' 32 32
          let wtol := s.team.sys.lfqtol.extractLsb' 0 32
          if !(within gtol t.gradient.1 u.gradient.1 && within gtol t.gradient.2 u.gradient.2) then .seam s dests
          else
            let moves := (List.range (w.width / 4)).flatMap (fun q =>
              if (List.range 4).all (fun k => w.mask.getLsbD (4 * q + k)) then
                (quadMoves t u wtol (fun k => w.r.readI d.toNat (4 * q + k)) (fun k => w.r.readI a.toNat (4 * q + k))).map
                  (fun m => (4 * q + m.1, m.2))
              else [])
            .seam (s.withRegs (fun r => moves.foldl (fun r m =>
              let i := r.readI d.toNat m.1
              let r := r.writeI d.toNat m.1 { i with mask := i.mask ||| BitVec.ofNat 64 (2 ^ m.2) }
              let j := r.readI a.toNat m.1
              r.writeI a.toNat m.1 { j with mask := j.mask &&& ~~~(BitVec.ofNat 64 (2 ^ m.2)) }) r)) dests)))

/-! ### MSHDEC (R153 to R155) -/

/-- How decoding ends: more bytes are needed, a field fails at a bit offset, or vertices, triangles and bits read. -/
inductive MeshRes where
  | more
  | bad (offset : Nat)
  | done (verts : List (List Nat)) (tris : List (List Nat)) (bits : Nat)
  deriving DecidableEq, Repr, Inhabited

/-- The header fields. -/
def meshNV (l : List Byte) : Nat := bitsAt l 0 8 + 1
def meshNT (l : List Byte) : Nat := bitsAt l 8 9
def meshQB (l : List Byte) : Nat := bitsAt l 20 5
def meshDB (l : List Byte) : Nat := bitsAt l 25 5

/-- The first failing header field. -/
def meshHeaderBad (l : List Byte) : Option Nat :=
  if 512 < meshNT l then some 8
  else if bitsAt l 17 3 ≠ 0 then some 17
  else if meshQB l = 0 ∨ 24 < meshQB l then some 20
  else if meshDB l = 0 ∨ 25 < meshDB l then some 25
  else if bitsAt l 30 2 ≠ 0 then some 30
  else if bitsAt l 160 96 ≠ 0 then some 160
  else none

/-- The vertices after the first, from a bit offset on: their quantised coordinates. -/
def meshVerts (l : List Byte) (qb db : Nat) : Nat → Nat → List Nat → List (List Nat)
  | 0, _, _ => []
  | n + 1, o, q =>
    let q' := (List.range 3).map (fun k =>
      (((q.getD k 0 : Nat) : Int) + signedOf db (bitsAt l (o + db * k) db) |>.emod (2 ^ qb : Nat)).toNat)
    q' :: meshVerts l qb db n (o + 3 * db) q'

/-- The first of some indices that is out of range. -/
def badIndex (nv o : Nat) : List Nat → Option Nat
  | [] => none
  | i :: r => if nv ≤ i then some o else badIndex nv (o + 8) r

def max2 (a b : Nat) : Nat := if a < b then b else a

/-- The triangles after the first, from a bit offset on. -/
def meshTris (l : List Byte) (nv : Nat) : Nat → Nat → List Nat → Nat → List (List Nat) → MeshRes
  | 0, o, _, _, acc => .done [] acc.reverse o
  | m + 1, o, t, n, acc =>
    let a := t.getD 0 0
    let b := t.getD 1 0
    let c := t.getD 2 0
    if 8 * l.length < o + 2 then .more
    else
      let code := bitsAt l o 2
      if code < 2 then
        if nv ≤ n then .bad o
        else
          let t' := if code = 0 then [c, b, n] else [a, c, n]
          meshTris l nv m (o + 2) t' (n + 1) (t' :: acc)
      else if code = 2 then
        if 8 * l.length < o + 10 then .more
        else
          let r := bitsAt l (o + 2) 8
          if nv ≤ r then .bad (o + 2)
          else meshTris l nv m (o + 10) [c, b, r] (max2 n (r + 1)) ([c, b, r] :: acc)
      else
        if 8 * l.length < o + 26 then .more
        else
          let t' := (List.range 3).map (fun k => bitsAt l (o + 2 + 8 * k) 8)
          match badIndex nv (o + 2) t' with
          | some e => .bad e
          | none => meshTris l nv m (o + 26) t' (max2 n (t'.foldl max2 0 + 1)) (t' :: acc)

/-- Decode a stream of which some bytes have been read. -/
def meshDecode (l : List Byte) : MeshRes :=
  if l.length < 32 then .more
  else match meshHeaderBad l with
    | some o => .bad o
    | none =>
      let nv := meshNV l
      let qb := meshQB l
      let db := meshDB l
      let o := 256 + 3 * qb + 3 * db * (nv - 1)
      if 8 * l.length < o then .more
      else
        let q0 := (List.range 3).map (fun k => bitsAt l (256 + qb * k) qb)
        let verts := q0 :: meshVerts l qb db (nv - 1) (256 + 3 * qb) q0
        if meshNT l = 0 then .done verts [] o
        else if 8 * l.length < o + 24 then .more
        else
          let t := (List.range 3).map (fun k => bitsAt l (o + 8 * k) 8)
          match badIndex nv o t with
          | some e => .bad e
          | none => match meshTris l nv (meshNT l - 1) (o + 24) t (t.foldl max2 0 + 1) [t] with
            | .done _ tris bits => .done verts tris bits
            | x => x

/-- A coordinate: ORG + q·SCALE, rounded once. -/
def meshCoord (l : List Byte) (k q : Nat) : Nat :=
  (f32.fma 0 false (f32.ofInt 0 false (q : Int)).1 (bitsAt l 32 32) (bitsAt l (64 + 32 * k) 32)).1

/-- The bytes of the vertices, and those of the triangles. -/
def meshVertBytes (l : List Byte) (verts : List (List Nat)) : List Byte :=
  verts.flatMap (fun v => (List.range 3).flatMap (fun k => leBytes 4 (meshCoord l k (v.getD k 0))) ++ leBytes 4 0)
def meshTriBytes (tris : List (List Nat)) : List Byte :=
  tris.flatMap (fun t => (List.range 3).map (fun k => BitVec.ofNat 8 (t.getD k 0)) ++ [0])

/-- Write the decoded meshlet to the stash and the summary to s[D]: every line is made ready, and every check is made, before any byte is
written (R155); nothing is written while a line must wait. -/
def State.meshWrite (s s0 : State) (w : Wd) (d : BitVec 6) (off : Nat) (l : List Byte) (verts tris : List (List Nat)) (bits : Nat) :
    Eff :=
  let wg := s.team.wgKey
  let who := s.whoOf s.cur
  let cuts := stashCuts off (meshVertBytes l verts) ++ stashCuts (off + 4096) (meshTriBytes tris)
  let lines := (cuts.filterMap (fun x => (s.wgs.get wg).mappedAt x.1)).eraseDups.map (fun x =>
    (x.1, x.2, ((s.wgs.get wg).ranges.get x.1).pas.get x.2))
  let held := lines.filter (fun x => ((s.wgs.get wg).ranges.get x.1).state.get x.2.1 ≠ 0)
  if !s.stashReady wg held (cuts.map (·.1)) then .hold s0 noReason
  else match s.stashTakeAll who s.cur wg cuts with
    | .wait s1 => .hold (s1.setTeam s0.team) noReason
    | .fault f s => .trap s (w.trap s f.cause f.detail f.addr)
    | .ok parts s => match s.stashTrap w wg parts who true with
      | (s1, some r) => .trap s1 r
      | (s1, none) =>
        let x := verts.length + tris.length * 65536 + (bits + 7) / 8 * 2 ^ 32
        .next ((parts.foldl (fun s p => s.stashPerform wg p who) s1).withRegs (fun r => r.writeS d.toNat (BitVec.ofNat 64 x)))

/-- MSHDEC: the stream is read 16 bytes at a time until it has been decoded whole; the bytes read so far, two words for
each 16, and the operands at issue stay with the word. (DEDUCED, log entry 37) -/
def execMshdec (d a b : BitVec 6) (s : State) : Out :=
  s.runWord (.mshdec d a b) (fun w s =>
    let t := s.team
    let who := s.whoOf s.cur
    let die := dieOf s.cur
    let lw : LongWord := { id := 0, kind := .gather, width := 4, who := who }
    let read (s : State) (args : List W64) (done : State → LongWord → Eff) : Eff :=
      let va := args.getD 0 0 + BitVec.ofNat 64 (8 * (args.length - 2))
      match s.checkLanes die t.place.ctx who.race .load true [{ lane := noLane, va := va, size := 16 }] with
      | .error f => .trap s (w.laneTrap s f)
      | .ok l =>
        ((s.setTeam { s.team with wait := .none }).fillCaches (coreOf s.cur) t.place.ctx (some s.cur) [va]).gatherWord w (gather l) { lw with args := args } done
    let step (s0 s : State) (v : LongWord) : Eff :=
      let p (k : Nat) : W32 := v.piece noLane k
      let args := v.args ++ [p 1 ++ p 0, p 3 ++ p 2]
      let bytes := (args.drop 2).flatMap (fun x => leBytes 8 x.toNat)
      match meshDecode bytes with
      | .more => read s args (fun s _ => .hold s noReason)
      | .bad o => .trap s (w.trap s cFORMAT 0 (args.getD 0 0) 0xFFFF (BitVec.ofNat 32 o))
      | .done verts tris bits => s.meshWrite s0 w d ((args.getD 1 0).extractLsb' 0 32).toNat bytes verts tris bits
    match t.wait with
    | .access _ => s.gatherWord w [] lw (fun s1 v => step s s1 v)
    | _ =>
      let va := w.r.readS a.toNat
      let out := w.r.readS b.toNat
      let off := (out.extractLsb' 0 32).toNat
      if va.toNat % 16 ≠ 0 then .trap s (w.trap s cALIGN 0 va)
      else if off % 16 ≠ 0 then .trap s (w.trap s cALIGN 0 (BitVec.ofNat 64 off))
      else if s.stashSize t < off + 6144 then .trap s (w.trap s cSTASHRANGE 0 (BitVec.ofNat 64 off))
      else read s [va, out] (fun s _ => .hold s noReason))

end Sys2Proof.Machine
end

