-- ==== Sys2Proof/Machine/Sampler.lean ====
section
/-! DEFINITION. The sampler path: its cache, image descriptors, and TLD, TEX, TEXG and TQRY (R158, R159, R220 to
R224). -/

namespace Sys2Proof.Machine

/-! ### What a sampler read returns (R158) -/

/-- The step from which on a sampler read of the current team may return what its elements held: its grid's dependences were satisfied,
and the sampler cache of its core was invalidated, no later. -/
def State.samplerFrom (s : State) : Nat :=
  let g := s.gridOf s.team
  let c := s.cores.get (coreOf s.cur)
  if g.started < c.samplerAt then c.samplerAt else g.started

/-- An element of a sampler read: each naturally aligned part of up to 8 bytes whole, as it stood at its home at some moment since a
step. (DESIGN CHOICE, log entry 16) -/
def State.samplerElem (s : State) (pa size since key : Nat) : List Byte :=
  (List.range ((size + 7) / 8)).flatMap (fun j =>
    let n := if size < 8 then size else 8
    s.bytesBefore (pa + 8 * j) n since
      (Config.freeNat s.freeCtr (16 + 2 * key + j) % ((s.writesSince (pa + 8 * j) n since).length + 1)))

/-- The values of the elements of one request. -/
def State.samplerElems (s : State) (w : LongWord) (p : Part) : List (Nat × Nat × W32) :=
  p.elems.flatMap (fun e => (pieces w.width e.size (leNat (s.samplerElem (p.line + e.off) e.size w.upto (e.lane * 4096 + e.idx)))).map
    (fun x => (e.lane, e.idx + x.1, x.2)))

/-- An uncorrectable line of the sampler cache is treated as a miss: it is recorded and fetched again (R191). -/
def State.mendSampler (s : State) (core line : Nat) (uid ctx : Nat) : State :=
  if (s.cores.get core).sampler.contains line && s.bad.get (samplerKey core line) then
    ((s.errRecord line 3 (dieOfCore core) (some uid) (some ctx)).mended (samplerKey core line)).modCore core (fun c =>
      { c with sampler := c.sampler.filter (· ≠ line) })
  else s

/-! ### Image descriptors (R222) -/

/-- An image descriptor. -/
structure Image where
  base : W64
  pitch : Nat
  wm1 : Nat
  hm1 : Nat
  kind : Nat
  wrap : Nat
  deriving DecidableEq, Repr, Inhabited

/-- The size of a texel. -/
def Image.size (i : Image) : Nat := if i.kind = 1 then 8 else if i.kind = 2 then 16 else 4

/-- A descriptor's 32 bytes; none where one of its rules is broken. -/
def imageOf (b : List Byte) : Option Image :=
  let i : Image := { base := BitVec.ofNat 64 (fieldAt b 0 8), pitch := fieldAt b 8 4, wm1 := fieldAt b 12 2,
                     hm1 := fieldAt b 14 2, kind := fieldAt b 16 1, wrap := fieldAt b 17 1 }
  if i.kind ≤ 3 ∧ i.wrap < 16 ∧ i.wrap % 4 ≠ 3 ∧ i.wrap / 4 ≠ 3 ∧ fieldAt b 18 14 = 0 ∧ i.base.toNat % 16 = 0
      ∧ i.pitch % 16 = 0 ∧ (i.wm1 + 1) * i.size ≤ i.pitch then some i else none

/-- The descriptor as the four words that an outstanding word keeps. -/
def Image.words (i : Image) : List W64 :=
  [i.base, BitVec.ofNat 64 i.pitch, BitVec.ofNat 64 (i.wm1 + 65536 * i.hm1), BitVec.ofNat 64 (i.kind + 256 * i.wrap)]

/-- The descriptor kept by an outstanding word. -/
def imageOfWords (l : List W64) : Image :=
  let x (k : Nat) : Nat := (l.getD k 0).toNat
  { base := l.getD 0 0, pitch := x 1, wm1 := x 2 % 65536, hm1 := x 2 / 65536, kind := x 3 % 256, wrap := x 3 / 256 }

/-- The texel index of a wrap mode; none for a border texel outside the image. -/
def wrapIndex (mode n : Nat) (i : Int) : Option Nat :=
  if mode = 0 then some (if i < 0 then 0 else if (n : Int) ≤ i then n - 1 else i.toNat)
  else if mode = 1 then some (i % (n : Int)).toNat
  else if i < 0 ∨ (n : Int) ≤ i then none else some i.toNat

/-! ### Footprints (R223) -/

/-- The first texel of a footprint in one direction, and its weight a in 256ths. -/
def footprint (pt : Bool) (u : W32) (n : Nat) : Int × Nat :=
  let uu := (f32.read false u.toNat).rat
  if pt then ((uu * (n : Rat)).floor, 0)
  else
    let xf := uu * (n : Rat) - 1 / 2
    let x0 := xf.floor
    let a := (roundEven (256 * (xf - (x0 : Rat)))).toNat
    if a = 256 then (x0 + 1, 0) else (x0, a)

/-- One texel of a footprint: its number 0 to 3, its weight in 65536ths, and its place where it is read. -/
structure Texel where
  num : Nat
  weight : Nat
  at_ : Option (Nat × Nat)

/-- The four texels of a lane's footprint. -/
def Image.texels (i : Image) (pt : Bool) (u v : W32) : List Texel :=
  let (x0, a) := footprint pt u (i.wm1 + 1)
  let (y0, b) := footprint pt v (i.hm1 + 1)
  (List.range 4).map (fun k =>
    let dx : Nat := k % 2
    let dy : Nat := k / 2
    let x := wrapIndex (i.wrap % 4) (i.wm1 + 1) (x0 + dx)
    let y := wrapIndex (i.wrap / 4) (i.hm1 + 1) (y0 + dy)
    { num := k, weight := (if dx = 1 then a else 256 - a) * (if dy = 1 then b else 256 - b),
      at_ := match x, y with | some x, some y => some (x, y) | _, _ => none })

/-- The address of a texel. -/
def Image.texelVa (i : Image) (x y : Nat) : W64 := i.base + BitVec.ofNat 64 (y * i.pitch + x * i.size)

/-! ### Channels (R222 to R224) -/

/-- Channel c of a texel, from the 32-bit pieces of its bytes. -/
def Image.chan (i : Image) (c : Nat) (p : Nat → W32) : XVal :=
  if i.kind = 0 then .num (((p 0).toNat / 256 ^ c % 256 : Nat) / 255) false
  else if i.kind = 1 then .ofF (f16.read false ((p (c / 2)).toNat / 65536 ^ (c % 2) % 65536))
  else if i.kind = 2 then .ofF32 (p c)
  else if c = 0 then .ofF32 (p 0)
  else .num (if c = 3 then 1 else 0) false

/-- A channel as the f32 that TEXG writes: a float keeps its bits, or its exact value; a byte is rounded once. -/
def Image.chanBits (i : Image) (c : Nat) (p : Nat → W32) : W32 :=
  if i.kind = 2 then p c else if i.kind = 3 ∧ c = 0 then p 0 else (i.chan c p).f32

/-- The weighted sum of the terms of a channel, exact, rounded once; a weight does not change a term that is no
number. -/
def filterSum (l : List (Nat × XVal)) : W32 :=
  (XVal.sum (l.map (fun x => (XVal.num ((x.1 : Rat) / 65536) false).mul x.2))).f32

/-! ### The words -/

/-- What TEX and TEXG need of their own fields: nearest or not, and the channel that TEXG gathers. -/
structure TexForm where
  d : Nat
  pt : Bool
  gather : Option Nat

/-- The form of an outstanding TEX or TEXG. -/
def texForm : Instr → Option TexForm
  | .tex d _ _ _ p => some ⟨d.toNat, p = 1, none⟩
  | .texg d _ _ _ n => some ⟨d.toNat, false, some n.toNat⟩
  | _ => none

/-- The texels that a form reads. -/
def TexForm.reads (f : TexForm) (l : List Texel) : List Texel :=
  l.filter (fun t => t.at_.isSome && (f.gather.isSome || decide (t.weight ≠ 0)))

/-- What a lane of TEX or TEXG writes, from the pieces that its texels gave. -/
def TexForm.result (f : TexForm) (i : Image) (u v : W32) (piece : Nat → W32) : List (Nat × W32) :=
  let l := i.texels f.pt u v
  let p (t : Texel) : Nat → W32 := fun k => piece (4 * t.num + k)
  match f.gather with
  | some c => l.map (fun t => (t.num, if t.at_.isSome then i.chanBits c (p t) else 0))
  | none => (List.range 4).map (fun c => (c, filterSum ((l.filter (fun t => decide (t.weight ≠ 0))).map (fun t =>
      (t.weight, if t.at_.isSome then i.chan c (p t) else .num 0 false)))))

/-- What an outstanding TEX or TEXG writes, once every texel has been read. -/
def LongWord.texResults (w : LongWord) (width : Nat) : List (Nat × Nat × W32) :=
  match texForm (fetched w.word) with
  | none => w.results
  | some f =>
    let i := imageOfWords w.args
    let lanes := lanesOf width w.mask
    (List.range lanes.length).flatMap (fun k =>
      let l := lanes.getD k 0
      let uv := w.args.getD (4 + k) 0
      (f.result i (uv.extractLsb' 0 32) (uv.extractLsb' 32 32) (w.piece l)).map (fun r => (l, f.d + r.1, r.2)))

/-- LOAD_AT_HOME of a sampler request: a line that a stash holds may have been given back, and a fill that was outstanding when the cache
was invalidated installs no line (R158, R159, R182). -/
def State.samplerPart (s0 : State) (uid id k : Nat) : State :=
  let t := s0.teams.get uid
  let core := coreOf uid
  match t.word? id with
  | none => s0
  | some w => match w.parts[k]? with
    | none => s0
    | some p =>
      if p.fixed || !p.issued || !t.acquiresFixed w.seq then s0
      else
        let s1 := s0.mendSampler core p.line uid w.who.ctx
        let s := if s1.choice 7 p.line then s1.handBack p.line else s1
        let hit := (s.cores.get core).sampler.contains p.line
        match (if hit then none else s.badElem p.line p.elems) with
        | some e =>
          (s.dramError (p.line + e.off) (some uid) (some w.who.ctx)).modTeam uid (fun t =>
            t.setWord { w.setPart k (fun p => { p with fixed := true }) with
              err := some (cMEMERR, e.lane, 0, p.va + BitVec.ofNat 64 e.off) })
        | none =>
          let res := s.samplerElems w p
          let w1 := w.setPart k (fun p => { p with fixed := true })
          let w2 : LongWord := if (texForm (fetched w.word)).isSome then
              let w3 := { w1 with raw := w1.raw ++ res }
              if w3.parts.all (fun p => p.fixed) then { w3 with results := w3.texResults t.place.width } else w3
            else { w1 with results := w1.results ++ res }
          let s2 := if (s.cores.get core).samplerAt ≤ w.upto then s.samplerKeep core p.line else s
          ((if hit then s2 else s2.fillSectors p.line 128)).modTeam uid (fun t => t.setWord w2)

/-- Read the descriptor of a sampler word; the word goes on with it. -/
def State.withImage (s : State) (w : Wd) (va : W64) (go : Image → Eff) : Eff :=
  match s.team.wait with
  | .access _ => s.issueWord w [] { id := 0 } .next
  | _ =>
    if va.toNat % 32 ≠ 0 then .trap s (w.trap s cALIGN 0 va)
    else match s.checkElem (dieOf s.cur) s.team.place.ctx 0 .sampler false 32 va with
      | .error f => .trap s (w.trap s f.cause f.detail f.addr)
      | .ok p =>
        if s.badRange p.pa 32 then
          let s1 := s.dramError p.pa (some s.cur) (some s.team.place.ctx)
          .trap s1 (w.trap s1 cMEMERR 0 va)
        else match imageOf (s.samplerElem p.pa 32 s.samplerFrom 0) with
          | none => .trap s (w.trap s cFORMAT 0 va)
          | some i => go i

/-- The lanes of TEX and TEXG: each texel it reads, lowest lane first. -/
def Wd.texReqs (w : Wd) (f : TexForm) (i : Image) (a : BitVec 6) : List LaneReq :=
  w.lanes.flatMap (fun l =>
    (f.reads (i.texels f.pt (w.r.readV a.toNat l) (w.r.readV (a.toNat + 1) l))).map (fun t =>
      let xy := t.at_.getD (0, 0)
      { lane := l, va := i.texelVa xy.1 xy.2, size := i.size, idx := 4 * t.num }))

/-- The operands that an outstanding TEX or TEXG keeps. -/
def Wd.texArgs (w : Wd) (i : Image) (a : BitVec 6) : List W64 :=
  i.words ++ w.lanes.map (fun l => w.r.readV (a.toNat + 1) l ++ w.r.readV a.toNat l)

/-- Issue a sampler word: its lanes are checked, and its elements are read later. A word all of whose texels lie on the
border has its results at once. -/
def State.issueSampler (s : State) (w : Wd) (reqs : List LaneReq) (lw : LongWord) : Eff :=
  match s.team.wait with
  | .access _ => s.issueWord w [] lw .next
  | _ =>
    match s.checkLanes (dieOf s.cur) s.team.place.ctx 0 .sampler true reqs with
    | .error f => .trap s (w.laneTrap s f)
    | .ok l =>
      let lw := { lw with upto := s.samplerFrom, word := wordBits w.ins, mask := w.mask }
      let lw := if l.isEmpty then { lw with results := lw.texResults w.width } else lw
      (s.fillCaches (coreOf s.cur) s.team.place.ctx (some s.cur) (reqs.map (·.va))).issueWord w (gather l) lw .next

/-- What sampler words carry: they are not checked for races. -/
def State.samplerWho (s : State) : Who := { s.whoOf s.cur with race := 0 }

/-- TLD (R221). -/
def execTld (d a b : BitVec 6) (f : BitVec 1) (wd : BitVec 3) (k : BitVec 1) (s : State) : Out :=
  s.runWord (.tld d a b f wd k) (fun w s =>
    let size := widthSize wd
    let off (l : Nat) : W64 :=
      if k = 0 then (w.r.readV b.toNat l).signExtend 64 else b.signExtend 64 * BitVec.ofNat 64 size
    s.issueSampler w
      (w.lanes.map (fun l => { lane := l, va := w.r.aLane a.toNat l + off l, size := size, idx := d.toNat }))
      (w.loadWord .sampler wd s.samplerWho))

/-- TEX (R223). -/
def execTex (d a b : BitVec 6) (f p : BitVec 1) (s : State) : Out :=
  s.runWord (.tex d a b f p) (fun w s =>
    s.withImage w (w.r.readS b.toNat) (fun i =>
      s.issueSampler w (w.texReqs ⟨d.toNat, p = 1, none⟩ i a) { w.loadWord .sampler 2 s.samplerWho with args := w.texArgs i a }))

/-- TEXG (R224). (DEDUCED, log entry 17) -/
def execTexg (d a b : BitVec 6) (f : BitVec 1) (n : BitVec 2) (s : State) : Out :=
  s.runWord (.texg d a b f n) (fun w s =>
    s.withImage w (w.r.readS b.toNat) (fun i =>
      s.issueSampler w (w.texReqs ⟨d.toNat, false, some n.toNat⟩ i a)
        { w.loadWord .sampler 2 s.samplerWho with args := w.texArgs i a }))

/-- TQRY (R224). -/
def execTqry (d b : BitVec 6) (f : BitVec 1) (s : State) : Out :=
  s.runWord (.tqry d b f) (fun w s =>
    s.withImage w (w.r.readS b.toNat) (fun i =>
      let x := BitVec.ofNat 32 (65536 * i.hm1 + i.wm1)
      s.outstanding w { w.loadWord .sampler 2 s.samplerWho with results := w.lanes.map (fun l => (l, d.toNat, x)) } false))

end Sys2Proof.Machine
end

