-- ==== Sys2Proof/Machine/Requests.lean ====
section
/-! DEFINITION. What happens to a team's requests and outstanding words: their parts at home, their acknowledgements, their
tokens, their completions, and the reports that come back (R42, R159, R179, R193, R204 to R206, R236, R246, R310, R313, R324,
R341 to R344, R378, R399). -/

namespace Sys2Proof.Machine

/-! ### Requests at their homes -/

/-- STORE_AT_HOME: a store request of a miss tracker, or a line that a copy writes, is performed. -/
def execStoreAtHome (src : StoreSource) (s : State) : Out :=
  s.event (fun s => match src with
    | .tracker core req => s.trackerHome core req
    | .copyLine copy line => s.copyLine copy line)

/-- LOAD_AT_HOME: a request of an outstanding load has its value fixed, or a lane of a walk goes one step on. -/
def execLoadAtHome (uid id k : Nat) (s : State) : Out :=
  s.event (fun s => match (s.teams.get uid).word? id with
    | none => s
    | some w => match w.kind with
      | .stash => s.stashPart uid id k
      | .sampler => s.samplerPart uid id k
      | .trace | .trres => s.travPart uid id k
      | .trget => s.trgetPart uid id k
      | _ => s.partHome uid id k false)

/-- ATOMIC_AT_HOME: a request of an outstanding atomic, or of RED or an ATX store in a miss tracker, is performed. -/
def execAtomicAtHome (src : AtomicSource) (s : State) : Out :=
  s.event (fun s => match src with
    | .word uid id k => s.partHome uid id k true
    | .tracker core req => s.trackerHome core req)

/-- STORE_ACKNOWLEDGEMENT: a performed store gives its entries of the miss tracker back (R179). -/
def execStoreAcknowledgement (core req : Nat) (s : State) : Out :=
  s.event (fun s => s.modCore core (fun c => { c with tracker := c.tracker.filter (fun r => !(r.id == req && r.performed)) }))

/-- FENCE_TOKEN: a wave's token reaches the end of a path. -/
def execFenceToken (wave path : Nat) (s : State) : Out := s.event (fun s => s.tokenDelivered wave path)

/-- FENCE_TOKEN_ACK: the homes of a path acknowledge a wave's token. -/
def execFenceTokenAck (wave path : Nat) (s : State) : Out := s.event (fun s => s.tokenAck wave path)

/-! ### Invalidations (R159, R236) -/

/-- A core has done its part of an invalidation. -/
def State.invalidated (s : State) (wave core : Nat) : State :=
  ({ s with waves := s.waves.map (fun (w : Wave) =>
      if w.id = wave then { w with cores := w.cores.filter (· ≠ core) } else w) }).sweepWaves

/-- SAMPLER_INVALIDATION: a core that a fence reaches empties its sampler cache; a fill that is outstanding installs nothing. -/
def execSamplerInvalidation (wave core : Nat) (s : State) : Out :=
  s.event (fun s => match s.waves.find? (fun w => w.id == wave) with
    | none => s
    | some w =>
      if w.cores.contains core && w.range.isNone then (s.modCore core (fun c => { c with sampler := [], samplerAt := s.freeCtr })).invalidated wave core
      else s)

/-- The physical lines that a virtual range touches. -/
def State.rangeLines (s : State) (die ctx : Nat) (va : W64) (n : Nat) : List Nat :=
  if n = 0 then []
  else
    let first := va.toNat / 128
    (List.range ((va.toNat + n - 1) / 128 - first + 1)).filterMap (fun k =>
      match s.translate die ctx .load (BitVec.ofNat 64 (128 * (first + k))) with
      | .ok p => some (lineOf p.pa)
      | .error _ => none)

/-- INSTRUCTION_CACHE_INVALIDATION: a core that an ICINV reaches discards the lines of its range. -/
def execInstructionCacheInvalidation (wave core : Nat) (s : State) : Out :=
  s.event (fun s => match s.waves.find? (fun w => w.id == wave) with
    | none => s
    | some w => match w.range with
      | none => s
      | some (va, n) =>
        if w.cores.contains core then
          let ctx := (s.teams.get w.uid).place.ctx
          let lines := s.rangeLines (dieOf w.uid) ctx va n
          (s.modCore core (fun c => { c with icache := ⟨c.icache.entries.filter (fun e => !lines.contains e.1)⟩ })).invalidated
            wave core
        else s)

/-! ### Watch reports (R399) -/

/-- WATCH_REPORT: a firing's report reaches the core of its team, which traps at the first seam it then reaches; a team that
waits to trap for one firing takes no further one. -/
def execWatchReport (id : Nat) (s : State) : Out :=
  s.event (fun s => match s.watches.get id with
    | none => s
    | some n =>
      let s1 := { s with watches := s.watches.drop id }
      let t := s1.teams.get n.uid
      if t.place.gen = n.gen ∧ t.phase ≠ .unbound ∧ t.phase ≠ .retired ∧ t.phase ≠ .stopped ∧ t.trap.watch = none then
        s1.modTeam n.uid (fun t => { t with trap := { t.trap with watch := some n.trap } })
      else s1)

/-! ### Completion (R42, R246, R329, R343, R378) -/

/-- What a team does at a completion seam that it has marked where it must stop: it goes back to the seam, giving up the words
that it has issued since, and traps or stops there (R355, R395). Where such a word cannot be given up, a later seam comes. -/
def State.afterCompletion (s : State) (uid : Nat) : State :=
  let t := s.teams.get uid
  let stops := t.trap.watch.isSome || ((s.ctxs.get t.place.ctx).state == 2 && t.phase == .running)
  let later := t.words.filter (fun w => decide (t.seamSeq ≤ w.seq))
  if !stops then s
  else if t.flow = t.seam ∧ later = [] ∧ t.wait = .none then s.afterSeam uid
  else if later.any (fun w => w.uncancellable false) || s.midAccess uid then s
  else
    let t1 := later.foldl (fun t w => (if s.choice 4 w.id then s.writeResults t w else t).dropWord w) t
    ((s.dropRequests uid).putTeam uid { t1 with flow := t.seam, hints := {}, wait := .none, stall := none, line := none, mon := none,
                                                wr := 0, rbw := 0, fail := none, finishing := false }).afterSeam uid

/-- The trap that an outstanding word takes. -/
def State.wordTrap (s : State) (uid : Nat) (w : LongWord) (cause detail lane : Nat) (addr : W64) (aux cls : Nat) : State :=
  s.takeTrap uid { cause := cause, detail := detail, addr := addr, lane := lane, word := w.word, pc := w.pc,
                   aux := BitVec.ofNat 32 aux, cls := cls, regions := w.who.regions }

/-- Tell the accesses that a team has issued since a place in its program order, and that are still to be made, what an acquire at that
place has read (R371, R379). -/
def State.teach (s : State) (uid seq : Nat) (rs : List RelRec) : State :=
  if rs.isEmpty then s
  else
    let t := s.teams.get uid
    let later (owner n : Nat) : Bool := owner == t.key && decide (seq < n)
    let learn (op : MatOp) : MatOp := if op.seqs.any (fun x => x.1 == uid && decide (seq < x.2)) then { op with who := op.who.taught rs } else op
    { s with
      teams := s.teams.put uid { t with words := t.words.map (fun w => if seq < w.seq then { w with who := w.who.taught rs } else w) },
      cores := ⟨s.cores.entries.map (fun c => (c.1, { c.2 with
        tracker := c.2.tracker.map (fun r => if r.uid = uid ∧ r.who.ident = identOf uid t.place.gen ∧ seq < r.seq then { r with who := r.who.taught rs } else r),
        queues := ⟨c.2.queues.entries.map (fun q => if later q.2.owner q.2.seq then (q.1, { q.2 with who := q.2.who.taught rs }) else q)⟩,
        slices := if c.1 = coreOf uid then ⟨c.2.slices.entries.map (fun k => (k.1, { k.2 with op0 := learn k.2.op0, op1 := learn k.2.op1 }))⟩
          else c.2.slices }))⟩,
      copies := ⟨s.copies.entries.map (fun c => if later c.2.owner c.2.seq then (c.1, { c.2 with who := c.2.who.taught rs }) else c)⟩,
      colls := ⟨s.colls.entries.map (fun c => if later c.2.owner c.2.seq then (c.1, { c.2 with who := c.2.who.taught rs }) else c)⟩ }

/-- What an acquire merges, which its team's later accesses know too, and what a relaxed load or atomic keeps for a later fence
(R378). -/
def State.mergeWord (s : State) (uid : Nat) (w : LongWord) : State :=
  if w.ord.getLsbD 0 then (w.merged.foldl (fun s r => s.acquire uid r) s).teach uid w.seq w.merged
  else s.modTeam uid (fun t => { t with race := t.race.pend w.merged })

/-- The word's last register write has been made: its flag falls; `seam` says that the completion is one. -/
def State.completeWord (s : State) (uid : Nat) (w : LongWord) (seam : Bool) : State :=
  let s1 := s.mergeWord uid w
  let t := s1.teams.get uid
  let t1 := (s1.writeResults t w).dropWord w
  if !seam then s1.putTeam uid t1
  else
    let s2 := s1.putTeam uid (t1.completionSeam w)
    if w.seq < t.seamSeq then s2 else s2.afterCompletion uid

/-- The completion of a load, or of an atomic that returns a value; an error makes it trap (R191). -/
def State.completeLoad (s : State) (uid : Nat) (w : LongWord) : State :=
  if !w.parts.all (fun p => p.fixed) then s
  else match w.err with
    | some (cause, lane, _, addr) => (s.modTeam uid (fun t => t.dropWord w)).wordTrap uid w cause w.errDetail lane addr 0 0
    | none => s.completeWord uid w (w.kind == .atomic)

/-- The completion of a walk: the registers are written, and then the lowest lane that has failed traps (R343). (DEDUCED, log entry 32) -/
def State.completeWalk (s : State) (uid : Nat) (w : LongWord) : State :=
  if !w.parts.all (fun p => p.fixed) then s
  else
    let t := s.teams.get uid
    let w1 := { w with results := w.walkResults t }
    match w.err with
    | none => s.completeWord uid w1 true
    | some (cause, lane, node, addr) =>
      let t1 := ((s.writeResults t w1).dropWord w1).completionSeam w1
      (s.putTeam uid t1).wordTrap uid w cause w.errDetail lane addr node 2

/-- A stop that a team's slice has left, reported by the completion of an accumulator word (R305). -/
def State.stopReport (s : State) (uid : Nat) (w : LongWord) (f : Nat × EFault) : State :=
  ((s.clearStop uid).modTeam uid (fun t => t.dropWord w)).wordTrap uid w f.2.cause f.2.detail 0xFFFF f.2.addr f.1 0

/-- The trap of an accumulator row that is uncorrectable, at the completion of the word that reads it (R305, R310). -/
def State.accTrap (s : State) (uid k : Nat) (w : LongWord) (n : BitVec 1) (row : Nat) : State :=
  ((s.accError (coreOf uid) k n row w.who).modTeam uid (fun t => t.dropWord w)).wordTrap uid w cMEMERR 0 0xFFFF 0 row 0

/-- The completion of a MACCRD: the accumulator is read once the earlier accumulator words have finished; a stop that they have
left is reported first (R305, R313). Until then a read of its destinations gives the old contents, as R47 allows. (DESIGN CHOICE,
log entry 71) -/
def State.completeMaccrd (s : State) (uid : Nat) (w : LongWord) : State :=
  if s.accBusy uid w.seq then s
  else match s.matStop uid with
    | some f => s.stopReport uid w f
    | none => match s.sliceOf uid, w.accOf with
      | some k, some (n, _) =>
        let k0 := (w.args.getD 0 0).toNat
        let rows := (lanesOf (s.teams.get uid).place.width w.mask).map (fun l => (k0 + l) % 16384 / 128)
        (match s.badAcc (coreOf uid) k n rows with
         | some r => s.accTrap uid k w n r
         | none => s.completeWord uid { w with results := s.maccrdResults uid k w } false)
      | _, _ => s.modTeam uid (fun t => t.dropWord w)

/-- The completion of a drain: an accumulator row that is uncorrectable makes it trap, and what it has written stands (R310). -/
def State.endDrain (s : State) (uid k : Nat) (w : LongWord) (d : Drain) : State :=
  match s.badAcc (coreOf uid) k d.n (List.range (drainRows d.ctl)) with
  | some r => s.accTrap uid k w d.n r
  | none => (s.putSlice (coreOf uid) k ((s.slice (coreOf uid) k).afterDrain d)).completeWord uid w true

/-- A step of a drain's access phase, or its completion (R309, R310); a fault on a page that is not present holds it until the residency
signal (R172). -/
def State.completeDrain (s : State) (uid : Nat) (w : LongWord) : State :=
  let t := s.teams.get uid
  if w.held.isSome || s.accBusy uid w.seq || !s.trackerDone (coreOf uid) w.upto allPaths || !t.loadsFixed w.seq then s
  else match (if w.begun then none else s.matStop uid), s.sliceOf uid, w.drain with
    | some f, _, _ => s.stopReport uid w f
    | none, some k, some d =>
      (match s.drainStep uid k w d with
       | .wait s1 => s1
       | .ok done s1 => if done then s1.endDrain uid k w d else s1
       | .fault f s1 =>
         if f.cause = cNOTPRESENT then
           (s1.holdFault t.place.ctx f uid).modTeam uid (fun t => t.setWord { w with held := some f.addr, begun := true })
         else (s1.modTeam uid (fun t => t.dropWord w)).wordTrap uid w f.cause f.detail 0xFFFF f.addr 0 0)
    | none, _, _ => s.modTeam uid (fun t => t.dropWord w)

/-- LONG_LATENCY_COMPLETION: an outstanding word of a team completes, or its engine goes on; a word of a team that its grid's end
has stopped is dropped. A word that waits for its values is completed by its team. -/
def execLongLatencyCompletion (uid id : Nat) (s : State) : Out :=
  s.event (fun s =>
    let t := s.teams.get uid
    match t.word? id with
    | none => s
    | some w =>
      if t.phase = .stopped then
        (if w.kind = .mdrain ∧ w.begun then s.drainScramble uid w else s).modTeam uid (fun t => t.dropWord w)
      else match w.kind with
        | .gather => s
        | .qpop => s.completeWord uid w true
        | .maccrd => s.completeMaccrd uid w
        | .mdrain => s.completeDrain uid w
        | .trace | .trres => s.completeWalk uid w
        | _ => s.completeLoad uid w)

end Sys2Proof.Machine
end

