-- ==== Sys2Proof/Machine/Scalar.lean ====
section
/-! DEFINITION. Scalar words and affine words (R69 to R79). -/

namespace Sys2Proof.Machine

/-! ### Scalar words -/

/-- SADD (R71, R73). -/
def execSadd (d a b : BitVec 6) (k : BitVec 2) (t : BitVec 3) (s : State) : Out :=
  s.runWord (.sadd d a b k t) (fun w s => w.scalar s d a b k t (fun wd sg x y =>
    if w.sat then clampTo sg wd (ordered sg wd x + ordered sg wd y) else (x + y) % 2 ^ wd))

/-- SSUB (R71, R73). -/
def execSsub (d a b : BitVec 6) (k : BitVec 2) (t : BitVec 3) (s : State) : Out :=
  s.runWord (.ssub d a b k t) (fun w s => w.scalar s d a b k t (fun wd sg x y =>
    if w.sat then clampTo sg wd (ordered sg wd x - ordered sg wd y) else wrap wd ((x : Int) - y)))

/-- SMUL (R71). -/
def execSmul (d a b : BitVec 6) (k : BitVec 2) (t : BitVec 3) (s : State) : Out :=
  s.runWord (.smul d a b k t) (fun w s => w.scalar s d a b k t (fun wd _ x y => (x * y) % 2 ^ wd))

/-- SMULH (R71). -/
def execSmulh (d a b : BitVec 6) (k : BitVec 2) (t : BitVec 3) (s : State) : Out :=
  s.runWord (.smulh d a b k t) (fun w s => w.scalar s d a b k t (fun wd sg x y => mulHigh sg wd x y))

/-- SAND (R71). -/
def execSand (d a b : BitVec 6) (k : BitVec 2) (t : BitVec 3) (s : State) : Out :=
  s.runWord (.sand d a b k t) (fun w s => w.scalar s d a b k t (fun _ _ x y => Nat.land x y))

/-- SOR (R71). -/
def execSor (d a b : BitVec 6) (k : BitVec 2) (t : BitVec 3) (s : State) : Out :=
  s.runWord (.sor d a b k t) (fun w s => w.scalar s d a b k t (fun _ _ x y => Nat.lor x y))

/-- SXOR (R71). -/
def execSxor (d a b : BitVec 6) (k : BitVec 2) (t : BitVec 3) (s : State) : Out :=
  s.runWord (.sxor d a b k t) (fun w s => w.scalar s d a b k t (fun _ _ x y => Nat.xor x y))

/-- SSEL (R71). -/
def execSsel (d a b : BitVec 6) (k : BitVec 2) (t : BitVec 3) (s : State) : Out :=
  s.runWord (.ssel d a b k t) (fun w s => w.scalar s d a b k t (fun wd _ x y =>
    if (w.third 0).toNat % 2 ^ wd ≠ 0 then x else y))

/-- SSHL (R71). -/
def execSshl (d a b : BitVec 6) (k : BitVec 2) (t : BitVec 3) (s : State) : Out :=
  s.runWord (.sshl d a b k t) (fun w s => w.scalar s d a b k t (fun wd _ x y => shiftL wd x y))

/-- SSHR (R71). -/
def execSshr (d a b : BitVec 6) (k : BitVec 2) (t : BitVec 3) (s : State) : Out :=
  s.runWord (.sshr d a b k t) (fun w s => w.scalar s d a b k t (fun wd _ x y => shiftR wd x y))

/-- SSAR (R71). -/
def execSsar (d a b : BitVec 6) (k : BitVec 2) (t : BitVec 3) (s : State) : Out :=
  s.runWord (.ssar d a b k t) (fun w s => w.scalar s d a b k t (fun wd _ x y => shiftA wd x y))

/-- −1, 0 or +1 as x is less than, equal to or greater than y. -/
def compare3 (x y : Int) : W64 := if x < y then BitVec.ofInt 64 (-1) else if x = y then 0 else 1

/-- SCMP: the result is a 64-bit signed value, whatever the type's extension (R71). -/
def execScmp (d a b : BitVec 6) (k : BitVec 2) (t : BitVec 3) (s : State) : Out :=
  s.runWord (.scmp d a b k t) (fun w s =>
    let wd := tyWidth t
    let x := (w.r.readS a.toNat).toNat % 2 ^ wd
    let y := (w.scalarB b k).toNat % 2 ^ wd
    .next (s.withRegs (fun r => r.writeS d.toNat (compare3 (ordered (tySigned t) wd x) (ordered (tySigned t) wd y)))))

/-- SMIN (R71). -/
def execSmin (d a b : BitVec 6) (k : BitVec 2) (t : BitVec 3) (s : State) : Out :=
  s.runWord (.smin d a b k t) (fun w s => w.scalar s d a b k t (fun wd sg x y => lesser sg wd x y))

/-- SMAX (R71). -/
def execSmax (d a b : BitVec 6) (k : BitVec 2) (t : BitVec 3) (s : State) : Out :=
  s.runWord (.smax d a b k t) (fun w s => w.scalar s d a b k t (fun wd sg x y => greater sg wd x y))

/-- SMOV (R71). -/
def execSmov (d b : BitVec 6) (k : BitVec 2) (t : BitVec 3) (s : State) : Out :=
  s.runWord (.smov d b k t) (fun w s => w.scalar s d 0 b k t (fun _ _ _ y => y))

/-- SDIV: the quotient to s[D], the remainder to s[D + 1] (R72). -/
def execSdiv (d a b : BitVec 6) (k : BitVec 2) (t : BitVec 3) (s : State) : Out :=
  s.runWord (.sdiv d a b k t) (fun w s =>
    let wd := tyWidth t
    let x := (w.r.readS a.toNat).toNat % 2 ^ wd
    let y := (w.scalarB b k).toNat % 2 ^ wd
    let q := divRules (tySigned t) wd x y
    .next (s.withRegs (fun r => (r.writeS d.toNat (scalarExt t q.1)).writeS (d.toNat + 1) (scalarExt t q.2))))

/-- SMOVI (R74). -/
def execSmovi (d : BitVec 6) (i : BitVec 14) (s : State) : Out :=
  s.runWord (.smovi d i) (fun w s => .next (s.withRegs (fun r => r.writeS d.toNat w.imm)))

/-- SADDI (R74). -/
def execSaddi (d a : BitVec 6) (i : BitVec 14) (s : State) : Out :=
  s.runWord (.saddi d a i) (fun w s => .next (s.withRegs (fun r => r.writeS d.toNat (w.r.readS a.toNat + w.imm))))

/-! ### Affine words (R76 to R79) -/

/-- The B operand of an affine word that is no a-register. -/
def Wd.affineB (w : Wd) (b : BitVec 6) (k : BitVec 2) : W64 := if k = 1 then w.r.readS b.toNat else w.imm

/-- AADD (R77). -/
def execAadd (d a b : BitVec 6) (k : BitVec 2) (s : State) : Out :=
  s.runWord (.aadd d a b k) (fun w s =>
    let (x, y) := (w.r.readABase a.toNat, w.r.readAStride a.toNat)
    .next (s.withRegs (fun r =>
      if k = 2 then r.writeA d.toNat (x + w.r.readABase b.toNat) (y + w.r.readAStride b.toNat)
      else r.writeA d.toNat (x + w.affineB b k) y)))

/-- ASUB (R77). -/
def execAsub (d a b : BitVec 6) (k : BitVec 2) (s : State) : Out :=
  s.runWord (.asub d a b k) (fun w s =>
    let (x, y) := (w.r.readABase a.toNat, w.r.readAStride a.toNat)
    .next (s.withRegs (fun r =>
      if k = 2 then r.writeA d.toNat (x - w.r.readABase b.toNat) (y - w.r.readAStride b.toNat)
      else r.writeA d.toNat (x - w.affineB b k) y)))

/-- ASHL (R77). -/
def execAshl (d a b : BitVec 6) (k : BitVec 2) (s : State) : Out :=
  s.runWord (.ashl d a b k) (fun w s =>
    let n := (w.affineB b k).toNat % 64
    .next (s.withRegs (fun r => r.writeA d.toNat (w.r.readABase a.toNat <<< n) (w.r.readAStride a.toNat <<< n))))

/-- AMOV from two s-registers (R77). -/
def execAmov (d a b : BitVec 6) (s : State) : Out :=
  s.runWord (.amov d a b) (fun w s =>
    .next (s.withRegs (fun r => r.writeA d.toNat (w.r.readS a.toNat) ((w.r.readS b.toNat).extractLsb' 0 32))))

/-- AMOV from an a-register (R77). -/
def execAmovA (d b : BitVec 6) (s : State) : Out :=
  s.runWord (.amovA d b) (fun w s =>
    .next (s.withRegs (fun r => r.writeA d.toNat (w.r.readABase b.toNat) (w.r.readAStride b.toNat))))

/-- ASET (R78). -/
def execAset (d a : BitVec 6) (i : BitVec 14) (s : State) : Out :=
  s.runWord (.aset d a i) (fun w s =>
    .next (s.withRegs (fun r => r.writeA d.toNat (w.r.readS a.toNat) (w.imm.extractLsb' 0 32))))

/-- AVEC (R79). -/
def execAvec (d a : BitVec 6) (t : BitVec 3) (s : State) : Out :=
  s.runWord (.avec d a t) (fun w s => .next (w.putVec s d (intCnt t) (fun l => w.r.aLane a.toNat l)))

/-- ABASE (R77). -/
def execAbase (d a : BitVec 6) (s : State) : Out :=
  s.runWord (.abase d a) (fun w s => .next (s.withRegs (fun r => r.writeS d.toNat (w.r.readABase a.toNat))))

/-- ASTR (R77). -/
def execAstr (d a : BitVec 6) (s : State) : Out :=
  s.runWord (.astr d a) (fun w s =>
    .next (s.withRegs (fun r => r.writeS d.toNat ((w.r.readAStride a.toNat).signExtend 64))))

/-- AOFF (R77). -/
def execAoff (d a b : BitVec 6) (k : BitVec 2) (s : State) : Out :=
  s.runWord (.aoff d a b k) (fun w s =>
    let st := w.r.readAStride a.toNat
    .next (s.withRegs (fun r =>
      r.writeA d.toNat (w.r.readABase a.toNat + w.affineB b k * st.signExtend 64) st)))

end Sys2Proof.Machine
end

