-- ==== Sys2Proof/Machine/Vector.lean ====
section
/-! DEFINITION. Integer vector words (R103 to R113). -/

namespace Sys2Proof.Machine

/-- An exact result reduced to its width, or clamped under SAT (R107, R112). -/
def Wd.narrow (w : Wd) (t : BitVec 3) (wd : Nat) (i : Int) : Nat :=
  if w.sat then clampTo (tySigned t) wd i else wrap wd i

/-- VADD (R107, R112). -/
def execVadd (d a b : BitVec 6) (k : BitVec 2) (g : BitVec 1) (t : BitVec 3) (s : State) : Out :=
  s.runWord (.vadd d a b k g t) (fun w s => w.intWord s d a b k t (fun wd x y _ =>
    w.narrow t wd (ordered (tySigned t) wd x + ordered (tySigned t) wd y)))

/-- VSUB (R107, R112). -/
def execVsub (d a b : BitVec 6) (k : BitVec 2) (g : BitVec 1) (t : BitVec 3) (s : State) : Out :=
  s.runWord (.vsub d a b k g t) (fun w s => w.intWord s d a b k t (fun wd x y _ =>
    w.narrow t wd (ordered (tySigned t) wd x - ordered (tySigned t) wd y)))

/-- VMUL (R107). -/
def execVmul (d a b : BitVec 6) (k : BitVec 2) (g : BitVec 1) (t : BitVec 3) (s : State) : Out :=
  s.runWord (.vmul d a b k g t) (fun w s => w.intWord s d a b k t (fun wd x y _ => (x * y) % 2 ^ wd))

/-- VMULH (R107). -/
def execVmulh (d a b : BitVec 6) (k : BitVec 2) (g : BitVec 1) (t : BitVec 3) (s : State) : Out :=
  s.runWord (.vmulh d a b k g t) (fun w s => w.intWord s d a b k t (fun wd x y _ => mulHigh (tySigned t) wd x y))

/-- VMAD (R107, R112). -/
def execVmad (d a b : BitVec 6) (k : BitVec 2) (g : BitVec 1) (t : BitVec 3) (s : State) : Out :=
  s.runWord (.vmad d a b k g t) (fun w s => w.intWord s d a b k t (fun wd x y c =>
    w.narrow t wd (ordered (tySigned t) wd x * ordered (tySigned t) wd y + ordered (tySigned t) wd c)))

/-- VSADD (R107). -/
def execVsadd (d a b : BitVec 6) (k : BitVec 2) (g : BitVec 1) (t : BitVec 3) (s : State) : Out :=
  s.runWord (.vsadd d a b k g t) (fun w s => w.intWord s d a b k t (fun wd x y _ =>
    clampTo (tySigned t) wd (ordered (tySigned t) wd x + ordered (tySigned t) wd y)))

/-- VSSUB (R107). -/
def execVssub (d a b : BitVec 6) (k : BitVec 2) (g : BitVec 1) (t : BitVec 3) (s : State) : Out :=
  s.runWord (.vssub d a b k g t) (fun w s => w.intWord s d a b k t (fun wd x y _ =>
    clampTo (tySigned t) wd (ordered (tySigned t) wd x - ordered (tySigned t) wd y)))

/-- VABSD (R107). -/
def execVabsd (d a b : BitVec 6) (k : BitVec 2) (g : BitVec 1) (t : BitVec 3) (s : State) : Out :=
  s.runWord (.vabsd d a b k g t) (fun w s => w.intWord s d a b k t (fun wd x y _ =>
    (ordered (tySigned t) wd x - ordered (tySigned t) wd y).natAbs))

/-- VAND (R107). -/
def execVand (d a b : BitVec 6) (k : BitVec 2) (g : BitVec 1) (t : BitVec 3) (s : State) : Out :=
  s.runWord (.vand d a b k g t) (fun w s => w.intWord s d a b k t (fun _ x y _ => Nat.land x y))

/-- VOR (R107). -/
def execVor (d a b : BitVec 6) (k : BitVec 2) (g : BitVec 1) (t : BitVec 3) (s : State) : Out :=
  s.runWord (.vor d a b k g t) (fun w s => w.intWord s d a b k t (fun _ x y _ => Nat.lor x y))

/-- VXOR (R107). -/
def execVxor (d a b : BitVec 6) (k : BitVec 2) (g : BitVec 1) (t : BitVec 3) (s : State) : Out :=
  s.runWord (.vxor d a b k g t) (fun w s => w.intWord s d a b k t (fun _ x y _ => Nat.xor x y))

/-- VANDN (R107). -/
def execVandn (d a b : BitVec 6) (k : BitVec 2) (g : BitVec 1) (t : BitVec 3) (s : State) : Out :=
  s.runWord (.vandn d a b k g t) (fun w s => w.intWord s d a b k t (fun wd x y _ => Nat.land x (2 ^ wd - 1 - y)))

/-- VSHL (R107). -/
def execVshl (d a b : BitVec 6) (k : BitVec 2) (g : BitVec 1) (t : BitVec 3) (s : State) : Out :=
  s.runWord (.vshl d a b k g t) (fun w s => w.intWord s d a b k t (fun wd x y _ => shiftL wd x y))

/-- VSHR (R107). -/
def execVshr (d a b : BitVec 6) (k : BitVec 2) (g : BitVec 1) (t : BitVec 3) (s : State) : Out :=
  s.runWord (.vshr d a b k g t) (fun w s => w.intWord s d a b k t (fun wd x y _ => shiftR wd x y))

/-- VSAR (R107). -/
def execVsar (d a b : BitVec 6) (k : BitVec 2) (g : BitVec 1) (t : BitVec 3) (s : State) : Out :=
  s.runWord (.vsar d a b k g t) (fun w s => w.intWord s d a b k t (fun wd x y _ => shiftA wd x y))

/-- VROT (R107). -/
def execVrot (d a b : BitVec 6) (k : BitVec 2) (g : BitVec 1) (t : BitVec 3) (s : State) : Out :=
  s.runWord (.vrot d a b k g t) (fun w s => w.intWord s d a b k t (fun wd x y _ => rotL wd x y))

/-- VMIN (R107). -/
def execVmin (d a b : BitVec 6) (k : BitVec 2) (g : BitVec 1) (t : BitVec 3) (s : State) : Out :=
  s.runWord (.vmin d a b k g t) (fun w s => w.intWord s d a b k t (fun wd x y _ => lesser (tySigned t) wd x y))

/-- VMAX (R107). -/
def execVmax (d a b : BitVec 6) (k : BitVec 2) (g : BitVec 1) (t : BitVec 3) (s : State) : Out :=
  s.runWord (.vmax d a b k g t) (fun w s => w.intWord s d a b k t (fun wd x y _ => greater (tySigned t) wd x y))

/-- VSEL (R107). -/
def execVsel (d a b : BitVec 6) (k : BitVec 2) (g : BitVec 1) (t : BitVec 3) (s : State) : Out :=
  s.runWord (.vsel d a b k g t) (fun w s => w.intWord s d a b k t (fun _ x y c => if c ≠ 0 then x else y))

/-- VMOV (R107). -/
def execVmov (d b : BitVec 6) (k : BitVec 2) (g : BitVec 1) (t : BitVec 3) (s : State) : Out :=
  s.runWord (.vmov d b k g t) (fun w s => w.intWord s d 0 b k t (fun _ _ y _ => y))

/-- VCLZ (R107). -/
def execVclz (d a : BitVec 6) (g : BitVec 1) (t : BitVec 3) (s : State) : Out :=
  s.runWord (.vclz d a g t) (fun w s => w.intWord1 s d a t leadZeros)

/-- VPOP (R107). -/
def execVpop (d a : BitVec 6) (g : BitVec 1) (t : BitVec 3) (s : State) : Out :=
  s.runWord (.vpop d a g t) (fun w s => w.intWord1 s d a t popBits)

/-- VBREV (R107). -/
def execVbrev (d a : BitVec 6) (g : BitVec 1) (t : BitVec 3) (s : State) : Out :=
  s.runWord (.vbrev d a g t) (fun w s => w.intWord1 s d a t revBits)

/-- The position and the length of a control word (R109). -/
def fieldPos (y : Nat) : Nat := y % 64
def fieldLen (wd y : Nat) : Nat := if y / 256 % 128 < wd then y / 256 % 128 else wd

/-- VBFE (R109). -/
def execVbfe (d a b : BitVec 6) (k : BitVec 2) (g : BitVec 1) (t : BitVec 3) (s : State) : Out :=
  s.runWord (.vbfe d a b k g t) (fun w s => w.intWord s d a b k t (fun wd x y _ =>
    let len := fieldLen wd y
    let v := (x / 2 ^ fieldPos y) % 2 ^ len
    if len = 0 then 0 else if tySigned t then wrap wd (signedOf len v) else v))

/-- VBFI (R109). -/
def execVbfi (d a b : BitVec 6) (k : BitVec 2) (g : BitVec 1) (t : BitVec 3) (s : State) : Out :=
  s.runWord (.vbfi d a b k g t) (fun w s => w.intWord s d a b k t (fun wd x y c =>
    let n := if fieldPos y + fieldLen wd y ≤ wd then fieldLen wd y else wd - fieldPos y
    let m := (2 ^ n - 1) * 2 ^ fieldPos y
    Nat.lor (Nat.land c (2 ^ wd - 1 - m)) (x % 2 ^ n * 2 ^ fieldPos y)))

/-- VCVTI (R110, R112). -/
def execVcvti (d a : BitVec 6) (sty : BitVec 3) (g : BitVec 1) (t : BitVec 3) (s : State) : Out :=
  s.runWord (.vcvti d a sty g t) (fun w s =>
    .next (w.putVec s d (intCnt t) (fun l =>
      let ws := tyWidth sty
      let x := ordered (tySigned sty) ws ((w.vec a.toNat (intCnt sty) l).toNat % 2 ^ ws)
      BitVec.ofNat 64 (w.narrow t (tyWidth t) x))))

/-- VLANE (R111). -/
def execVlane (d a : BitVec 6) (g : BitVec 1) (s : State) : Out :=
  s.runWord (.vlane d a g) (fun w s =>
    .next (w.putVec s d 1 (fun l => BitVec.ofNat 64 (popMask l (w.r.readM a.toNat)))))

/-- VDIV (R108). -/
def execVdiv (d a b : BitVec 6) (k : BitVec 2) (g : BitVec 1) (t : BitVec 3) (s : State) : Out :=
  s.runWord (.vdiv d a b k g t) (fun w s =>
    let n := intCnt t
    let op (rem : Bool) (l : Nat) : W64 := liftInt t (k = 3) (fun wd x y _ =>
      if rem then (divRules (tySigned t) wd x y).2 else (divRules (tySigned t) wd x y).1)
      (w.vec a.toNat n l) (w.vecB b k n l) 0
    .next (s.withRegs (fun r =>
      (r.writeLanes d.toNat n (op false) w.lanes).writeLanes (d.toNat + n) n (op true) w.lanes)))

/-- The conditions of VCMP (R113). -/
def intCond (c : BitVec 3) (sg : Bool) (wd x y : Nat) : Bool :=
  let i := ordered sg wd x
  let j := ordered sg wd y
  if c = 0 then decide (i = j) else if c = 1 then decide (i ≠ j) else if c = 2 then decide (i < j)
  else if c = 3 then decide (i ≤ j) else if c = 4 then decide (j < i) else if c = 5 then decide (j ≤ i)
  else decide (Nat.land x y ≠ 0)

/-- VCMP: the condition in each lane of the effective mask, 0 in every other lane (R113). -/
def execVcmp (c m : BitVec 3) (a b : BitVec 6) (k : BitVec 2) (g : BitVec 1) (t : BitVec 3) (s : State) : Out :=
  s.runWord (.vcmp c m a b k g t) (fun w s =>
    let n := intCnt t
    let wd := tyWidth t
    let r := maskOf w.width (fun l => w.mask.getLsbD l &&
      intCond c (tySigned t) wd ((w.vec a.toNat n l).toNat % 2 ^ wd) ((w.vecB b k n l).toNat % 2 ^ wd))
    .next (s.withRegs (fun x => x.writeM w.width m.toNat r)))

end Sys2Proof.Machine
end

