-- ==== Sys2Proof/Machine/Dispatch.lean ====
section
/-! DEFINITION. The meaning of each instruction, by its constructor. -/

namespace Sys2Proof.Machine

/-- One instruction on a state. -/
def exec (i : Instr) (s : State) : Host.Outcome State Fault Refusal :=
  match i with
  | .clause a0 a1 a2 a3 => Sys2Proof.Machine.execClause a0 a1 a2 a3 s
  | .hintImm a0 => Sys2Proof.Machine.execHintImm a0 s
  | .hintSched a0 a1 a2 a3 => Sys2Proof.Machine.execHintSched a0 a1 a2 a3 s
  | .hintMod a0 a1 a2 a3 a4 => Sys2Proof.Machine.execHintMod a0 a1 a2 a3 a4 s
  | .hintSrc3 a0 a1 => Sys2Proof.Machine.execHintSrc3 a0 a1 s
  | .hintGuard a0 a1 => Sys2Proof.Machine.execHintGuard a0 a1 s
  | .bra a0 => Sys2Proof.Machine.execBra a0 s
  | .brc a0 a1 a2 => Sys2Proof.Machine.execBrc a0 a1 a2 s
  | .brd a0 a1 a2 => Sys2Proof.Machine.execBrd a0 a1 a2 s
  | .markj a0 => Sys2Proof.Machine.execMarkj a0 s
  | .call a0 => Sys2Proof.Machine.execCall a0 s
  | .callr a0 => Sys2Proof.Machine.execCallr a0 s
  | .enter a0 => Sys2Proof.Machine.execEnter a0 s
  | .trap a0 => Sys2Proof.Machine.execTrap a0 s
  | .srd a0 a1 => Sys2Proof.Machine.execSrd a0 a1 s
  | .swr a0 a1 => Sys2Proof.Machine.execSwr a0 a1 s
  | .time a0 => Sys2Proof.Machine.execTime a0 s
  | .clk a0 => Sys2Proof.Machine.execClk a0 s
  | .trec a0 a1 => Sys2Proof.Machine.execTrec a0 a1 s
  | .icinv a0 a1 a2 => Sys2Proof.Machine.execIcinv a0 a1 a2 s
  | .rclr a0 a1 => Sys2Proof.Machine.execRclr a0 a1 s
  | .lnch a0 a1 => Sys2Proof.Machine.execLnch a0 a1 s
  | .contset a0 => Sys2Proof.Machine.execContset a0 s
  | .sadd a0 a1 a2 a3 a4 => Sys2Proof.Machine.execSadd a0 a1 a2 a3 a4 s
  | .ssub a0 a1 a2 a3 a4 => Sys2Proof.Machine.execSsub a0 a1 a2 a3 a4 s
  | .smul a0 a1 a2 a3 a4 => Sys2Proof.Machine.execSmul a0 a1 a2 a3 a4 s
  | .smulh a0 a1 a2 a3 a4 => Sys2Proof.Machine.execSmulh a0 a1 a2 a3 a4 s
  | .sand a0 a1 a2 a3 a4 => Sys2Proof.Machine.execSand a0 a1 a2 a3 a4 s
  | .sor a0 a1 a2 a3 a4 => Sys2Proof.Machine.execSor a0 a1 a2 a3 a4 s
  | .sxor a0 a1 a2 a3 a4 => Sys2Proof.Machine.execSxor a0 a1 a2 a3 a4 s
  | .ssel a0 a1 a2 a3 a4 => Sys2Proof.Machine.execSsel a0 a1 a2 a3 a4 s
  | .sshl a0 a1 a2 a3 a4 => Sys2Proof.Machine.execSshl a0 a1 a2 a3 a4 s
  | .sshr a0 a1 a2 a3 a4 => Sys2Proof.Machine.execSshr a0 a1 a2 a3 a4 s
  | .ssar a0 a1 a2 a3 a4 => Sys2Proof.Machine.execSsar a0 a1 a2 a3 a4 s
  | .scmp a0 a1 a2 a3 a4 => Sys2Proof.Machine.execScmp a0 a1 a2 a3 a4 s
  | .smin a0 a1 a2 a3 a4 => Sys2Proof.Machine.execSmin a0 a1 a2 a3 a4 s
  | .smax a0 a1 a2 a3 a4 => Sys2Proof.Machine.execSmax a0 a1 a2 a3 a4 s
  | .smov a0 a1 a2 a3 => Sys2Proof.Machine.execSmov a0 a1 a2 a3 s
  | .sdiv a0 a1 a2 a3 a4 => Sys2Proof.Machine.execSdiv a0 a1 a2 a3 a4 s
  | .smovi a0 a1 => Sys2Proof.Machine.execSmovi a0 a1 s
  | .saddi a0 a1 a2 => Sys2Proof.Machine.execSaddi a0 a1 a2 s
  | .aadd a0 a1 a2 a3 => Sys2Proof.Machine.execAadd a0 a1 a2 a3 s
  | .asub a0 a1 a2 a3 => Sys2Proof.Machine.execAsub a0 a1 a2 a3 s
  | .ashl a0 a1 a2 a3 => Sys2Proof.Machine.execAshl a0 a1 a2 a3 s
  | .amov a0 a1 a2 => Sys2Proof.Machine.execAmov a0 a1 a2 s
  | .amovA a0 a1 => Sys2Proof.Machine.execAmovA a0 a1 s
  | .aset a0 a1 a2 => Sys2Proof.Machine.execAset a0 a1 a2 s
  | .avec a0 a1 a2 => Sys2Proof.Machine.execAvec a0 a1 a2 s
  | .abase a0 a1 => Sys2Proof.Machine.execAbase a0 a1 s
  | .astr a0 a1 => Sys2Proof.Machine.execAstr a0 a1 s
  | .aoff a0 a1 a2 a3 => Sys2Proof.Machine.execAoff a0 a1 a2 a3 s
  | .vadd a0 a1 a2 a3 a4 a5 => Sys2Proof.Machine.execVadd a0 a1 a2 a3 a4 a5 s
  | .vsub a0 a1 a2 a3 a4 a5 => Sys2Proof.Machine.execVsub a0 a1 a2 a3 a4 a5 s
  | .vmul a0 a1 a2 a3 a4 a5 => Sys2Proof.Machine.execVmul a0 a1 a2 a3 a4 a5 s
  | .vmulh a0 a1 a2 a3 a4 a5 => Sys2Proof.Machine.execVmulh a0 a1 a2 a3 a4 a5 s
  | .vmad a0 a1 a2 a3 a4 a5 => Sys2Proof.Machine.execVmad a0 a1 a2 a3 a4 a5 s
  | .vsadd a0 a1 a2 a3 a4 a5 => Sys2Proof.Machine.execVsadd a0 a1 a2 a3 a4 a5 s
  | .vssub a0 a1 a2 a3 a4 a5 => Sys2Proof.Machine.execVssub a0 a1 a2 a3 a4 a5 s
  | .vabsd a0 a1 a2 a3 a4 a5 => Sys2Proof.Machine.execVabsd a0 a1 a2 a3 a4 a5 s
  | .vand a0 a1 a2 a3 a4 a5 => Sys2Proof.Machine.execVand a0 a1 a2 a3 a4 a5 s
  | .vor a0 a1 a2 a3 a4 a5 => Sys2Proof.Machine.execVor a0 a1 a2 a3 a4 a5 s
  | .vxor a0 a1 a2 a3 a4 a5 => Sys2Proof.Machine.execVxor a0 a1 a2 a3 a4 a5 s
  | .vandn a0 a1 a2 a3 a4 a5 => Sys2Proof.Machine.execVandn a0 a1 a2 a3 a4 a5 s
  | .vshl a0 a1 a2 a3 a4 a5 => Sys2Proof.Machine.execVshl a0 a1 a2 a3 a4 a5 s
  | .vshr a0 a1 a2 a3 a4 a5 => Sys2Proof.Machine.execVshr a0 a1 a2 a3 a4 a5 s
  | .vsar a0 a1 a2 a3 a4 a5 => Sys2Proof.Machine.execVsar a0 a1 a2 a3 a4 a5 s
  | .vrot a0 a1 a2 a3 a4 a5 => Sys2Proof.Machine.execVrot a0 a1 a2 a3 a4 a5 s
  | .vmin a0 a1 a2 a3 a4 a5 => Sys2Proof.Machine.execVmin a0 a1 a2 a3 a4 a5 s
  | .vmax a0 a1 a2 a3 a4 a5 => Sys2Proof.Machine.execVmax a0 a1 a2 a3 a4 a5 s
  | .vsel a0 a1 a2 a3 a4 a5 => Sys2Proof.Machine.execVsel a0 a1 a2 a3 a4 a5 s
  | .vmov a0 a1 a2 a3 a4 => Sys2Proof.Machine.execVmov a0 a1 a2 a3 a4 s
  | .vclz a0 a1 a2 a3 => Sys2Proof.Machine.execVclz a0 a1 a2 a3 s
  | .vpop a0 a1 a2 a3 => Sys2Proof.Machine.execVpop a0 a1 a2 a3 s
  | .vbrev a0 a1 a2 a3 => Sys2Proof.Machine.execVbrev a0 a1 a2 a3 s
  | .vbfe a0 a1 a2 a3 a4 a5 => Sys2Proof.Machine.execVbfe a0 a1 a2 a3 a4 a5 s
  | .vbfi a0 a1 a2 a3 a4 a5 => Sys2Proof.Machine.execVbfi a0 a1 a2 a3 a4 a5 s
  | .vcvti a0 a1 a2 a3 a4 => Sys2Proof.Machine.execVcvti a0 a1 a2 a3 a4 s
  | .vlane a0 a1 a2 => Sys2Proof.Machine.execVlane a0 a1 a2 s
  | .vdiv a0 a1 a2 a3 a4 a5 => Sys2Proof.Machine.execVdiv a0 a1 a2 a3 a4 a5 s
  | .vcmp a0 a1 a2 a3 a4 a5 a6 => Sys2Proof.Machine.execVcmp a0 a1 a2 a3 a4 a5 a6 s
  | .fadd a0 a1 a2 a3 a4 a5 => Sys2Proof.Machine.execFadd a0 a1 a2 a3 a4 a5 s
  | .fsub a0 a1 a2 a3 a4 a5 => Sys2Proof.Machine.execFsub a0 a1 a2 a3 a4 a5 s
  | .fmul a0 a1 a2 a3 a4 a5 => Sys2Proof.Machine.execFmul a0 a1 a2 a3 a4 a5 s
  | .ffma a0 a1 a2 a3 a4 a5 => Sys2Proof.Machine.execFfma a0 a1 a2 a3 a4 a5 s
  | .fmin a0 a1 a2 a3 a4 a5 => Sys2Proof.Machine.execFmin a0 a1 a2 a3 a4 a5 s
  | .fmax a0 a1 a2 a3 a4 a5 => Sys2Proof.Machine.execFmax a0 a1 a2 a3 a4 a5 s
  | .fcpsgn a0 a1 a2 a3 a4 a5 => Sys2Proof.Machine.execFcpsgn a0 a1 a2 a3 a4 a5 s
  | .frnd a0 a1 a2 a3 => Sys2Proof.Machine.execFrnd a0 a1 a2 a3 s
  | .frcp a0 a1 a2 a3 => Sys2Proof.Machine.execFrcp a0 a1 a2 a3 s
  | .frsq a0 a1 a2 a3 => Sys2Proof.Machine.execFrsq a0 a1 a2 a3 s
  | .fsqrt a0 a1 a2 a3 => Sys2Proof.Machine.execFsqrt a0 a1 a2 a3 s
  | .fdiv a0 a1 a2 a3 a4 a5 => Sys2Proof.Machine.execFdiv a0 a1 a2 a3 a4 a5 s
  | .fexp2 a0 a1 a2 a3 => Sys2Proof.Machine.execFexp2 a0 a1 a2 a3 s
  | .flog2 a0 a1 a2 a3 => Sys2Proof.Machine.execFlog2 a0 a1 a2 a3 s
  | .fsin a0 a1 a2 a3 => Sys2Proof.Machine.execFsin a0 a1 a2 a3 s
  | .fcos a0 a1 a2 a3 => Sys2Proof.Machine.execFcos a0 a1 a2 a3 s
  | .fcmp a0 a1 a2 a3 a4 a5 a6 => Sys2Proof.Machine.execFcmp a0 a1 a2 a3 a4 a5 a6 s
  | .fcvt a0 a1 a2 a3 a4 => Sys2Proof.Machine.execFcvt a0 a1 a2 a3 a4 s
  | .cvti a0 a1 a2 a3 a4 => Sys2Proof.Machine.execCvti a0 a1 a2 a3 a4 s
  | .cvtf a0 a1 a2 a3 a4 => Sys2Proof.Machine.execCvtf a0 a1 a2 a3 a4 s
  | .fclass a0 a1 a2 a3 => Sys2Proof.Machine.execFclass a0 a1 a2 a3 s
  | .vshuf a0 a1 a2 a3 a4 a5 => Sys2Proof.Machine.execVshuf a0 a1 a2 a3 a4 a5 s
  | .vbcast a0 a1 a2 a3 => Sys2Proof.Machine.execVbcast a0 a1 a2 a3 s
  | .vscan a0 a1 a2 a3 a4 a5 a6 => Sys2Proof.Machine.execVscan a0 a1 a2 a3 a4 a5 a6 s
  | .vred a0 a1 a2 a3 a4 a5 => Sys2Proof.Machine.execVred a0 a1 a2 a3 a4 a5 s
  | .mand a0 a1 a2 => Sys2Proof.Machine.execMand a0 a1 a2 s
  | .mor a0 a1 a2 => Sys2Proof.Machine.execMor a0 a1 a2 s
  | .mxor a0 a1 a2 => Sys2Proof.Machine.execMxor a0 a1 a2 s
  | .mnot a0 a1 => Sys2Proof.Machine.execMnot a0 a1 s
  | .mpop a0 a1 => Sys2Proof.Machine.execMpop a0 a1 s
  | .mfirst a0 a1 => Sys2Proof.Machine.execMfirst a0 a1 s
  | .mtos a0 a1 a2 => Sys2Proof.Machine.execMtos a0 a1 a2 s
  | .stom a0 a1 a2 => Sys2Proof.Machine.execStom a0 a1 a2 s
  | .regroup a0 a1 a2 a3 a4 => Sys2Proof.Machine.execRegroup a0 a1 a2 a3 a4 s
  | .vvote a0 a1 a2 => Sys2Proof.Machine.execVvote a0 a1 a2 s
  | .vldg a0 a1 a2 a3 a4 a5 a6 a7 a8 => Sys2Proof.Machine.execVldg a0 a1 a2 a3 a4 a5 a6 a7 a8 s
  | .vstg a0 a1 a2 a3 a4 a5 a6 a7 => Sys2Proof.Machine.execVstg a0 a1 a2 a3 a4 a5 a6 a7 s
  | .vlds a0 a1 a2 a3 a4 a5 a6 a7 a8 => Sys2Proof.Machine.execVlds a0 a1 a2 a3 a4 a5 a6 a7 a8 s
  | .vsts a0 a1 a2 a3 a4 a5 a6 a7 => Sys2Proof.Machine.execVsts a0 a1 a2 a3 a4 a5 a6 a7 s
  | .sld a0 a1 a2 a3 => Sys2Proof.Machine.execSld a0 a1 a2 a3 s
  | .sst a0 a1 a2 => Sys2Proof.Machine.execSst a0 a1 a2 s
  | .atom a0 a1 a2 a3 a4 a5 a6 => Sys2Proof.Machine.execAtom a0 a1 a2 a3 a4 a5 a6 s
  | .atom64 a0 a1 a2 a3 a4 a5 a6 => Sys2Proof.Machine.execAtom64 a0 a1 a2 a3 a4 a5 a6 s
  | .atomf a0 a1 a2 a3 a4 a5 a6 => Sys2Proof.Machine.execAtomf a0 a1 a2 a3 a4 a5 a6 s
  | .fence a0 a1 a2 => Sys2Proof.Machine.execFence a0 a1 a2 s
  | .waitl a0 a1 a2 => Sys2Proof.Machine.execWaitl a0 a1 a2 s
  | .pref a0 a1 a2 => Sys2Proof.Machine.execPref a0 a1 a2 s
  | .tld a0 a1 a2 a3 a4 a5 => Sys2Proof.Machine.execTld a0 a1 a2 a3 a4 a5 s
  | .tex a0 a1 a2 a3 a4 => Sys2Proof.Machine.execTex a0 a1 a2 a3 a4 s
  | .texg a0 a1 a2 a3 a4 => Sys2Proof.Machine.execTexg a0 a1 a2 a3 a4 s
  | .tqry a0 a1 a2 => Sys2Proof.Machine.execTqry a0 a1 a2 s
  | .stmap a0 a1 a2 => Sys2Proof.Machine.execStmap a0 a1 a2 s
  | .stflush a0 => Sys2Proof.Machine.execStflush a0 s
  | .stunmap a0 => Sys2Proof.Machine.execStunmap a0 s
  | .stqry a0 a1 => Sys2Proof.Machine.execStqry a0 a1 s
  | .cpy a0 a1 a2 => Sys2Proof.Machine.execCpy a0 a1 a2 s
  | .cpy2d a0 a1 a2 => Sys2Proof.Machine.execCpy2d a0 a1 a2 s
  | .cpyb a0 => Sys2Proof.Machine.execCpyb a0 s
  | .cpyw a0 => Sys2Proof.Machine.execCpyw a0 s
  | .bar a0 a1 => Sys2Proof.Machine.execBar a0 a1 s
  | .bara a0 a1 => Sys2Proof.Machine.execBara a0 a1 s
  | .barw a0 a1 => Sys2Proof.Machine.execBarw a0 a1 s
  | .barq a0 a1 a2 => Sys2Proof.Machine.execBarq a0 a1 a2 s
  | .stream a0 a1 => Sys2Proof.Machine.execStream a0 a1 s
  | .qpop a0 a1 a2 => Sys2Proof.Machine.execQpop a0 a1 a2 s
  | .qstat a0 a1 => Sys2Proof.Machine.execQstat a0 a1 s
  | .qclose a0 => Sys2Proof.Machine.execQclose a0 s
  | .mgang a0 => Sys2Proof.Machine.execMgang a0 s
  | .mma a0 a1 a2 => Sys2Proof.Machine.execMma a0 a1 a2 s
  | .mdrain a0 a1 a2 a3 a4 a5 a6 => Sys2Proof.Machine.execMdrain a0 a1 a2 a3 a4 a5 a6 s
  | .mzero a0 => Sys2Proof.Machine.execMzero a0 s
  | .maccrd a0 a1 a2 a3 => Sys2Proof.Machine.execMaccrd a0 a1 a2 a3 s
  | .maccwr a0 a1 a2 => Sys2Proof.Machine.execMaccwr a0 a1 a2 s
  | .mfmt a0 a1 => Sys2Proof.Machine.execMfmt a0 a1 s
  | .mqry a0 a1 => Sys2Proof.Machine.execMqry a0 a1 s
  | .lfset a0 a1 a2 => Sys2Proof.Machine.execLfset a0 a1 a2 s
  | .lfspan a0 a1 a2 => Sys2Proof.Machine.execLfspan a0 a1 a2 s
  | .lfint a0 a1 a2 a3 a4 => Sys2Proof.Machine.execLfint a0 a1 a2 a3 a4 s
  | .lfz a0 a1 a2 => Sys2Proof.Machine.execLfz a0 a1 a2 s
  | .lfout a0 a1 a2 a3 a4 => Sys2Proof.Machine.execLfout a0 a1 a2 a3 a4 s
  | .mshdec a0 a1 a2 => Sys2Proof.Machine.execMshdec a0 a1 a2 s
  | .qmerge a0 a1 a2 => Sys2Proof.Machine.execQmerge a0 a1 a2 s
  | .lfqry a0 a1 a2 => Sys2Proof.Machine.execLfqry a0 a1 a2 s
  | .trace a0 a1 a2 a3 => Sys2Proof.Machine.execTrace a0 a1 a2 a3 s
  | .trres a0 a1 => Sys2Proof.Machine.execTrres a0 a1 s
  | .trget a0 a1 a2 => Sys2Proof.Machine.execTrget a0 a1 a2 s
  | .trhit a0 a1 => Sys2Proof.Machine.execTrhit a0 a1 s
  | .trsave a0 a1 a2 a3 => Sys2Proof.Machine.execTrsave a0 a1 a2 a3 s
  | .trload a0 a1 a2 a3 a4 a5 => Sys2Proof.Machine.execTrload a0 a1 a2 a3 a4 a5 s
  | .coll a0 a1 => Sys2Proof.Machine.execColl a0 a1 s
  | .collw a0 a1 a2 => Sys2Proof.Machine.execCollw a0 a1 a2 s
  | .kvfork a0 a1 a2 => Sys2Proof.Machine.execKvfork a0 a1 a2 s
  | .kvfree a0 a1 a2 => Sys2Proof.Machine.execKvfree a0 a1 a2 s
  | .red a0 a1 a2 a3 a4 a5 => Sys2Proof.Machine.execRed a0 a1 a2 a3 a4 a5 s
  | .atxXchg32 a0 a1 a2 a3 a4 a5 => Sys2Proof.Machine.execAtxXchg32 a0 a1 a2 a3 a4 a5 s
  | .atxCas32 a0 a1 a2 a3 a4 a5 => Sys2Proof.Machine.execAtxCas32 a0 a1 a2 a3 a4 a5 s
  | .atxLd32 a0 a1 a2 a3 a4 a5 => Sys2Proof.Machine.execAtxLd32 a0 a1 a2 a3 a4 a5 s
  | .atxSt32 a0 a1 a2 a3 a4 => Sys2Proof.Machine.execAtxSt32 a0 a1 a2 a3 a4 s
  | .atxXchg64 a0 a1 a2 a3 a4 a5 => Sys2Proof.Machine.execAtxXchg64 a0 a1 a2 a3 a4 a5 s
  | .atxCas64 a0 a1 a2 a3 a4 a5 => Sys2Proof.Machine.execAtxCas64 a0 a1 a2 a3 a4 a5 s
  | .atxLd64 a0 a1 a2 a3 a4 a5 => Sys2Proof.Machine.execAtxLd64 a0 a1 a2 a3 a4 a5 s
  | .atxSt64 a0 a1 a2 a3 a4 => Sys2Proof.Machine.execAtxSt64 a0 a1 a2 a3 a4 s
  | .longLatencyCompletion a0 a1 => Sys2Proof.Machine.execLongLatencyCompletion a0 a1 s
  | .storeAtHome a0 => Sys2Proof.Machine.execStoreAtHome a0 s
  | .loadAtHome a0 a1 a2 => Sys2Proof.Machine.execLoadAtHome a0 a1 a2 s
  | .atomicAtHome a0 => Sys2Proof.Machine.execAtomicAtHome a0 s
  | .fenceToken a0 a1 => Sys2Proof.Machine.execFenceToken a0 a1 s
  | .fenceTokenAck a0 a1 => Sys2Proof.Machine.execFenceTokenAck a0 a1 s
  | .l1Invalidate a0 a1 => Sys2Proof.Machine.execL1Invalidate a0 a1 s
  | .stashRecall a0 a1 => Sys2Proof.Machine.execStashRecall a0 a1 s
  | .waitlTimeout a0 => Sys2Proof.Machine.execWaitlTimeout a0 s
  | .teamPromotion a0 => Sys2Proof.Machine.execTeamPromotion a0 s
  | .tideProbe a0 a1 => Sys2Proof.Machine.execTideProbe a0 a1 s
  | .tideProbeReturn a0 a1 => Sys2Proof.Machine.execTideProbeReturn a0 a1 s
  | .barrierPhaseCompletion a0 => Sys2Proof.Machine.execBarrierPhaseCompletion a0 s
  | .barrierToken a0 a1 => Sys2Proof.Machine.execBarrierToken a0 a1 s
  | .regroupExchange a0 a1 => Sys2Proof.Machine.execRegroupExchange a0 a1 s
  | .mmaCompletion a0 a1 => Sys2Proof.Machine.execMmaCompletion a0 a1 s
  | .streamEntryPush a0 a1 => Sys2Proof.Machine.execStreamEntryPush a0 a1 s
  | .copyCompletion a0 => Sys2Proof.Machine.execCopyCompletion a0 s
  | .collectiveCompletion a0 a1 => Sys2Proof.Machine.execCollectiveCompletion a0 a1 s
  | .collectiveTimeout a0 => Sys2Proof.Machine.execCollectiveTimeout a0 s
  | .collectiveHalt a0 => Sys2Proof.Machine.execCollectiveHalt a0 s
  | .collectiveResume a0 => Sys2Proof.Machine.execCollectiveResume a0 s
  | .haltLimitExpiry a0 => Sys2Proof.Machine.execHaltLimitExpiry a0 s
  | .notificationWrite a0 a1 => Sys2Proof.Machine.execNotificationWrite a0 a1 s
  | .launchValidation a0 => Sys2Proof.Machine.execLaunchValidation a0 s
  | .dependencePoll a0 => Sys2Proof.Machine.execDependencePoll a0 s
  | .gridStart a0 => Sys2Proof.Machine.execGridStart a0 s
  | .bindRecord a0 a1 => Sys2Proof.Machine.execBindRecord a0 a1 s
  | .groupStart a0 a1 => Sys2Proof.Machine.execGroupStart a0 a1 s
  | .teamStart a0 => Sys2Proof.Machine.execTeamStart a0 s
  | .gridCompletion a0 => Sys2Proof.Machine.execGridCompletion a0 s
  | .preemptionDecision a0 a1 => Sys2Proof.Machine.execPreemptionDecision a0 a1 s
  | .drainDeadline a0 a1 => Sys2Proof.Machine.execDrainDeadline a0 a1 s
  | .saveComplete a0 a1 => Sys2Proof.Machine.execSaveComplete a0 a1 s
  | .saveDeadline a0 => Sys2Proof.Machine.execSaveDeadline a0 s
  | .contextRestore a0 a1 => Sys2Proof.Machine.execContextRestore a0 a1 s
  | .traceSample a0 a1 => Sys2Proof.Machine.execTraceSample a0 a1 s
  | .wringerFrame a0 => Sys2Proof.Machine.execWringerFrame a0 s
  | .timeSyncExchange a0 a1 a2 => Sys2Proof.Machine.execTimeSyncExchange a0 a1 a2 s
  | .domainTimeExchange a0 a1 a2 => Sys2Proof.Machine.execDomainTimeExchange a0 a1 a2 s
  | .hostAccess a0 a1 a2 => Sys2Proof.Machine.execHostAccess a0 a1 a2 s
  | .shorelineLinkFailure a0 a1 => Sys2Proof.Machine.execShorelineLinkFailure a0 a1 s
  | .fabricRouteLoss a0 => Sys2Proof.Machine.execFabricRouteLoss a0 s
  | .thermalThrottle a0 a1 => Sys2Proof.Machine.execThermalThrottle a0 a1 s
  | .moduleReset a0 => Sys2Proof.Machine.execModuleReset a0 s
  | .registerWrite a0 a1 => Sys2Proof.Machine.execRegisterWrite a0 a1 s
  | .wordNotAnInstruction a0 => Sys2Proof.Machine.execWordNotAnInstruction a0 s
  | .samplerInvalidation a0 a1 => Sys2Proof.Machine.execSamplerInvalidation a0 a1 s
  | .instructionCacheInvalidation a0 a1 => Sys2Proof.Machine.execInstructionCacheInvalidation a0 a1 s
  | .storeAcknowledgement a0 a1 => Sys2Proof.Machine.execStoreAcknowledgement a0 a1 s
  | .watchReport a0 => Sys2Proof.Machine.execWatchReport a0 s
  | .wakeWithoutNotice a0 => Sys2Proof.Machine.execWakeWithoutNotice a0 s
  | .stallAccountClock a0 a1 => Sys2Proof.Machine.execStallAccountClock a0 a1 s
  | .dvfsClockChange a0 a1 => Sys2Proof.Machine.execDvfsClockChange a0 a1 s
  | .join => Sys2Proof.Machine.execJoin s
  | .ret => Sys2Proof.Machine.execRet s
  | .exit => Sys2Proof.Machine.execExit s
  | .nop => Sys2Proof.Machine.execNop s
  | .yield => Sys2Proof.Machine.execYield s
  | .seam => Sys2Proof.Machine.execSeam s
  | .leave => Sys2Proof.Machine.execLeave s
  | .bkpt => Sys2Proof.Machine.execBkpt s
  | .isync => Sys2Proof.Machine.execIsync s
  | .cresume => Sys2Proof.Machine.execCresume s
  | .raceEpochAdvance => Sys2Proof.Machine.execRaceEpochAdvance s
  | .thermalShutdown => Sys2Proof.Machine.execThermalShutdown s
  | .resync => Sys2Proof.Machine.execResync s
  | .start => Sys2Proof.Machine.execStart s
  | .ctxnew => Sys2Proof.Machine.execCtxnew s
  | .ctxfree => Sys2Proof.Machine.execCtxfree s
  | .qreg => Sys2Proof.Machine.execQreg s
  | .inval => Sys2Proof.Machine.execInval s
  | .resident => Sys2Proof.Machine.execResident s
  | .halt => Sys2Proof.Machine.execHalt s
  | .release => Sys2Proof.Machine.execRelease s
  | .group => Sys2Proof.Machine.execGroup s
  | .keyload => Sys2Proof.Machine.execKeyload s
  | .attest => Sys2Proof.Machine.execAttest s
  | .sinkrst => Sys2Proof.Machine.execSinkrst s

end Sys2Proof.Machine
end

