-- ==== Sys2Proof/Machine/Fetch.lean ====
section
/-! DEFINITION. What moves next: an event of the agenda, or the word at a running team's place (R25, R30, R34, R68, R268). -/

namespace Sys2Proof.Machine

/-- What a step has to do. -/
inductive Todo where
  /-- nothing more: the state is the next one -/
  | done (s : State)
  /-- run an instruction -/
  | run (i : Instr) (s : State)
  /-- the module is powered down -/
  | off

/-- A fault of a fetch, taken in the word's place (R68, R191); its record shows WORD 0, since no word has been fetched. -/
def State.fetchTrap (s0 : State) (f : EFault) : State :=
  let t := s0.team
  let s := s0.fetchFailed s0.cur t.flow.pos.pc f
  s.takeTrap s.cur { cause := f.cause, detail := f.detail, addr := t.flow.pos.pc, pc := t.flow.pos.pc,
                     regions := regionsOf t.flow }

/-- What the current team does: nothing unless it runs; a trap that waits is tried again, unless the team's word has
begun accesses that it must finish; else its next word. A team held back for a save finishes such a word only; a team whose word
needs what a lost link or route has cut off is stopped (R365, R420). -/
def State.teamAct (s : State) : Todo :=
  let t := s.team
  if t.phase ≠ .running ∨ (s.preempted s.cur ∧ !s.midAccess s.cur) then .done s.begin_
  else if s.stranded s.cur then .done (s.begin_.strand s.cur)
  else match (if s.midAccess s.cur then none else t.trap.pending) with
    | some r => .done (((s.begin_).takeTrap s.cur r).tick (dieOf s.cur))
    | none => match s.fetchWord s.cur t.flow.pos.pc with
      | .error f => .done (((s.begin_).fetchTrap f).tick (dieOf s.cur))
      | .ok w => .run (fetched w) (s.fetchFill s.cur t.flow.pos.pc)

/-- The state that a team's act leads to. -/
def State.acted (s : State) (u : Nat) : State :=
  match ({ s with cur := u }).teamAct with
  | .done s1 => s1
  | .run i s1 => (match exec i s1 with
    | .next s2 => s2
    | _ => s1)
  | .off => s

/-- Whether a team is ready: it would issue now (R30). -/
def State.issuesNow (s : State) (u : Nat) : Bool := ((s.acted u).teams.get u).lastIssue ≠ (s.teams.get u).lastIssue

/-- Offer a free port to teams in their order: the first that is ready issues; one that a shared unit of its core refuses takes its place
in that unit's wait order, and the port passes on (R268, R269). -/
def State.offer (u : Nat) : List Nat → State → State × Nat
  | [], s => (s, u)
  | v :: rest, s => if s.issuesNow v then (s, v) else State.offer u rest (s.acted v)

/-- The team that the port of a team takes where that team could act, and the state in which it does: the teams that come before it in
the port's order issue first (R268). (DEDUCED, log entry 55) -/
def State.turn (s0 : State) (u : Nat) : State × Nat :=
  let s := s0.portFree u
  match s.rivals u with
  | [] => (s, u)
  | l => if s.issuesNow u then State.offer u l s else (s, u)

/-- What the port of a team does. -/
def State.portAct (s : State) (u : Nat) : Todo := ({ (s.turn u).1 with cur := (s.turn u).2 }).teamAct

/-- What moves next. (DESIGN CHOICE, log entry 14) -/
def State.nextAct (s : State) : Todo :=
  match s.agenda with
  | .event i :: rest =>
    (match i with
     | .moduleReset _ => .run i { s with agenda := rest }
     | _ => if s.mod.powered then .run i { s with agenda := rest } else .off)
  | .issue u :: rest => if s.mod.powered then ({ s with agenda := rest }).portAct u else .off
  | [] => if s.mod.powered then s.portAct s.cur else .off

/-- A 64-bit number in memory, as page tables hold their entries. -/
def State.setEntry (s : State) (pa x : Nat) : State := s.setNum pa 8 x

/-- The address at which a placed word stands. -/
def placedAt : Nat := 0x10000

/-- Page tables that map the first gibibyte onto die 0, with every leaf bit a launch needs. -/
def State.placeTables (s : State) : State :=
  ((s.setEntry 0x1000 0x2001).setEntry 0x2000 0x3001).setEntry 0x3000 (1 + 2 + 4 + 8 + 16 + 8 * 256)

/-- How many words of its clause remain where a placed word stands: none at a header's place; a hint has a word after
it; any other word is its clause's last. -/
def placedLeft (w : W32) : Nat :=
  if isHeader w then 0 else if w.extractLsb' 26 6 = 2#6 then 2 else 1

/-- A launch of one team of 32 lanes, bound to slot 0 of core 0 of die 0, which runs the word next. -/
def State.placeTeam (s : State) (w : W32) : State :=
  let team : Team :=
    { phase := .running,
      flow := { pos := { pc := BitVec.ofNat 64 placedAt, left := placedLeft w, hdr := BitVec.ofNat 64 placedAt },
                active := fullMask 32 },
      place := { grid := gridKey 0 0, wg := 0, idx := 0, ctx := 0, width := 32, vregs := 64 } }
  let launch : LaunchRec := { gx := 1, gy := 1, gz := 1, vregs := 64 }
  { s with
    cur := 0, agenda := [],
    teams := s.teams.put 0 { team with seam := team.flow },
    wgs := s.wgs.put (wgKey (gridKey 0 0) 0) { bound := true, grid := gridKey 0 0, slots := [0] },
    grids := s.grids.put (gridKey 0 0) { phase := .running, launch := launch, bound := [0] },
    ctxs := s.ctxs.put 0 { state := 1, cfg := { root := 0x1000 }, nextLnum := 1 },
    binds := s.binds.put (identOf 0 0).toNat (some { ctx := 0, lnum := 0, wg := 0, cluster := 0, epoch := s.mod.epoch }),
    hub := { s.hub with started := true, featacc := 0x3FF },
    mod := { s.mod with powered := true } }

/-- The word of a table row's bits, in memory and in the next step's place. -/
def State.placeWord (s : State) (w : W32) : State :=
  (s.placeTables.setNum placedAt 4 w.toNat).placeTeam w

end Sys2Proof.Machine
end

