-- ==== Sys2Proof/Machine/Step.lean ====
section
/-! DEFINITION. One step of the machine, and a word placed where the next step fetches. -/

namespace Sys2Proof.Machine

/-- One step: what moves next is run. -/
def step (s : State) : Host.Outcome State Fault Refusal :=
  match s.nextAct with
  | .done s' => .next s'
  | .run i s' => exec i s'
  | .off => .fault .poweredDown

/-- The word of a table row, placed where the next step fetches: the machine's programs are loaded from outside, so
that this stands for a START, a context, a launch and the binding of one team (log entry 10). -/
def State.withFetchWord (s : State) (nbits w : Nat) : State := s.placeWord (BitVec.ofNat 32 (w % 2 ^ nbits))

end Sys2Proof.Machine
end

