-- ==== Sys2Proof/Safety.lean ====
section
/-! DEFINITION. The terms in which claims speak: a word that passes every check before its
effect, the state after a word's effect, and steps that neither fault nor are refused. -/

namespace Sys2Proof.Safety

open Sys2Proof.Machine

/-- A step that answers a next state. -/
def steps (s : State) : Prop := ∃ t, step s = .next t

/-- A run of k steps that neither faults nor is refused. -/
def runs : Nat → State → Prop
  | 0, _ => True
  | k + 1, s => ∃ t, step s = .next t ∧ runs k t

/-- The registers that the current team's region has read before writing them, with those its word reads (R352). -/
def readBefore (i : Instr) (s : State) : RegSet :=
  s.team.rbw ||| (readSet (info i) s.team.hints &&& ~~~s.team.wr)

/-- The registers that a word reads or writes, now or at its seam. -/
def regsTouched (i : Instr) (s : State) : RegSet :=
  readSet (info i) s.team.hints ||| useSet (info i).writes ||| useSet (info i).seamWrites

/-- WHEN A WORD EXECUTES: no field of it is refused where it stands (R66), it writes no register that its region has read
(R352), it reads no register whose data is uncorrectable (R191), and, unless it has issued already and waits, no hazard that its
context checks (R48) and a free place on its completion flag (R46). -/
structure Passes (i : Instr) (s : State) : Prop where
  details : s.details i = []
  contract : useSet (info i).writes &&& readBefore i s = 0
  whole : s.badReg s.cur (readSet (info i) s.team.hints) = none
  hazard : s.team.wait = .none → (s.ctxOf s.team).cfg.hazard = true → regsTouched i s &&& s.team.pendingRegs = 0
  flag : s.team.wait = .none → ∀ n, flagOf (info i) s.team.flow.pos = some n → s.team.flags.get n ≠ 63

/-- The place in the team's program order of the word that now issues. -/
def issuedAt (s : State) : Nat :=
  match s.team.wait with
  | .access id => (match s.team.words.find? (fun v => v.id == id) with | some v => v.seq | none => s.team.nextSeq)
  | _ => s.team.nextSeq

/-- The word as its effect sees it. -/
def wordOf (i : Instr) (s : State) : Wd := s.begin_.wd i

/-- The sets of R352 after a word, the registers and lanes that an interlocked word has written, its place in the program order, and
the clocks for which it takes its port. -/
def setsOf (i : Instr) (s : State) : Sets :=
  ⟨s.team.wr ||| useSet (info i).writes, readBefore i s, if (info i).fs.isSome then 0 else useSet (info i).writes, (wordOf i s).mask,
    issuedAt s, (wordOf i s).clocks⟩

/-- The state after a word whose effect is `f`, the next word following. -/
def after (i : Instr) (s : State) (f : State → State) : State :=
  ((f s.begin_).finish (setsOf i s)).tick (dieOf s.cur)

/-- The same where the word is a seam that `dests` open (R350). -/
def afterSeam (i : Instr) (s : State) (f : State → State) (dests : RegSet) : State :=
  (((f s.begin_).finish (setsOf i s)).seamHere dests).tick (dieOf s.cur)

/-- The same where the word transfers to a clause header (R36). -/
def afterJump (i : Instr) (s : State) (f : State → State) (target : W64) : State :=
  ((f s.begin_).transfer target (setsOf i s)).tick (dieOf s.cur)

/-- THE COMPLETION OF A WORD THAT WRITES REGISTERS: when it passes its checks, the machine answers the state in which its
registers have been written and the next word follows. -/
def writesRegs (i : Instr) (s : State) (f : Wd → Regs → Regs) : Prop :=
  Passes i s → exec i s = .next (after i s (fun x => x.withRegs (f (wordOf i s))))

/-- The completion of a word that writes one s-register. -/
def writesS (i : Instr) (s : State) (d : BitVec 6) (v : Wd → W64) : Prop :=
  writesRegs i s (fun w r => r.writeS d.toNat (v w))

/-- The completion of a word that writes one a-register: its base and its stride. -/
def writesA (i : Instr) (s : State) (d : BitVec 6) (v : Wd → W64 × W32) : Prop :=
  writesRegs i s (fun w r => r.writeA d.toNat (v w).1 (v w).2)

/-- The completion of a word that writes one mask register. -/
def writesM (i : Instr) (s : State) (m : Nat) (v : Wd → Mask) : Prop :=
  writesRegs i s (fun w r => r.writeM w.width m (v w))

/-- The completion of a word that writes an element in the lanes of its effective mask, and in no other lane (R105). -/
def writesLanes (i : Instr) (s : State) (d cnt : Nat) (v : Wd → Nat → W64) : Prop :=
  writesRegs i s (fun w r => r.writeLanes d cnt (v w) w.lanes)

/-- The same for a float word, which sets the sticky flags that its lanes raise (R116). -/
def writesFloats (i : Instr) (s : State) (d cnt : Nat) (v : Wd → Nat → W64 × FFlags) : Prop :=
  Passes i s → exec i s = .next (after i s (fun x =>
    (x.withRegs (fun r => r.writeLanes d cnt (fun l => (v (wordOf i s) l).1) (wordOf i s).lanes)).raiseFlags
      ((wordOf i s).lanes.foldl (fun f l => f ||| (v (wordOf i s) l).2) 0)))

/-- Whether the word at an address is a clause header, for the current team (R36). -/
def headerAt (s : State) (target : W64) : Prop :=
  ∃ x, s.begin_.fetchWord s.cur target = .ok x ∧ isHeader x = true

/-! ### Words that access memory -/

/-- Every lane of a word has passed its checks (R171). -/
def LanesOk (s : State) (race : Nat) (acc : Acc) (plain : Bool) (reqs : List LaneReq) (l : List LaneAcc) : Prop :=
  s.begin_.checkLanes (dieOf s.cur) s.team.place.ctx race acc plain reqs = .ok l

/-- The die's cache holds the leaves that the lanes' addresses use (R169). -/
def seen (s : State) (reqs : List LaneReq) (z : State) : State :=
  z.fillCaches (coreOf s.cur) s.team.place.ctx (some s.cur) (reqs.map (·.va))

/-- Whether the requests of a word wait for their race checks before the word goes on (R386). -/
def checkedFirst (race : Nat) (parts : List Part) : Bool := race == 1 && parts.any (fun p => p.rc)

/-- The requests of a word issue in one pass (R20). -/
def OnePass (parts : List Part) (n : Nat) : Prop := parts ≠ [] ∧ ∀ p ∈ parts, p.pass = n

/-- A word of the sweep that has no lane: it completes as it issues (R17). -/
def idleWord (w : Wd) (lw : LongWord) (z : State) : State :=
  let y := (z.addWord w lw).1
  y.setTeam (y.team.dropWord (z.newWord w lw))

/-- HOW A LONG-LATENCY WORD ISSUES in a state `z` with some requests: with none it is outstanding, or, with no lane, complete; those
of one pass, which the miss tracker accepts, are open, and the word is outstanding. `idle` is how a word without a lane ends. -/
def opensWord (i : Instr) (s z : State) (parts : List Part) (lw : LongWord) (idle : Instr → State → (State → State) → State) : Prop :=
  let w := wordOf i s
  (parts = [] → w.mask = 0 → exec i s = .next (idle i s (fun _ => idleWord w lw z))) ∧
  (parts = [] → w.mask ≠ 0 → exec i s = .next (after i s (fun _ => (z.addWord w lw).1))) ∧
  (∀ n, OnePass parts n → checkedFirst lw.who.race parts = false →
    let v := lw.opened parts
    z.trackerRefuses s.cur (v.passNeeds z n).length = false →
    exec i s = .next (after i s (fun _ => z.openPass w v n (v.passNeeds z n))))

/-- How a long-latency word goes on that waits for its passes, or for its race checks: it issues its last pass, or none is left, and
the next word follows. -/
def goesOn (i : Instr) (s : State) : Prop :=
  ∀ id_ v, Passes i s → s.team.wait = .access id_ → s.team.word? id_ = some v → s.team.fail = none →
    (v.who.race = 1 → v.allChecked = true) →
    (v.passLeft = none → exec i s = .next (after i s id)) ∧
    (∀ n, v.passLeft = some n → (∀ p ∈ v.parts, p.issued = false → p.pass = n) →
      s.begin_.trackerRefuses s.cur (v.passNeeds s.begin_ n).length = false →
      exec i s = .next (after i s (fun z => z.issuePass v n (v.passNeeds z n))))

/-- THE COMPLETION OF A WORD THAT WILL WRITE REGISTERS: with its lanes checked, the word is outstanding, its requests to be
performed later, and its flag is up; it goes on with its later passes. -/
def issuesWord (i : Instr) (s : State) (reqs : Wd → List LaneReq) (acc : Acc) (split : List LaneAcc → List Part)
    (pre : State → State) (lw : Wd → LongWord) (idle : Instr → State → (State → State) → State) : Prop :=
  let w := wordOf i s
  (∀ l, Passes i s → s.team.wait = .none → s.team.fail = none → LanesOk s (lw w).who.race acc false (reqs w) l →
    opensWord i s (pre (seen s (reqs w) s.begin_)) (split l) (lw w) idle) ∧
  goesOn i s

/-- HOW A WORD OF STORES ISSUES in a state `z`: its stores are in the miss tracker, in one pass that it accepts; with no lane there
is nothing to store. Their race checks, and the copies of their blocks, come first where there are any (R188, R386). -/
def opensStores (i : Instr) (s z : State) (parts : List Part) (op : Option AtomicOp) (rel fin : Bool)
    (ends : Instr → State → (State → State) → State) : Prop :=
  (parts = [] → exec i s = .next (ends i s (fun _ => z.setTeam { z.team with nextSeq := z.team.nextSeq + 1 }))) ∧
  (∀ n, OnePass parts n → checkedFirst (s.whoOf s.cur).race parts = false → parts.any (fun p => p.kv) = false →
    z.trackerRefuses s.cur parts.length = false →
    exec i s = .next (ends i s (fun _ => z.openStorePass (wordOf i s) parts op rel (s.whoOf s.cur) false fin n)))

/-- How a word of stores goes on that waits: no store of it is held, those to a page mapped by blocks have been performed, and its
last pass issues, or none is left. -/
def storesGoOn (i : Instr) (s : State) (ends : Instr → State → (State → State) → State) : Prop :=
  ∀ n, Passes i s → s.team.wait = .access n → s.team.fail = none →
    (∀ r ∈ s.storesOf n, r.held = false ∧ ((r.kv = false ∧ r.fin = false) ∨ r.performed = true)) →
    (s.storesLeft n = none → exec i s = .next (ends i s id)) ∧
    (∀ k, s.storesLeft n = some k → (∀ r ∈ s.storesOf n, r.later = true → r.pass = k) →
      s.begin_.trackerRefuses s.cur ((s.storesOf n).filter (fun r => r.later && r.pass == k)).length = false →
      exec i s = .next (ends i s (fun z => (z.leaveWaits z.cur).acceptPass z.cur n k)))

/-- THE COMPLETION OF A WORD THAT STORES: with its lanes checked, its stores are in the miss tracker; it goes on with its later
passes. `ends` is how the word ends: with the next word, or with a seam. -/
def issuesStores (i : Instr) (s : State) (reqs : Wd → List LaneReq) (acc : Acc) (split : List LaneAcc → List Part)
    (op : Option AtomicOp) (fin : Bool) (ends : Instr → State → (State → State) → State) : Prop :=
  let w := wordOf i s
  (∀ l, Passes i s → s.team.wait = .none → LanesOk s (s.whoOf s.cur).race acc false (reqs w) l →
    opensStores i s (seen s (reqs w) s.begin_) (split l) op false fin ends) ∧
  storesGoOn i s ends

/-- The end of a word that is a seam. -/
def atSeam (i : Instr) (s : State) (f : State → State) : State := Safety.afterSeam i s f 0

/-- Every lane of a stash word has passed its checks, its mapped lines are valid or can be filled now, and no copy of the
team still writes them (R210, R217). -/
def StashOk (s : State) (acc : Acc) (reqs : List LaneReq) (l : List StashAcc) : Prop :=
  s.begin_.checkStash s.team (dieOf s.cur) acc reqs = .ok l ∧ s.begin_.linesReady s.cur s.team.wgKey (linesOf l) = true ∧
  l.any (fun a => s.begin_.engineOwnsStash s.cur a.req.va.toNat) = false

/-- The requests of a stash word. -/
def stashParts (l : List StashAcc) : List Part := l.foldl (fun ps a => insertStash a ps) []

/-- One pass of a stash store can be performed in a state, whose mapped lines are filled and lie in blocks of their own; it leaves `y`
(R20, R188, R195, R240). -/
def StorePass (z : State) (l : List StashAcc) (who : Who) (y : State) : Prop :=
  ∃ z0, z.team.stashPending (linesOf l) = false ∧ z.team.acquiresFixed z.team.nextSeq = true ∧
    z.linesReady z.cur z.team.wgKey (linesOf l) = true ∧ l.any (fun a => z.engineOwnsStash z.cur a.req.va.toNat) = false ∧
    z.ownBlocks z.team.wgKey who l = .ok z0 ∧
    y = (stashParts l).foldl (fun s p => s.stashPerform z.team.wgKey p who) (z0.fillLines z.team.wgKey (linesOf l))

/-- The state in which the mapped lines of a stash word are valid, and no request of a trap-mode word races. -/
def Filled (i : Instr) (s : State) (l : List StashAcc) (store : Bool) (z : State) : Prop :=
  (s.begin_.fillLines s.team.wgKey (linesOf l)).stashTrap (wordOf i s) s.team.wgKey (stashParts l) (s.whoOf s.cur) store = (z, none)

/-! ### Words of the sampler path -/

/-- The descriptor at an address is readable and describes an image (R171, R222). -/
def Described (s : State) (va : W64) (img : Image) : Prop :=
  ∃ p, va.toNat % 32 = 0 ∧ s.begin_.checkElem (dieOf s.cur) s.team.place.ctx 0 .sampler false 32 va = .ok p ∧
    s.begin_.badRange p.pa 32 = false ∧ imageOf (s.begin_.samplerElem p.pa 32 s.begin_.samplerFrom 0) = some img

/-- The completion of a word whose elements the sampler path will read: it is outstanding; with no element to read, all of
them lying on the border, its results are known. -/
def samples (i : Instr) (s : State) (reqs : List LaneReq) (lw : LongWord) : Prop :=
  (∀ l, Passes i s → s.team.wait = .none → s.team.fail = none → LanesOk s 0 .sampler true reqs l →
    let v : LongWord := { lw with upto := s.begin_.samplerFrom, word := wordBits i, mask := (wordOf i s).mask }
    opensWord i s (seen s reqs s.begin_) (gather l) (if l.isEmpty then { v with results := v.texResults (wordOf i s).width } else v) after) ∧
  goesOn i s

/-! ### Atomic words -/

/-- What a release-class atomic does before its requests: the clock advances and its wave begins (R239, R370). -/
def releasing (r : BitVec 2) (c : BitVec 3) (z : State) : State :=
  if r.getLsbD 1 then (z.releaseClock.1.startRelease c).1 else z

/-- The outstanding word of an atomic: where it releases, it names what it waits for. -/
def atomicWord (s : State) (op : AtomicOp) (r : BitVec 2) (c : BitVec 3) (w : Wd) : LongWord :=
  let v : LongWord := { id := 0, kind := .atomic, op := some op, ord := r, width := 2, dests := useSet w.f.seamWrites, who := s.whoOf s.cur }
  if !r.getLsbD 1 || c = 0 then v else if c = 1 then { v with upto := s.nextId } else { v with wave := some s.nextId, upto := s.nextId }

/-- The end of a word at a seam that opens with the registers that its completion writes. -/
def atOwnSeam (i : Instr) (s : State) (f : State → State) : State := Safety.afterSeam i s f (useSet (info i).seamWrites)

/-- The completion of an atomic word that returns the old values. -/
def issuesAtomic (i : Instr) (s : State) (reqs : Wd → List LaneReq) (op : AtomicOp) (r : BitVec 2) (c : BitVec 3) : Prop :=
  issuesWord i s reqs op.acc gatherLines (releasing r c) (atomicWord s op r c) atOwnSeam

/-- The completion of an atomic word that returns nothing: one that does not release puts its requests into the miss
tracker at once; one that releases does so when what it releases has been performed, and then its clock advances; both are seams
(R239, R246, R370). -/
def issuesReduction (i : Instr) (s : State) (reqs : Wd → List LaneReq) (op : AtomicOp) (r : BitVec 2) (c : BitVec 3) : Prop :=
  (r.getLsbD 1 = false → issuesStores i s reqs op.acc gatherLines (some op) true atSeam) ∧
  (r.getLsbD 1 = true → storesGoOn i s atSeam ∧
    ∀ n l, Passes i s → s.team.wait = .wave n → s.begin_.releaseDone c n = true →
      let s1 := s.begin_.setTeam { s.team with wait := .none }
      s1.checkLanes (dieOf s.cur) s.team.place.ctx (s.whoOf s.cur).race op.acc false (reqs (wordOf i s)) = .ok l →
      opensStores i s (seen s (reqs (wordOf i s)) s1) (gatherLines l) (some op) true true (fun i s f => atSeam i s (fun z => (f z).releaseClock.1)))

/-! ### Words that start engines -/

/-- The operands of a copy pass the checks of R232; `len` is the length of a CPY. -/
structure CopyOk (s : State) (c : Copy) (len : Option Nat) : Prop where
  aligned : c.dst.toNat % 4 = 0 ∧ c.src.toNat % 4 = 0 ∧ c.rowBytes % 4 = 0 ∧ c.srcPitch % 4 = 0 ∧ c.dstPitch % 4 = 0
  dstCanonical : c.toStash = false → canonical c.dst = true
  srcCanonical : c.fromStash = false → canonical c.src = true
  length : ∀ n, len = some n → n ≤ 2 ^ 36
  dstFits : c.toStash = true → c.dst.toNat + c.extent c.dstPitch ≤ s.stashSize s.team
  srcFits : c.fromStash = true → c.src.toNat + c.extent c.srcPitch ≤ s.stashSize s.team

/-- The completion of a word that starts a copy: the copy is active, and is one of the team's pending copies. -/
def startsCopy (i : Instr) (s : State) (c : Copy) (len : Option Nat) : Prop :=
  Passes i s → CopyOk s c len → (s.copiesOf s.team).length < 256 →
  let t := s.team
  exec i s = .next (after i s (fun z =>
    (z.fresh.2.putCopy s.nextId { c with
      active := true, uid := s.cur, owner := t.key, gid := t.place.grid, wg := t.wgKey, seq := t.nextSeq, upto := s.nextId,
      who := { s.whoOf s.cur with engine := true } }).setTeam { t with
        nextSeq := t.nextSeq + 1, copy := { t.copy with open_ := t.copy.open_ ++ [s.nextId] } }))

/-- An engine has read bytes for the team's word, which leaves the state `z` (R168, R209). -/
def EngineRead (s : State) (va : W64) (n : Nat) (l : List Byte) (z : State) : Prop :=
  (∃ p, s.begin_.translate (dieOf s.cur) s.team.place.ctx .engRead va = .ok p) ∧
  s.begin_.engRead { s.whoOf s.cur with engine := true } (dieOf s.cur) (some (coreOf s.cur)) va n = .ok l z

/-! ### Matrix, light-field and traversal words -/

/-- The team holds a slice, and no stopped operation of it has still to be reported (R300, R305). -/
structure HoldsSlice (s : State) (k : Nat) : Prop where
  noStop : s.matStop s.cur = none
  slice : s.sliceOf s.cur = some k

/-- The span unit takes the passes of a word: it has none, or the unit is free and no other team's pass waits before it (R139, R269). -/
def SpanTakes (i : Instr) (s : State) : Prop := (wordOf i s).mask = 0 ∨ s.begin_.spanRefuses = false

/-- A word that reads elements of the stash at once finds `bytes` there, and leaves the state `z`: its lanes pass their checks, its lines
are ready, no request of a trap-mode word races, none of its data is uncorrectable, and the race updates of its reads are made (R144,
R191, R217, R384). -/
def ReadsStash (i : Instr) (s : State) (reqs : List LaneReq) (bytes : List (List Byte)) (z : State) : Prop :=
  ∃ l z1, s.begin_.checkStash s.team (dieOf s.cur) .load reqs = .ok l ∧
    let z0 := (stashParts l).foldl (fun z p => z.mendStash p.line z.cur s.team.place.ctx) s.begin_
    z0.stashReady s.team.wgKey (linesOf l) (l.map (fun a => a.req.va.toNat)) = true ∧
    (z0.fillLines s.team.wgKey (linesOf l)).stashTrap (wordOf i s) s.team.wgKey (stashParts l) (z0.whoOf z0.cur) false = (z1, none) ∧
    (∀ p ∈ stashParts l, z1.badStash s.team.wgKey p = none) ∧
    z = z1.stashNoted s.team.wgKey (stashParts l) (z0.whoOf z0.cur) ∧
    bytes = reqs.map (fun r => (z1.wgs.get s.team.wgKey).stashBytes r.va.toNat r.size)

/-- The word that the team waits for has gathered every value that it reads, without a failure. -/
def Gathered (s : State) (v : LongWord) : Prop :=
  ∃ n, s.team.wait = .access n ∧ s.team.word? n = some v ∧ v.passLeft = none ∧ s.team.fail = none ∧ v.err = none ∧
    v.parts.all (fun p => p.fixed) = true

/-- That word is done with: it is dropped, and what its loads have read is kept for a later fence (R378). -/
def dropped (v : LongWord) (z : State) : State := z.setTeam (z.team.gathered v)

/-- No walk of the team is outstanding, and the state with its saved walk forgotten (R349). -/
def forgetWalk (s : State) (z : State) : State := z.setTeam { s.team with trav := { s.team.trav with saved := none } }

/-- The saved walk that a word claims (R349). -/
def claimed (i : Instr) (s : State) : Option SavedWalk :=
  s.team.trav.saved.filter (fun v => v.pc == (wordOf i s).pc && v.word == wordBits i && v.mask == (wordOf i s).mask)

/-- The lanes of a walk as requests: those of the saved walk, or the lanes given, the ones that do not walk done with. -/
def walkParts (i : Instr) (s : State) (lanes : List (Nat × TrLane)) : List Part :=
  match claimed i s with
  | some v => v.parts
  | none => lanes.map (fun x => lanePart x.1 (x.2.status ≠ 4))

/-- THE COMPLETION OF A WORD THAT WALKS: with room for its lanes, it is outstanding, the lanes' states and the root stand, and the areas
in which its lanes may spill are its own; without a lane it is at its seam at once (R337, R341, R342, R349). -/
def startsWalk (i : Instr) (s : State) (kind : LongKind) (d : BitVec 6) (root : W64) (lanes : List (Nat × TrLane)) : Prop :=
  let t := s.team
  let parts := walkParts i s lanes
  let states := match claimed i s with
    | some v => v.lanes
    | none => lanes.foldl (fun (m : SMap (0#512)) x => m.set x.1 x.2.pack) t.trav.lanes
  let started (z : State) : State :=
    z.fresh.2.setTeam { t with trav := { lanes := states, old := t.trav.lanes, saved := none }, sys := { t.sys with trroot := root } }
  let lw : LongWord :=
    { id := 0, kind := kind, dests := useSet (info i).seamWrites, reg := d.toNat, parts := parts, upto := s.nextId,
      raw := ((claimed i s).map (·.hits)).getD [], err := (claimed i s).bind (·.err),
      errDetail := ((claimed i s).map (·.errDetail)).getD 0,
      lines := t.spillLines (parts.map (fun p => (p.elems.headD { lane := 0, off := 0, size := 0 }).lane)),
      args := [root, t.sys.trspill, (t.sys.trcfg.extractLsb' 0 11).setWidth 64], who := { s.whoOf s.cur with engine := true } }
  (kind = .trres → parts = [] → exec i s = .next (atOwnSeam i s id)) ∧
  (¬ (kind = .trres ∧ parts = []) → s.walking (coreOf s.cur) + (parts.filter (fun p => !p.fixed)).length ≤ 2048 →
    exec i s = .next (if (wordOf i s).mask = 0 then atOwnSeam i s (fun z => idleWord (wordOf i s) lw (started z))
      else after i s (fun z => ((started z).addWord (wordOf i s) lw).1)))

/-- The completion of a word that has read records: its team's earlier accesses have been performed where it reads spilled positions,
which can be read; no register of their payload has been read by the region, and the lanes' own areas can be written (R347, R348). `z`
is the state with the word's reads done. -/
def loadsRecords (i : Instr) (s z : State) (p x : BitVec 1) (recs : List (Nat × BitVec 512)) (area : Nat → W64)
    (pay : Nat → Nat → W32) : Prop :=
  let t := z.team
  let set := if p = 1 then payloadSet t.place.vregs (recs.map (fun r => trLane r.2)) else 0
  let rbw := t.rbw ||| (readSet (info i) s.team.hints &&& ~~~t.wr)
  let own (lane : Nat) : Walk := z.laneWalk (z.ownArea lane) lane
  (x = 1 → z.teamQuiet s.cur = true) →
  ∀ words z1 z2 z3, z.readAreas (if x = 1 then z.spillsOf recs area else []) = .ok (.ok words) z1 → set &&& rbw = 0 →
    ((z1.ctxOf t).cfg.hazard = true → set &&& t.pendingRegs = 0) →
    z1.checkAreas own words = .ok none z2 → z2.writeAreas own words = .ok () z3 →
    let z4 := z3.putRecords p recs pay
    let z5 := if p = 1 then z4.setTeam (z4.team.wrotePayload recs) else z4
    exec i s = .next ((z5.finish ⟨t.wr ||| set, rbw, 0, 0, t.nextSeq, (wordOf i s).clocks⟩).tick (dieOf s.cur))

/-! ### Commands of the host (R408) -/

/-- The command at the head of the ring is `op`, with the bytes `l`, and may be performed. -/
structure HeadCommand (s : State) (op : Nat) (l : List Byte) : Prop where
  ring : powerOfTwo 2 4096 s.hub.cmdCap = true ∧ s.hub.cmdHead ≠ s.hub.cmdTail
  bytes : l = s.loadBytes s.hub.cmdAddr 64
  code : fieldAt l 0 2 = op
  started : s.hub.started = true ∨ op = 0x01 ∨ op = 0x0B

/-- The command names a context that exists. -/
structure OnContext (s : State) (op : Nat) (l : List Byte) (n : Nat) (c : Ctx) : Prop where
  head : HeadCommand s op l
  num : cmdCtx l = n ∧ n < 256
  ctx : s.ctxs.get n = c ∧ c.state ≠ 0

/-- The next state of a command that has completed with a status and data, leaving the state `z`. -/
def completes (i : Instr) (s z : State) (status data : Nat) : Prop := exec i s = .next ((z.cmdDone status data).tick hubDie)

/-! ### Frames -/

/-- The words whose effect is on registers and sticky flags alone: scalar, affine, integer, float, mask and cross-lane words
of one team, and the words that read clocks and system registers. -/
def registersOnly : Instr → Bool
  | .sadd .. | .ssub .. | .smul .. | .smulh .. | .sand .. | .sor .. | .sxor .. | .ssel .. | .sshl .. | .sshr .. | .ssar ..
  | .scmp .. | .smin .. | .smax .. | .smov .. | .sdiv .. | .smovi .. | .saddi .. | .aadd .. | .asub .. | .ashl .. | .amov ..
  | .amovA .. | .aset .. | .avec .. | .abase .. | .astr .. | .aoff .. | .vadd .. | .vsub .. | .vmul .. | .vmulh .. | .vmad ..
  | .vsadd .. | .vssub .. | .vabsd .. | .vand .. | .vor .. | .vxor .. | .vandn .. | .vshl .. | .vshr .. | .vsar .. | .vrot ..
  | .vmin .. | .vmax .. | .vsel .. | .vmov .. | .vclz .. | .vpop .. | .vbrev .. | .vbfe .. | .vbfi .. | .vcvti .. | .vlane ..
  | .vdiv .. | .vcmp .. | .fadd .. | .fsub .. | .fmul .. | .ffma .. | .fmin .. | .fmax .. | .fcpsgn .. | .frnd .. | .frcp ..
  | .frsq .. | .fsqrt .. | .fdiv .. | .fexp2 .. | .flog2 .. | .fsin .. | .fcos .. | .fcmp .. | .fcvt .. | .cvti .. | .cvtf ..
  | .fclass .. | .vshuf .. | .vbcast .. | .vscan .. | .vred .. | .mand .. | .mor .. | .mxor .. | .mnot .. | .mpop .. | .mfirst ..
  | .mtos .. | .stom .. | .vvote .. | .srd .. | .time .. | .clk .. => true
  | _ => false

/-- Of these, the words that may set sticky flags (R116). -/
def setsFlags : Instr → Bool
  | .fadd .. | .fsub .. | .fmul .. | .ffma .. | .fmin .. | .fmax .. | .fcpsgn .. | .frnd .. | .frcp .. | .frsq .. | .fsqrt ..
  | .fdiv .. | .fexp2 .. | .flog2 .. | .fsin .. | .fcos .. | .fcmp .. | .fcvt .. | .cvti .. | .cvtf .. | .vscan .. | .vred .. => true
  | _ => false

/-- No register differs but those of a set, nor a v-register in a lane outside a list. -/
structure RegsKept (writes : RegSet) (lanes : List Nat) (r r' : Regs) : Prop where
  v : ∀ n l, n < 64 → l < 1024 → writes.getLsbD n = false ∨ l ∉ lanes → r'.readV n l = r.readV n l
  s : ∀ n, n < 64 → writes.getLsbD (64 + n) = false → r'.readS n = r.readS n
  a : ∀ n, n < 32 → writes.getLsbD (128 + n) = false → r'.readABase n = r.readABase n ∧ r'.readAStride n = r.readAStride n
  m : ∀ n, n < 8 → writes.getLsbD (160 + n) = false → r'.readM n = r.readM n
  i : ∀ n l, r'.readI n l = r.readI n l

/-- THE FRAME OF A WORD: in the state after it, of the registers only those that it writes may differ, and of its team else
only the place, the hints, what the word has waited for, its place in its port's order, what outstanding words know of the registers
that it has written (R47), the region sets and, where it sets flags, the status; nothing of any other team; every byte of memory as
before, and every other part of the machine but the ports of the team's core, the clocks, and the errors that come with time. -/
structure Framed (i : Instr) (s t : State) : Prop where
  regs : RegsKept (useSet (info i).writes) (wordOf i s).lanes s.team.regs t.team.regs
  flags : ∃ f : FFlags, t.team.sys = (s.raiseFlags f).team.sys ∧ (setsFlags i = false → f = 0)
  team : { t.team with
    regs := s.team.regs, sys := s.team.sys, hints := s.team.hints, flow := { t.team.flow with pos := s.team.flow.pos },
    wait := s.team.wait, stall := s.team.stall, eligible := s.team.eligible, promoted := s.team.promoted, lastIssue := s.team.lastIssue,
    finishing := s.team.finishing, words := s.team.words, wr := s.team.wr, rbw := s.team.rbw } = s.team
  others : ∀ u, u ≠ s.cur → t.teams.get u = s.teams.get u
  memory : ∀ a, t.byteAt a = s.byteAt a
  dies : ∀ d, ({ t.dies.get d with clk := (s.dies.get d).clk, time := (s.dies.get d).time, soft := (s.dies.get d).soft } : Die) = s.dies.get d
  cores : ∀ c, ({ t.cores.get c with ports := (s.cores.get c).ports } : Core) = s.cores.get c
  rest : { t with teams := s.teams, dies := s.dies, cores := s.cores, freeCtr := s.freeCtr, now := s.now, bad := s.bad } = s

/-! ### Steps -/

/-- The current team runs its next word: it is bound and runs, is neither held back nor cut off, and no trap waits for it, or
its word is in the middle of its accesses (R30, R365, R420). -/
structure Runs (s : State) : Prop where
  phase : s.team.phase = .running
  free : s.preempted s.cur = false ∨ s.midAccess s.cur = true
  linked : s.stranded s.cur = false
  quiet : s.midAccess s.cur = true ∨ s.team.trap.pending = none

end Sys2Proof.Safety
end

