-- ==== Sys2Proof/WellFormed.lean ====
section
/-! DEFINITION. Which instructions are well formed: every field of a word is one that its description accepts (R63 to
R66), whatever the launch's register count, the features and the place of the word in its clause. -/

namespace Sys2Proof

/-- The detail codes that an instruction fails by its own fields where a launch has every v-register. -/
def Instr.faults : Instr → List Nat
  | .wordNotAnInstruction w => match decodeWord w with | .ok _ => [] | .error _ => wordDetails 64 w
  | i => (Machine.info i).details 64

/-- A well-formed instruction: a word all of whose fields are accepted, or a step of the device. The row for words that
are no instruction is no such word. -/
def Instr.wellFormed (i : Instr) : Bool :=
  match i with
  | .wordNotAnInstruction _ => false
  | _ => i.faults.isEmpty

/-- Whether an instruction is a word, or a step of the device, its firmware or its host. -/
def Instr.isWord (i : Instr) : Bool := (encode i).isSome

end Sys2Proof
end

