-- ==== Sys2Proof/Certificates/Slice0/Obligations.lean ====
section
/-! DEFINITION. The statements for the provers. -/

open Sys2Proof Sys2Proof.Machine Sys2Proof.Safety

/-! ### The machine as a whole -/

/-- R407, R360, R2: after reset the host's registers read as the spec gives them, TRAPSTAT reads 0, nothing is bound and no
context exists, and memory is in its canonical form. That a byte that nothing has written reads as 0xFF is the model's
choice (log entry 3). -/
def Obligations.ResetState : Prop :=
  ∀ u n k a : Nat,
    let s := State.reset
    (s.hub.featacc = 0 ∧ s.hub.cmdBase = 0 ∧ s.hub.cmdCap = 0 ∧ s.hub.cmdTail = 0 ∧ s.hub.cmdHead = 0 ∧ s.hub.mbox = 0 ∧
      s.hub.mboxGo = false ∧ s.hub.bootstat = 0 ∧ s.hub.started = false) ∧
    s.sysRead u 0x0700 = 0 ∧ (s.teams.get u).phase = .unbound ∧ (s.wgs.get k).bound = false ∧ (s.ctxs.get n).state = 0 ∧
    s.agenda = [] ∧ s.mod.powered = true ∧ Memory.wf s ∧ s.byteAt a = 0xFF

/-- R25, R34, R63, R68, R268: where no event is due, or the agenda lets a slot issue, and the team whose turn its port has come to runs,
the step fetches the word at that team's place, and is that of the instruction the word decodes to, or of the row for words that are no
instruction. The turn is the slot's own where no team of the port comes before it, and that of the first before it which is ready where
it is ready itself. A due event is run as it stands; and while the module is powered down only a module reset is. The port's order, and
that a team is ready where its word would issue, are the model's reading (log entry 55). -/
def Obligations.StepRuns : Prop :=
  ∀ (s : State) (u v : Nat) (rest : List Act) (i : Instr) (x : W32) (e : Reject),
    let y : State := { s with agenda := rest }
    let free := y.portFree u
    let z : State := { (y.turn u).1 with cur := (y.turn u).2 }
    let pc := z.team.flow.pos.pc
    let due : Prop := (s.agenda = [] ∧ rest = [] ∧ u = s.cur) ∨ s.agenda = .issue u :: rest
    (due → s.mod.powered = true → Runs z → z.fetchWord z.cur pc = .ok x → decodeWord x = .ok i →
      step s = exec i (z.fetchFill z.cur pc)) ∧
    (due → s.mod.powered = true → Runs z → z.fetchWord z.cur pc = .ok x → decodeWord x = .error e →
      step s = exec (.wordNotAnInstruction x) (z.fetchFill z.cur pc)) ∧
    (free.rivals u = [] ∨ free.issuesNow u = false → y.turn u = (free, u)) ∧
    (free.issuesNow u = true → free.issuesNow v = true → (free.rivals u).head? = some v → y.turn u = (free, v)) ∧
    (s.agenda = .event i :: rest → s.mod.powered = true → step s = exec i { s with agenda := rest }) ∧
    (∀ l, s.agenda = .event (.moduleReset l) :: rest → step s = exec (.moduleReset l) { s with agenda := rest }) ∧
    (due → s.mod.powered = false → step s = .fault .poweredDown)

/-- R34 to R62: words of the spec's own tables, one or two of a family, and what they decode to. -/
def Obligations.DecodeWords : Prop :=
  decodeWord 0x04000481 = .ok (.clause 0 1 2 1) ∧ decodeWord 0x08123456 = .ok (.hintImm 0x123456) ∧
  decodeWord 0x0900000A = .ok (.hintGuard 1 2) ∧ decodeWord 0x1035FFFA = .ok (.brc 3 2 (-6)) ∧
  decodeWord 0x15000005 = .ok (.brd 2 0 5) ∧ decodeWord 0x20230000 = .ok (.callr 12) ∧ decodeWord 0x20A00005 = .ok (.trap 5) ∧
  decodeWord 0x28410548 = .ok (.sadd 4 4 5 1 2) ∧ decodeWord 0x38303FFB = .ok (.smovi 3 (-5)) ∧
  decodeWord 0x4470BFFC = .ok (.aset 7 2 (-4)) ∧ decodeWord 0x48107E43 = .ok (.aoff 1 1 62 1) ∧
  decodeWord 0x4C708941 = .ok (.vsub 7 2 9 1 0 0) ∧ decodeWord 0x691014C0 = .ok (.vcmp 2 1 0 20 3 0 0) ∧
  decodeWord 0x98A1072C = .ok (.vstg 10 4 7 0 0 1 3 0) ∧ decodeWord 0x9440C0C8 = .ok (.vldg 4 3 0 1 1 0 2 0 0) ∧
  decodeWord 0xAC418417 = .ok (.atom 4 6 2 0 1 3 1) ∧ decodeWord 0xCC80C081 = .ok (.qpop 8 3 1) ∧
  decodeWord 0xF4000000 = .error .reservedMajor ∧ decodeWord 0x23000000 = .error .reservedCode

/-- R38 to R41, R62 to R66: an instruction has a word exactly where that word decodes to it, with every operand at every value;
and its four bytes, little-endian, decode to it whatever follows them. -/
def Obligations.DecodeEncode : Prop :=
  ∀ (i : Instr) (w : W32) (rest : List Byte),
    (encode i = some w ↔ decodeWord w = .ok i) ∧ (encode i = some w → decode (bytesOfWord w ++ rest) = .ok (i, rest))

/-- The memory of every state that a step answers is in canonical form, where that of the state before was. -/
def Obligations.StepKeepsMemory : Prop := ∀ s t : State, Memory.wf s → step s = .next t → Memory.wf t

/-- R47, R71, R105, R116, R352: a scalar, affine, vector, float, mask or cross-lane word that passes its checks changes no register
but those that it writes, no lane of a v-register outside its effective mask, and nothing else but its place, the sticky
flags where it sets them, and the clocks. -/
def Obligations.RegisterWordsFrame : Prop :=
  ∀ (i : Instr) (s t : State), registersOnly i = true → Passes i s → exec i s = .next t → Framed i s t

/-- R193, R204: a store that comes home, on a line that no stash holds, not race-checked, with no watchpoint enabled and where no sector
of memory is uncorrectable, leaves every byte but those of its elements as it was, and a store of one element writes that element's bytes; no register changes. -/
def Obligations.StoreFrame : Prop :=
  ∀ (core id : Nat) (r : StoreReq) (s : State),
    (s.cores.get core).tracker.find? (fun r => r.id == id) = some r → s.begin_.storeMay core r = true → r.held = false →
    r.kv = false → r.op = none → r.who.checks r.rc = false → s.stashOwner r.line = none →
    (∀ c ∈ s.ctxs.entries, ∀ k, (c.2.watch.get k).ctl.getLsbD 0 = false) → (∀ sec, s.badSector sec = false) →
    ∃ t, exec (.storeAtHome (.tracker core id)) s = .next t ∧ t.teams = s.teams ∧
      (∀ a, (∀ e ∈ r.elems, ∀ k < e.size, canonPA a ≠ canonPA (r.line + e.off + k)) → t.byteAt a = s.byteAt a) ∧
      (∀ e, r.elems = [e] → Memory.wf s → (∀ j k, j < e.size → k < e.size → canonPA (r.line + e.off + j) = canonPA (r.line + e.off + k) → j = k) →
        ∀ k < e.size, t.byteAt (r.line + e.off + k) = BitVec.ofNat 8 (e.x.toNat / 2 ^ (8 * k)))

/-! ### Scalar and affine words -/

/-- R71 to R73: the arithmetic scalar words write s[D] with the exact result reduced to the width of TY (clamped under SAT
for SADD and SSUB) and extended as TY gives, and nothing else but the place; SDIV writes the quotient to s[D] and the
remainder to s[D + 1], where a divisor of zero gives all ones and the dividend, and the signed overflow the dividend and
zero. -/
def Obligations.ScalarArithmetic : Prop :=
  ∀ (d a b : BitVec 6) (k : BitVec 2) (t : BitVec 3) (s : State),
    let wd := tyWidth t
    let x (w : Wd) : Nat := (w.r.readS a.toNat).toNat % 2 ^ wd
    let y (w : Wd) : Nat := (w.scalarB b k).toNat % 2 ^ wd
    let o (v : Nat) : Int := ordered (tySigned t) wd v
    writesS (.sadd d a b k t) s d (fun w => scalarExt t
      (if w.sat then clampTo (tySigned t) wd (o (x w) + o (y w)) else (x w + y w) % 2 ^ wd)) ∧
    writesS (.ssub d a b k t) s d (fun w => scalarExt t
      (if w.sat then clampTo (tySigned t) wd (o (x w) - o (y w)) else wrap wd (x w - y w))) ∧
    writesS (.smul d a b k t) s d (fun w => scalarExt t (x w * y w % 2 ^ wd)) ∧
    writesS (.smulh d a b k t) s d (fun w => scalarExt t (wrap wd (o (x w) * o (y w) / (2 ^ wd : Nat)))) ∧
    writesS (.smin d a b k t) s d (fun w => scalarExt t (if o (x w) ≤ o (y w) then x w else y w)) ∧
    writesS (.smax d a b k t) s d (fun w => scalarExt t (if o (x w) ≤ o (y w) then y w else x w)) ∧
    writesS (.scmp d a b k t) s d (fun w =>
      if o (x w) < o (y w) then BitVec.allOnes 64 else if o (x w) = o (y w) then 0 else 1) ∧
    writesRegs (.sdiv d a b k t) s (fun w r =>
      let q : Nat × Nat :=
        if y w = 0 then (2 ^ wd - 1, x w)
        else if tySigned t = true ∧ x w = 2 ^ (wd - 1) ∧ y w = 2 ^ wd - 1 then (x w, 0)
        else (wrap wd (Int.tdiv (o (x w)) (o (y w))), wrap wd (Int.tmod (o (x w)) (o (y w))))
      (r.writeS d.toNat (scalarExt t q.1)).writeS (d.toNat + 1) (scalarExt t q.2))

/-- R71, R74: the logical and moving scalar words, the shifts (whose count is taken modulo the width), SMOVI and SADDI. -/
def Obligations.ScalarLogic : Prop :=
  ∀ (d a b : BitVec 6) (k : BitVec 2) (t : BitVec 3) (n : BitVec 14) (s : State),
    let wd := tyWidth t
    let x (w : Wd) : Nat := (w.r.readS a.toNat).toNat % 2 ^ wd
    let y (w : Wd) : Nat := (w.scalarB b k).toNat % 2 ^ wd
    writesS (.sand d a b k t) s d (fun w => scalarExt t (x w &&& y w)) ∧
    writesS (.sor d a b k t) s d (fun w => scalarExt t (x w ||| y w)) ∧
    writesS (.sxor d a b k t) s d (fun w => scalarExt t (x w ^^^ y w)) ∧
    writesS (.ssel d a b k t) s d (fun w => scalarExt t (if (w.third 0).toNat % 2 ^ wd ≠ 0 then x w else y w)) ∧
    writesS (.sshl d a b k t) s d (fun w => scalarExt t (x w * 2 ^ (y w % wd) % 2 ^ wd)) ∧
    writesS (.sshr d a b k t) s d (fun w => scalarExt t (x w / 2 ^ (y w % wd))) ∧
    writesS (.ssar d a b k t) s d (fun w => scalarExt t (wrap wd (signedOf wd (x w) / (2 ^ (y w % wd) : Nat)))) ∧
    writesS (.smov d b k t) s d (fun w => scalarExt t (y w)) ∧
    writesS (.smovi d n) s d (fun w => w.imm) ∧
    writesS (.saddi d a n) s d (fun w => w.r.readS a.toNat + w.imm)

/-- R77, R79: the affine words but ASET. AADD, ASUB, ASHL and AMOV (from two s-registers or from an a-register) write the
base and the stride of a[D]; ABASE and ASTR read them to s[D]; AOFF moves the base by strides; AVEC writes a[A] in each
lane to v[D]. -/
def Obligations.AffineWords : Prop :=
  ∀ (d a b : BitVec 6) (k : BitVec 2) (t : BitVec 3) (s : State),
    let x (w : Wd) : W64 := w.r.readABase a.toNat
    let y (w : Wd) : W32 := w.r.readAStride a.toNat
    let u (w : Wd) : W64 := if k = 1 then w.r.readS b.toNat else w.imm
    writesA (.aadd d a b k) s d (fun w => if k = 2 then (x w + w.r.readABase b.toNat, y w + w.r.readAStride b.toNat)
      else (x w + u w, y w)) ∧
    writesA (.asub d a b k) s d (fun w => if k = 2 then (x w - w.r.readABase b.toNat, y w - w.r.readAStride b.toNat)
      else (x w - u w, y w)) ∧
    writesA (.ashl d a b k) s d (fun w => (x w <<< ((u w).toNat % 64), y w <<< ((u w).toNat % 64))) ∧
    writesA (.amov d a b) s d (fun w => (w.r.readS a.toNat, (w.r.readS b.toNat).setWidth 32)) ∧
    writesA (.amovA d b) s d (fun w => (w.r.readABase b.toNat, w.r.readAStride b.toNat)) ∧
    writesA (.aoff d a b k) s d (fun w => (x w + u w * (y w).signExtend 64, y w)) ∧
    writesS (.abase d a) s d x ∧
    writesS (.astr d a) s d (fun w => (y w).signExtend 64) ∧
    writesLanes (.avec d a t) s d.toNat (intCnt t) (fun w l => x w + BitVec.ofNat 64 l * (y w).signExtend 64)

/-- R78: ASET, major 0x11, takes its base from s[A], and its stride from the low 32 bits of its immediate: IMM14, widened
by the HINT.IMM words before it, the first the highest, and sign-extended. -/
def Obligations.AffineSet : Prop :=
  ∀ (d a : BitVec 6) (n : BitVec 14) (s : State),
    let i : Instr := .aset d a n
    let sets (imm : W64) : Prop := writesA i s d (fun w => (w.r.readS a.toNat, imm.extractLsb' 0 32))
    encode i = some (0x11#6 ++ d ++ a ++ n) ∧
    (s.team.hints.imms = [] → sets (n.signExtend 64)) ∧
    (∀ p, s.team.hints.imms = [p] → sets ((p ++ n).signExtend 64)) ∧
    (∀ p q, s.team.hints.imms = [p, q] → sets ((p ++ q ++ n).signExtend 64))

/-! ### Integer vector words -/

/-- R107, R112: the integer vector words of two and three operands write, in the lanes of the effective mask, the exact
result reduced to the element's width (clamped for VSADD and VSSUB, and under SAT for VADD, VSUB and VMAD). -/
def Obligations.VectorArithmetic : Prop :=
  ∀ (d a b : BitVec 6) (k : BitVec 2) (g : BitVec 1) (t : BitVec 3) (s : State),
    let sg := tySigned t
    let o (wd v : Nat) : Int := ordered sg wd v
    let red (w : Wd) (wd : Nat) (i : Int) : Nat := if w.sat then clampTo sg wd i else wrap wd i
    let elem (i : Instr) (op : Wd → Nat → Nat → Nat → Nat → Nat) : Prop :=
      writesLanes i s d.toNat (intCnt t) (fun w l =>
        liftInt t (k = 3) (op w) (w.vec a.toNat (intCnt t) l) (w.vecB b k (intCnt t) l) (w.third l))
    elem (.vadd d a b k g t) (fun w wd x y _ => red w wd (o wd x + o wd y)) ∧
    elem (.vsub d a b k g t) (fun w wd x y _ => red w wd (o wd x - o wd y)) ∧
    elem (.vmul d a b k g t) (fun _ wd x y _ => x * y % 2 ^ wd) ∧
    elem (.vmulh d a b k g t) (fun _ wd x y _ => wrap wd (o wd x * o wd y / (2 ^ wd : Nat))) ∧
    elem (.vmad d a b k g t) (fun w wd x y c => red w wd (o wd x * o wd y + o wd c)) ∧
    elem (.vsadd d a b k g t) (fun _ wd x y _ => clampTo sg wd (o wd x + o wd y)) ∧
    elem (.vssub d a b k g t) (fun _ wd x y _ => clampTo sg wd (o wd x - o wd y)) ∧
    elem (.vabsd d a b k g t) (fun _ wd x y _ => (o wd x - o wd y).natAbs) ∧
    elem (.vmin d a b k g t) (fun _ wd x y _ => if o wd x ≤ o wd y then x else y) ∧
    elem (.vmax d a b k g t) (fun _ wd x y _ => if o wd x ≤ o wd y then y else x)

/-- R107, R109: the logical words, the shifts and rotate (counts modulo the width), the selecting and moving words, and
the bit-field words. -/
def Obligations.VectorLogic : Prop :=
  ∀ (d a b : BitVec 6) (k : BitVec 2) (g : BitVec 1) (t : BitVec 3) (s : State),
    let elem (i : Instr) (a : Nat) (op : Nat → Nat → Nat → Nat → Nat) : Prop :=
      writesLanes i s d.toNat (intCnt t) (fun w l =>
        liftInt t (k = 3) op (w.vec a (intCnt t) l) (w.vecB b k (intCnt t) l) (w.third l))
    elem (.vand d a b k g t) a.toNat (fun _ x y _ => x &&& y) ∧
    elem (.vor d a b k g t) a.toNat (fun _ x y _ => x ||| y) ∧
    elem (.vxor d a b k g t) a.toNat (fun _ x y _ => x ^^^ y) ∧
    elem (.vandn d a b k g t) a.toNat (fun wd x y _ => x &&& (2 ^ wd - 1 - y)) ∧
    elem (.vshl d a b k g t) a.toNat (fun wd x y _ => x * 2 ^ (y % wd) % 2 ^ wd) ∧
    elem (.vshr d a b k g t) a.toNat (fun wd x y _ => x / 2 ^ (y % wd)) ∧
    elem (.vsar d a b k g t) a.toNat (fun wd x y _ => wrap wd (signedOf wd x / (2 ^ (y % wd) : Nat))) ∧
    elem (.vrot d a b k g t) a.toNat (fun wd x y _ => x * 2 ^ (y % wd) % 2 ^ wd + x / 2 ^ (wd - y % wd)) ∧
    elem (.vsel d a b k g t) a.toNat (fun _ x y c => if c ≠ 0 then x else y) ∧
    elem (.vmov d b k g t) 0 (fun _ _ y _ => y) ∧
    elem (.vbfe d a b k g t) a.toNat (fun wd x y _ =>
      let len := min (y / 256 % 128) wd
      if len = 0 then 0
      else if tySigned t then wrap wd (signedOf len (x / 2 ^ (y % 64) % 2 ^ len)) else x / 2 ^ (y % 64) % 2 ^ len) ∧
    elem (.vbfi d a b k g t) a.toNat (fun wd x y c =>
      let n := if y % 64 + min (y / 256 % 128) wd ≤ wd then min (y / 256 % 128) wd else wd - y % 64
      (c &&& (2 ^ wd - 1 - (2 ^ n - 1) * 2 ^ (y % 64))) ||| (x % 2 ^ n * 2 ^ (y % 64)))

/-- R107, R110, R111: the words of one source: leading zeros, set bits, bits reversed, conversion between integer types,
and the lane's rank in a mask. -/
def Obligations.VectorUnary : Prop :=
  ∀ (d a : BitVec 6) (u : BitVec 3) (g : BitVec 1) (t : BitVec 3) (s : State),
    let elem (i : Instr) (op : Nat → Nat → Nat) : Prop :=
      writesLanes i s d.toNat (intCnt t) (fun w l => liftInt t false (fun wd x _ _ => op wd x) (w.vec a.toNat (intCnt t) l) 0 0)
    elem (.vclz d a g t) (fun wd x => if x = 0 then wd else wd - 1 - x.log2) ∧
    elem (.vpop d a g t) (fun wd x => ((List.range wd).filter (fun i => x.testBit i)).length) ∧
    elem (.vbrev d a g t) revBits ∧
    writesLanes (.vcvti d a u g t) s d.toNat (intCnt t) (fun w l =>
      let x := ordered (tySigned u) (tyWidth u) ((w.vec a.toNat (intCnt u) l).toNat % 2 ^ tyWidth u)
      BitVec.ofNat 64 (if w.sat then clampTo (tySigned t) (tyWidth t) x else wrap (tyWidth t) x)) ∧
    writesLanes (.vlane d a g) s d.toNat 1 (fun w l =>
      BitVec.ofNat 64 ((List.range l).filter (fun j => (w.r.readM a.toNat).getLsbD j)).length)

/-- R108, R113: VDIV writes quotients from v[D] on and remainders after them; VCMP writes m[D] with the condition in each
lane of the effective mask and 0 in every other lane. -/
def Obligations.VectorDivideCompare : Prop :=
  ∀ (d a b : BitVec 6) (c m : BitVec 3) (k : BitVec 2) (g : BitVec 1) (t : BitVec 3) (s : State),
    let n := intCnt t
    let wd := tyWidth t
    let q (w : Wd) (l : Nat) : W64 := liftInt t (k = 3) (fun wd x y _ => (divRules (tySigned t) wd x y).1)
      (w.vec a.toNat n l) (w.vecB b k n l) 0
    let r (w : Wd) (l : Nat) : W64 := liftInt t (k = 3) (fun wd x y _ => (divRules (tySigned t) wd x y).2)
      (w.vec a.toNat n l) (w.vecB b k n l) 0
    writesRegs (.vdiv d a b k g t) s (fun w x => (x.writeLanes d.toNat n (q w) w.lanes).writeLanes (d.toNat + n) n (r w) w.lanes) ∧
    writesM (.vcmp c m a b k g t) s m.toNat (fun w => maskOf w.width (fun l => w.mask.getLsbD l &&
      intCond c (tySigned t) wd ((w.vec a.toNat n l).toNat % 2 ^ wd) ((w.vecB b k n l).toNat % 2 ^ wd)))

/-! ### Float vector words -/

/-- R117 to R119: the float words of two and three operands compute in the format of TY, under the effective rounding mode
and flushing, and set the sticky flags that their lanes raise; FADD, FSUB, FMUL and FFMA clamp under SAT. -/
def Obligations.FloatArithmetic : Prop :=
  ∀ (d a b : BitVec 6) (k : BitVec 2) (g : BitVec 1) (t : BitVec 3) (s : State),
    let elem (i : Instr) (op : Wd → BitVec 2 → Bool → FFmt → Nat → Nat → Nat → FRes) : Prop :=
      writesFloats i s d.toNat (fltCnt t) (fun w l =>
        liftFlt t (op w (w.rm s) (w.ftz s)) (w.vec a.toNat (fltCnt t) l) (w.fltB b k t l) (w.third l))
    let sat (w : Wd) (f : FFmt) (r : FRes) : FRes := if w.sat then (f.saturate r.1, r.2) else r
    elem (.fadd d a b k g t) (fun w rm z f x y _ => sat w f (f.add rm z x y)) ∧
    elem (.fsub d a b k g t) (fun w rm z f x y _ => sat w f (f.sub rm z x y)) ∧
    elem (.fmul d a b k g t) (fun w rm z f x y _ => sat w f (f.mul rm z x y)) ∧
    elem (.ffma d a b k g t) (fun w rm z f x y c => sat w f (f.fma rm z x y c)) ∧
    elem (.fdiv d a b k g t) (fun _ rm z f x y _ => f.div rm z x y) ∧
    elem (.fmin d a b k g t) (fun _ _ z f x y _ => f.minMax false z x y) ∧
    elem (.fmax d a b k g t) (fun _ _ z f x y _ => f.minMax true z x y) ∧
    elem (.fcpsgn d a b k g t) (fun _ _ _ f x y _ => f.copySign x y)

/-- R117, R118, R120, R121: the float words of one operand. The part's own functions are the free choice of R120 inside
its bound (log entry 7); the statement holds for every choice. -/
def Obligations.FloatUnary : Prop :=
  ∀ (d a : BitVec 6) (g : BitVec 1) (t : BitVec 3) (s : State),
    let elem (i : Instr) (op : BitVec 2 → Bool → FFmt → Nat → FRes) : Prop :=
      writesFloats i s d.toNat (fltCnt t) (fun w l =>
        liftFlt t (fun f x _ _ => op (w.rm s) (w.ftz s) f x) (w.vec a.toNat (fltCnt t) l) 0 0)
    elem (.frnd d a g t) (fun rm z f x => f.rnd rm z x) ∧
    elem (.fsqrt d a g t) (fun rm z f x => f.sqrt rm z x) ∧
    elem (.frcp d a g t) (fun _ z f x => f.special 0 z x) ∧
    elem (.frsq d a g t) (fun _ z f x => f.special 1 z x) ∧
    elem (.fexp2 d a g t) (fun _ z f x => f.special 2 z x) ∧
    elem (.flog2 d a g t) (fun _ z f x => f.special 3 z x) ∧
    elem (.fsin d a g t) (fun _ z f x => f.special 4 z x) ∧
    elem (.fcos d a g t) (fun _ z f x => f.special 5 z x)

/-- R122 to R124: FCMP writes a mask register and sets flags; FCVT, CVTI and CVTF convert; FCLASS writes one bit of ten. -/
def Obligations.FloatConvert : Prop :=
  ∀ (d a b : BitVec 6) (c m u : BitVec 3) (k : BitVec 2) (g : BitVec 1) (t : BitVec 3) (s : State),
    let f := fltFmt t
    let cmp (w : Wd) (l : Nat) : Bool × FFlags := f.compare c (w.ftz s)
      ((w.vec a.toNat (fltCnt t) l).toNat % 2 ^ f.width) ((w.fltB b k t l).toNat % 2 ^ f.width)
    let lo : Int := if tySigned t then -(2 ^ (tyWidth t - 1)) else 0
    let hi : Int := if tySigned t then 2 ^ (tyWidth t - 1) - 1 else 2 ^ tyWidth t - 1
    (Passes (.fcmp c m a b k g t) s → exec (.fcmp c m a b k g t) s = .next (after (.fcmp c m a b k g t) s (fun x =>
      let w := wordOf (.fcmp c m a b k g t) s
      (x.withRegs (fun r => r.writeM w.width m.toNat (maskOf w.width (fun l => w.mask.getLsbD l && (cmp w l).1)))).raiseFlags
        (w.lanes.foldl (fun fl l => fl ||| (cmp w l).2) 0)))) ∧
    writesFloats (.fcvt d a u g t) s d.toNat (fcvtCnt t u).1 (fun w l => fcvtLane w s a t u l) ∧
    writesFloats (.cvti d a u g t) s d.toNat (intCnt t) (fun w l =>
      let r := (fltFmt u).toInt (w.rm s) (w.ftz s) lo hi ((w.vec a.toNat (fltCnt u) l).toNat % 2 ^ (fltFmt u).width)
      (BitVec.ofNat 64 (wrap (tyWidth t) r.1), r.2)) ∧
    writesFloats (.cvtf d a u g t) s d.toNat (fltCnt t) (fun w l =>
      let r := f.ofInt (w.rm s) (w.ftz s)
        (ordered (tySigned u) (tyWidth u) ((w.vec a.toNat (intCnt u) l).toNat % 2 ^ tyWidth u))
      (BitVec.ofNat 64 r.1, r.2)) ∧
    writesLanes (.fclass d a g t) s d.toNat 1 (fun w l =>
      (liftFlt t (fun e x _ _ => (e.classOf x, 0)) (w.vec a.toNat (fltCnt t) l) 0 0).1)

/-! ### Mask and cross-lane words -/

/-- R126, whole: the mask words, their encodings, and the word number k that MTOS and STOM accept. -/
def Obligations.MaskWords : Prop :=
  ∀ (d a b k : BitVec 6) (s : State),
    -- the last eight bits: BK in [7:6], TY in [4:2], FN in [1:0]
    let v (m : BitVec 6) (y : BitVec 6) (low : BitVec 8) : Option W32 := some (m ++ d ++ a ++ y ++ low)
    (encode (.mand d a b) = v 0x22 b 0b00000000 ∧ encode (.mor d a b) = v 0x22 b 0b00000001 ∧
      encode (.mxor d a b) = v 0x22 b 0b00000010 ∧ encode (.mtos d a k) = v 0x23 k 0b11000010 ∧
      encode (.stom d a k) = v 0x23 k 0b11000011 ∧ encode (.mnot d a) = some (0x22#6 ++ d ++ a ++ 0b00000000000011#14) ∧
      encode (.mpop d a) = some (0x23#6 ++ d ++ a ++ 0#14) ∧ encode (.mfirst d a) = some (0x23#6 ++ d ++ a ++ 1#14)) ∧
    (16 ≤ k.toNat → 0x04 ∈ s.details (.mtos d a k) ∧ 0x04 ∈ s.details (.stom d a k)) ∧
    writesM (.mand d a b) s d.toNat (fun w => w.r.readM a.toNat &&& w.r.readM b.toNat) ∧
    writesM (.mor d a b) s d.toNat (fun w => w.r.readM a.toNat ||| w.r.readM b.toNat) ∧
    writesM (.mxor d a b) s d.toNat (fun w => w.r.readM a.toNat ^^^ w.r.readM b.toNat) ∧
    writesM (.mnot d a) s d.toNat (fun w => ~~~w.r.readM a.toNat) ∧
    writesS (.mpop d a) s d (fun w => BitVec.ofNat 64 ((List.range w.width).filter (fun l => (w.r.readM a.toNat).getLsbD l)).length) ∧
    writesS (.mfirst d a) s d (fun w => match (List.range w.width).find? (fun l => (w.r.readM a.toNat).getLsbD l) with
      | none => BitVec.allOnes 64
      | some l => BitVec.ofNat 64 l) ∧
    writesS (.mtos d a k) s d (fun w => (w.r.readM a.toNat).extractLsb' (64 * k.toNat) 64) ∧
    writesM (.stom d a k) s d.toNat (fun w =>
      (w.r.readM d.toNat &&& ~~~((BitVec.allOnes 64).setWidth 1024 <<< (64 * k.toNat))) |||
        ((w.r.readS a.toNat).setWidth 1024 <<< (64 * k.toNat)))

/-- R128 to R130: the cross-lane words of one team. VSCAN combines the lanes of the effective mask in ascending order,
VRED writes the last combination, and VVOTE a vote over the same lanes. Which flags the last lane of an exclusive scan raises is the
model's choice (log entry 74). -/
def Obligations.CrossLaneWords : Prop :=
  ∀ (d a b : BitVec 6) (k : BitVec 2) (e f : BitVec 1) (o : BitVec 3) (g : BitVec 1) (t : BitVec 3) (s : State),
    let on (w : Wd) (l : Nat) : Bool := w.r.readV a.toNat l ≠ 0
    let scan (w : Wd) (lanes : List Nat) := scanLanes w s.begin_ f o t (fun l => w.vec a.toNat (scanCnt f t) l) lanes none 0
    writesLanes (.vshuf d a b k g t) s d.toNat (intCnt t) (fun w l =>
      w.vec a.toNat (intCnt t) ((w.vecB b k (intCnt t) l).toNat % 2 ^ 32 % w.width)) ∧
    writesLanes (.vbcast d a g t) s d.toNat (intCnt t) (fun w _ => w.vec a.toNat (intCnt t) (w.lanes.headD 0)) ∧
    (Passes (.vscan d a e f o g t) s → exec (.vscan d a e f o g t) s = .next (after (.vscan d a e f o g t) s (fun x =>
      let w := wordOf (.vscan d a e f o g t) s
      (x.withRegs (fun r => (scan w w.lanes).1.foldl (fun r (y : Nat × W64 × W64) =>
        r.writeVec d.toNat (scanCnt f t) y.1 (if e = 1 then y.2.1 else y.2.2)) r)).raiseFlags
          (scan w (if e = 1 then w.lanes.dropLast else w.lanes)).2))) ∧
    (Passes (.vred d a f o g t) s → exec (.vred d a f o g t) s = .next (after (.vred d a f o g t) s (fun x =>
      let w := wordOf (.vred d a f o g t) s
      let v := match (scan w w.lanes).1.getLast? with | none => identity f o t | some y => y.2.2
      (x.withRegs (fun r => r.writeS d.toNat (if f = 0 ∧ tyWidth t = 32 then scalarExt t v.toNat else v))).raiseFlags
        (scan w w.lanes).2))) ∧
    (k = 0 → writesS (.vvote d a k) s d (fun w => if w.lanes.any (on w) then 1 else 0)) ∧
    (k = 1 → writesS (.vvote d a k) s d (fun w => if w.lanes.all (on w) then 1 else 0)) ∧
    (k = 2 → writesM (.vvote d a k) s d.toNat (fun w => maskOf w.width (fun l => w.mask.getLsbD l && on w l))) ∧
    (k = 3 → writesS (.vvote d a k) s d (fun w =>
      if w.lanes.all (fun l => w.r.readV a.toNat l == w.r.readV a.toNat (w.lanes.headD 0)) then 1 else 0))

/-! ### Clauses, hints, branches, divergence -/

/-- R43, R50 to R55: a clause header whose wait flags read 0 opens its clause; a hint joins the hints of the next word,
taking its port for a clock, and every other part of the machine but the place and the clock stays as it was. -/
def Obligations.ClauseAndHints : Prop :=
  ∀ (s : State) (wait : BitVec 12) (a b : BitVec 4) (l : BitVec 6) (p : BitVec 22) (b1 b2 b3 b4 : BitVec 1) (c m : BitVec 2)
    (r : BitVec 6) (g : BitVec 3),
    let hint (i : Instr) (f : Hints → Hints) : Prop :=
      Passes i s → exec i s = .next (((s.begin_.setTeam { s.team with
        hints := f s.team.hints, flow := { s.team.flow with pos := s.team.flow.pos.next }, stall := none }).issued s.cur 1).tick (dieOf s.cur))
    (Passes (.clause wait a b l) s → s.team.flagsZero wait = true →
      exec (.clause wait a b l) s = .next ((s.begin_.setTeam { s.team with
        hints := {}, stall := none,
        flow := { s.team.flow with pos := { pc := s.team.flow.pos.pc + 4, left := l.toNat + 1, hdr := s.team.flow.pos.pc,
                                            setA := a, setB := b } } }).tick (dieOf s.cur))) ∧
    (Passes (.clause wait a b l) s → s.team.flagsZero wait = false →
      exec (.clause wait a b l) s = .next ((s.begin_.stalled 4).tick (dieOf s.cur))) ∧
    hint (.hintImm p) (fun h => { h with imms := h.imms ++ [p] }) ∧
    hint (.hintSched b1 b2 b3 b4) (fun h => { h with sched := some (b1 ++ b2 ++ b3 ++ b4) }) ∧
    hint (.hintMod c b1 b2 b3 m) (fun h => { h with modh := some ⟨c, b1, b2, b3, m⟩ }) ∧
    hint (.hintSrc3 c r) (fun h => { h with src3 := some (c, r) }) ∧
    hint (.hintGuard b1 g) (fun h => { h with guard := some (b1, g) })

/-- R80 to R82: BRA, CALL, RET, CALLR and a taken BRC move the team to the header at their target; CALL and CALLR write
s63 with the address of the next word; a BRC whose condition fails goes on; a RET or CALLR whose target is misaligned or
not canonical traps with ILLEGAL, detail 0x09, at the word itself, and the address is reported. -/
def Obligations.Branches : Prop :=
  ∀ (s : State) (o : BitVec 26) (q : BitVec 17) (a : BitVec 6) (c : BitVec 3),
    let pc := s.team.flow.pos.pc
    let val (i : Instr) (n : Nat) : W64 := (wordOf i s).r.readS n
    let link (x : State) : State := x.withRegs (fun r => r.writeS 63 (pc + 4))
    let aligned (x : W64) : Prop := x.extractLsb' 0 2 = 0 ∧ canonical x = true
    (Passes (.bra o) s → headerAt s (pc + (o.signExtend 64 <<< 2)) →
      exec (.bra o) s = .next (afterJump (.bra o) s id (pc + (o.signExtend 64 <<< 2)))) ∧
    (Passes (.call o) s → headerAt s (pc + (o.signExtend 64 <<< 2)) →
      exec (.call o) s = .next (afterJump (.call o) s link (pc + (o.signExtend 64 <<< 2)))) ∧
    (Passes .ret s → aligned (val .ret 63) → headerAt s (val .ret 63) →
      exec .ret s = .next (afterJump .ret s id (val .ret 63))) ∧
    (Passes (.callr a) s → aligned (val (.callr a) a.toNat) → headerAt s (val (.callr a) a.toNat) →
      exec (.callr a) s = .next (afterJump (.callr a) s link (val (.callr a) a.toNat))) ∧
    (Passes (.brc a c q) s → brcHolds c (val (.brc a c q) a.toNat) = true → headerAt s (pc + (q.signExtend 64 <<< 2)) →
      exec (.brc a c q) s = .next (afterJump (.brc a c q) s id (pc + (q.signExtend 64 <<< 2)))) ∧
    (Passes (.brc a c q) s → brcHolds c (val (.brc a c q) a.toNat) = false →
      exec (.brc a c q) s = .next (after (.brc a c q) s id)) ∧
    (Passes (.callr a) s → ¬ aligned (val (.callr a) a.toNat) → exec (.callr a) s = .next ((s.begin_.takeTrap s.cur
      ((wordOf (.callr a) s).trap s cILLEGAL 0x09 (val (.callr a) a.toNat))).tick (dieOf s.cur))) ∧
    (Passes .ret s → ¬ aligned (val .ret 63) → exec .ret s = .next ((s.begin_.takeTrap s.cur
      ((wordOf .ret s).trap s cILLEGAL 0x09 (val .ret 63))).tick (dieOf s.cur)))

/-- R85 to R87, whole: MARKJ pushes a rejoin entry and goes on, whatever stands at its target; BRD branches with all, none
or some of the active lanes, and pushes the rest where it splits, after its target's fetch and check; JOIN takes the top
entry, of either kind, once its target has passed the check. Where a check traps, the state but for the trap is that
before the word. -/
def Obligations.Divergence : Prop :=
  ∀ (s : State) (o : BitVec 26) (q : BitVec 22) (m : BitVec 3) (p : BitVec 1) (e : DivEntry) (rest : List DivEntry)
    (g : EFault) (x : W32),
    let f := s.team.flow
    let mk : Instr := .markj o
    let br : Instr := .brd m p q
    let mm := (wordOf br s).r.readM m.toNat
    let t := f.active &&& (if p = 0 then mm else ~~~mm)
    let r := f.active &&& ~~~t
    let flow (g : Flow) (x : State) : State := x.setTeam { x.team with flow := g }
    let target := f.pos.pc + (q.signExtend 64 <<< 2)
    let traps (i : Instr) (cause detail : Nat) (addr : W64) : Prop :=
      exec i s = .next ((s.begin_.takeTrap s.cur ((wordOf i s).trap s cause detail addr)).tick (dieOf s.cur))
    let faults (i : Instr) (dest : W64) : Prop :=
      exec i s = .next (((s.begin_.fetchFailed s.cur dest g).takeTrap s.cur ((wordOf i s).trap s g.cause g.detail dest)).tick (dieOf s.cur))
    encode mk = some (0x06#6 ++ o) ∧ encode br = some (0x05#6 ++ m ++ p ++ q) ∧ encode .join = some (0x08#6 ++ 0#26) ∧
    (Passes mk s → f.dstack.length < 32 → exec mk s = .next (after mk s
      (flow { f with dstack := ⟨true, f.pos.pc + (o.signExtend 64 <<< 2), f.active⟩ :: f.dstack }))) ∧
    (Passes mk s → 32 ≤ f.dstack.length → traps mk cSTACK 0 0) ∧
    (Passes br s → t = 0 → exec br s = .next (after br s id)) ∧
    (Passes br s → t ≠ 0 → r = 0 → headerAt s target → exec br s = .next (afterJump br s id target)) ∧
    (Passes br s → t ≠ 0 → r ≠ 0 → headerAt s target → f.dstack.length < 32 → exec br s = .next (afterJump br s
      (flow { f with active := t, dstack := ⟨false, f.pos.pc + 4, r⟩ :: f.dstack }) target)) ∧
    (Passes br s → t ≠ 0 → r ≠ 0 → headerAt s target → 32 ≤ f.dstack.length → traps br cSTACK 0 0) ∧
    (Passes br s → t ≠ 0 → s.begin_.fetchWord s.cur target = .error g → faults br target) ∧
    (Passes br s → t ≠ 0 → s.begin_.fetchWord s.cur target = .ok x → isHeader x = false → traps br cILLEGAL 0x09 target) ∧
    (Passes .join s → f.dstack = [] → traps .join cSTACK 0 0) ∧
    (Passes .join s → f.dstack = e :: rest → headerAt s e.target →
      exec .join s = .next (afterJump .join s (flow { f with active := e.mask, dstack := rest }) e.target)) ∧
    (Passes .join s → f.dstack = e :: rest → s.begin_.fetchWord s.cur e.target = .error g → faults .join e.target) ∧
    (Passes .join s → f.dstack = e :: rest → s.begin_.fetchWord s.cur e.target = .ok x → isHeader x = false →
      traps .join cILLEGAL 0x09 e.target)

/-- R88, R91, R92, R94, R350, R396: EXIT takes the active lanes out of every entry of the stack and joins the top entry that
still has lanes; with none left, a team whose flags are 0, and whose slice is idle and owes no trap, retires, the last one of a workgroup
once its mapped ranges have been written back. NOP and YIELD only go on; ISYNC discards what has been fetched ahead; SEAM, ENTER and LEAVE are
seams, and the last two push and pop a region identifier. That EXIT waits for the slice too is the model's choice (log entry 73). -/
def Obligations.FlowWords : Prop :=
  ∀ (s z : State) (n : BitVec 8) (top : BitVec 16) (rest : List (BitVec 16)) (e : DivEntry) (more : List DivEntry),
    let f := s.team.flow
    let w := wordOf (.enter n) s
    let id_ := w.imm.setWidth 16
    (Passes .exit s → exitStack f.active f.dstack = e :: more → headerAt s e.target →
      exec .exit s = .next (afterJump .exit s (fun x => x.withFlow (fun f => { f with active := e.mask, dstack := more })) e.target)) ∧
    (Passes .exit s → exitStack f.active f.dstack = [] → s.team.flagsZero (BitVec.allOnes 12) = true → s.sliceBusy s.cur = false →
      s.matStop s.cur = none → s.lastTeam s.cur = false →
      exec .exit s = .next (((s.begin_.issued s.cur 1).retire s.cur).tick (dieOf s.cur))) ∧
    (Passes .exit s → exitStack f.active f.dstack = [] → s.team.flagsZero (BitVec.allOnes 12) = true → s.sliceBusy s.cur = false →
      s.matStop s.cur = none → s.lastTeam s.cur = true → (∀ a, s.team.wait ≠ .resident a) →
      s.begin_.flushRanges s.team (s.wgOf s.team).ranges.keys = (z, none) →
      exec .exit s = .next (((z.issued z.cur 1).retire z.cur).tick (dieOf s.cur))) ∧
    (Passes .nop s → exec .nop s = .next (after .nop s id)) ∧
    (Passes .yield s → exec .yield s = .next (after .yield s id)) ∧
    (Passes .isync s → exec .isync s = .next (after .isync s (fun x => x.setTeam { x.team with prefetch := .empty, line := none }))) ∧
    (Passes .seam s → exec .seam s = .next (Safety.afterSeam .seam s id 0)) ∧
    (Passes (.enter n) s → (s.ctxOf s.team).dbgctl.getLsbD 47 = false → f.rstack.length < 16 →
      exec (.enter n) s = .next (Safety.afterSeam (.enter n) s
        (fun x => x.withFlow (fun f => { f with rstack := id_ :: f.rstack })) 0)) ∧
    (Passes (.enter n) s → (s.ctxOf s.team).dbgctl.getLsbD 47 = false → 16 ≤ f.rstack.length →
      exec (.enter n) s = .next (Safety.afterSeam (.enter n) s
        (fun x => x.withFlow (fun f => { f with rstack := id_ :: f.rstack.take 15, rovf := if f.rovf < 255 then f.rovf + 1 else 255 })) 0)) ∧
    (Passes .leave s → f.rstack = top :: rest →
      exec .leave s = .next (Safety.afterSeam .leave s (fun x => x.withFlow (fun f => { f with rstack := rest })) 0)) ∧
    (Passes .leave s → f.rstack = [] → f.rovf ≠ 0 →
      exec .leave s = .next (Safety.afterSeam .leave s (fun x => x.withFlow (fun f => { f with rovf := f.rovf - 1 })) 0)) ∧
    (Passes .leave s → f.rstack = [] → f.rovf = 0 →
      exec .leave s = .next ((s.begin_.takeTrap s.cur ((wordOf .leave s).trap s cSTACK)).tick (dieOf s.cur)))

/-! ### Traps -/

/-- R93: BKPT and TRAP take a trap in place, after the word, with the word's address and code in the record's PC and
AUX. -/
def Obligations.SoftwareTraps : Prop :=
  ∀ (s : State) (c : BitVec 8),
    let r (i : Instr) (cause : Nat) (aux : W32) : TrapReq :=
      { cause := cause, word := i.word, pc := s.team.flow.pos.pc, aux := aux, cls := 1, lane := 0xFFFF,
        regions := regionsOf s.team.flow }
    (Passes .bkpt s → exec .bkpt s =
      .next (((s.begin_.finish (setsOf .bkpt s)).takeTrap s.cur (r .bkpt 0x22 0)).tick (dieOf s.cur))) ∧
    (Passes (.trap c) s → exec (.trap c) s =
      .next (((s.begin_.finish (setsOf (.trap c) s)).takeTrap s.cur (r (.trap c) 0x23 (c.setWidth 32))).tick (dieOf s.cur)))

/-- R355, R357, R358: a trap in place of a team with no word outstanding, whose grid names a handler whose entry is a
clause header and which runs no handler already, enters the handler: TRAPREC0-7 hold the record and TRAPSTAT its cause;
the frame keeps the place, the active mask, the divergence stack and a barrier arrival that is still waited for; every lane is active, the stack is empty, the entry
is the next word and a seam; and no register changes. -/
def Obligations.HandlerEntry : Prop :=
  ∀ (s : State) (r : TrapReq) (x : W32),
    let t := s.team
    let h := BitVec.ofNat 64 (s.gridOf t).launch.traph
    r.cls = 1 → r.cause ≠ cNOTPRESENT → t.words = [] → h ≠ 0 → t.trap.handler = none → (s.ctxOf t).state ≠ 2 →
    s.fetchWord s.cur h = .ok x → isHeader x = true →
    let u := (s.takeTrap s.cur r).team
    u.trap.valid = true ∧ u.trap.cause = r.cause ∧
    u.trap.record = recordWords (s.trapRecord s.cur r t.flow.pos.pc false) ∧
    u.trap.handler = some ⟨t.flow.pos, t.flow.active, t.flow.dstack, t.arrived⟩ ∧
    u.flow.pos = .atHeader h ∧ u.flow.active = fullMask t.place.width ∧ u.flow.dstack = [] ∧
    u.flow.rstack = t.flow.rstack ∧ u.seam = u.flow ∧ u.seamCnt = t.seamCnt + 1 ∧ u.wr = 0 ∧ u.rbw = 0 ∧ u.regs = t.regs

/-- R361: CRESUME in a handler returns to the frame's place, mask and stack, and its completion is a seam; outside any
frame it acts as a seam. -/
def Obligations.ResumeWord : Prop :=
  ∀ (s : State) (t' : Team), Passes .cresume s → s.team.flagsZero (BitVec.allOnes 12) = true →
    s.team.returnFromTrap = some t' →
    exec .cresume s = .next ((((s.begin_.setTeam t').issued s.cur 1).seamHere 0).tick (dieOf s.cur)) ∧
    (∀ f, s.team.trap.handler = some f → t'.flow.pos = f.pos ∧ t'.flow.active = f.active ∧ t'.flow.dstack = f.dstack ∧
      t'.trap.handler = none ∧ t'.regs = s.team.regs)

/-- R63 to R67, R354, R355: where a word fails a check of R66, it traps with ILLEGAL and the lowest detail code, whatever its
effect would have been; and a word that no row names, or whose fields no form accepts, always fails one. -/
def Obligations.IllegalFirst : Prop :=
  ∀ (s : State) (x : W32),
    let traps (i : Instr) (d : Nat) : Prop :=
      exec i s = .next ((s.begin_.takeTrap s.cur ((wordOf i s).trap s cILLEGAL d)).tick (dieOf s.cur))
    (∀ (i : Instr) (d : Nat), i.isWord = true → lowest (s.details i) = some d → traps i d) ∧
    (lookup x = none ∨ wordDetails s.team.place.vregs x ≠ [] →
      ∃ d, lowest (s.details (.wordNotAnInstruction x)) = some d ∧ traps (.wordNotAnInstruction x) d)

/-- R352, R67: a word that would write a register that its region has read before writing it traps with CONTRACT before its
effect; of a CALL or CALLR, whose target is checked before that, one whose target is a clause header. -/
def Obligations.ContractHolds : Prop :=
  ∀ (s : State) (i : Instr), i.isWord = true → s.details i = [] → useSet (info i).writes &&& readBefore i s ≠ 0 →
    (∀ o, i = .call o → headerAt s (s.team.flow.pos.pc + (o.signExtend 64 <<< 2))) →
    (∀ a, i = .callr a → let x := (wordOf i s).r.readS a.toNat
      x.extractLsb' 0 2 = 0 ∧ canonical x = true ∧ headerAt s x) →
    exec i s = .next ((s.begin_.takeTrap s.cur ((wordOf i s).trap s cCONTRACT 0 0 0xFFFF
      (auxOf (useSet (info i).writes &&& readBefore i s)))).tick (dieOf s.cur))

/-! ### System words -/

/-- R95 to R102, R393, R400, R361, R315, R316: the words that read and write system registers, clocks, the trace and the
format table. -/
def Obligations.SystemWords : Prop :=
  ∀ (s : State) (d a b : BitVec 6) (n : BitVec 14) (k : BitVec 8),
    let t := s.team
    let c := s.ctxOf t
    let y := s.dies.get (dieOf s.cur)
    let x (i : Instr) : W64 := (wordOf i s).r.readS a.toNat
    writesS (.srd d n) s d (fun _ => s.sysRead s.cur n.toNat) ∧
    (Passes (.swr a n) s → exec (.swr a n) s = .next (after (.swr a n) s
      (fun z => z.setTeam { z.team with sys := z.team.sys.write n.toNat (x (.swr a n)) }))) ∧
    writesS (.clk d) s d (fun _ => BitVec.ofNat 64 y.clk) ∧
    writesRegs (.time d) s (fun _ r => (r.writeS d.toNat (BitVec.ofNat 64 (s.stampTime (dieOf s.cur)))).writeS (d.toNat + 1)
      (BitVec.ofNat 64 ((if s.mod.dlock then s.mod.dbound else 0xFFFFFFFF) * 2 ^ 32 + y.bound))) ∧
    (Passes (.trec a k) s → c.dbgctl.getLsbD 0 = false → exec (.trec a k) s = .next (after (.trec a k) s id)) ∧
    (Passes (.trec a k) s → c.dbgctl.getLsbD 0 = true → exec (.trec a k) s = .next (after (.trec a k) s
      (fun z => z.trace (dieOf s.cur) ⟨1, 0, whereOf s.cur, (t.seamCnt <<< 8) ||| k.setWidth 32,
        t.flow.pos.pc, regionsOf t.flow, x (.trec a k), 0, 0⟩))) ∧
    (Passes (.contset a) s → (x (.contset a)).extractLsb' 0 2 = 0 → canonical (x (.contset a)) = true →
      (s.gridOf t).launch.cont = 1 → exec (.contset a) s = .next (after (.contset a) s
        (fun z => z.setTeam { z.team with trap := { z.team.trap with contpc := x (.contset a) } }))) ∧
    (Passes (.contset a) s → (x (.contset a)).extractLsb' 0 2 = 0 → canonical (x (.contset a)) = true →
      (s.gridOf t).launch.cont ≠ 1 → exec (.contset a) s = .next (after (.contset a) s id)) ∧
    (let i := ((x (.mfmt a b)).extractLsb' 0 6).toNat
     let v := (wordOf (.mfmt a b) s).r.readS b.toNat
     Passes (.mfmt a b) s → i ≠ 0 → (v = 0 ∨ fmtValid v = true) → s.begin_.genHeld t.place.ctx i (v.getLsbD 25) = false →
      exec (.mfmt a b) s = .next (after (.mfmt a b) s (fun z => z.modCtx t.place.ctx (fun c => c.writeFmt i v))))

/-- R236, R391: ICINV goes on when every core in scope has acknowledged; RCLR clears the check words of the lines that its
range touches on race-checked pages. That RCLR clears its lines in one step is the model's reading (log entry 38). -/
def Obligations.InvalidatingWords : Prop :=
  ∀ (s : State) (a b : BitVec 6) (p : BitVec 3) (id_ clk : Nat),
    let va := (wordOf (.rclr a b) s).r.readS a.toNat
    let n := ((wordOf (.rclr a b) s).r.readS b.toNat).toNat
    let lines := s.begin_.checkedLines (dieOf s.cur) s.team.place.ctx va n
    (Passes (.icinv a b p) s → s.team.wait = .invalidation id_ clk → s.waving id_ = false →
      exec (.icinv a b p) s = .next (after (.icinv a b p) s id)) ∧
    (Passes (.rclr a b) s → canonical va = true → passesTop va n = false → lines.any (s.begin_.ownPending s.cur) = false →
      exec (.rclr a b) s = .next (after (.rclr a b) s (fun z => lines.foldl State.clearCheck z)))

/-- R238: KVFORK and KVFREE change the block tables and counts of every block named, in order, and write s[D] with the
number of blocks shared or given back, once the team's acquires have their values and no copy of such a block is in progress. What the
page of an entry is is the model's reading (log entry 39). -/
def Obligations.KeyValueWords : Prop :=
  ∀ (s : State) (d a b : BitVec 6) (kv : KvDesc),
    let ctx := s.team.place.ctx
    let run (i : Instr) (seqs : List Nat) (f : KvDesc → Nat → State → State × Bool) : Prop :=
      let x := (wordOf i s).r.readS b.toNat
      let first := (x.extractLsb' 0 16).toNat
      let n := (x.extractLsb' 16 16).toNat
      let r := (List.range n).foldl (fun (r : State × Nat) j =>
        let (z, hit) := f kv (first + j) r.1
        (z, if hit then r.2 + 1 else r.2)) (s.begin_, 0)
      Passes i s → s.begin_.kvDesc ctx = some kv → first + n ≤ 2 ^ kv.ib → s.begin_.kvAbsent ctx kv seqs first n = none →
        s.team.acquiresFixed s.team.nextSeq = true → s.begin_.kvCopying ctx kv seqs first n = none →
        exec i s = .next (after i s (fun _ => r.1.withRegs (fun g => g.writeS d.toNat (BitVec.ofNat 64 r.2))))
    let u := (wordOf (.kvfork d a b) s).r.readS a.toNat
    let v := (wordOf (.kvfree d a b) s).r.readS a.toNat
    run (.kvfork d a b) [(u.extractLsb' 0 16).toNat, (u.extractLsb' 16 16).toNat]
      (fun kv blk z => z.forkBlock z.team.place.ctx kv (u.extractLsb' 0 16).toNat (u.extractLsb' 16 16).toNat blk) ∧
    run (.kvfree d a b) [(v.extractLsb' 0 16).toNat] (fun kv blk z => z.freeBlock z.team.place.ctx kv (v.extractLsb' 0 16).toNat blk)

/-! ### Barriers and monitors -/

/-- R247 to R251: BAR and BARW go on when their phase has completed, raising the floor of their level and marking a seam;
BARA arrives once its release has been performed and goes on at once; BARQ reads the barrier. -/
def Obligations.BarrierWords : Prop :=
  ∀ (s : State) (d : BitVec 6) (l : BitVec 2) (n : BitVec 3) (phase id_ : Nat),
    let t := s.team
    let b := s.barOf t l.toNat n.toNat
    let done (z : State) : State := z.setTeam { z.team with race := z.team.race.complete l.toNat b.lastMax }
    s.barMissing t l.toNat = false →
    (Passes (.bar l n) s → t.wait = .barrier l.toNat n.toNat phase → phase < b.phase →
      exec (.bar l n) s = .next (Safety.afterSeam (.bar l n) s done 0)) ∧
    (Passes (.barw l n) s → t.arrivals.get (barKey l.toNat n.toNat) = phase + 1 → phase < b.phase →
      exec (.barw l n) s = .next (Safety.afterSeam (.barw l n) s done 0)) ∧
    (Passes (.barw l n) s → t.arrivals.get (barKey l.toNat n.toNat) = 0 →
      exec (.barw l n) s = .next (Safety.afterSeam (.barw l n) s id 0)) ∧
    (Passes (.bara l n) s → t.wait = .wave id_ → s.begin_.releaseDone (barScope l.toNat) id_ = true → b.has s.cur = false →
      exec (.bara l n) s = .next (Safety.afterSeam (.bara l n) s (fun z => (z.arrive l.toNat n.toNat).1) 0)) ∧
    (let r := s.barRef t l.toNat n.toNat
     writesS (.barq d l n) s d (fun _ => BitVec.ofNat 64 ((if b.has s.cur then 2 ^ 63 else 0) + b.phase % 65536 * 2 ^ 32
      + ((s.barWgs r).2.map (s.arrivedIn r)).sum * 65536 + s.members t l.toNat)))

/-- R249, R252, R253: a barrier's phase completes when every member has arrived or retired, one of them in this phase; the
count goes up by one and the arrivals are cleared; a grid arrival joins when its token reaches the combining point. A WAITL
whose monitor has been woken, or lost, goes on; a monitor is woken after 2^20 clocks of its die, by the loss of the core's
copy of its line, or without notice. -/
def Obligations.PhasesAndMonitors : Prop :=
  ∀ (s : State) (q : BarRef) (a b : BitVec 6) (wd : BitVec 1) (u line armed core clk : Nat),
    let e := s.barAt q
    (e.arrived ≠ [] → s.allArrived q = true → exec (.barrierPhaseCompletion q) s =
      .next (s.begin_.setBar { e with phase := e.phase + 1, arrived := [], lastMax := e.max, max := 0 } q)) ∧
    (s.allArrived q = false → exec (.barrierPhaseCompletion q) s = .next s.begin_) ∧
    (e.tokens.find? (fun x => x.1 == u) = some (u, clk) → exec (.barrierToken q u) s = .next (s.begin_.setBar { e with
      tokens := e.tokens.filter (fun x => x.1 ≠ u), arrived := u :: e.arrived, max := if e.max < clk then clk else e.max } q)) ∧
    (Passes (.waitl a b wd) s → s.team.wait = .monitor → (∀ l c, s.team.mon ≠ some (l, c, false)) →
      exec (.waitl a b wd) s = .next (after (.waitl a b wd) s (fun z => z.setTeam { z.team with mon := none }))) ∧
    ((s.teams.get u).mon = some (line, armed, false) → armed + 2 ^ 20 ≤ (s.dies.get (dieOf u)).clk →
      exec (.waitlTimeout u) s = .next (s.begin_.modTeam u Team.woken)) ∧
    exec (.wakeWithoutNotice u) s = .next (s.begin_.modTeam u Team.woken) ∧
    exec (.l1Invalidate core line) s =
      .next ((s.begin_.modCore core (fun c => { c with l1 := c.l1.filter (· ≠ line) })).wake core line)

/-! ### Loads, stores, prefetch -/

/-- R213 to R219: VLDG and SLD become outstanding words whose lanes load from the addresses of R214 and R219; VSTG and SST
put a store of each lane's data into the miss tracker; PREF changes no value, only which lines a cache holds (R226). -/
def Obligations.GlobalAccesses : Prop :=
  ∀ (v b n d a : BitVec 6) (k j g f c : BitVec 1) (wd : BitVec 3) (o : BitVec 13) (u : BitVec 2) (m : BitVec 8) (s : State),
    let one (w : Wd) (x : BitVec 128) : List LaneReq :=
      [{ lane := 0xFFFF, va := w.r.readS a.toNat + 8 * w.imm, size := 8, x := x }]
    issuesWord (.vldg v b n k j g wd f c) s (fun w => w.lanes.map (fun l =>
        { lane := l, va := w.address b n k j (widthSize wd) l, size := widthSize wd, idx := v.toNat })) .load gather id
      (fun w => { id := 0, kind := .load, width := wd, dests := useSet w.f.writes, who := s.whoOf s.cur }) after ∧
    issuesWord (.sld d a o f) s (fun w => one w 0) .load gather id
      (fun w => { id := 0, kind := .scalar, width := 3, dests := useSet w.f.writes, who := s.whoOf s.cur, reg := d.toNat }) after ∧
    issuesStores (.vstg v b n k j g wd c) s (fun w => w.lanes.map (fun l =>
        { lane := l, va := w.address b n k j (widthSize wd) l, size := widthSize wd, x := w.storeData v wd l }))
      .store gather none false after ∧
    issuesStores (.sst d a o) s (fun w => one w ((w.r.readS d.toNat).setWidth 128)) .store gather none false after ∧
    (Passes (.pref a u m) s → ∃ z, exec (.pref a u m) s = .next (after (.pref a u m) s (fun _ => z)) ∧
      z.teams = s.teams ∧ z.mem = s.mem ∧ (u = 0 → z = s.begin_))

/-- R17, R20, R195, R213 to R217: a VLDS whose lanes pass is an outstanding word over the requests of its stash lines, mapped lines
filled first, or, with no lane, complete; a VSTS performs the stores of a pass as it issues, after the team's outstanding loads of the
stash, and goes on with its last pass. -/
def Obligations.StashAccesses : Prop :=
  ∀ (v b n : BitVec 6) (k j g f c : BitVec 1) (wd : BitVec 3) (l : List StashAcc) (m id_ : Nat) (x : LongWord) (s y0 y z : State),
    let ld : Instr := .vlds v b n k j g wd f c
    let st : Instr := .vsts v b n k j g wd c
    let lw : LongWord :=
      { id := 0, kind := .stash, width := wd, dests := useSet (info ld).writes, who := s.whoOf s.cur, parts := stashParts l }
    let stores := (wordOf st s).storeReqs v b n k j wd
    (Passes ld s → StashOk s .load ((wordOf ld s).loadReqs v b n k j wd) l → Filled ld s l false z →
      exec ld s = .next (after ld s (fun _ =>
        if (wordOf ld s).mask = 0 then idleWord (wordOf ld s) lw z else (z.addWord (wordOf ld s) lw).1))) ∧
    (Passes st s → s.team.wait = .none → s.begin_.checkStash s.team (dieOf s.cur) .store stores = .ok l → (∀ r ∈ stores, r.lane / 32 = m) →
      StorePass s.begin_ l (s.whoOf s.cur) y0 →
      s.begin_.stashTrap (wordOf st s) s.team.wgKey (stashParts l) (s.whoOf s.cur) true = (z, none) → StorePass z l (s.whoOf s.cur) y →
      exec st s = .next (after st s (fun _ => y))) ∧
    (Passes st s → s.team.wait = .access id_ → s.team.word? id_ = some x → (∀ r ∈ x.lanesLeft, r.lane / 32 = m) →
      s.begin_.checkStash s.team (dieOf s.cur) .store x.lanesLeft = .ok l → StorePass s.begin_ l x.who y →
      exec st s = .next (after st s (fun _ => y.setTeam (y.team.dropWord x))))

/-- R227 to R230: STMAP maps a range whose operands break no rule, and a second STMAP of the same mapping changes nothing;
STFLUSH writes back the dirty lines of the ranges named, and STUNMAP ends their mappings line by line, each range's lines written back
first; STQRY reads a range. An STSH word comes after an STUNMAP of another team of its workgroup. The cause of a bad STMAP, and the steps
of an STUNMAP, are the model's reading (log entries 24 and 83). -/
def Obligations.StashRanges : Prop :=
  ∀ (a b d : BitVec 6) (n : BitVec 8) (s z : State),
    let t := s.team
    let g := s.wgOf t
    let i : Instr := .stmap a b n
    let base := (wordOf i s).r.readS a.toNat
    let x := (wordOf i s).r.readS b.toNat
    let off := x.toNat % 2 ^ 32
    let lines := x.toNat / 2 ^ 32 % 65536
    let fits : Prop := base.toNat % 128 = 0 ∧ canonical base = true ∧ x.toNat / 2 ^ 48 = 0 ∧ off % 128 = 0 ∧ 1 ≤ lines ∧
      lines ≤ 12288 ∧ off + 128 * lines ≤ s.stashSize t ∧
      (∀ r ∈ g.ranges.entries, r.2.mapped = true → r.1 ≠ n.toNat →
        overlap r.2.soff (128 * r.2.lines) off (128 * lines) = false ∧
        overlap r.2.gbase.toNat (128 * r.2.lines) base.toNat (128 * lines) = false)
    let r : StRange := { mapped := true, gbase := base, soff := off, lines := lines }
    let m := g.ranges.get n.toNat
    let free : Prop := s.unmapping = false ∧ ∀ va, t.wait ≠ .resident va
    let un : Instr := .stunmap n
    free →
    (Passes i s → fits → m.mapped = false →
      exec i s = .next (after i s (fun z => z.modWg t.wgKey (fun g => { g with ranges := g.ranges.put n.toNat r })))) ∧
    (Passes i s → fits → m.mapped = true → m.gbase = base → m.soff = off → m.lines = lines →
      exec i s = .next (after i s id)) ∧
    (Passes (.stflush n) s → s.begin_.flushRanges t (g.named n) = (z, none) →
      exec (.stflush n) s = .next (after (.stflush n) s (fun _ => z))) ∧
    (Passes un s → g.nextUnmap (g.named n) = none → exec un s = .next (after un s id)) ∧
    (∀ q k, Passes un s → g.nextUnmap (g.named n) = some (q, k, true) → t.stashQuiet = true → s.begin_.flushRanges t [q] = (z, none) →
      exec un s = .next (after un s (fun _ => z.modWg t.wgKey (fun y => y.endLine q k)))) ∧
    (∀ q k, Passes un s → t.wait = .unmap → g.nextUnmap (g.named n) = some (q, k, false) → t.stashQuiet = true →
      s.begin_.flushRanges t [q] = (z, none) →
      let y := z.modWg t.wgKey (fun y => y.endLine q k)
      exec un s = .next ((((y.setTeam { y.team with wait := .unmap }).issued s.cur 1).stalled noReason).tick (dieOf s.cur))) ∧
    writesRegs (.stqry d n) s (fun _ y => (y.writeS d.toNat m.query.1).writeS (d.toNat + 1) m.query.2)

/-! ### Sampler words -/

/-- R221 to R224: TLD reads an element for each lane through the sampler path; TEX and TEXG read the texels of each lane's
footprint in the image that their descriptor describes; TQRY writes the image's size. How old an element may be, and how TEXG rounds, are
the model's reading (log entries 16 and 17). -/
def Obligations.SamplerWords : Prop :=
  ∀ (d a b : BitVec 6) (f p k : BitVec 1) (wd : BitVec 3) (n : BitVec 2) (img : Image) (s : State),
    let lw (i : Instr) (wd : BitVec 3) : LongWord :=
      { id := 0, kind := .sampler, width := wd, dests := useSet (info i).writes, who := { s.whoOf s.cur with race := 0 } }
    let va (i : Instr) : W64 := (wordOf i s).r.readS b.toNat
    let td : Instr := .tld d a b f wd k
    let tx : Instr := .tex d a b f p
    let tg : Instr := .texg d a b f n
    let tq : Instr := .tqry d b f
    samples td s ((wordOf td s).lanes.map (fun l =>
        { lane := l, va := (wordOf td s).r.aLane a.toNat l + (if k = 0 then ((wordOf td s).r.readV b.toNat l).signExtend 64
            else b.signExtend 64 * BitVec.ofNat 64 (widthSize wd)), size := widthSize wd, idx := d.toNat })) (lw td wd) ∧
    (Described s (va tx) img →
      samples tx s ((wordOf tx s).texReqs ⟨d.toNat, p = 1, none⟩ img a) { lw tx 2 with args := (wordOf tx s).texArgs img a }) ∧
    (Described s (va tg) img →
      samples tg s ((wordOf tg s).texReqs ⟨d.toNat, false, some n.toNat⟩ img a) { lw tg 2 with args := (wordOf tg s).texArgs img a }) ∧
    (Passes tq s → (∀ n, s.team.wait ≠ .access n) → Described s (va tq) img →
      let shown := { lw tq 2 with results := (wordOf tq s).lanes.map (fun l => (l, d.toNat, BitVec.ofNat 32 (65536 * img.hm1 + img.wm1))) }
      exec tq s = .next (after tq s (fun z =>
        if (wordOf tq s).mask = 0 then idleWord (wordOf tq s) shown z else (z.addWord (wordOf tq s) shown).1)))

/-! ### Atomics and fences -/

/-- R239, R243 to R245: ATOM, ATOM64, ATOMF and the ATX exchanges, compare-and-swaps and loads are outstanding words; a
release-class one also begins what it waits for. That the lanes of one line are one request is the model's reading (log entry 18). -/
def Obligations.AtomicWords : Prop :=
  ∀ (v o : BitVec 6) (b : BitVec 5) (p c : BitVec 3) (r : BitVec 2) (f : BitVec 1) (s : State),
    let at_ (i : Instr) (op : AtomicOp) (size : Nat) : Prop := issuesAtomic i s (fun w => w.atomicReqs v o b op size) op r c
    at_ (.atom v o b p r c f) (aopOf p) 4 ∧ at_ (.atom64 v o b p r c f) (aopOf p) 8 ∧ at_ (.atomf v o b p r c f) (fopOf p) 4 ∧
    at_ (.atxXchg32 v o b r c f) .xchg 4 ∧ at_ (.atxCas32 v o b r c f) .cas 4 ∧ at_ (.atxLd32 v o b r c f) .ld 4 ∧
    at_ (.atxXchg64 v o b r c f) .xchg 8 ∧ at_ (.atxCas64 v o b r c f) .cas 8 ∧ at_ (.atxLd64 v o b r c f) .ld 8

/-- R239, R244, R246: RED and the ATX stores leave their requests in the miss tracker, after what they release, and are
seams. That the lanes of one line are one request is the model's reading (log entry 18). -/
def Obligations.ReductionWords : Prop :=
  ∀ (v o : BitVec 6) (b : BitVec 5) (p c : BitVec 3) (r : BitVec 2) (s : State),
    let red (i : Instr) (op : AtomicOp) (size : Nat) : Prop := issuesReduction i s (fun w => w.atomicReqs v o b op size) op r c
    red (.red v o b p r c) (aopOf p) 4 ∧ red (.atxSt32 v o b r c) .st 4 ∧ red (.atxSt64 v o b r c) .st 8

/-- R159, R160, R199, R201, R225, R239, R370, R378: a FENCE of order rel or ar carries the team's clock, which advances, and waits for its
wave, with the earlier loads' values fixed; an acquire merges last, and what its core has accepted counts as observed from then on; with
SMP, once the stores that it covers are acknowledged, the sampler caches in scope are invalidated, for no fewer than 32 clocks of the
die, before it goes on. -/
def Obligations.FenceWord : Prop :=
  ∀ (m : BitVec 1) (p : BitVec 3) (o : BitVec 2) (n clk : Nat) (s : State),
    let i : Instr := .fence m p o
    let last (z : State) : State := if o.getLsbD 0 then (z.mergePending z.cur).observeAll z.cur else z
    let ready : Prop := o = 0 ∨ s.team.loadsFixed s.team.nextSeq = true
    let waits (z : State) (w : Wait) : State :=
      (((z.setTeam { z.team with wait := w }).stalled noReason).issued s.cur (wordOf i s).clocks).tick (dieOf s.cur)
    let sweeps (z : State) : State :=
      let y := (z.startWave [] (z.scopeCores p) none).1
      waits y (.invalidation s.nextId ((s.dies.get (dieOf s.cur)).clk + 32))
    (Passes i s → s.team.wait = .none → m = 0 → o.getLsbD 1 = false → ready → exec i s = .next (after i s last)) ∧
    (Passes i s → s.team.wait = .none → m = 1 → o.getLsbD 1 = false → ready → s.smpReady o = true → exec i s = .next (sweeps s.begin_)) ∧
    (Passes i s → s.team.wait = .wave n → m = 0 → s.begin_.releaseDone p n = true → exec i s = .next (after i s last)) ∧
    (Passes i s → s.team.wait = .wave n → m = 1 → s.begin_.releaseDone p n = true → s.smpReady o = true →
      exec i s = .next (sweeps s.begin_)) ∧
    (Passes i s → s.team.wait = .invalidation n clk → s.waving n = false → exec i s = .next (after i s (fun z => last (z.untilClock clk)))) ∧
    (Passes i s → s.team.wait = .none → o.getLsbD 1 = true → s.team.loadsFixed s.team.nextSeq = true →
      let z := (s.begin_.releaseClock.1.startRelease p).1
      exec i s = .next (waits (z.setTeam { z.team with race := { z.team.race with fence := some s.team.race.clock } }) (.wave s.nextId)))

/-! ### Copies, queues, launches, collectives -/

/-- R231 to R233: CPY and CPY2D start a copy of the rows that their registers describe; CPYB closes the pending copies into a
batch, writes its number and is a release-class seam; CPYW goes on when every batch that it covers has finished, none of
them with a failure, and forgets them. -/
def Obligations.CopyWords : Prop :=
  ∀ (a b d : BitVec 6) (k : BitVec 2) (s : State),
    let t := s.team
    let x (i : Instr) (r : BitVec 6) (n : Nat) : W64 := (wordOf i s).r.readS (r.toNat + n)
    let c1 : Instr := .cpy a b k
    let c2 : Instr := .cpy2d a b k
    let n := (t.copy.last + 1) % 2 ^ 32
    let kept := t.copy.batches.filter (fun b => !s.batchDone b || b.copies.any (fun c => (s.copies.get c).failed.isSome))
    let m := lastCovered t.copy.last (x (.cpyw a) a 0)
    startsCopy c1 s { dir := k.toNat, dst := x c1 a 0, src := x c1 a 1, rows := 1, rowBytes := (x c1 b 0).toNat }
      (some (x c1 b 0).toNat) ∧
    startsCopy c2 s { dir := k.toNat, dst := x c2 a 0, src := x c2 a 1, rows := (x c2 b 0).toNat / 2 ^ 32,
                      rowBytes := (x c2 b 0).toNat % 2 ^ 32, srcPitch := (x c2 b 1).toNat / 2 ^ 32,
                      dstPitch := (x c2 b 1).toNat % 2 ^ 32 } none ∧
    (Passes (.cpyb d) s → (s.batchesOpen t).length < 64 →
      exec (.cpyb d) s = .next (atSeam (.cpyb d) s (fun z =>
        let z1 := z.releaseClock.1
        let c := { t.copy with last := n, open_ := [], batches := kept ++ [⟨n, t.copy.open_⟩] }
        (z1.setTeam { z1.team with copy := c }).withRegs (fun r => r.writeS d.toNat (BitVec.ofNat 64 n))))) ∧
    (Passes (.cpyw a) s →
      (∀ b ∈ t.copy.batches, covered m b.num = true → ∀ c ∈ b.copies, (s.copies.get c).active = false ∧ (s.copies.get c).failed = none) →
      exec (.cpyw a) s = .next (after (.cpyw a) s (fun z =>
        z.setTeam { t with copy := { t.copy with batches := t.copy.batches.filter (fun b => !covered m b.num) } })))

/-- R318, R324 to R326: STREAM binds its port to a free queue when its program is valid and is a release-class seam; QPOP
takes one entry for each pass of its mask; QSTAT reads the queue of a port; QCLOSE frees a queue whose stream is over, and
passes over a port that is not bound. -/
def Obligations.QueueWords : Prop :=
  ∀ (d a : BitVec 6) (f : BitVec 1) (k : Nat) (l dl : List Byte) (key : BitVec 256) (z z1 s : State),
    let t := s.team
    let core := coreOf s.cur
    let who : Who := { s.whoOf s.cur with engine := true }
    let st : Instr := .stream d a
    let va := (wordOf st s).r.readS a.toNat
    let table := (s.ctxOf t).fmt
    let p := streamProg l
    let width := (nfmtOf (table.get p.dictfmt)).width
    let q := s.queue core k
    let po : Instr := .qpop d a f
    let js := passesOf (wordOf po s).mask
    let bit (b : Bool) (k : Nat) : Nat := if b then 2 ^ k else 0
    (Passes st s → va.toNat % 128 = 0 → s.portOf t d.toNat = none → s.teamQuiet s.cur = true → EngineRead s va 128 l z →
      p.valid table (z.feature 5) = true →
      (if p.dictMode = true then z.engRead who (dieOf z.cur) (some (coreOf z.cur)) p.dict (32 * width) = .ok dl z1 else z1 = z) →
      ((z1.mod.keys.entries.find? (fun k => k.1 == p.keyslot && k.2.1 == who.ctx)).map (fun k => BitVec.ofNat 256 k.2.2) = some key ∨
        (p.on 1 = false ∧ key = 0 ∧ z1.mod.keys.entries.find? (fun k => k.1 == p.keyslot && k.2.1 == who.ctx) = none)) →
      (List.range 8).find? (fun k => !(z1.queue core k).bound) = some k →
      let r : Queue := { bound := true, wg := t.wgKey, uid := z1.cur, owner := t.key, seq := t.nextSeq, upto := z1.nextId,
                         ebits := p.outBits table, prog := l, table := table, who := who, key := key,
                         dict := if p.dictMode = true then dictOf width dl else [],
                         ended := p.n = 0 ∧ (!p.on 6 ∨ p.crcaddr = 0) }
      let z2 := ((z1.fresh.2.putQueue core k r).releaseClock.1).modWg t.wgKey (fun g => { g with ports := g.ports.put d.toNat (k + 1) })
      exec st s = .next (atSeam st s (fun _ => z2.setTeam { z2.team with nextSeq := t.nextSeq + 1 }))) ∧
    (Passes po s → s.portOf t a.toNat = some k → js.length ≤ q.entries.length →
      let pop (z : State) : State := z.putQueue core k { q with entries := q.entries.drop js.length }
      let lw : LongWord := { id := 0, kind := .qpop, dests := useSet (info po).seamWrites, reg := d.toNat, who := who,
                             results := (js.zip q.entries).flatMap (fun x => popLanes d.toNat (wordOf po s).lanes x.1 x.2) }
      exec po s = .next (if (wordOf po s).mask = 0 then atOwnSeam po s (fun z => idleWord (wordOf po s) lw (pop z))
        else after po s (fun z => ((pop z).addWord (wordOf po s) lw).1))) ∧
    (s.portOf t a.toNat = none → writesS (.qstat d a) s d (fun _ => 0)) ∧
    (s.portOf t a.toNat = some k → writesS (.qstat d a) s d (fun _ => BitVec.ofNat 64
      ((crcFinal q.crc).toNat * 2 ^ 32 + q.pushed % 2 ^ 20 * 4096 + bit q.stop.isSome 11 + bit q.held.isSome 10 + bit q.darn 9
        + bit q.emitted 8 + 128 + q.entries.length))) ∧
    (Passes (.qclose a) s → s.portOf t a.toNat = none → exec (.qclose a) s = .next (after (.qclose a) s id)) ∧
    (Passes (.qclose a) s → s.portOf t a.toNat = some k → q.over = true → (q.stop = none ∨ q.reported = true) →
      exec (.qclose a) s = .next (after (.qclose a) s (fun z => z.unbindQueue core k)))

/-- R254, R256: LNCH, once the release before it has been performed, queues the record that it has read under the context's
next launch number, writes that number, and is a release-class seam. -/
def Obligations.LaunchWord : Prop :=
  ∀ (d a : BitVec 6) (n : Nat) (l : List Byte) (p : Place1) (z s : State),
    let t := s.team
    let i : Instr := .lnch d a
    let va := (wordOf i s).r.readS a.toNat
    let who : Who := { s.whoOf s.cur with engine := true }
    Passes i s → va.toNat % 256 = 0 → s.begin_.translate (dieOf s.cur) t.place.ctx .load va = .ok p → t.wait = .wave n →
    s.begin_.releaseDone 3 n = true → (s.ctxOf t).launchQ.length < 4096 →
    s.begin_.engRead who (dieOf s.cur) (some (coreOf s.cur)) va 256 = .ok l z →
    let x := (z.ctxs.get t.place.ctx).nextLnum
    exec i s = .next (atSeam i s (fun _ => ((z.accept t.place.ctx va.toNat false l).1.releaseClock.1).withRegs
      (fun r => r.writeS d.toNat (BitVec.ofNat 64 x))))

/-- R131 to R133: a team that may, waits in REGROUP; when every member that a mask names waits with the same operands, the
exchange gives each of them its share of the lanes, sorted by key, and lets it go on after a seam. -/
def Obligations.RegroupWord : Prop :=
  ∀ (d a b : BitVec 6) (n : BitVec 4) (g : BitVec 1) (wg mask : Nat) (s : State),
    let t := s.team
    let i : Instr := .regroup d a b n g
    let members := s.rgMembers t (g = 1)
    let mine := (s.rgWaiting wg).filter (fun x => mask.testBit (s.teams.get x.uid).place.idx)
    let named := (List.range 16).filter (fun k => mask.testBit k)
    let us := named.filterMap (s.slotOfIndex wg)
    let list := sortKeys (us.flatMap (s.begin_.rgGive d.toNat a.toNat b.toNat (n.toNat + 1)))
    (Passes i s → t.wait = .none → t.flow.dstack = [] → t.flow.active = fullMask t.place.width → members.contains t.place.idx = true →
      s.rgRetired t.wgKey members = false →
      exec i s = .next ((((s.begin_.setTeam { t with wait := .regroup d.toNat a.toNat b.toNat (2 * n.toNat + g.toNat) }).stalled 6).issued
        s.cur (wordOf i s).clocks).tick (dieOf s.cur))) ∧
    (mine ≠ [] → mine.length = named.length →
      (∀ x ∈ mine, x.ops = (d.toNat, a.toNat, b.toNat, 2 * n.toNat + g.toNat) ∧ x.members = named) →
      exec (.regroupExchange wg mask) s = .next ((List.range us.length).foldl (fun z k =>
        z.rgRelease d.toNat b.toNat (n.toNat + 1) k list (us.getD k 0)) s.begin_))

/-- R416, R417: COLL, with a descriptor that breaks no limit and a group that holds this module, starts a collective, writes
its number and is a seam; COLLW reads the status of one that has ended, or, with TST, as it stands, and 7 for a number that
names none. That a number may be read more than once is the model's reading (log entry 52). -/
def Obligations.CollectiveWords : Prop :=
  ∀ (d a : BitVec 6) (tst : BitVec 1) (l : List Byte) (rank key : Nat) (c : Coll) (z s : State),
    let t := s.team
    let i : Instr := .coll d a
    let va := (wordOf i s).r.readS a.toNat
    let who : Who := { s.whoOf s.cur with engine := true }
    let table := (s.ctxOf t).fmt
    let group := (z.ctxOf t).groups.get (fieldAt l 28 2)
    let n := (t.copy.colls + 1) % 2 ^ 32
    let w : Instr := .collw d a tst
    let h := ((wordOf w s).r.readS a.toNat).extractLsb' 0 32
    let it := s.colls.entries.find? (fun c => c.2.owner == t.key && c.2.num == h.toNat)
    (Passes i s → va.toNat % 128 = 0 → s.teamQuiet s.cur = true → EngineRead s va 128 l z →
      descOk l table = true → group.idxOf? z.hub.modid = some rank → z.collsOpen t.place.ctx < 64 →
      let op := fieldAt l 30 1
      let wire := table.get (fieldAt l 33 1)
      let new_ : Coll := { uid := z.cur, owner := t.key, gid := t.place.grid, ctx := t.place.ctx, num := n, desc := l, rank := rank,
                           members := group.length, seq := t.nextSeq, upto := z.nextId, wire := wire,
                           start := z.stampTime (dieOf z.cur), who := who,
                           dstLen := dstElems op (fieldAt l 24 4) group.length * etypeSize (fieldAt l 32 1),
                           resLen := if wire = 0 then 0 else 4 * srcElems op (fieldAt l 24 4) group.length }
      exec i s = .next (atSeam i s (fun _ => ((z.fresh.2.putColl z.nextId new_).setTeam { z.team with
        nextSeq := t.nextSeq + 1, copy := { z.team.copy with colls := n } }).withRegs (fun r => r.writeS d.toNat (BitVec.ofNat 64 n))))) ∧
    (it = none → writesS w s d (fun _ => 7)) ∧
    (it = some (key, c) → c.stop = none → (c.status ≠ 1 ∨ tst = 1) → writesS w s d (fun _ => BitVec.ofNat 64 c.status))

/-! ### Matrix words -/

/-- R298, R305, R309 to R316: MGANG names a gang and takes a free slice, or gives its slice back; MZERO, MACCWR, MACCRD and
MDRAIN act on the team's slice, the first two at once and the last two as outstanding words; MQRY reads a slice. -/
def Obligations.MatrixWords : Prop :=
  ∀ (a b d : BitVec 6) (f n z r : BitVec 1) (form : BitVec 2) (k : Nat) (s : State),
    let t := s.team
    let core := coreOf s.cur
    let x := s.slice core k
    let i : Instr := .mgang a
    let m := ((wordOf i s).r.readS a.toNat).extractLsb' 0 16
    let g (y : State) : State := y.setTeam { y.team with sys := { y.team.sys with
      gangmask := m, gangidx := BitVec.ofNat 3 ((gangBits m).filter (fun i => decide (i < t.place.idx))).length } }
    let ok : Prop := 2 ≤ (gangBits m).length ∧ (gangBits m).length ≤ 6 ∧ m.getLsbD t.place.idx = true ∧
      (∀ i ∈ gangBits m, i < (s.gridOf t).launch.teams)
    let who : Who := { s.whoOf s.cur with engine := true }
    let rd : Instr := .maccrd d a f n
    let wr : Instr := .maccwr d a n
    let dr : Instr := .mdrain a b f n form z r
    let base := if form = 2 then 0 else (wordOf dr s).r.readS a.toNat
    let w : Drain := ⟨n, form, z = 1, r = 1, base, (wordOf dr s).r.readS b.toNat, t.sys.mseed.extractLsb' 0 32, 0, 0⟩
    let idx := match s.begin_.drainIdx (dieOf s.cur) t.place.ctx w with | .ok i => i | .error _ => 0
    let entry := (s.ctxOf t).fmt.get idx
    let out := drainOut entry idx (form = 2)
    let lines := if form = 2 then []
      else (drainLines base (drainRows w.ctl) (drainStride w.ctl) (rowBytes out) ++
        scaleLines out base (drainRows w.ctl) (drainStride w.ctl)).eraseDups
    let bit (b : Bool) (k : Nat) : Nat := if b then 2 ^ k else 0
    (Passes i s → ok → s.sliceOf s.cur = some k → exec i s = .next (after i s g)) ∧
    (Passes i s → ok → s.sliceOf s.cur = none → (List.range 6).find? (fun k => (s.slice core k).owner.isNone) = some k →
      exec i s = .next (after i s (fun y => g (y.putSlice core k { owner := some s.cur })))) ∧
    (Passes i s → m = 0 → s.accBusy s.cur t.nextSeq = false → s.sliceOf s.cur = some k → x.op0.stop = none → x.op1.stop = none →
      exec i s = .next (after i s (fun y => (y.putSlice core k {}).setTeam { t with sys := { t.sys with gangmask := 0, gangidx := 0 } }))) ∧
    (Passes i s → m = 0 → s.accBusy s.cur t.nextSeq = false → s.sliceOf s.cur = none →
      exec i s = .next (after i s (fun y => y.setTeam { t with sys := { t.sys with gangmask := 0, gangidx := 0 } }))) ∧
    (Passes (.mzero n) s → HoldsSlice s k → s.accHeld x n false = false →
      exec (.mzero n) s = .next (after (.mzero n) s (fun y => y.putSlice core k (x.setAcc n .empty)))) ∧
    (Passes wr s → HoldsSlice s k → s.accHeld x n false = false →
      exec wr s = .next (after wr s (fun y => y.putSlice core k (x.setAcc n ((wordOf wr s).lanes.foldl (fun (acc : SMap (0#32)) l =>
        acc.set ((((wordOf wr s).r.readS a.toNat).toNat + l) % 16384) ((wordOf wr s).r.readV d.toNat l)) (x.accOf n)))))) ∧
    (Passes rd s → HoldsSlice s k →
      let lw : LongWord := { id := 0, kind := .maccrd, dests := useSet (info rd).writes, reg := d.toNat,
                             args := [(wordOf rd s).r.readS a.toNat], who := who }
      exec rd s = .next (after rd s (fun y =>
        if (wordOf rd s).mask = 0 then idleWord (wordOf rd s) lw y else (y.addWord (wordOf rd s) lw).1))) ∧
    (Passes dr s → HoldsSlice s k → s.begin_.drainCheck t (dieOf s.cur) w = none →
      exec dr s = .next (after dr s (fun y => (y.fresh.2.addWord (wordOf dr s)
        { id := 0, kind := .mdrain, args := [base, w.ctl, w.seed.setWidth 64, BitVec.ofNat 64 idx, entry], upto := s.nextId,
          lines := if form = 1 then lines.map (2 ^ 60 + ·) else lines, who := who }).1))) ∧
    (s.sliceOf s.cur = none → writesS (.mqry d n) s d (fun _ => BitVec.ofNat 64 (7 * 65536))) ∧
    (s.sliceOf s.cur = some k → writesS (.mqry d n) s d (fun _ => BitVec.ofNat 64 (x.pfmt.toNat * 2 ^ 20 + bit x.pvalid 19
      + k * 65536 + bit (x.op n).stop.isSome 10 + bit (x.op n).held.isSome 9
      + bit ((x.op n).busy || t.words.any (fun w => match w.drain with | some d => d.n == n | none => false)) 8 + (x.op n).row)))

/-- R301, R302: MMA marks a seam and puts the team in its workgroup's latch with its operands; when the latch is full, with
every member's operands the same and passing the checks, each member's slice starts, the operations of one gang, and each
member goes on after a seam. -/
def Obligations.MmaWord : Prop :=
  ∀ (a b : BitVec 6) (n : BitVec 1) (k : Nat) (s : State),
    let t := s.team
    let i : Instr := .mma a b n
    let x (r : BitVec 6) (j : Nat) : W64 := (wordOf i s).r.readS (r.toNat + j)
    let ops := [x a 0, x a 1, x b 0, x b 1, (wordBits i).setWidth 64]
    let z := (s.begin_.setTeam { (t.markSeam 0) with wait := .latch n.toNat t.sys.gangmask.toNat ops, stall := some 6 }).issued s.cur
      (wordOf i s).clocks
    (Passes i s → t.wait = .none → HoldsSlice s k →
      s.accHeld (s.slice (coreOf s.cur) k) n (matConst (x a 0, x a 1) = 5) = false →
      exec i s = .next (((z.afterSeam s.cur).latchMeet t.wgKey s.cur).tick (dieOf s.cur))) ∧
    (∀ (y : State) (wg u : Nat) (me : Nat × Nat × Nat × List W64),
      let l := y.latched wg
      let idx (x : Nat × Nat × Nat × List W64) : Nat := (y.teams.get x.1).place.idx
      let mine := l.filter (fun x => me.2.2.1.testBit (idx x) || x.2.2.1.testBit (idx me))
      let want := gangBits (BitVec.ofNat 16 me.2.2.1)
      let press := mine.all (fun x => match y.sliceOf x.1 with | some k => (y.slice (coreOf x.1) k).pvalid | none => false)
      l.find? (fun x => x.1 == u) = some me → (∀ x ∈ mine, x.2 = me.2) →
      (∀ i ∈ want, (∃ x ∈ mine, idx x = i) ∧
        ∀ u ∈ (y.wgs.get wg).retired, (y.teams.get u).place.idx = i → (y.teams.get u).wgKey ≠ wg) →
      matCheck (me.2.2.2.getD 0 0, me.2.2.2.getD 1 0) (me.2.2.2.getD 2 0, me.2.2.2.getD 3 0) press = none →
      y.latchMeet wg u = mine.foldl (fun z x => z.latchGo y.nextId y.nextId (mine.map (fun x => (x.1, (y.teams.get x.1).nextSeq))) x)
        y.fresh.2)

/-! ### Light-field words -/

/-- R134 to R145: LFSET builds the setup of the triangle whose records it reads, and its sticky flags; LFSPAN, whose passes the span unit
takes, writes each lane's span, the empty one where the team has no setup; LFQRY reads a field of i-registers. -/
def Obligations.SpanWords : Prop :=
  ∀ (d a b : BitVec 6) (c : BitVec 1) (q : BitVec 3) (bytes : List (List Byte)) (s z : State),
    let i : Instr := .lfset a b c
    let sp : Instr := .lfspan d a b
    let x := (wordOf i s).r.readS a.toNat
    let y (k : Nat) : W64 := (wordOf i s).r.readS (b.toNat + k)
    let u := buildSetup (y 0, y 1) bytes (recordReqs x).1 (c = 1)
    let rate := s.team.sys.lfrate.toNat % 128
    let val (i : IReg) : W32 :=
      if q = 0 then i.status else if q = 1 then i.mask.extractLsb' 0 32 else if q = 2 then i.mask.extractLsb' 32 32
      else if q = 3 then BitVec.ofNat 32 (popBits 64 i.mask.toNat)
      else if q = 4 then BitVec.ofNat 32 ((firstView i.mask).getD 64)
      else if q = 5 then i.px else if q = 6 then i.py
      else BitVec.ofNat 32 (runOf i.mask rate).2
    (Passes i s → (x.extractLsb' 0 16).toNat % 16 = 0 → ReadsStash i s (recordReqs x).2 bytes z →
      exec i s = .next (after i s (fun _ => (z.setTeam { z.team with lf := u.1 }).lfFlags u.1.isNone u.2))) ∧
    (Passes sp s → SpanTakes sp s → exec sp s = .next (after sp s (fun z => (z.withRegs (fun r => (wordOf sp s).lanes.foldl (fun r l =>
      let y := ((wordOf sp s).r.readS a.toNat).extractLsb' 0 32
      let x := ((wordOf sp s).r.aLane b.toNat l).extractLsb' 0 32
      r.writeI d.toNat l (match s.team.lf with
        | none => { status := 0x1000, mask := 0, px := x, py := y }
        | some u => (u.span (sampleAt x) (sampleAt y)).ireg u.views x y)) r)).spanTake (wordOf sp s)))) ∧
    writesRegs (.lfqry d a q) s (fun w r => w.lanes.foldl (fun r l => r.writeV d.toNat l (val (w.r.readI a.toNat l))) r)

/-- R146 to R150: LFINT, whose passes the span unit takes, interpolates at each lane's lowest view; LFZ keeps the views whose test
against the depth element succeeds; LFOUT stores the runs of views, pass by pass, and once they have been performed clears them. That
LFINT raises UF is the model's reading (log entry 34). -/
def Obligations.ViewWords : Prop :=
  ∀ (d a b : BitVec 6) (o l wr c : BitVec 1) (zz : BitVec 2) (u : LfSetup) (v : LongWord) (bytes : List (List Byte))
    (s z : State),
    let t := s.team
    let li : Instr := .lfint d a b o l
    let w := wordOf li s
    let lanes := w.lanes.filter (fun n => (w.r.readI a.toNat n).mask ≠ 0)
    let off := ((w.r.readS b.toNat).extractLsb' 0 16).toNat
    let res (attrs : List W32) (y : State) (n : Nat) : FRes :=
      u.interpolate (l = 1) (o = 1) (w.ftz y) (w.r.readI a.toNat n) ((firstView (w.r.readI a.toNat n).mask).getD 0) attrs
    let put (attrs : List W32) (y : State) : State :=
      (y.withRegs (fun r => lanes.foldl (fun r n => r.writeV d.toNat n (BitVec.ofNat 32 (res attrs y n).1)) r)).raiseFlags
        (lanes.foldl (fun f n => f ||| (res attrs y n).2) 0)
    let lz : Instr := .lfz d a wr
    let views (l : Nat) : List (Nat × W32) := lfzViews t.lf ((wordOf lz s).r.readI d.toNat l)
    let lo : Instr := .lfout d a b c zz
    let rate := t.sys.lfrate.toNat % 128
    let run (j : Nat) : Nat × Nat := runOf ((wordOf lo s).r.readI a.toNat j).mask rate
    let cleared (y : State) : State := y.withRegs (fun r => (wordOf lo s).lanes.foldl (fun r j =>
      let i := (wordOf lo s).r.readI a.toNat j
      r.writeI a.toNat j { i with
        mask := if (run j).2 = 0 then i.mask else i.mask &&& ~~~(viewBits (run j).1 ((run j).1 + (run j).2 - 1)) }) r)
    let ends (i : Instr) (s : State) (f : State → State) : State :=
      Safety.afterSeam i s (fun y => cleared (f y)) (useSet (info lo).seamWrites)
    let take (y : State) : State := y.spanTake w
    (Passes li s → SpanTakes li s → o = 1 → t.lf = none → exec li s = .next (after li s take)) ∧
    (Passes li s → SpanTakes li s → o = 1 → t.lf = some u → exec li s = .next (after li s (fun y => take (put [] y)))) ∧
    (Passes li s → SpanTakes li s → o = 0 → t.lf = some u → z.team.lf = some u →
      ReadsStash li s (u.idx.map (fun k => { lane := 0xFFFF, va := BitVec.ofNat 64 (off + 4 * k), size := 4 })) bytes z →
      exec li s = .next (after li s (fun _ => take (put (bytes.map (fun x => BitVec.ofNat 32 (leNat x))) z)))) ∧
    (Passes lz s → t.wait = .none → (∀ l ∈ (wordOf lz s).lanes, views l = []) →
      exec lz s = .next (Safety.afterSeam lz s (fun y => y.withRegs (fun r =>
        (wordOf lz s).lanes.foldl (fun r l => r.writeI d.toNat l { (wordOf lz s).r.readI d.toNat l with mask := 0 }) r))
        (useSet (info lz).seamWrites))) ∧
    (Passes lz s → Gathered s v → exec lz s = .next (Safety.afterSeam lz s (fun y => (dropped v y).withRegs (fun r =>
      (wordOf lz s).lanes.foldl (fun r l => r.writeI d.toNat l { (wordOf lz s).r.readI d.toNat l with
        mask := BitVec.ofNat 64 (((views l).filter (fun x => lt32 (v.piece l x.1) x.2)).map (fun x => 2 ^ x.1)).sum }) r))
      (useSet (info lz).seamWrites))) ∧
    (Passes lo s → t.wait = .none → (∀ j ∈ (wordOf lo s).lanes, (run j).2 = 0) →
      exec lo s = .next (ends lo s (fun y => y.setTeam { t with nextSeq := t.nextSeq + 1 }))) ∧
    storesGoOn lo s ends

/-- R152 to R155: QMERGE, whose passes the span unit takes, builds the setup of the other triangle and, where both gradients agree, moves the views that each
quad fills from its second i-register to its first; MSHDEC decodes the stream that it has read, and writes the vertices
and triangles to the stash and a summary to s[D]. The checks and the tests of QMERGE, and the pieces that MSHDEC reads, are the model's
choices (log entries 35, 36, 37 and 75). -/
def Obligations.QuadAndMeshWords : Prop :=
  ∀ (d a b : BitVec 6) (t : LfSetup) (v : LongWord) (verts tris : List (List Nat)) (bits : Nat) (bytes : List (List Byte))
    (parts : List Part) (s z y1 y2 : State),
    let i : Instr := .qmerge d a b
    let w := wordOf i s
    let x := w.r.readS b.toNat
    let dests := useSet (info i).seamWrites
    let u := buildSetup (t.desc.getD 0 0, t.desc.getD 1 0) bytes (recordReqs x).1 false
    let gtol := s.team.sys.lfqtol.extractLsb' 32 32
    let wtol := s.team.sys.lfqtol.extractLsb' 0 32
    let near (u : LfSetup) : Bool := within gtol t.gradient.1 u.gradient.1 && within gtol t.gradient.2 u.gradient.2
    let moves (u : LfSetup) : List (Nat × Nat) := (List.range (w.width / 4)).flatMap (fun q =>
      if (List.range 4).all (fun k => w.mask.getLsbD (4 * q + k)) then
        (quadMoves t u wtol (fun k => w.r.readI d.toNat (4 * q + k)) (fun k => w.r.readI a.toNat (4 * q + k))).map
          (fun m => (4 * q + m.1, m.2))
      else [])
    let move (r : Regs) (m : Nat × Nat) : Regs :=
      let bit := BitVec.ofNat 64 (2 ^ m.2)
      let r1 := r.writeI d.toNat m.1 { r.readI d.toNat m.1 with mask := (r.readI d.toNat m.1).mask ||| bit }
      r1.writeI a.toNat m.1 { r1.readI a.toNat m.1 with mask := (r1.readI a.toNat m.1).mask &&& ~~~bit }
    let take (y : State) : State := y.spanTake w
    let reads : Prop := Passes i s ∧ SpanTakes i s ∧ (x.extractLsb' 0 16).toNat % 16 = 0 ∧ ReadsStash i s (recordReqs x).2 bytes z
    let md : Instr := .mshdec d a b
    let p (k : Nat) : W32 := v.piece 0xFFFF k
    let args := v.args ++ [p 1 ++ p 0, p 3 ++ p 2]
    let read := (args.drop 2).flatMap (fun x => leBytes 8 x.toNat)
    let off := ((args.getD 1 0).extractLsb' 0 32).toNat
    let y := dropped v s.begin_
    let wg := s.team.wgKey
    let cuts := stashCuts off (meshVertBytes read verts) ++ stashCuts (off + 4096) (meshTriBytes tris)
    let lines := (cuts.filterMap (fun x => (s.wgs.get wg).mappedAt x.1)).eraseDups.map (fun x =>
      (x.1, x.2, ((s.wgs.get wg).ranges.get x.1).pas.get x.2))
    let held := lines.filter (fun x => ((s.wgs.get wg).ranges.get x.1).state.get x.2.1 ≠ 0)
    (reads → z.team.lf = none → exec i s = .next (Safety.afterSeam i s (fun _ => take z) dests)) ∧
    (reads → z.team.lf = some t → u.1 = none → exec i s = .next (Safety.afterSeam i s (fun _ => take (z.lfFlags false u.2)) dests)) ∧
    (∀ o, reads → z.team.lf = some t → z.team.sys = s.team.sys → u.1 = some o → near o = false →
      exec i s = .next (Safety.afterSeam i s (fun _ => take (z.lfFlags false u.2)) dests)) ∧
    (∀ o, reads → z.team.lf = some t → z.team.sys = s.team.sys → u.1 = some o → near o = true →
      exec i s = .next (Safety.afterSeam i s (fun _ => take ((z.lfFlags false u.2).withRegs (fun r => (moves o).foldl move r))) dests)) ∧
    (Passes md s → Gathered s v → meshDecode read = .done verts tris bits →
      y.stashReady wg held (cuts.map (·.1)) = true → y.stashTakeAll (y.whoOf y.cur) s.cur wg cuts = .ok parts y1 →
      y1.stashTrap (wordOf md s) wg parts (y.whoOf y.cur) true = (y2, none) →
      exec md s = .next (after md s (fun _ => (parts.foldl (fun z p => z.stashPerform wg p (y.whoOf y.cur)) y2).withRegs (fun r =>
        r.writeS d.toNat (BitVec.ofNat 64 (verts.length + tris.length * 65536 + (bits + 7) / 8 * 2 ^ 32))))))

/-! ### Traversal words -/

/-- R328 to R349: with no walk of the team outstanding, TRACE starts a walk of its lanes' rays, and TRRES of the lanes that
are suspended; TRGET reads lanes' state; TRHIT takes a hit between TMIN and TMAX; TRSAVE stores the records of lanes; TRLOAD
with no active lane does nothing, and reads records, and then their payload, as values gathered. That TRSAVE's payload joins the region's
reads is the model's reading (log entry 33). -/
def Obligations.TraversalWords : Prop :=
  ∀ (d a b : BitVec 6) (f p x i : BitVec 1) (k : BitVec 2) (l : List LaneAcc) (v : LongWord) (s : State),
    let t := s.team
    let lane (j : Nat) : TrLane := trLane (t.trav.lanes.get j)
    let who : Who := { s.whoOf s.cur with engine := true }
    let tr : Instr := .trace d a b f
    let w := wordOf tr s
    let root := w.r.readS b.toNat
    let ctl := w.r.readS (b.toNat + 1)
    let np := (ctl.extractLsb' 0 6).toNat
    let level := (ctl.extractLsb' 8 6).toNat
    let launch := (s.gridOf t).launch
    let rays := w.lanes.map (fun j =>
      let ray := (List.range 8).map (fun k => w.r.readV (a.toNat + k) j)
      let x : TrLane := { ray := ray, node := 0, pend := 0, nkind := 0, nprim := 0, cursor := 0, p := np,
                          pbase := if 0 < np then d.toNat + 4 else 0, hit := false, level := level, status := 0, scount := 0,
                          stack := [] }
      (j, if launch.depth < level then { x with status := 2 } else if rayWalks ray then { x with status := 4, nkind := 1 } else x))
    let rr : Instr := .trres d f
    let parked := ((wordOf rr s).lanes.map (fun j => (j, lane j))).filter (fun x => x.2.status = 3 ∨ x.2.status = 4)
    let tg : Instr := .trget d f k
    let g : LongWord := { id := 0, kind := .trget, dests := useSet (info tg).writes, reg := d.toNat, who := who }
    let got (v : LongWord) (y : State) : State :=
      if (wordOf tg s).mask = 0 then idleWord (wordOf tg s) v (forgetWalk s y) else ((forgetWalk s y).addWord (wordOf tg s) v).1
    let prim := (wordOf tg s).lanes.filter (fun j => (lane j).status = 3)
    let va (j : Nat) : W64 := t.sys.trroot + BitVec.ofInt 64 (16 * (lane j).node) + BitVec.ofNat 64 (8 * (lane j).cursor)
    let shown := (wordOf tg s).lanes.flatMap (fun j =>
      if k = 1 then [(j, d.toNat, (lane j).flags), (j, d.toNat + 1, BitVec.ofNat 32 (lane j).scount)]
      else [(j, d.toNat, (lane j).tmin), (j, d.toNat + 1, (lane j).tmax)])
    let th : Instr := .trhit d a
    let hit (y : State) (j : Nat) : State :=
      let x := trLane (y.team.trav.lanes.get j)
      let r := (wordOf th s).r
      if x.status = 3 ∧ le32 x.tmin (r.readV (a.toNat + 2) j) ∧ lt32 (r.readV (a.toNat + 2) j) x.tmax then
        (y.setTeam (y.team.putLane j { x.setTmax (r.readV (a.toNat + 2) j) with hit := true })).withRegs (fun g =>
          ((g.writeV (d.toNat + 1) j (r.readV (a.toNat + 2) j)).writeV (d.toNat + 2) j (r.readV a.toNat j)).writeV (d.toNat + 3) j
            (r.readV (a.toNat + 1) j))
      else y
    let ts : Instr := .trsave a b p x
    let extra := if p = 1 then payloadSet t.place.vregs ((wordOf ts s).lanes.map lane) else 0
    let recs := (wordOf ts s).lanes.map (fun j =>
      let va := (wordOf ts s).recordVa a b x j
      let pl := if p = 1 then ((lane j).payload t.place.vregs).map (fun r => (wordOf ts s).r.readV r j) else []
      (j, va, storeWords j va ((List.range 16).map (trWord (lane j).pack)) ++ storeWords j (va + 64) pl))
    let ends (i : Instr) (s : State) (f : State → State) : State :=
      let u := (f s.begin_).team
      ((f s.begin_).finish ⟨u.wr, u.rbw ||| ((readSet (info i) t.hints ||| extra) &&& ~~~u.wr), 0, 0, u.nextSeq,
        (wordOf i s).clocks⟩).tick (dieOf s.cur)
    let tl : Instr := .trload d a b p i x
    let ls := (wordOf tl s).lanes
    let m := ls.length
    let area (j : Nat) : W64 := BitVec.ofNat 64 (v.lines.getD (m + ls.findIdx (· == j)) 0)
    let records (args : List W64) : List (Nat × BitVec 512) :=
      (List.range m).map (fun k => (ls.getD k 0, joinWords ((List.range 8).flatMap (fun j =>
        [(args.getD (8 * k + j) 0).extractLsb' 0 32, (args.getD (8 * k + j) 0).extractLsb' 32 32]))))
    let halves := ls.flatMap (fun j => (List.range 8).map (fun k => (recordOf v j).extractLsb' (64 * k) 64))
    let ok (recs : List (Nat × BitVec 512)) : Prop :=
      ∀ r ∈ recs, recordOk r.2 (t.sys.trcfg.extractLsb' 0 11).toNat launch.payload t.place.vregs = true
    (Passes tr s → t.tracing = false → root.toNat % 128 = 0 → canonical root = true →
      ctl.extractLsb' 6 2 = 0 → ctl.extractLsb' 14 50 = 0 → np ≤ launch.payload → (0 < np → d.toNat + 4 + np ≤ t.place.vregs) →
      startsWalk tr s .trace d root rays) ∧
    (Passes rr s → t.tracing = false → s.begin_.stillParked t (dieOf s.cur) parked = none →
      startsWalk rr s .trres d t.sys.trroot (parked.map (fun x => (x.1, x.2.resume)))) ∧
    (Passes tg s → t.tracing = false → k ≠ 0 →
      exec tg s = .next (after tg s (got { g with results := shown }))) ∧
    (Passes tg s → t.tracing = false → k = 0 →
      (forgetWalk s s.begin_).checkLanes (dieOf s.cur) t.place.ctx who.race .engRead false
        (prim.map (fun j => { lane := j, va := va j, size := 8 })) = .ok l →
      exec tg s = .next (after tg s (fun y =>
        got { g with upto := s.nextId, parts := prim.map (fun j => { lanePart j false with va := va j }) } y.fresh.2))) ∧
    (Passes th s → t.tracing = false →
      exec th s = .next (after th s (fun y => (wordOf th s).lanes.foldl hit (forgetWalk s y)))) ∧
    (Passes ts s → t.tracing = false → t.wait = .none → ((s.ctxOf t).cfg.hazard = true → extra &&& t.pendingRegs = 0) →
      (forgetWalk s s.begin_).checkRecords (dieOf s.cur) t.place.ctx who.race .store recs = .ok l →
      opensStores ts s ((forgetWalk s s.begin_).fillCaches (coreOf s.cur) t.place.ctx (some s.cur) (recs.map (fun r => r.2.1))) (gather l)
        none false false ends) ∧
    (t.tracing = false → storesGoOn ts s ends) ∧
    (Passes tl s → t.tracing = false → t.wait = .none → (wordOf tl s).lanes = [] → exec tl s = .next (after tl s id)) ∧
    (Passes tl s → t.tracing = false → Gathered s v → v.args ≠ [] →
      ok (records v.args) → loadsRecords tl s (dropped v s.begin_) p x (records v.args) area (fun j k => v.piece j k)) ∧
    (Passes tl s → t.tracing = false → Gathered s v → v.args = [] → p = 0 →
      ok (records halves) → loadsRecords tl s (dropped v s.begin_) p x (records halves) area (fun _ _ => 0))

/-! ### Events: requests at their homes -/

/-- R179, R193, R204, R205, R246: a plain store whose turn has come is performed at its home, and one line of a copy is
written; a load of a grid without race checks has its values fixed from what its core then reads; an atomic, of an
outstanding word or of the miss tracker, is performed; an acknowledged store leaves the tracker. -/
def Obligations.RequestsAtHome : Prop :=
  ∀ (core id uid k line : Nat) (r : StoreReq) (w : LongWord) (p : Part) (op : AtomicOp) (s y : State),
    let z := s.begin_
    let c := z.copies.get id
    let performed (x : State) : State := x.modCore core (fun c => c.setReq id (fun r => { r with performed := true }))
    let may : Prop := (z.cores.get core).tracker.find? (fun r => r.id == id) = some r ∧ z.storeMay core r = true ∧
      r.held = false ∧ r.kv = false
    let known (u : Nat) (who : Who) (seq : Nat) (w : Who) : Who :=
      if identOf u (z.teams.get u).place.gen = who.ident then (z.teams.get u).knowing seq w else w
    let who := known r.uid r.who r.seq r.who
    let rec_ := z.releaseRec r.line
    let mayPart : Prop := (z.teams.get uid).word? id = some w ∧ w.parts[k]? = some p ∧ z.partMay uid w p = true ∧
      w.who.race = 0 ∧ z.bad.entries = []
    let core1 := coreOf uid
    let seen := z.earlySeen core1 p.line uid w.seq p.elems
    let res (x : List (Nat × Nat)) := (p.elems.zip x).flatMap (fun x =>
      (pieces 2 x.1.size x.2.2).map (fun y => (x.1.lane, x.1.idx + y.1, y.2)))
    (may → r.op = none → r.elems ≠ [] → (r.fin = true → z.badFill r.line r.elems = none) →
      exec (.storeAtHome (.tracker core id)) s = .next (performed (z.storeHome r.line r.va r.elems who r.rc r.checked))) ∧
    (may → r.op = some op → r.elems ≠ [] → z.badElem r.line r.elems = none → exec (.atomicAtHome (.tracker core id)) s =
      .next (performed ((((z.putRelease r.line rec_).fillSectors r.line 128).atomicHome r.line r.va r.elems op who r.rel r.rc
        r.checked).1.pendRead r (if r.rel then {} else rec_)))) ∧
    (c.active = true → c.abandoned = false → c.pieces line ≠ [] → line ∉ c.doneLines → c.held = none → c.toStash = false →
      (∀ e ∈ z.copies.entries, e.1 < id → e.2.active = true → e.2.owner = c.owner → e.2.toStash = false →
        e.2.pieces line = [] ∨ line ∈ e.2.doneLines) → z.copyReady c = true →
      (z.copySource c (c.pieces line)).bind (fun l x => x.engWriteLine c.who (dieOf c.uid) (BitVec.ofNat 64 (128 * line)) l) =
        .ok () y →
      exec (.storeAtHome (.copyLine id line)) s = .next (y.putCopy id { c with doneLines := line :: c.doneLines })) ∧
    (mayPart → w.op = none → w.kind = .load →
      let y0 := z.putRelease p.line (z.releaseRec p.line)
      let y1 := if y0.hitsL1 core1 p.line then y0 else y0.fillSectors p.line 128
      let y2 := if (y1.cores.get core1).ways < 32 then
        y1.modCore core1 (fun c => if c.l1.contains p.line then c else { c with l1 := p.line :: c.l1 }) else y1
      exec (.loadAtHome uid id k) s = .next ((y2.observe uid (seen.filter (fun r => r.uid ≠ uid))).modTeam uid
        (fun t => t.setWord { w.setPart k (fun p => { p with fixed := true }) with
          results := w.results ++ readElems w.width (z.coreLine core1 p.line uid w.seq) p.elems,
          merged := w.merged ++ (z.recordSeen core1 p.line uid w.seq p.elems).some?, begun := w.begun || w.fin, sdest := none }))) ∧
    (mayPart → w.op = some op → w.kind = .atomic → p.kv = false →
      let rr := z.releaseRec p.line
      let a := ((z.putRelease p.line rr).fillSectors p.line 128).atomicHome p.line p.va p.elems op ((z.teams.get uid).knowing w.seq w.who)
        (w.ord.getLsbD 1) p.rc false
      exec (.atomicAtHome (.word uid id k)) s = .next ((if w.ord.getLsbD 0 then a.1.observeAll uid else a.1).modTeam uid (fun t =>
        t.setWord { w.setPart k (fun p => { p with fixed := true }) with
          results := w.results ++ res a.2, merged := w.merged ++ rr.some?, begun := true }))) ∧
    exec (.storeAcknowledgement core id) s = .next (z.modCore core (fun c =>
      { c with tracker := c.tracker.filter (fun r => !(r.id == id && r.performed)) }))

/-! ### Events: waves, recalls and reports -/

/-- R159, R182, R206, R236, R399: a wave's token reaches the end of a path; its acknowledgement comes when the stores sent
before it have been performed; a core that a fence reaches empties its sampler cache, and one that an ICINV reaches discards
the lines of the range; a stash gives up a line to a recall; a firing's report makes its team wait to trap. -/
def Obligations.WaveEvents : Prop :=
  ∀ (id path core line wg r k : Nat) (w : Wave) (va : W64) (n : Nat) (f : WatchNote) (s : State),
    let z := s.begin_
    let found : Prop := z.waves.find? (fun w => w.id == id) = some w
    let change (g : Wave → Wave) (y : State) : State := { y with waves := y.waves.map (fun v => if v.id = id then g v else v) }
    let swept (y : State) : State :=
      { y with waves := y.waves.filter (fun w => !(w.deliver.isEmpty && w.ack.isEmpty && w.cores.isEmpty)) }
    let left (y : State) : State := swept (change (fun v => { v with cores := v.cores.filter (· ≠ core) }) y)
    let lines := z.rangeLines (dieOf w.uid) (z.teams.get w.uid).place.ctx va n
    let t := z.teams.get f.uid
    let gone : State := { z with watches := z.watches.drop id }
    exec (.fenceToken id path) s = .next (change (fun v => { v with deliver := v.deliver.filter (· ≠ path) }) z) ∧
    (found → path ∉ w.deliver → z.trackerDone w.core w.upto [path] = true →
      exec (.fenceTokenAck id path) s = .next (swept (change (fun v => { v with ack := v.ack.filter (· ≠ path) }) z))) ∧
    (found → core ∈ w.cores → w.range = none → exec (.samplerInvalidation id core) s =
      .next (left (z.modCore core (fun c => { c with sampler := [], samplerAt := z.freeCtr })))) ∧
    (found → core ∈ w.cores → w.range = some (va, n) → exec (.instructionCacheInvalidation id core) s =
      .next (left (z.modCore core (fun c => { c with icache := ⟨c.icache.entries.filter (fun e => !lines.contains e.1)⟩ })))) ∧
    (z.stashOwner line = some (wg, r, k) → (z.wgs.get wg).core = core → z.stashBusy line = false →
      exec (.stashRecall core line) s = .next (z.recallLine wg r k)) ∧
    (z.watches.get id = some f → t.place.gen = f.gen → t.phase = .running → t.trap.watch = none →
      exec (.watchReport id) s = .next (gone.modTeam f.uid (fun t => { t with trap := { t.trap with watch := some f.trap } })))

/-! ### Events: words and engines that go on -/

/-- R42, R234, R246, R268, R272, R303, R313, R323, R341: an outstanding load whose values are fixed writes its registers and
its flag falls, and an atomic does the same at a seam; a copy whose lines are written completes; a matrix operation whose
gang has read operand B accumulates its next row; a stream pushes an entry, or emits, or ends; a team that has waited long
enough is promoted; a blocked wait sends a probe, and one that comes back grants the darning entry. Which copy of a probe returns is the
model's reading (log entry 29). -/
def Obligations.Completions : Prop :=
  ∀ (uid id core q : Nat) (n : BitVec 1) (w : LongWord) (b a : List XVal) (fa : Option (Nat × NFmt)) (k : Nat)
    (path : List TideNode) (m : TideNode) (x1 : TideProbe) (s z1 : State),
    let z := s.begin_
    let t := z.teams.get uid
    let c := z.copies.get id
    let x := z.slice (coreOf uid) k
    let o := x.op n
    let press := if matConst o.opA = 5 then some (x.pressFmt o.table) else fa.map (·.2)
    let fb : Option NFmt := if matConst o.opB = 0 then some (nfmtOf (o.table.get (o.idxB.getD 0))) else none
    let clk := (z.dies.get (dieOfCore core)).clk
    let e := z.queue core q
    let p := streamProg e.prog
    let since := z.tideSince core q
    let told := z.modCore core (fun c => { c with probes := c.probes.set id { x1 with returned := path :: x1.returned } })
    let f := told.queue core (m - 64)
    let word : Prop := t.word? id = some w ∧ t.phase = .running ∧ w.parts.all (fun p => p.fixed) = true ∧ w.err = none
    let streams : Prop := e.bound = true ∧ e.abandoned = false ∧ e.over = false ∧ e.held = none ∧ z.streamReady core e = true ∧
      e.stop = none ∧ p.on 7 = false
    (word → w.kind = .load ∨ w.kind = .stash ∨ w.kind = .scalar ∨ w.kind = .sampler →
      let y := z.mergeWord uid w
      exec (.longLatencyCompletion uid id) s = .next (y.putTeam uid ((y.writeResults (y.teams.get uid) w).dropWord w))) ∧
    (word → w.kind = .atomic →
      let y := z.mergeWord uid w
      let y1 := y.putTeam uid (((y.writeResults (y.teams.get uid) w).dropWord w).completionSeam w)
      exec (.longLatencyCompletion uid id) s =
        .next (if w.seq < (y.teams.get uid).seamSeq then y1 else y1.afterCompletion uid)) ∧
    (c.active = true → c.abandoned = false → c.finished = true → z.copyReady c = true →
      exec (.copyCompletion id) s = .next (z.putCopy id { c with active := false })) ∧
    (z.sliceOf uid = some k → o.busy = true → o.held = none → z.matReady (coreOf uid) o = true → o.b = some b →
      z.badAcc (coreOf uid) k n [o.row] = none → z.matFmtOf o (dieOf uid) o.idxA o.opA = .ok fa →
      z.matRowA o x (dieOf uid) (coreOf uid) fa = .ok a z1 → exec (.mmaCompletion uid n) s =
        .next (z1.putSlice (coreOf uid) k (x.row n { o with idxA := fa.map (·.1) } (groupSize (fmtBits press) (fmtBits fb)) a b))) ∧
    (streams → e.entryDone p = true → exec (.streamEntryPush core q) s = .next (z.streamPush core q e)) ∧
    (streams → e.entryDone p = false → e.next = p.n → exec (.streamEntryPush core q) s = .next (z.streamEnd core q e p)) ∧
    (streams → e.entryDone p = false → e.next ≠ p.n → z.stageHeld core q = false →
      exec (.streamEntryPush core q) s = .next (z.streamEmit core q p (1 + Config.freeNat z.freeCtr 7))) ∧
    (t.phase = .running → z.reasonOf uid = none → t.promoted = none → 896 ≤ t.eligible →
      exec (.teamPromotion uid) s = .next (z.putTeam uid { t with promoted := some (z.dies.get (dieOf uid)).clk })) ∧
    (since ≠ 0 → since - 1 + 4096 ≤ clk → (z.cores.get core).probed.get q - 1 + 4096 ≤ clk →
      exec (.tideProbe core q) s = .next (z.modCore core (fun c => { c with
        probes := c.probes ++ [{ origin := q, since := since }], probed := c.probed.set q (clk + 1) }))) ∧
    ((z.cores.get core).probes[id]? = some x1 → x1.since = z.tideSince core x1.origin →
      (z.tidePaths core x1.origin 72 x1.origin []).find? (fun l => !x1.returned.contains l) = some path →
      path.find? (fun m => decide (64 ≤ m) && (told.queue core (m - 64)).full) = some m → f.darn = false →
      exec (.tideProbeReturn core id) s =
        .next ((told.putQueue core (m - 64) { f with darn := true, darnFree := true, blocked := 0 }).modDie
          (dieOfCore core) (fun d => { d with darns := d.darns + 1 })))

/-! ### Events: collectives -/

/-- R416, R418, R419: with every contribution come the engine computes, writes each line of the destination, and ends; a peer's failure, a lost link or a mismatch
ends the collective with a status of its own, its destination unspecified; so does a time out; a halt stops the count and a
release lets it go on; a halt that outlasts its limit ends it. In what steps the engine works is the model's reading (log entry 52). -/
def Obligations.CollectiveEvents : Prop :=
  ∀ (id : Nat) (blocks : List (List W32)) (src res : List Byte) (l : List (Nat × List Byte)) (x : Nat × List Byte) (s z1 z2 : State),
    let z := s.begin_
    let c := z.colls.get id
    let die := dieOf c.uid
    let n := srcElems c.op c.count c.members
    let turn := Config.freeNat z.freeCtr 11 % l.length
    let goes : Prop := c.held = none ∧ c.frozen = false ∧ z.collReady c = true
    let ends (k : Nat) : State := (z.collScramble c).putColl id { c with status := k }
    let us := if c.tmo = 0 then (z.ctxs.get c.ctx).cfg.collTmo else c.tmo
    let count : Nat := z.stampTime (dieOf c.uid) - c.start
    c.status = 1 → c.stop = none → c.abandoned = false → c.desc ≠ [] →
    (goes → c.todo = none → blocks.length + 1 = c.members → (∀ b ∈ blocks, b.length = c.count) →
      z.engRead c.who die none c.src (n * etypeSize c.etype) = .ok src z1 →
      (if c.wire = 0 then res = [] ∧ z2 = z1 else z1.engRead c.who die none c.res (4 * n) = .ok res z2) →
      exec (.collectiveCompletion id (.received blocks)) s = .next (z2.putColl id { c with
        todo := some (stashCuts c.dst.toNat ((c.result (c.sends src res).1 blocks).flatMap (leBytes (etypeSize c.etype)))),
        resNew := (c.sends src res).2.flatMap (fun x => leBytes 4 x.toNat) })) ∧
    (goes → c.todo = some l → l[turn]? = some x →
      z.engWriteLine c.who die (BitVec.ofNat 64 x.1) [(x.1 % 128, x.2)] = .ok () z1 →
      exec (.collectiveCompletion id (.received blocks)) s = .next (z1.putColl id { c with todo := some (l.eraseIdx turn) })) ∧
    (goes → c.todo = some [] → c.resNew = [] →
      exec (.collectiveCompletion id (.received blocks)) s = .next (z.putColl id { c with status := 0 })) ∧
    exec (.collectiveCompletion id .peerHalted) s = .next (ends 2) ∧
    exec (.collectiveCompletion id .link) s = .next (ends 4) ∧
    exec (.collectiveCompletion id .mismatch) s = .next (ends 5) ∧
    exec (.collectiveCompletion id .peerFailed) s = .next (ends 6) ∧
    (c.frozen = false → c.start + 4000 * us ≤ z.stampTime (dieOf c.uid) → exec (.collectiveTimeout id) s = .next (ends 3)) ∧
    (c.frozen = false → exec (.collectiveHalt id) s = .next (z.putColl id { c with frozen := true, start := count })) ∧
    (c.frozen = true → (z.ctxs.get c.ctx).state ≠ 2 →
      exec (.collectiveResume id) s = .next (z.putColl id { c with frozen := false, start := count })) ∧
    (c.frozen = true → (z.ctxs.get c.ctx).state = 2 →
      (z.ctxs.get c.ctx).haltedAt + 4000000 * (z.ctxs.get c.ctx).cfg.hlimit ≤ z.stampTime hubDie →
      exec (.haltLimitExpiry id) s = .next ((ends 2).tick hubDie))

/-! ### Events: launches -/

/-- R25, R26, R33, R254, R257 to R267, R380: a notification queues the records up to its tail; a queued grid is validated, polls its
dependences, and starts with its parameters and formats read once; a core that can take a bind record binds its workgroup, where that keeps the room that others must have;
a group that is wholly bound starts, and so do its teams; a grid whose workgroups have retired completes; the race epoch may
advance while no grid of a race mode runs. What room the firmware keeps, and in which order it serves, are the model's choices (log
entries 44 and 45); so are the steps of a table's writing and the wrap of the epoch (log entries 43 and 78). -/
def Obligations.LaunchEvents : Prop :=
  ∀ (key core u group n : Nat) (x : W64) (b : BindRec) (ps : List W64) (es : List (Nat × W64)) (s y : State) (deps1 : State × Bool × Bool),
    let z := s.begin_
    let g := z.grids.get key
    let c := z.ctxs.get n
    let k := (x.extractLsb' 0 16).toNat
    let ahead := ((x.extractLsb' 16 32).toNat + 2 ^ 32 - (c.queues.get k).head) % 2 ^ 32
    let taken := z.modCtx g.ctx (fun c => { c with launchQ := c.launchQ.filter (· ≠ g.lnum) })
    let deps := g.launch.deps.take g.launch.ndep
    let t := z.teams.get u
    let bg := gridKey b.ctx b.lnum
    let h := z.grids.get bg
    let w := wgKey bg b.wg
    let uids := b.slots.map (fun n => core * 64 + n)
    let bound := ((y.takeWays core b.ways).putWg w
      { bound := true, grid := bg, index := b.wg, core := core, slots := uids, ways := b.ways, succ := false, hold := b.hold }).modGrid
        bg (fun g => { g with bound := g.bound ++ [b.wg], heldWgs := g.heldWgs.filter (fun w => some w ≠ none) })
    (c.state ≠ 0 → (c.queues.get k).registered = true → ahead ≠ 0 → ahead ≤ (c.queues.get k).cap →
      exec (.notificationWrite n x) s = .next (((z.takeRecords n k ahead).pollCtx n).tick hubDie)) ∧
    (g.phase = .queued → z.refuses g = false →
      exec (.launchValidation key) s = .next ((taken.putGrid key { g with phase := .waiting }).tick hubDie)) ∧
    (g.phase = .queued → z.refuses g = true → exec (.launchValidation key) s =
      .next ((taken.putGrid key { g with phase := .ready, status := 1, cause := cLAUNCH }).tick hubDie)) ∧
    (g.phase = .waiting → z.pollDeps g.ctx deps = deps1 → exec (.dependencePoll key) s =
      .next ((if deps1.2.2 then deps1.1.putGrid key { g with phase := .ready, status := 5 }
        else if deps1.2.1 then deps1.1.putGrid key { g with phase := .ready, started := z.freeCtr } else deps1.1).tick hubDie)) ∧
    (g.phase = .ready → g.status = 0 → g.launch.count ≠ 0 → g.loading = false → z.readParams g = .ok ps → z.readTable g = .ok es →
      exec (.gridStart key) s = .next (((z.putGrid key { g with params := ps, table := es, loading := true }).writeTable key es).tick hubDie)) ∧
    (g.phase = .ready → g.status = 0 → g.launch.count ≠ 0 → g.loading = true →
      exec (.gridStart key) s = .next ((z.writeTable key g.table).tick hubDie)) ∧
    (z.bindAllowed core b = true → b.restore = false → b.succ = false → (z.wgs.get w).bound = false → (z.wgs.get w).saved = false →
      b.wg ∉ h.retired → h.heldWgs = [] → z.bindFits core b [] = true → z.bindTeams bg b.wg false 0 uids = some y →
      z.keepsRoom bound bg false = true → exec (.bindRecord core b) s =
        .next ((if (bound.grids.get bg).moreToBind then bound else bound.releaseHeld bg).tick hubDie)) ∧
    ((∀ i ∈ (g.gang group).filter (fun i => !g.retired.contains i), (z.wgs.get (wgKey key i)).bound = true) →
      exec (.groupStart key group) s = .next ((((g.gang group).filter (fun i => !g.retired.contains i)).foldl (fun s i =>
        s.modWg (wgKey key i) (fun w => { w with hold := false, restored := false })) z).tick hubDie)) ∧
    (t.phase = .held → z.preempted u = false → exec (.teamStart u) s = .next ((z.putTeam u
      { startTeam (z.gridOf t) (z.ctxOf t) (z.dies.get (dieOf u)).clk t with lastIssue := z.freeCtr }).haltAtSeam u)) ∧
    (g.phase = .running → g.status = 0 → g.retired.length = g.launch.count → g.bound = [] → z.enginesDone key = true →
      z.streamsSaved key = false → z.gridStoresDone g = true → exec (.gridCompletion key) s = .next ((z.complete key).tick hubDie)) ∧
    (z.noRaceGrid = true → exec .raceEpochAdvance s = .next (((z.nextEpoch).getD z).tick hubDie))

/-! ### Events: pre-emption -/

/-- R275, R365 to R369: PREEMPTION_DECISION, on the cores of a context that a grid of a higher class needs and no others, begins the drain on
whole gangs; DRAIN_DEADLINE ends it, as soon as the cores are empty, or else when DRAIN has passed on one of their dies: then the save
begins, or, without a save area, the context is reset; SAVE_COMPLETE, within SAVE of that, writes the areas of a die's cores and empties
them, the last die ending the save, and comes to a reset where it is too late; SAVE_DEADLINE resets a context of which a die has not saved
in time; CONTEXT_RESTORE puts a saved workgroup, or the slots kept for an inherited range, back where they were. Which cores are needed,
and what the areas hold where R367 gives no layout, are the model's reading (log entry 49). -/
def Obligations.PreemptionEvents : Prop :=
  ∀ (n die core : Nat) (cores done since : List Nat) (b : BindRec) (s y : State),
    let z := s.begin_
    let c := z.ctxs.get n
    let late (us : Nat) : List Nat := since.map (fun a => a + 4000 * us)
    let mine := cores.filter (fun k => dieOfCore k == die)
    let all := cores.all (fun k => (die :: done).contains (dieOfCore k))
    let grid := gridKey b.ctx b.lnum
    let key := wgKey grid b.wg
    let uids := b.slots.map (fun n => core * 64 + n)
    let x := z.streamsBack b.ctx core
    let w := x.wgs.get key
    let back := x.wgBack b.ctx core key uids b.hold
    let records : Prop := b.restore = true ∧ (z.ctxs.get b.ctx).ladder = .saved cores ∧ core ∈ cores ∧ w.core = core ∧ w.slots = uids
    ((c.state = 1 ∨ c.state = 2) → c.ladder = .none → (∀ k ∈ cores, k < 96) → z.needs n cores = true →
      exec (.preemptionDecision n cores) s =
        .next ((z.putCtx n { c with ladder := .drain (z.widen n 96 cores.eraseDups) ((List.range 8).map z.stampTime) }).tick hubDie)) ∧
    (c.ladder = .drain cores since → z.drained n cores = true →
      exec (.drainDeadline n die) s = .next ((z.putCtx n { c with ladder := .none }).tick hubDie)) ∧
    (c.ladder = .drain cores since → z.drained n cores = false → mine ≠ [] → (late c.cfg.drain).getD die 0 ≤ z.stampTime die →
      exec (.drainDeadline n die) s = .next ((if c.cfg.saveArea = 0 then z.forceReset n
        else z.putCtx n { c with ladder := .save cores [] (late c.cfg.drain) }).tick hubDie)) ∧
    (c.ladder = .save cores done since → die ∉ done → mine ≠ [] → z.stampTime die ≤ (late c.cfg.save).getD die 0 →
      z.saveCores n mine = some y → exec (.saveComplete n die) s = .next ((y.modCtx n (fun c =>
        { c with ladder := if all then .saved cores else .save cores (die :: done) since })).tick hubDie)) ∧
    (c.ladder = .save cores done since → die ∉ done → mine ≠ [] → (late c.cfg.save).getD die 0 < z.stampTime die →
      exec (.saveComplete n die) s = .next ((z.forceReset n).tick hubDie)) ∧
    (c.ladder = .save cores done since → die < 8 → die ∉ done → mine ≠ [] → (late c.cfg.save).getD die 0 ≤ z.stampTime die →
      exec (.saveDeadline n) s = .next ((z.forceReset n).tick hubDie)) ∧
    (records → b.wg ∉ (x.grids.get grid).heldWgs → w.saved = true → x.bindAllowed core b = true →
      x.slotsFit b.ctx core (uids.filter (fun u => !w.gone.contains u)) = true → (x.cores.get core).ways + w.ways ≤ 32 →
      x.enginesFree b.ctx core key uids = true → x.keepsRoom back grid true = true →
      exec (.contextRestore core b) s = .next ((back.allBack b.ctx).tick hubDie)) ∧
    (records → b.wg ∈ (x.grids.get grid).heldWgs → x.slotsFit b.ctx core uids = true →
      exec (.contextRestore core b) s = .next (((x.teamsBack b.ctx uids).allBack b.ctx).tick hubDie))

/-! ### Events: observation, clocks, links and registers -/

/-- R207, R271, R392, R401, R404, R407, R413, R414, R420, R422, R424: samples and stall counts; frames written; the
exchanges of time; the host's writes to memory and registers; a link or a route that fails; clocks that change; shutdown; a
module reset; the summary of a resynchronisation. What memory holds after a reset, how a frame is coded, and the one step of a summary are
the model's choices (log entries 58, 60 and 67). -/
def Obligations.ModuleEvents : Prop :=
  ∀ (core port u die m a b x bound : Nat) (k : Bool) (bytes : List Byte) (images : List BootImage) (s : State),
    let z := s.begin_
    let t := z.teams.get u
    let l := z.residents core port
    let able := l.filter (fun u => (z.reasonOf u).isNone)
    let sper := ((z.ctxOf t).dbgctl.extractLsb' 4 4).toNat
    let d := z.dies.get die
    let head := z.loadNum d.sink 4
    let tail := z.loadNum (d.sink + 4) 4
    let cap := z.loadNum (d.sink + 12) 4
    let frame := z.frame die false d.trace
    let crossed := (z.crossing a b).crossing b a
    let summary := z.homeBytes z.hub.mbox (z.syncHead ++ (List.range 256).flatMap z.syncCtx)
    let counted := (z.modCore core (fun c => c.count port 0)).modCore core (fun c => c.count port 20)
    let clocks := ((List.range 9).map (fun k => (counted.cores.get core).account.get (port * 32 + k))).sum
    (z.oldest l = some u → (z.ctxOf t).dbgctl.getLsbD 2 = true → z.sampleDue core port sper = true → able ≠ [] →
      exec (.traceSample core port) s =
      .next ((z.modCore core (fun c => { c with sampled := c.sampled.set port ((z.dies.get (dieOfCore core)).clk + 1, sper) })).trace
        (dieOfCore core) { kind := 2, loc := whereOf u, data := BitVec.ofNat 32 (0xFF * 256 + able.length),
                                        pc := t.flow.pos.pc, regions := regionsOf t.flow })) ∧
    (l = [] → exec (.stallAccountClock core port) s =
      .next (counted.modDie (dieOfCore core) (fun d => if d.clk < clocks then { d with clk := clocks } else d))) ∧
    (d.trace ≠ [] → d.sink ≠ 0 → d.drops = 0 → d.sinkStopped = false → (tail + 2 ^ 32 - head) % 2 ^ 32 ≠ cap →
      exec (.wringerFrame die) s = .next (((z.homeBytes (d.sink + 4096 + 4096 * (tail % cap)) frame.1).homeNum (d.sink + 4) 4
        ((tail + 1) % 2 ^ 32)).modDie die (fun d => { d with trace := frame.2, frames := d.frames + 1, drops := 0, recDrops := 0 }))) ∧
    (bound ≤ 12 → z.stampTime die ≤ x + bound → x ≤ z.stampTime die + bound → z.stampTime die ≤ z.now + bound →
      exec (.timeSyncExchange die x bound) s = .next (z.putDie die { d with time := z.stampTime die, bound := bound })) ∧
    (z.hub.timeLock = true → exec (.domainTimeExchange x bound k) s =
      .next { z with mod := { z.mod with dlock := k && decide (bound ≤ 160), dbound := bound } }) ∧
    (paReserved a = false → a < 2 ^ 52 → a % 128 + bytes.length ≤ 128 →
      let y := (((z.handBack (lineOf a)).storeSectors a bytes.length).homeBytes a bytes).putRelease (lineOf a) {}
      exec (.hostAccess a bytes true) s = .next ((y.ringCtxs (lineOf a)).foldl State.flushFaults y) ∧
      exec (.hostAccess a bytes false) s = .next ((z.handBack (lineOf a)).fillSectors a bytes.length)) ∧
    (a ≠ b → a < 8 → b < 8 → linkOf a b ∉ z.mod.linksDown → exec (.shorelineLinkFailure a b) s =
      .next { crossed with
        mod := { crossed.mod with linksDown := linkOf a b :: crossed.mod.linksDown },
        grids := ⟨crossed.grids.entries.map (fun e =>
          if crossed.onBoth e.2 e.1 a b ∧ e.2.status = 0 then (e.1, { e.2 with status := 4, cause := cLINK }) else e)⟩ }) ∧
    (m ≠ z.hub.modid → m < 512 → m ∉ z.mod.routesDown →
      exec (.fabricRouteLoss m) s = .next { z with mod := { z.mod with routesDown := m :: z.mod.routesDown } }) ∧
    (800 ≤ x → x < d.mhz → exec (.thermalThrottle die x) s = .next (z.putDie die { d with mhz := x })) ∧
    (800 ≤ x → x ≤ 1900 → exec (.dvfsClockChange die x) s = .next (z.putDie die { d with mhz := x })) ∧
    exec .thermalShutdown s = .next { z with mod := { z.mod with powered := false } } ∧
    (∃ y, exec (.moduleReset images) s = .next y ∧ y.mem = z.resetMem ∧ y.hub = { bootstat := bootstat images } ∧
      y.teams = .empty ∧ y.grids = .empty ∧ y.ctxs = .empty ∧ y.cores = .empty ∧ y.dies = .empty ∧ y.check = .empty ∧
      y.mod.powered = true ∧ y.bad = ⟨z.bad.entries.filter (fun e => e.1 % 8 == 0)⟩ ∧ y.errs = .empty) ∧
    exec (.registerWrite a x) s = .next { z with hub := z.hub.write a x } ∧
    exec .resync s = .next (({ summary with hub := { summary.hub with mboxGo := false } }).tick hubDie)

/-! ### Commands of the host -/

/-- R170, R173, R186, R408 to R412, R415: each command of the ring, where its context exists and its arguments keep their limits,
has its effect and completes with status 0, or, where a key blob does not open, 5; HALT and CTXFREE by force go on until nothing of the
context moves. The layout of a command's arguments, which free context CTXNEW takes, and the waits of CTXFREE, INVAL and HALT are the
model's choices (log entries 61, 63, 64 and 65). -/
def Obligations.HostCommands : Prop :=
  ∀ (l : List Byte) (n : Nat) (c : Ctx) (s : State),
    let z := s.begin_
    let arg := cmdArg l
    let start := z.loadBytes (arg 0) 320
    let f := fieldAt start
    let dies := (List.range 8).foldl (fun s d => (s.modDie d (fun x =>
        { x with shBase := f (64 + 8 * d) 8, shLen := f (128 + 8 * d) 8, sink := f (192 + 8 * d) 8,
                 errLog := f (256 + 8 * d) 8 })).nameRing (f (256 + 8 * d) 8)) z
    let block := z.loadBytes (arg 0) 256
    let cfg := ctxCfg block
    let free := (List.range 256).filter (fun n => (z.ctxs.get n).state == 0)
    let bs := match z.kvDesc n with | some d => d.bs | none => 65536
    let gone (e : TlbEntry) : Bool := e.ctx == n &&
      (if e.level = kvLevel then overlap e.va bs (arg 0) (arg 1) else overlap e.va (2 ^ levelShift e.level) (arg 0 % 2 ^ 57) (arg 1))
    let discarded : State := { z with
      dies := ⟨z.dies.entries.map (fun (d : Nat × Die) => (d.1, { d.2 with tlb := d.2.tlb.filter (fun e => !gone e) }))⟩
      cores := ⟨z.cores.entries.map (fun (c : Nat × Core) => (c.1, { c.2 with tlb := c.2.tlb.filter (fun e => !gone e) }))⟩ }
    let hit := inRange l
    let r1 := z.modCtx n (fun c => { c with
      faults := (c.faults.map (fun f => if hit f.va then { f with resolved := true } else f)).filter (fun f =>
        !(f.resolved && f.written.isSome)) })
    let r2 := (r1.engineResident n hit).flushFaults n
    let r3 : State := { r2 with
      teams := ⟨r2.teams.entries.map (fun (e : Nat × Team) => (e.1, e.2.resident n hit))⟩
      savedTeams := ⟨r2.savedTeams.entries.map (fun (e : Nat × Option Team) => (e.1, e.2.map (fun (t : Team) => t.resident n hit)))⟩ }
    let r4 := r3.teams.keys.foldl (fun s u => if (s.teams.get u).place.ctx = n ∧ (s.teams.get u).flow = (s.teams.get u).seam then
      s.haltAtSeam u else s) r3
    let h1 := (z.collsOf n).foldl State.freezeColl (z.putCtx n { c with state := 2, haltedAt := z.stampTime hubDie })
    let h2 := ((h1.teams.entries.filter (fun t => t.2.moves n)).map Prod.fst).foldl State.haltHeld h1
    let e1 : State := { z with
      ctxs := z.ctxs.put n { c with state := 1 }
      teams := ⟨z.teams.entries.map (fun (e : Nat × Team) => (e.1, e.2.resume n))⟩
      savedTeams := ⟨z.savedTeams.entries.map (fun (e : Nat × Option Team) => (e.1, e.2.map (fun (t : Team) => t.resume n)))⟩ }
    let list := (List.range (arg 2)).map (fun k => z.loadNum (arg 1 + 2 * k) 2)
    (HeadCommand s 0x01 l → s.hub.started = false → z.startOk start = true → z.hub.bootstat / 256 % 512 = 0 →
      completes .start s { dies with hub := { dies.hub with
        started := true, featacc := f 0 32, modid := f 32 2, timeLock := (f 34 1).testBit 0 && (f 0 32).testBit 8,
        c0 := (List.range 8).map (fun d => f (36 + d) 1), cap := f 44 4 } } 0 0) ∧
    (HeadCommand s 0x02 l → z.ctxOk block = true → free[Config.freeNat z.freeCtr 9 % free.length]? = some n →
      completes .ctxnew s (([cfg.faultRing, cfg.trapLog, cfg.raceLog, cfg.errLog, cfg.sink].foldl State.nameRing z).putCtx n
        { state := 1, cfg := cfg, nextLnum := 1 }) 0 n) ∧
    (OnContext s 0x03 l n c → z.liveGrids n = [] → completes .ctxfree s (z.dropCtx n) 0 0) ∧
    (OnContext s 0x03 l n c → z.liveGrids n ≠ [] → arg 0 % 2 = 1 → c.state ≠ 3 → (∀ k d t, c.ladder ≠ .save k d t) →
      exec .ctxfree s = .next ((z.forceReset n).tick hubDie)) ∧
    (OnContext s 0x04 l n c → arg 0 ≤ 15 → powerOfTwo 2 65536 (arg 2) = true →
      completes .qreg s (z.putCtx n { c with queues := c.queues.put (arg 0) { registered := true, base := arg 1, cap := arg 2, head := 0 } }) 0 0) ∧
    (OnContext s 0x05 l n c → discarded.rangeBusy n (arg 0) (arg 1) = false → completes .inval s discarded 0 0) ∧
    (OnContext s 0x06 l n c → completes .resident s r4 0 0) ∧
    (OnContext s 0x07 l n c → c.state ≠ 2 → h2.teams.entries.any (fun t => t.2.moves n) = false → completes .halt s h2 0 0) ∧
    (OnContext s 0x07 l n c → c.state ≠ 2 → h2.teams.entries.any (fun t => t.2.moves n) = true → exec .halt s = .next (h2.tick hubDie)) ∧
    (OnContext s 0x08 l n c → c.state = 2 → completes .release s ((e1.collsOf n).foldl State.thawColl e1) 0 0) ∧
    (OnContext s 0x09 l n c → arg 0 ≤ 255 → 2 ≤ arg 2 → arg 2 ≤ 512 → (∀ m ∈ list, m ≤ 511) →
      completes .group s (z.putCtx n { c with groups := c.groups.put (arg 0) list }) 0 0) ∧
    (HeadCommand s 0x0A l → arg 0 ≤ 63 → arg 2 ≤ 255 → (z.ctxs.get (arg 2)).state ≠ 0 →
      match Config.keyBlob (z.loadBytes (arg 1) Config.keyBlobBytes) with
      | some v => completes .keyload s { z with mod := { z.mod with keys := z.mod.keys.put (arg 0) (arg 2, v.toNat) } } 0 0
      | none => completes .keyload s z 5 0) ∧
    (HeadCommand s 0x0B l → completes .attest s (z.homeBytes (arg 1) (Config.report (z.loadBytes (arg 0) 32)
      ([z.hub.modid, featVector, z.hub.featacc, z.stampTime hubDie, z.stampBound hubDie]
        ++ (List.range 9).map (fun k => (z.mod.boot.get k).toNat) ++ (List.range 9).map z.mod.versions.get))) 0 0) ∧
    (HeadCommand s 0x0C l → arg 0 ≤ 7 → completes .sinkrst s (z.modDie (arg 0) (fun x => { x with sinkStopped := false })) 0 0)
end

