-- ==== Sys2Proof/Laws/Exec.lean ====
section
/-! SUPPORT. Each arm of `exec`, as an equation. -/

namespace Sys2Proof.Machine

theorem exec_clause {a0 a1 a2 a3 s} : exec (.clause a0 a1 a2 a3) s = Sys2Proof.Machine.execClause a0 a1 a2 a3 s := rfl
theorem exec_hintImm {a0 s} : exec (.hintImm a0) s = Sys2Proof.Machine.execHintImm a0 s := rfl
theorem exec_hintSched {a0 a1 a2 a3 s} : exec (.hintSched a0 a1 a2 a3) s = Sys2Proof.Machine.execHintSched a0 a1 a2 a3 s := rfl
theorem exec_hintMod {a0 a1 a2 a3 a4 s} : exec (.hintMod a0 a1 a2 a3 a4) s = Sys2Proof.Machine.execHintMod a0 a1 a2 a3 a4 s := rfl
theorem exec_hintSrc3 {a0 a1 s} : exec (.hintSrc3 a0 a1) s = Sys2Proof.Machine.execHintSrc3 a0 a1 s := rfl
theorem exec_hintGuard {a0 a1 s} : exec (.hintGuard a0 a1) s = Sys2Proof.Machine.execHintGuard a0 a1 s := rfl
theorem exec_bra {a0 s} : exec (.bra a0) s = Sys2Proof.Machine.execBra a0 s := rfl
theorem exec_brc {a0 a1 a2 s} : exec (.brc a0 a1 a2) s = Sys2Proof.Machine.execBrc a0 a1 a2 s := rfl
theorem exec_brd {a0 a1 a2 s} : exec (.brd a0 a1 a2) s = Sys2Proof.Machine.execBrd a0 a1 a2 s := rfl
theorem exec_markj {a0 s} : exec (.markj a0) s = Sys2Proof.Machine.execMarkj a0 s := rfl
theorem exec_call {a0 s} : exec (.call a0) s = Sys2Proof.Machine.execCall a0 s := rfl
theorem exec_callr {a0 s} : exec (.callr a0) s = Sys2Proof.Machine.execCallr a0 s := rfl
theorem exec_enter {a0 s} : exec (.enter a0) s = Sys2Proof.Machine.execEnter a0 s := rfl
theorem exec_trap {a0 s} : exec (.trap a0) s = Sys2Proof.Machine.execTrap a0 s := rfl
theorem exec_srd {a0 a1 s} : exec (.srd a0 a1) s = Sys2Proof.Machine.execSrd a0 a1 s := rfl
theorem exec_swr {a0 a1 s} : exec (.swr a0 a1) s = Sys2Proof.Machine.execSwr a0 a1 s := rfl
theorem exec_time {a0 s} : exec (.time a0) s = Sys2Proof.Machine.execTime a0 s := rfl
theorem exec_clk {a0 s} : exec (.clk a0) s = Sys2Proof.Machine.execClk a0 s := rfl
theorem exec_trec {a0 a1 s} : exec (.trec a0 a1) s = Sys2Proof.Machine.execTrec a0 a1 s := rfl
theorem exec_icinv {a0 a1 a2 s} : exec (.icinv a0 a1 a2) s = Sys2Proof.Machine.execIcinv a0 a1 a2 s := rfl
theorem exec_rclr {a0 a1 s} : exec (.rclr a0 a1) s = Sys2Proof.Machine.execRclr a0 a1 s := rfl
theorem exec_lnch {a0 a1 s} : exec (.lnch a0 a1) s = Sys2Proof.Machine.execLnch a0 a1 s := rfl
theorem exec_contset {a0 s} : exec (.contset a0) s = Sys2Proof.Machine.execContset a0 s := rfl
theorem exec_sadd {a0 a1 a2 a3 a4 s} : exec (.sadd a0 a1 a2 a3 a4) s = Sys2Proof.Machine.execSadd a0 a1 a2 a3 a4 s := rfl
theorem exec_ssub {a0 a1 a2 a3 a4 s} : exec (.ssub a0 a1 a2 a3 a4) s = Sys2Proof.Machine.execSsub a0 a1 a2 a3 a4 s := rfl
theorem exec_smul {a0 a1 a2 a3 a4 s} : exec (.smul a0 a1 a2 a3 a4) s = Sys2Proof.Machine.execSmul a0 a1 a2 a3 a4 s := rfl
theorem exec_smulh {a0 a1 a2 a3 a4 s} : exec (.smulh a0 a1 a2 a3 a4) s = Sys2Proof.Machine.execSmulh a0 a1 a2 a3 a4 s := rfl
theorem exec_sand {a0 a1 a2 a3 a4 s} : exec (.sand a0 a1 a2 a3 a4) s = Sys2Proof.Machine.execSand a0 a1 a2 a3 a4 s := rfl
theorem exec_sor {a0 a1 a2 a3 a4 s} : exec (.sor a0 a1 a2 a3 a4) s = Sys2Proof.Machine.execSor a0 a1 a2 a3 a4 s := rfl
theorem exec_sxor {a0 a1 a2 a3 a4 s} : exec (.sxor a0 a1 a2 a3 a4) s = Sys2Proof.Machine.execSxor a0 a1 a2 a3 a4 s := rfl
theorem exec_ssel {a0 a1 a2 a3 a4 s} : exec (.ssel a0 a1 a2 a3 a4) s = Sys2Proof.Machine.execSsel a0 a1 a2 a3 a4 s := rfl
theorem exec_sshl {a0 a1 a2 a3 a4 s} : exec (.sshl a0 a1 a2 a3 a4) s = Sys2Proof.Machine.execSshl a0 a1 a2 a3 a4 s := rfl
theorem exec_sshr {a0 a1 a2 a3 a4 s} : exec (.sshr a0 a1 a2 a3 a4) s = Sys2Proof.Machine.execSshr a0 a1 a2 a3 a4 s := rfl
theorem exec_ssar {a0 a1 a2 a3 a4 s} : exec (.ssar a0 a1 a2 a3 a4) s = Sys2Proof.Machine.execSsar a0 a1 a2 a3 a4 s := rfl
theorem exec_scmp {a0 a1 a2 a3 a4 s} : exec (.scmp a0 a1 a2 a3 a4) s = Sys2Proof.Machine.execScmp a0 a1 a2 a3 a4 s := rfl
theorem exec_smin {a0 a1 a2 a3 a4 s} : exec (.smin a0 a1 a2 a3 a4) s = Sys2Proof.Machine.execSmin a0 a1 a2 a3 a4 s := rfl
theorem exec_smax {a0 a1 a2 a3 a4 s} : exec (.smax a0 a1 a2 a3 a4) s = Sys2Proof.Machine.execSmax a0 a1 a2 a3 a4 s := rfl
theorem exec_smov {a0 a1 a2 a3 s} : exec (.smov a0 a1 a2 a3) s = Sys2Proof.Machine.execSmov a0 a1 a2 a3 s := rfl
theorem exec_sdiv {a0 a1 a2 a3 a4 s} : exec (.sdiv a0 a1 a2 a3 a4) s = Sys2Proof.Machine.execSdiv a0 a1 a2 a3 a4 s := rfl
theorem exec_smovi {a0 a1 s} : exec (.smovi a0 a1) s = Sys2Proof.Machine.execSmovi a0 a1 s := rfl
theorem exec_saddi {a0 a1 a2 s} : exec (.saddi a0 a1 a2) s = Sys2Proof.Machine.execSaddi a0 a1 a2 s := rfl
theorem exec_aadd {a0 a1 a2 a3 s} : exec (.aadd a0 a1 a2 a3) s = Sys2Proof.Machine.execAadd a0 a1 a2 a3 s := rfl
theorem exec_asub {a0 a1 a2 a3 s} : exec (.asub a0 a1 a2 a3) s = Sys2Proof.Machine.execAsub a0 a1 a2 a3 s := rfl
theorem exec_ashl {a0 a1 a2 a3 s} : exec (.ashl a0 a1 a2 a3) s = Sys2Proof.Machine.execAshl a0 a1 a2 a3 s := rfl
theorem exec_amov {a0 a1 a2 s} : exec (.amov a0 a1 a2) s = Sys2Proof.Machine.execAmov a0 a1 a2 s := rfl
theorem exec_amovA {a0 a1 s} : exec (.amovA a0 a1) s = Sys2Proof.Machine.execAmovA a0 a1 s := rfl
theorem exec_aset {a0 a1 a2 s} : exec (.aset a0 a1 a2) s = Sys2Proof.Machine.execAset a0 a1 a2 s := rfl
theorem exec_avec {a0 a1 a2 s} : exec (.avec a0 a1 a2) s = Sys2Proof.Machine.execAvec a0 a1 a2 s := rfl
theorem exec_abase {a0 a1 s} : exec (.abase a0 a1) s = Sys2Proof.Machine.execAbase a0 a1 s := rfl
theorem exec_astr {a0 a1 s} : exec (.astr a0 a1) s = Sys2Proof.Machine.execAstr a0 a1 s := rfl
theorem exec_aoff {a0 a1 a2 a3 s} : exec (.aoff a0 a1 a2 a3) s = Sys2Proof.Machine.execAoff a0 a1 a2 a3 s := rfl
theorem exec_vadd {a0 a1 a2 a3 a4 a5 s} : exec (.vadd a0 a1 a2 a3 a4 a5) s = Sys2Proof.Machine.execVadd a0 a1 a2 a3 a4 a5 s := rfl
theorem exec_vsub {a0 a1 a2 a3 a4 a5 s} : exec (.vsub a0 a1 a2 a3 a4 a5) s = Sys2Proof.Machine.execVsub a0 a1 a2 a3 a4 a5 s := rfl
theorem exec_vmul {a0 a1 a2 a3 a4 a5 s} : exec (.vmul a0 a1 a2 a3 a4 a5) s = Sys2Proof.Machine.execVmul a0 a1 a2 a3 a4 a5 s := rfl
theorem exec_vmulh {a0 a1 a2 a3 a4 a5 s} : exec (.vmulh a0 a1 a2 a3 a4 a5) s = Sys2Proof.Machine.execVmulh a0 a1 a2 a3 a4 a5 s := rfl
theorem exec_vmad {a0 a1 a2 a3 a4 a5 s} : exec (.vmad a0 a1 a2 a3 a4 a5) s = Sys2Proof.Machine.execVmad a0 a1 a2 a3 a4 a5 s := rfl
theorem exec_vsadd {a0 a1 a2 a3 a4 a5 s} : exec (.vsadd a0 a1 a2 a3 a4 a5) s = Sys2Proof.Machine.execVsadd a0 a1 a2 a3 a4 a5 s := rfl
theorem exec_vssub {a0 a1 a2 a3 a4 a5 s} : exec (.vssub a0 a1 a2 a3 a4 a5) s = Sys2Proof.Machine.execVssub a0 a1 a2 a3 a4 a5 s := rfl
theorem exec_vabsd {a0 a1 a2 a3 a4 a5 s} : exec (.vabsd a0 a1 a2 a3 a4 a5) s = Sys2Proof.Machine.execVabsd a0 a1 a2 a3 a4 a5 s := rfl
theorem exec_vand {a0 a1 a2 a3 a4 a5 s} : exec (.vand a0 a1 a2 a3 a4 a5) s = Sys2Proof.Machine.execVand a0 a1 a2 a3 a4 a5 s := rfl
theorem exec_vor {a0 a1 a2 a3 a4 a5 s} : exec (.vor a0 a1 a2 a3 a4 a5) s = Sys2Proof.Machine.execVor a0 a1 a2 a3 a4 a5 s := rfl
theorem exec_vxor {a0 a1 a2 a3 a4 a5 s} : exec (.vxor a0 a1 a2 a3 a4 a5) s = Sys2Proof.Machine.execVxor a0 a1 a2 a3 a4 a5 s := rfl
theorem exec_vandn {a0 a1 a2 a3 a4 a5 s} : exec (.vandn a0 a1 a2 a3 a4 a5) s = Sys2Proof.Machine.execVandn a0 a1 a2 a3 a4 a5 s := rfl
theorem exec_vshl {a0 a1 a2 a3 a4 a5 s} : exec (.vshl a0 a1 a2 a3 a4 a5) s = Sys2Proof.Machine.execVshl a0 a1 a2 a3 a4 a5 s := rfl
theorem exec_vshr {a0 a1 a2 a3 a4 a5 s} : exec (.vshr a0 a1 a2 a3 a4 a5) s = Sys2Proof.Machine.execVshr a0 a1 a2 a3 a4 a5 s := rfl
theorem exec_vsar {a0 a1 a2 a3 a4 a5 s} : exec (.vsar a0 a1 a2 a3 a4 a5) s = Sys2Proof.Machine.execVsar a0 a1 a2 a3 a4 a5 s := rfl
theorem exec_vrot {a0 a1 a2 a3 a4 a5 s} : exec (.vrot a0 a1 a2 a3 a4 a5) s = Sys2Proof.Machine.execVrot a0 a1 a2 a3 a4 a5 s := rfl
theorem exec_vmin {a0 a1 a2 a3 a4 a5 s} : exec (.vmin a0 a1 a2 a3 a4 a5) s = Sys2Proof.Machine.execVmin a0 a1 a2 a3 a4 a5 s := rfl
theorem exec_vmax {a0 a1 a2 a3 a4 a5 s} : exec (.vmax a0 a1 a2 a3 a4 a5) s = Sys2Proof.Machine.execVmax a0 a1 a2 a3 a4 a5 s := rfl
theorem exec_vsel {a0 a1 a2 a3 a4 a5 s} : exec (.vsel a0 a1 a2 a3 a4 a5) s = Sys2Proof.Machine.execVsel a0 a1 a2 a3 a4 a5 s := rfl
theorem exec_vmov {a0 a1 a2 a3 a4 s} : exec (.vmov a0 a1 a2 a3 a4) s = Sys2Proof.Machine.execVmov a0 a1 a2 a3 a4 s := rfl
theorem exec_vclz {a0 a1 a2 a3 s} : exec (.vclz a0 a1 a2 a3) s = Sys2Proof.Machine.execVclz a0 a1 a2 a3 s := rfl
theorem exec_vpop {a0 a1 a2 a3 s} : exec (.vpop a0 a1 a2 a3) s = Sys2Proof.Machine.execVpop a0 a1 a2 a3 s := rfl
theorem exec_vbrev {a0 a1 a2 a3 s} : exec (.vbrev a0 a1 a2 a3) s = Sys2Proof.Machine.execVbrev a0 a1 a2 a3 s := rfl
theorem exec_vbfe {a0 a1 a2 a3 a4 a5 s} : exec (.vbfe a0 a1 a2 a3 a4 a5) s = Sys2Proof.Machine.execVbfe a0 a1 a2 a3 a4 a5 s := rfl
theorem exec_vbfi {a0 a1 a2 a3 a4 a5 s} : exec (.vbfi a0 a1 a2 a3 a4 a5) s = Sys2Proof.Machine.execVbfi a0 a1 a2 a3 a4 a5 s := rfl
theorem exec_vcvti {a0 a1 a2 a3 a4 s} : exec (.vcvti a0 a1 a2 a3 a4) s = Sys2Proof.Machine.execVcvti a0 a1 a2 a3 a4 s := rfl
theorem exec_vlane {a0 a1 a2 s} : exec (.vlane a0 a1 a2) s = Sys2Proof.Machine.execVlane a0 a1 a2 s := rfl
theorem exec_vdiv {a0 a1 a2 a3 a4 a5 s} : exec (.vdiv a0 a1 a2 a3 a4 a5) s = Sys2Proof.Machine.execVdiv a0 a1 a2 a3 a4 a5 s := rfl
theorem exec_vcmp {a0 a1 a2 a3 a4 a5 a6 s} : exec (.vcmp a0 a1 a2 a3 a4 a5 a6) s = Sys2Proof.Machine.execVcmp a0 a1 a2 a3 a4 a5 a6 s := rfl
theorem exec_fadd {a0 a1 a2 a3 a4 a5 s} : exec (.fadd a0 a1 a2 a3 a4 a5) s = Sys2Proof.Machine.execFadd a0 a1 a2 a3 a4 a5 s := rfl
theorem exec_fsub {a0 a1 a2 a3 a4 a5 s} : exec (.fsub a0 a1 a2 a3 a4 a5) s = Sys2Proof.Machine.execFsub a0 a1 a2 a3 a4 a5 s := rfl
theorem exec_fmul {a0 a1 a2 a3 a4 a5 s} : exec (.fmul a0 a1 a2 a3 a4 a5) s = Sys2Proof.Machine.execFmul a0 a1 a2 a3 a4 a5 s := rfl
theorem exec_ffma {a0 a1 a2 a3 a4 a5 s} : exec (.ffma a0 a1 a2 a3 a4 a5) s = Sys2Proof.Machine.execFfma a0 a1 a2 a3 a4 a5 s := rfl
theorem exec_fmin {a0 a1 a2 a3 a4 a5 s} : exec (.fmin a0 a1 a2 a3 a4 a5) s = Sys2Proof.Machine.execFmin a0 a1 a2 a3 a4 a5 s := rfl
theorem exec_fmax {a0 a1 a2 a3 a4 a5 s} : exec (.fmax a0 a1 a2 a3 a4 a5) s = Sys2Proof.Machine.execFmax a0 a1 a2 a3 a4 a5 s := rfl
theorem exec_fcpsgn {a0 a1 a2 a3 a4 a5 s} : exec (.fcpsgn a0 a1 a2 a3 a4 a5) s = Sys2Proof.Machine.execFcpsgn a0 a1 a2 a3 a4 a5 s := rfl
theorem exec_frnd {a0 a1 a2 a3 s} : exec (.frnd a0 a1 a2 a3) s = Sys2Proof.Machine.execFrnd a0 a1 a2 a3 s := rfl
theorem exec_frcp {a0 a1 a2 a3 s} : exec (.frcp a0 a1 a2 a3) s = Sys2Proof.Machine.execFrcp a0 a1 a2 a3 s := rfl
theorem exec_frsq {a0 a1 a2 a3 s} : exec (.frsq a0 a1 a2 a3) s = Sys2Proof.Machine.execFrsq a0 a1 a2 a3 s := rfl
theorem exec_fsqrt {a0 a1 a2 a3 s} : exec (.fsqrt a0 a1 a2 a3) s = Sys2Proof.Machine.execFsqrt a0 a1 a2 a3 s := rfl
theorem exec_fdiv {a0 a1 a2 a3 a4 a5 s} : exec (.fdiv a0 a1 a2 a3 a4 a5) s = Sys2Proof.Machine.execFdiv a0 a1 a2 a3 a4 a5 s := rfl
theorem exec_fexp2 {a0 a1 a2 a3 s} : exec (.fexp2 a0 a1 a2 a3) s = Sys2Proof.Machine.execFexp2 a0 a1 a2 a3 s := rfl
theorem exec_flog2 {a0 a1 a2 a3 s} : exec (.flog2 a0 a1 a2 a3) s = Sys2Proof.Machine.execFlog2 a0 a1 a2 a3 s := rfl
theorem exec_fsin {a0 a1 a2 a3 s} : exec (.fsin a0 a1 a2 a3) s = Sys2Proof.Machine.execFsin a0 a1 a2 a3 s := rfl
theorem exec_fcos {a0 a1 a2 a3 s} : exec (.fcos a0 a1 a2 a3) s = Sys2Proof.Machine.execFcos a0 a1 a2 a3 s := rfl
theorem exec_fcmp {a0 a1 a2 a3 a4 a5 a6 s} : exec (.fcmp a0 a1 a2 a3 a4 a5 a6) s = Sys2Proof.Machine.execFcmp a0 a1 a2 a3 a4 a5 a6 s := rfl
theorem exec_fcvt {a0 a1 a2 a3 a4 s} : exec (.fcvt a0 a1 a2 a3 a4) s = Sys2Proof.Machine.execFcvt a0 a1 a2 a3 a4 s := rfl
theorem exec_cvti {a0 a1 a2 a3 a4 s} : exec (.cvti a0 a1 a2 a3 a4) s = Sys2Proof.Machine.execCvti a0 a1 a2 a3 a4 s := rfl
theorem exec_cvtf {a0 a1 a2 a3 a4 s} : exec (.cvtf a0 a1 a2 a3 a4) s = Sys2Proof.Machine.execCvtf a0 a1 a2 a3 a4 s := rfl
theorem exec_fclass {a0 a1 a2 a3 s} : exec (.fclass a0 a1 a2 a3) s = Sys2Proof.Machine.execFclass a0 a1 a2 a3 s := rfl
theorem exec_vshuf {a0 a1 a2 a3 a4 a5 s} : exec (.vshuf a0 a1 a2 a3 a4 a5) s = Sys2Proof.Machine.execVshuf a0 a1 a2 a3 a4 a5 s := rfl
theorem exec_vbcast {a0 a1 a2 a3 s} : exec (.vbcast a0 a1 a2 a3) s = Sys2Proof.Machine.execVbcast a0 a1 a2 a3 s := rfl
theorem exec_vscan {a0 a1 a2 a3 a4 a5 a6 s} : exec (.vscan a0 a1 a2 a3 a4 a5 a6) s = Sys2Proof.Machine.execVscan a0 a1 a2 a3 a4 a5 a6 s := rfl
theorem exec_vred {a0 a1 a2 a3 a4 a5 s} : exec (.vred a0 a1 a2 a3 a4 a5) s = Sys2Proof.Machine.execVred a0 a1 a2 a3 a4 a5 s := rfl
theorem exec_mand {a0 a1 a2 s} : exec (.mand a0 a1 a2) s = Sys2Proof.Machine.execMand a0 a1 a2 s := rfl
theorem exec_mor {a0 a1 a2 s} : exec (.mor a0 a1 a2) s = Sys2Proof.Machine.execMor a0 a1 a2 s := rfl
theorem exec_mxor {a0 a1 a2 s} : exec (.mxor a0 a1 a2) s = Sys2Proof.Machine.execMxor a0 a1 a2 s := rfl
theorem exec_mnot {a0 a1 s} : exec (.mnot a0 a1) s = Sys2Proof.Machine.execMnot a0 a1 s := rfl
theorem exec_mpop {a0 a1 s} : exec (.mpop a0 a1) s = Sys2Proof.Machine.execMpop a0 a1 s := rfl
theorem exec_mfirst {a0 a1 s} : exec (.mfirst a0 a1) s = Sys2Proof.Machine.execMfirst a0 a1 s := rfl
theorem exec_mtos {a0 a1 a2 s} : exec (.mtos a0 a1 a2) s = Sys2Proof.Machine.execMtos a0 a1 a2 s := rfl
theorem exec_stom {a0 a1 a2 s} : exec (.stom a0 a1 a2) s = Sys2Proof.Machine.execStom a0 a1 a2 s := rfl
theorem exec_regroup {a0 a1 a2 a3 a4 s} : exec (.regroup a0 a1 a2 a3 a4) s = Sys2Proof.Machine.execRegroup a0 a1 a2 a3 a4 s := rfl
theorem exec_vvote {a0 a1 a2 s} : exec (.vvote a0 a1 a2) s = Sys2Proof.Machine.execVvote a0 a1 a2 s := rfl
theorem exec_vldg {a0 a1 a2 a3 a4 a5 a6 a7 a8 s} : exec (.vldg a0 a1 a2 a3 a4 a5 a6 a7 a8) s = Sys2Proof.Machine.execVldg a0 a1 a2 a3 a4 a5 a6 a7 a8 s := rfl
theorem exec_vstg {a0 a1 a2 a3 a4 a5 a6 a7 s} : exec (.vstg a0 a1 a2 a3 a4 a5 a6 a7) s = Sys2Proof.Machine.execVstg a0 a1 a2 a3 a4 a5 a6 a7 s := rfl
theorem exec_vlds {a0 a1 a2 a3 a4 a5 a6 a7 a8 s} : exec (.vlds a0 a1 a2 a3 a4 a5 a6 a7 a8) s = Sys2Proof.Machine.execVlds a0 a1 a2 a3 a4 a5 a6 a7 a8 s := rfl
theorem exec_vsts {a0 a1 a2 a3 a4 a5 a6 a7 s} : exec (.vsts a0 a1 a2 a3 a4 a5 a6 a7) s = Sys2Proof.Machine.execVsts a0 a1 a2 a3 a4 a5 a6 a7 s := rfl
theorem exec_sld {a0 a1 a2 a3 s} : exec (.sld a0 a1 a2 a3) s = Sys2Proof.Machine.execSld a0 a1 a2 a3 s := rfl
theorem exec_sst {a0 a1 a2 s} : exec (.sst a0 a1 a2) s = Sys2Proof.Machine.execSst a0 a1 a2 s := rfl
theorem exec_atom {a0 a1 a2 a3 a4 a5 a6 s} : exec (.atom a0 a1 a2 a3 a4 a5 a6) s = Sys2Proof.Machine.execAtom a0 a1 a2 a3 a4 a5 a6 s := rfl
theorem exec_atom64 {a0 a1 a2 a3 a4 a5 a6 s} : exec (.atom64 a0 a1 a2 a3 a4 a5 a6) s = Sys2Proof.Machine.execAtom64 a0 a1 a2 a3 a4 a5 a6 s := rfl
theorem exec_atomf {a0 a1 a2 a3 a4 a5 a6 s} : exec (.atomf a0 a1 a2 a3 a4 a5 a6) s = Sys2Proof.Machine.execAtomf a0 a1 a2 a3 a4 a5 a6 s := rfl
theorem exec_fence {a0 a1 a2 s} : exec (.fence a0 a1 a2) s = Sys2Proof.Machine.execFence a0 a1 a2 s := rfl
theorem exec_waitl {a0 a1 a2 s} : exec (.waitl a0 a1 a2) s = Sys2Proof.Machine.execWaitl a0 a1 a2 s := rfl
theorem exec_pref {a0 a1 a2 s} : exec (.pref a0 a1 a2) s = Sys2Proof.Machine.execPref a0 a1 a2 s := rfl
theorem exec_tld {a0 a1 a2 a3 a4 a5 s} : exec (.tld a0 a1 a2 a3 a4 a5) s = Sys2Proof.Machine.execTld a0 a1 a2 a3 a4 a5 s := rfl
theorem exec_tex {a0 a1 a2 a3 a4 s} : exec (.tex a0 a1 a2 a3 a4) s = Sys2Proof.Machine.execTex a0 a1 a2 a3 a4 s := rfl
theorem exec_texg {a0 a1 a2 a3 a4 s} : exec (.texg a0 a1 a2 a3 a4) s = Sys2Proof.Machine.execTexg a0 a1 a2 a3 a4 s := rfl
theorem exec_tqry {a0 a1 a2 s} : exec (.tqry a0 a1 a2) s = Sys2Proof.Machine.execTqry a0 a1 a2 s := rfl
theorem exec_stmap {a0 a1 a2 s} : exec (.stmap a0 a1 a2) s = Sys2Proof.Machine.execStmap a0 a1 a2 s := rfl
theorem exec_stflush {a0 s} : exec (.stflush a0) s = Sys2Proof.Machine.execStflush a0 s := rfl
theorem exec_stunmap {a0 s} : exec (.stunmap a0) s = Sys2Proof.Machine.execStunmap a0 s := rfl
theorem exec_stqry {a0 a1 s} : exec (.stqry a0 a1) s = Sys2Proof.Machine.execStqry a0 a1 s := rfl
theorem exec_cpy {a0 a1 a2 s} : exec (.cpy a0 a1 a2) s = Sys2Proof.Machine.execCpy a0 a1 a2 s := rfl
theorem exec_cpy2d {a0 a1 a2 s} : exec (.cpy2d a0 a1 a2) s = Sys2Proof.Machine.execCpy2d a0 a1 a2 s := rfl
theorem exec_cpyb {a0 s} : exec (.cpyb a0) s = Sys2Proof.Machine.execCpyb a0 s := rfl
theorem exec_cpyw {a0 s} : exec (.cpyw a0) s = Sys2Proof.Machine.execCpyw a0 s := rfl
theorem exec_bar {a0 a1 s} : exec (.bar a0 a1) s = Sys2Proof.Machine.execBar a0 a1 s := rfl
theorem exec_bara {a0 a1 s} : exec (.bara a0 a1) s = Sys2Proof.Machine.execBara a0 a1 s := rfl
theorem exec_barw {a0 a1 s} : exec (.barw a0 a1) s = Sys2Proof.Machine.execBarw a0 a1 s := rfl
theorem exec_barq {a0 a1 a2 s} : exec (.barq a0 a1 a2) s = Sys2Proof.Machine.execBarq a0 a1 a2 s := rfl
theorem exec_stream {a0 a1 s} : exec (.stream a0 a1) s = Sys2Proof.Machine.execStream a0 a1 s := rfl
theorem exec_qpop {a0 a1 a2 s} : exec (.qpop a0 a1 a2) s = Sys2Proof.Machine.execQpop a0 a1 a2 s := rfl
theorem exec_qstat {a0 a1 s} : exec (.qstat a0 a1) s = Sys2Proof.Machine.execQstat a0 a1 s := rfl
theorem exec_qclose {a0 s} : exec (.qclose a0) s = Sys2Proof.Machine.execQclose a0 s := rfl
theorem exec_mgang {a0 s} : exec (.mgang a0) s = Sys2Proof.Machine.execMgang a0 s := rfl
theorem exec_mma {a0 a1 a2 s} : exec (.mma a0 a1 a2) s = Sys2Proof.Machine.execMma a0 a1 a2 s := rfl
theorem exec_mdrain {a0 a1 a2 a3 a4 a5 a6 s} : exec (.mdrain a0 a1 a2 a3 a4 a5 a6) s = Sys2Proof.Machine.execMdrain a0 a1 a2 a3 a4 a5 a6 s := rfl
theorem exec_mzero {a0 s} : exec (.mzero a0) s = Sys2Proof.Machine.execMzero a0 s := rfl
theorem exec_maccrd {a0 a1 a2 a3 s} : exec (.maccrd a0 a1 a2 a3) s = Sys2Proof.Machine.execMaccrd a0 a1 a2 a3 s := rfl
theorem exec_maccwr {a0 a1 a2 s} : exec (.maccwr a0 a1 a2) s = Sys2Proof.Machine.execMaccwr a0 a1 a2 s := rfl
theorem exec_mfmt {a0 a1 s} : exec (.mfmt a0 a1) s = Sys2Proof.Machine.execMfmt a0 a1 s := rfl
theorem exec_mqry {a0 a1 s} : exec (.mqry a0 a1) s = Sys2Proof.Machine.execMqry a0 a1 s := rfl
theorem exec_lfset {a0 a1 a2 s} : exec (.lfset a0 a1 a2) s = Sys2Proof.Machine.execLfset a0 a1 a2 s := rfl
theorem exec_lfspan {a0 a1 a2 s} : exec (.lfspan a0 a1 a2) s = Sys2Proof.Machine.execLfspan a0 a1 a2 s := rfl
theorem exec_lfint {a0 a1 a2 a3 a4 s} : exec (.lfint a0 a1 a2 a3 a4) s = Sys2Proof.Machine.execLfint a0 a1 a2 a3 a4 s := rfl
theorem exec_lfz {a0 a1 a2 s} : exec (.lfz a0 a1 a2) s = Sys2Proof.Machine.execLfz a0 a1 a2 s := rfl
theorem exec_lfout {a0 a1 a2 a3 a4 s} : exec (.lfout a0 a1 a2 a3 a4) s = Sys2Proof.Machine.execLfout a0 a1 a2 a3 a4 s := rfl
theorem exec_mshdec {a0 a1 a2 s} : exec (.mshdec a0 a1 a2) s = Sys2Proof.Machine.execMshdec a0 a1 a2 s := rfl
theorem exec_qmerge {a0 a1 a2 s} : exec (.qmerge a0 a1 a2) s = Sys2Proof.Machine.execQmerge a0 a1 a2 s := rfl
theorem exec_lfqry {a0 a1 a2 s} : exec (.lfqry a0 a1 a2) s = Sys2Proof.Machine.execLfqry a0 a1 a2 s := rfl
theorem exec_trace {a0 a1 a2 a3 s} : exec (.trace a0 a1 a2 a3) s = Sys2Proof.Machine.execTrace a0 a1 a2 a3 s := rfl
theorem exec_trres {a0 a1 s} : exec (.trres a0 a1) s = Sys2Proof.Machine.execTrres a0 a1 s := rfl
theorem exec_trget {a0 a1 a2 s} : exec (.trget a0 a1 a2) s = Sys2Proof.Machine.execTrget a0 a1 a2 s := rfl
theorem exec_trhit {a0 a1 s} : exec (.trhit a0 a1) s = Sys2Proof.Machine.execTrhit a0 a1 s := rfl
theorem exec_trsave {a0 a1 a2 a3 s} : exec (.trsave a0 a1 a2 a3) s = Sys2Proof.Machine.execTrsave a0 a1 a2 a3 s := rfl
theorem exec_trload {a0 a1 a2 a3 a4 a5 s} : exec (.trload a0 a1 a2 a3 a4 a5) s = Sys2Proof.Machine.execTrload a0 a1 a2 a3 a4 a5 s := rfl
theorem exec_coll {a0 a1 s} : exec (.coll a0 a1) s = Sys2Proof.Machine.execColl a0 a1 s := rfl
theorem exec_collw {a0 a1 a2 s} : exec (.collw a0 a1 a2) s = Sys2Proof.Machine.execCollw a0 a1 a2 s := rfl
theorem exec_kvfork {a0 a1 a2 s} : exec (.kvfork a0 a1 a2) s = Sys2Proof.Machine.execKvfork a0 a1 a2 s := rfl
theorem exec_kvfree {a0 a1 a2 s} : exec (.kvfree a0 a1 a2) s = Sys2Proof.Machine.execKvfree a0 a1 a2 s := rfl
theorem exec_red {a0 a1 a2 a3 a4 a5 s} : exec (.red a0 a1 a2 a3 a4 a5) s = Sys2Proof.Machine.execRed a0 a1 a2 a3 a4 a5 s := rfl
theorem exec_atxXchg32 {a0 a1 a2 a3 a4 a5 s} : exec (.atxXchg32 a0 a1 a2 a3 a4 a5) s = Sys2Proof.Machine.execAtxXchg32 a0 a1 a2 a3 a4 a5 s := rfl
theorem exec_atxCas32 {a0 a1 a2 a3 a4 a5 s} : exec (.atxCas32 a0 a1 a2 a3 a4 a5) s = Sys2Proof.Machine.execAtxCas32 a0 a1 a2 a3 a4 a5 s := rfl
theorem exec_atxLd32 {a0 a1 a2 a3 a4 a5 s} : exec (.atxLd32 a0 a1 a2 a3 a4 a5) s = Sys2Proof.Machine.execAtxLd32 a0 a1 a2 a3 a4 a5 s := rfl
theorem exec_atxSt32 {a0 a1 a2 a3 a4 s} : exec (.atxSt32 a0 a1 a2 a3 a4) s = Sys2Proof.Machine.execAtxSt32 a0 a1 a2 a3 a4 s := rfl
theorem exec_atxXchg64 {a0 a1 a2 a3 a4 a5 s} : exec (.atxXchg64 a0 a1 a2 a3 a4 a5) s = Sys2Proof.Machine.execAtxXchg64 a0 a1 a2 a3 a4 a5 s := rfl
theorem exec_atxCas64 {a0 a1 a2 a3 a4 a5 s} : exec (.atxCas64 a0 a1 a2 a3 a4 a5) s = Sys2Proof.Machine.execAtxCas64 a0 a1 a2 a3 a4 a5 s := rfl
theorem exec_atxLd64 {a0 a1 a2 a3 a4 a5 s} : exec (.atxLd64 a0 a1 a2 a3 a4 a5) s = Sys2Proof.Machine.execAtxLd64 a0 a1 a2 a3 a4 a5 s := rfl
theorem exec_atxSt64 {a0 a1 a2 a3 a4 s} : exec (.atxSt64 a0 a1 a2 a3 a4) s = Sys2Proof.Machine.execAtxSt64 a0 a1 a2 a3 a4 s := rfl
theorem exec_longLatencyCompletion {a0 a1 s} : exec (.longLatencyCompletion a0 a1) s = Sys2Proof.Machine.execLongLatencyCompletion a0 a1 s := rfl
theorem exec_storeAtHome {a0 s} : exec (.storeAtHome a0) s = Sys2Proof.Machine.execStoreAtHome a0 s := rfl
theorem exec_loadAtHome {a0 a1 a2 s} : exec (.loadAtHome a0 a1 a2) s = Sys2Proof.Machine.execLoadAtHome a0 a1 a2 s := rfl
theorem exec_atomicAtHome {a0 s} : exec (.atomicAtHome a0) s = Sys2Proof.Machine.execAtomicAtHome a0 s := rfl
theorem exec_fenceToken {a0 a1 s} : exec (.fenceToken a0 a1) s = Sys2Proof.Machine.execFenceToken a0 a1 s := rfl
theorem exec_fenceTokenAck {a0 a1 s} : exec (.fenceTokenAck a0 a1) s = Sys2Proof.Machine.execFenceTokenAck a0 a1 s := rfl
theorem exec_l1Invalidate {a0 a1 s} : exec (.l1Invalidate a0 a1) s = Sys2Proof.Machine.execL1Invalidate a0 a1 s := rfl
theorem exec_stashRecall {a0 a1 s} : exec (.stashRecall a0 a1) s = Sys2Proof.Machine.execStashRecall a0 a1 s := rfl
theorem exec_waitlTimeout {a0 s} : exec (.waitlTimeout a0) s = Sys2Proof.Machine.execWaitlTimeout a0 s := rfl
theorem exec_teamPromotion {a0 s} : exec (.teamPromotion a0) s = Sys2Proof.Machine.execTeamPromotion a0 s := rfl
theorem exec_tideProbe {a0 a1 s} : exec (.tideProbe a0 a1) s = Sys2Proof.Machine.execTideProbe a0 a1 s := rfl
theorem exec_tideProbeReturn {a0 a1 s} : exec (.tideProbeReturn a0 a1) s = Sys2Proof.Machine.execTideProbeReturn a0 a1 s := rfl
theorem exec_barrierPhaseCompletion {a0 s} : exec (.barrierPhaseCompletion a0) s = Sys2Proof.Machine.execBarrierPhaseCompletion a0 s := rfl
theorem exec_barrierToken {a0 a1 s} : exec (.barrierToken a0 a1) s = Sys2Proof.Machine.execBarrierToken a0 a1 s := rfl
theorem exec_regroupExchange {a0 a1 s} : exec (.regroupExchange a0 a1) s = Sys2Proof.Machine.execRegroupExchange a0 a1 s := rfl
theorem exec_mmaCompletion {a0 a1 s} : exec (.mmaCompletion a0 a1) s = Sys2Proof.Machine.execMmaCompletion a0 a1 s := rfl
theorem exec_streamEntryPush {a0 a1 s} : exec (.streamEntryPush a0 a1) s = Sys2Proof.Machine.execStreamEntryPush a0 a1 s := rfl
theorem exec_copyCompletion {a0 s} : exec (.copyCompletion a0) s = Sys2Proof.Machine.execCopyCompletion a0 s := rfl
theorem exec_collectiveCompletion {a0 a1 s} : exec (.collectiveCompletion a0 a1) s = Sys2Proof.Machine.execCollectiveCompletion a0 a1 s := rfl
theorem exec_collectiveTimeout {a0 s} : exec (.collectiveTimeout a0) s = Sys2Proof.Machine.execCollectiveTimeout a0 s := rfl
theorem exec_collectiveHalt {a0 s} : exec (.collectiveHalt a0) s = Sys2Proof.Machine.execCollectiveHalt a0 s := rfl
theorem exec_collectiveResume {a0 s} : exec (.collectiveResume a0) s = Sys2Proof.Machine.execCollectiveResume a0 s := rfl
theorem exec_haltLimitExpiry {a0 s} : exec (.haltLimitExpiry a0) s = Sys2Proof.Machine.execHaltLimitExpiry a0 s := rfl
theorem exec_notificationWrite {a0 a1 s} : exec (.notificationWrite a0 a1) s = Sys2Proof.Machine.execNotificationWrite a0 a1 s := rfl
theorem exec_launchValidation {a0 s} : exec (.launchValidation a0) s = Sys2Proof.Machine.execLaunchValidation a0 s := rfl
theorem exec_dependencePoll {a0 s} : exec (.dependencePoll a0) s = Sys2Proof.Machine.execDependencePoll a0 s := rfl
theorem exec_gridStart {a0 s} : exec (.gridStart a0) s = Sys2Proof.Machine.execGridStart a0 s := rfl
theorem exec_bindRecord {a0 a1 s} : exec (.bindRecord a0 a1) s = Sys2Proof.Machine.execBindRecord a0 a1 s := rfl
theorem exec_groupStart {a0 a1 s} : exec (.groupStart a0 a1) s = Sys2Proof.Machine.execGroupStart a0 a1 s := rfl
theorem exec_teamStart {a0 s} : exec (.teamStart a0) s = Sys2Proof.Machine.execTeamStart a0 s := rfl
theorem exec_gridCompletion {a0 s} : exec (.gridCompletion a0) s = Sys2Proof.Machine.execGridCompletion a0 s := rfl
theorem exec_preemptionDecision {a0 a1 s} : exec (.preemptionDecision a0 a1) s = Sys2Proof.Machine.execPreemptionDecision a0 a1 s := rfl
theorem exec_drainDeadline {a0 a1 s} : exec (.drainDeadline a0 a1) s = Sys2Proof.Machine.execDrainDeadline a0 a1 s := rfl
theorem exec_saveComplete {a0 a1 s} : exec (.saveComplete a0 a1) s = Sys2Proof.Machine.execSaveComplete a0 a1 s := rfl
theorem exec_saveDeadline {a0 s} : exec (.saveDeadline a0) s = Sys2Proof.Machine.execSaveDeadline a0 s := rfl
theorem exec_contextRestore {a0 a1 s} : exec (.contextRestore a0 a1) s = Sys2Proof.Machine.execContextRestore a0 a1 s := rfl
theorem exec_traceSample {a0 a1 s} : exec (.traceSample a0 a1) s = Sys2Proof.Machine.execTraceSample a0 a1 s := rfl
theorem exec_wringerFrame {a0 s} : exec (.wringerFrame a0) s = Sys2Proof.Machine.execWringerFrame a0 s := rfl
theorem exec_timeSyncExchange {a0 a1 a2 s} : exec (.timeSyncExchange a0 a1 a2) s = Sys2Proof.Machine.execTimeSyncExchange a0 a1 a2 s := rfl
theorem exec_domainTimeExchange {a0 a1 a2 s} : exec (.domainTimeExchange a0 a1 a2) s = Sys2Proof.Machine.execDomainTimeExchange a0 a1 a2 s := rfl
theorem exec_hostAccess {a0 a1 a2 s} : exec (.hostAccess a0 a1 a2) s = Sys2Proof.Machine.execHostAccess a0 a1 a2 s := rfl
theorem exec_shorelineLinkFailure {a0 a1 s} : exec (.shorelineLinkFailure a0 a1) s = Sys2Proof.Machine.execShorelineLinkFailure a0 a1 s := rfl
theorem exec_fabricRouteLoss {a0 s} : exec (.fabricRouteLoss a0) s = Sys2Proof.Machine.execFabricRouteLoss a0 s := rfl
theorem exec_thermalThrottle {a0 a1 s} : exec (.thermalThrottle a0 a1) s = Sys2Proof.Machine.execThermalThrottle a0 a1 s := rfl
theorem exec_moduleReset {a0 s} : exec (.moduleReset a0) s = Sys2Proof.Machine.execModuleReset a0 s := rfl
theorem exec_registerWrite {a0 a1 s} : exec (.registerWrite a0 a1) s = Sys2Proof.Machine.execRegisterWrite a0 a1 s := rfl
theorem exec_wordNotAnInstruction {a0 s} : exec (.wordNotAnInstruction a0) s = Sys2Proof.Machine.execWordNotAnInstruction a0 s := rfl
theorem exec_samplerInvalidation {a0 a1 s} : exec (.samplerInvalidation a0 a1) s = Sys2Proof.Machine.execSamplerInvalidation a0 a1 s := rfl
theorem exec_instructionCacheInvalidation {a0 a1 s} : exec (.instructionCacheInvalidation a0 a1) s = Sys2Proof.Machine.execInstructionCacheInvalidation a0 a1 s := rfl
theorem exec_storeAcknowledgement {a0 a1 s} : exec (.storeAcknowledgement a0 a1) s = Sys2Proof.Machine.execStoreAcknowledgement a0 a1 s := rfl
theorem exec_watchReport {a0 s} : exec (.watchReport a0) s = Sys2Proof.Machine.execWatchReport a0 s := rfl
theorem exec_wakeWithoutNotice {a0 s} : exec (.wakeWithoutNotice a0) s = Sys2Proof.Machine.execWakeWithoutNotice a0 s := rfl
theorem exec_stallAccountClock {a0 a1 s} : exec (.stallAccountClock a0 a1) s = Sys2Proof.Machine.execStallAccountClock a0 a1 s := rfl
theorem exec_dvfsClockChange {a0 a1 s} : exec (.dvfsClockChange a0 a1) s = Sys2Proof.Machine.execDvfsClockChange a0 a1 s := rfl
theorem exec_join {s} : exec (.join) s = Sys2Proof.Machine.execJoin s := rfl
theorem exec_ret {s} : exec (.ret) s = Sys2Proof.Machine.execRet s := rfl
theorem exec_exit {s} : exec (.exit) s = Sys2Proof.Machine.execExit s := rfl
theorem exec_nop {s} : exec (.nop) s = Sys2Proof.Machine.execNop s := rfl
theorem exec_yield {s} : exec (.yield) s = Sys2Proof.Machine.execYield s := rfl
theorem exec_seam {s} : exec (.seam) s = Sys2Proof.Machine.execSeam s := rfl
theorem exec_leave {s} : exec (.leave) s = Sys2Proof.Machine.execLeave s := rfl
theorem exec_bkpt {s} : exec (.bkpt) s = Sys2Proof.Machine.execBkpt s := rfl
theorem exec_isync {s} : exec (.isync) s = Sys2Proof.Machine.execIsync s := rfl
theorem exec_cresume {s} : exec (.cresume) s = Sys2Proof.Machine.execCresume s := rfl
theorem exec_raceEpochAdvance {s} : exec (.raceEpochAdvance) s = Sys2Proof.Machine.execRaceEpochAdvance s := rfl
theorem exec_thermalShutdown {s} : exec (.thermalShutdown) s = Sys2Proof.Machine.execThermalShutdown s := rfl
theorem exec_resync {s} : exec (.resync) s = Sys2Proof.Machine.execResync s := rfl
theorem exec_start {s} : exec (.start) s = Sys2Proof.Machine.execStart s := rfl
theorem exec_ctxnew {s} : exec (.ctxnew) s = Sys2Proof.Machine.execCtxnew s := rfl
theorem exec_ctxfree {s} : exec (.ctxfree) s = Sys2Proof.Machine.execCtxfree s := rfl
theorem exec_qreg {s} : exec (.qreg) s = Sys2Proof.Machine.execQreg s := rfl
theorem exec_inval {s} : exec (.inval) s = Sys2Proof.Machine.execInval s := rfl
theorem exec_resident {s} : exec (.resident) s = Sys2Proof.Machine.execResident s := rfl
theorem exec_halt {s} : exec (.halt) s = Sys2Proof.Machine.execHalt s := rfl
theorem exec_release {s} : exec (.release) s = Sys2Proof.Machine.execRelease s := rfl
theorem exec_group {s} : exec (.group) s = Sys2Proof.Machine.execGroup s := rfl
theorem exec_keyload {s} : exec (.keyload) s = Sys2Proof.Machine.execKeyload s := rfl
theorem exec_attest {s} : exec (.attest) s = Sys2Proof.Machine.execAttest s := rfl
theorem exec_sinkrst {s} : exec (.sinkrst) s = Sys2Proof.Machine.execSinkrst s := rfl

/-- Every word runs through `State.runWord`. -/
theorem exec_word (i : Instr) (h : i.isWord = true ∨ ∃ w, i = .wordNotAnInstruction w) :
    ∃ eff, ∀ s, exec i s = s.runWord i eff := by
  cases i with
  | clause _ _ _ _ => exact ⟨_, fun s => exec_clause.trans rfl⟩
  | hintImm _ => exact ⟨_, fun s => exec_hintImm.trans rfl⟩
  | hintSched _ _ _ _ => exact ⟨_, fun s => exec_hintSched.trans rfl⟩
  | hintMod _ _ _ _ _ => exact ⟨_, fun s => exec_hintMod.trans rfl⟩
  | hintSrc3 _ _ => exact ⟨_, fun s => exec_hintSrc3.trans rfl⟩
  | hintGuard _ _ => exact ⟨_, fun s => exec_hintGuard.trans rfl⟩
  | bra _ => exact ⟨_, fun s => exec_bra.trans rfl⟩
  | brc _ _ _ => exact ⟨_, fun s => exec_brc.trans rfl⟩
  | brd _ _ _ => exact ⟨_, fun s => exec_brd.trans rfl⟩
  | markj _ => exact ⟨_, fun s => exec_markj.trans rfl⟩
  | call _ => exact ⟨_, fun s => exec_call.trans rfl⟩
  | callr _ => exact ⟨_, fun s => exec_callr.trans rfl⟩
  | enter _ => exact ⟨_, fun s => exec_enter.trans rfl⟩
  | trap _ => exact ⟨_, fun s => exec_trap.trans rfl⟩
  | srd _ _ => exact ⟨_, fun s => exec_srd.trans rfl⟩
  | swr _ _ => exact ⟨_, fun s => exec_swr.trans rfl⟩
  | time _ => exact ⟨_, fun s => exec_time.trans rfl⟩
  | clk _ => exact ⟨_, fun s => exec_clk.trans rfl⟩
  | trec _ _ => exact ⟨_, fun s => exec_trec.trans rfl⟩
  | icinv _ _ _ => exact ⟨_, fun s => exec_icinv.trans rfl⟩
  | rclr _ _ => exact ⟨_, fun s => exec_rclr.trans rfl⟩
  | lnch _ _ => exact ⟨_, fun s => exec_lnch.trans rfl⟩
  | contset _ => exact ⟨_, fun s => exec_contset.trans rfl⟩
  | sadd _ _ _ _ _ => exact ⟨_, fun s => exec_sadd.trans rfl⟩
  | ssub _ _ _ _ _ => exact ⟨_, fun s => exec_ssub.trans rfl⟩
  | smul _ _ _ _ _ => exact ⟨_, fun s => exec_smul.trans rfl⟩
  | smulh _ _ _ _ _ => exact ⟨_, fun s => exec_smulh.trans rfl⟩
  | sand _ _ _ _ _ => exact ⟨_, fun s => exec_sand.trans rfl⟩
  | sor _ _ _ _ _ => exact ⟨_, fun s => exec_sor.trans rfl⟩
  | sxor _ _ _ _ _ => exact ⟨_, fun s => exec_sxor.trans rfl⟩
  | ssel _ _ _ _ _ => exact ⟨_, fun s => exec_ssel.trans rfl⟩
  | sshl _ _ _ _ _ => exact ⟨_, fun s => exec_sshl.trans rfl⟩
  | sshr _ _ _ _ _ => exact ⟨_, fun s => exec_sshr.trans rfl⟩
  | ssar _ _ _ _ _ => exact ⟨_, fun s => exec_ssar.trans rfl⟩
  | scmp _ _ _ _ _ => exact ⟨_, fun s => exec_scmp.trans rfl⟩
  | smin _ _ _ _ _ => exact ⟨_, fun s => exec_smin.trans rfl⟩
  | smax _ _ _ _ _ => exact ⟨_, fun s => exec_smax.trans rfl⟩
  | smov _ _ _ _ => exact ⟨_, fun s => exec_smov.trans rfl⟩
  | sdiv _ _ _ _ _ => exact ⟨_, fun s => exec_sdiv.trans rfl⟩
  | smovi _ _ => exact ⟨_, fun s => exec_smovi.trans rfl⟩
  | saddi _ _ _ => exact ⟨_, fun s => exec_saddi.trans rfl⟩
  | aadd _ _ _ _ => exact ⟨_, fun s => exec_aadd.trans rfl⟩
  | asub _ _ _ _ => exact ⟨_, fun s => exec_asub.trans rfl⟩
  | ashl _ _ _ _ => exact ⟨_, fun s => exec_ashl.trans rfl⟩
  | amov _ _ _ => exact ⟨_, fun s => exec_amov.trans rfl⟩
  | amovA _ _ => exact ⟨_, fun s => exec_amovA.trans rfl⟩
  | aset _ _ _ => exact ⟨_, fun s => exec_aset.trans rfl⟩
  | avec _ _ _ => exact ⟨_, fun s => exec_avec.trans rfl⟩
  | abase _ _ => exact ⟨_, fun s => exec_abase.trans rfl⟩
  | astr _ _ => exact ⟨_, fun s => exec_astr.trans rfl⟩
  | aoff _ _ _ _ => exact ⟨_, fun s => exec_aoff.trans rfl⟩
  | vadd _ _ _ _ _ _ => exact ⟨_, fun s => exec_vadd.trans rfl⟩
  | vsub _ _ _ _ _ _ => exact ⟨_, fun s => exec_vsub.trans rfl⟩
  | vmul _ _ _ _ _ _ => exact ⟨_, fun s => exec_vmul.trans rfl⟩
  | vmulh _ _ _ _ _ _ => exact ⟨_, fun s => exec_vmulh.trans rfl⟩
  | vmad _ _ _ _ _ _ => exact ⟨_, fun s => exec_vmad.trans rfl⟩
  | vsadd _ _ _ _ _ _ => exact ⟨_, fun s => exec_vsadd.trans rfl⟩
  | vssub _ _ _ _ _ _ => exact ⟨_, fun s => exec_vssub.trans rfl⟩
  | vabsd _ _ _ _ _ _ => exact ⟨_, fun s => exec_vabsd.trans rfl⟩
  | vand _ _ _ _ _ _ => exact ⟨_, fun s => exec_vand.trans rfl⟩
  | vor _ _ _ _ _ _ => exact ⟨_, fun s => exec_vor.trans rfl⟩
  | vxor _ _ _ _ _ _ => exact ⟨_, fun s => exec_vxor.trans rfl⟩
  | vandn _ _ _ _ _ _ => exact ⟨_, fun s => exec_vandn.trans rfl⟩
  | vshl _ _ _ _ _ _ => exact ⟨_, fun s => exec_vshl.trans rfl⟩
  | vshr _ _ _ _ _ _ => exact ⟨_, fun s => exec_vshr.trans rfl⟩
  | vsar _ _ _ _ _ _ => exact ⟨_, fun s => exec_vsar.trans rfl⟩
  | vrot _ _ _ _ _ _ => exact ⟨_, fun s => exec_vrot.trans rfl⟩
  | vmin _ _ _ _ _ _ => exact ⟨_, fun s => exec_vmin.trans rfl⟩
  | vmax _ _ _ _ _ _ => exact ⟨_, fun s => exec_vmax.trans rfl⟩
  | vsel _ _ _ _ _ _ => exact ⟨_, fun s => exec_vsel.trans rfl⟩
  | vmov _ _ _ _ _ => exact ⟨_, fun s => exec_vmov.trans rfl⟩
  | vclz _ _ _ _ => exact ⟨_, fun s => exec_vclz.trans rfl⟩
  | vpop _ _ _ _ => exact ⟨_, fun s => exec_vpop.trans rfl⟩
  | vbrev _ _ _ _ => exact ⟨_, fun s => exec_vbrev.trans rfl⟩
  | vbfe _ _ _ _ _ _ => exact ⟨_, fun s => exec_vbfe.trans rfl⟩
  | vbfi _ _ _ _ _ _ => exact ⟨_, fun s => exec_vbfi.trans rfl⟩
  | vcvti _ _ _ _ _ => exact ⟨_, fun s => exec_vcvti.trans rfl⟩
  | vlane _ _ _ => exact ⟨_, fun s => exec_vlane.trans rfl⟩
  | vdiv _ _ _ _ _ _ => exact ⟨_, fun s => exec_vdiv.trans rfl⟩
  | vcmp _ _ _ _ _ _ _ => exact ⟨_, fun s => exec_vcmp.trans rfl⟩
  | fadd _ _ _ _ _ _ => exact ⟨_, fun s => exec_fadd.trans rfl⟩
  | fsub _ _ _ _ _ _ => exact ⟨_, fun s => exec_fsub.trans rfl⟩
  | fmul _ _ _ _ _ _ => exact ⟨_, fun s => exec_fmul.trans rfl⟩
  | ffma _ _ _ _ _ _ => exact ⟨_, fun s => exec_ffma.trans rfl⟩
  | fmin _ _ _ _ _ _ => exact ⟨_, fun s => exec_fmin.trans rfl⟩
  | fmax _ _ _ _ _ _ => exact ⟨_, fun s => exec_fmax.trans rfl⟩
  | fcpsgn _ _ _ _ _ _ => exact ⟨_, fun s => exec_fcpsgn.trans rfl⟩
  | frnd _ _ _ _ => exact ⟨_, fun s => exec_frnd.trans rfl⟩
  | frcp _ _ _ _ => exact ⟨_, fun s => exec_frcp.trans rfl⟩
  | frsq _ _ _ _ => exact ⟨_, fun s => exec_frsq.trans rfl⟩
  | fsqrt _ _ _ _ => exact ⟨_, fun s => exec_fsqrt.trans rfl⟩
  | fdiv _ _ _ _ _ _ => exact ⟨_, fun s => exec_fdiv.trans rfl⟩
  | fexp2 _ _ _ _ => exact ⟨_, fun s => exec_fexp2.trans rfl⟩
  | flog2 _ _ _ _ => exact ⟨_, fun s => exec_flog2.trans rfl⟩
  | fsin _ _ _ _ => exact ⟨_, fun s => exec_fsin.trans rfl⟩
  | fcos _ _ _ _ => exact ⟨_, fun s => exec_fcos.trans rfl⟩
  | fcmp _ _ _ _ _ _ _ => exact ⟨_, fun s => exec_fcmp.trans rfl⟩
  | fcvt _ _ _ _ _ => exact ⟨_, fun s => exec_fcvt.trans rfl⟩
  | cvti _ _ _ _ _ => exact ⟨_, fun s => exec_cvti.trans rfl⟩
  | cvtf _ _ _ _ _ => exact ⟨_, fun s => exec_cvtf.trans rfl⟩
  | fclass _ _ _ _ => exact ⟨_, fun s => exec_fclass.trans rfl⟩
  | vshuf _ _ _ _ _ _ => exact ⟨_, fun s => exec_vshuf.trans rfl⟩
  | vbcast _ _ _ _ => exact ⟨_, fun s => exec_vbcast.trans rfl⟩
  | vscan _ _ _ _ _ _ _ => exact ⟨_, fun s => exec_vscan.trans rfl⟩
  | vred _ _ _ _ _ _ => exact ⟨_, fun s => exec_vred.trans rfl⟩
  | mand _ _ _ => exact ⟨_, fun s => exec_mand.trans rfl⟩
  | mor _ _ _ => exact ⟨_, fun s => exec_mor.trans rfl⟩
  | mxor _ _ _ => exact ⟨_, fun s => exec_mxor.trans rfl⟩
  | mnot _ _ => exact ⟨_, fun s => exec_mnot.trans rfl⟩
  | mpop _ _ => exact ⟨_, fun s => exec_mpop.trans rfl⟩
  | mfirst _ _ => exact ⟨_, fun s => exec_mfirst.trans rfl⟩
  | mtos _ _ _ => exact ⟨_, fun s => exec_mtos.trans rfl⟩
  | stom _ _ _ => exact ⟨_, fun s => exec_stom.trans rfl⟩
  | regroup _ _ _ _ _ => exact ⟨_, fun s => exec_regroup.trans rfl⟩
  | vvote _ _ _ => exact ⟨_, fun s => exec_vvote.trans rfl⟩
  | vldg _ _ _ _ _ _ _ _ _ => exact ⟨_, fun s => exec_vldg.trans rfl⟩
  | vstg _ _ _ _ _ _ _ _ => exact ⟨_, fun s => exec_vstg.trans rfl⟩
  | vlds _ _ _ _ _ _ _ _ _ => exact ⟨_, fun s => exec_vlds.trans rfl⟩
  | vsts _ _ _ _ _ _ _ _ => exact ⟨_, fun s => exec_vsts.trans rfl⟩
  | sld _ _ _ _ => exact ⟨_, fun s => exec_sld.trans rfl⟩
  | sst _ _ _ => exact ⟨_, fun s => exec_sst.trans rfl⟩
  | atom _ _ _ _ _ _ _ => exact ⟨_, fun s => exec_atom.trans rfl⟩
  | atom64 _ _ _ _ _ _ _ => exact ⟨_, fun s => exec_atom64.trans rfl⟩
  | atomf _ _ _ _ _ _ _ => exact ⟨_, fun s => exec_atomf.trans rfl⟩
  | fence _ _ _ => exact ⟨_, fun s => exec_fence.trans rfl⟩
  | waitl _ _ _ => exact ⟨_, fun s => exec_waitl.trans rfl⟩
  | pref _ _ _ => exact ⟨_, fun s => exec_pref.trans rfl⟩
  | tld _ _ _ _ _ _ => exact ⟨_, fun s => exec_tld.trans rfl⟩
  | tex _ _ _ _ _ => exact ⟨_, fun s => exec_tex.trans rfl⟩
  | texg _ _ _ _ _ => exact ⟨_, fun s => exec_texg.trans rfl⟩
  | tqry _ _ _ => exact ⟨_, fun s => exec_tqry.trans rfl⟩
  | stmap _ _ _ => exact ⟨_, fun s => exec_stmap.trans rfl⟩
  | stflush _ => exact ⟨_, fun s => exec_stflush.trans rfl⟩
  | stunmap _ => exact ⟨_, fun s => exec_stunmap.trans rfl⟩
  | stqry _ _ => exact ⟨_, fun s => exec_stqry.trans rfl⟩
  | cpy _ _ _ => exact ⟨_, fun s => exec_cpy.trans rfl⟩
  | cpy2d _ _ _ => exact ⟨_, fun s => exec_cpy2d.trans rfl⟩
  | cpyb _ => exact ⟨_, fun s => exec_cpyb.trans rfl⟩
  | cpyw _ => exact ⟨_, fun s => exec_cpyw.trans rfl⟩
  | bar _ _ => exact ⟨_, fun s => exec_bar.trans rfl⟩
  | bara _ _ => exact ⟨_, fun s => exec_bara.trans rfl⟩
  | barw _ _ => exact ⟨_, fun s => exec_barw.trans rfl⟩
  | barq _ _ _ => exact ⟨_, fun s => exec_barq.trans rfl⟩
  | stream _ _ => exact ⟨_, fun s => exec_stream.trans rfl⟩
  | qpop _ _ _ => exact ⟨_, fun s => exec_qpop.trans rfl⟩
  | qstat _ _ => exact ⟨_, fun s => exec_qstat.trans rfl⟩
  | qclose _ => exact ⟨_, fun s => exec_qclose.trans rfl⟩
  | mgang _ => exact ⟨_, fun s => exec_mgang.trans rfl⟩
  | mma _ _ _ => exact ⟨_, fun s => exec_mma.trans rfl⟩
  | mdrain _ _ _ _ _ _ _ => exact ⟨_, fun s => exec_mdrain.trans rfl⟩
  | mzero _ => exact ⟨_, fun s => exec_mzero.trans rfl⟩
  | maccrd _ _ _ _ => exact ⟨_, fun s => exec_maccrd.trans rfl⟩
  | maccwr _ _ _ => exact ⟨_, fun s => exec_maccwr.trans rfl⟩
  | mfmt _ _ => exact ⟨_, fun s => exec_mfmt.trans rfl⟩
  | mqry _ _ => exact ⟨_, fun s => exec_mqry.trans rfl⟩
  | lfset _ _ _ => exact ⟨_, fun s => exec_lfset.trans rfl⟩
  | lfspan _ _ _ => exact ⟨_, fun s => exec_lfspan.trans rfl⟩
  | lfint _ _ _ _ _ => exact ⟨_, fun s => exec_lfint.trans rfl⟩
  | lfz _ _ _ => exact ⟨_, fun s => exec_lfz.trans rfl⟩
  | lfout _ _ _ _ _ => exact ⟨_, fun s => exec_lfout.trans rfl⟩
  | mshdec _ _ _ => exact ⟨_, fun s => exec_mshdec.trans rfl⟩
  | qmerge _ _ _ => exact ⟨_, fun s => exec_qmerge.trans rfl⟩
  | lfqry _ _ _ => exact ⟨_, fun s => exec_lfqry.trans rfl⟩
  | trace _ _ _ _ => exact ⟨_, fun s => exec_trace.trans rfl⟩
  | trres _ _ => exact ⟨_, fun s => exec_trres.trans rfl⟩
  | trget _ _ _ => exact ⟨_, fun s => exec_trget.trans rfl⟩
  | trhit _ _ => exact ⟨_, fun s => exec_trhit.trans rfl⟩
  | trsave _ _ _ _ => exact ⟨_, fun s => exec_trsave.trans rfl⟩
  | trload _ _ _ _ _ _ => exact ⟨_, fun s => exec_trload.trans rfl⟩
  | coll _ _ => exact ⟨_, fun s => exec_coll.trans rfl⟩
  | collw _ _ _ => exact ⟨_, fun s => exec_collw.trans rfl⟩
  | kvfork _ _ _ => exact ⟨_, fun s => exec_kvfork.trans rfl⟩
  | kvfree _ _ _ => exact ⟨_, fun s => exec_kvfree.trans rfl⟩
  | red _ _ _ _ _ _ => exact ⟨_, fun s => exec_red.trans rfl⟩
  | atxXchg32 _ _ _ _ _ _ => exact ⟨_, fun s => exec_atxXchg32.trans rfl⟩
  | atxCas32 _ _ _ _ _ _ => exact ⟨_, fun s => exec_atxCas32.trans rfl⟩
  | atxLd32 _ _ _ _ _ _ => exact ⟨_, fun s => exec_atxLd32.trans rfl⟩
  | atxSt32 _ _ _ _ _ => exact ⟨_, fun s => exec_atxSt32.trans rfl⟩
  | atxXchg64 _ _ _ _ _ _ => exact ⟨_, fun s => exec_atxXchg64.trans rfl⟩
  | atxCas64 _ _ _ _ _ _ => exact ⟨_, fun s => exec_atxCas64.trans rfl⟩
  | atxLd64 _ _ _ _ _ _ => exact ⟨_, fun s => exec_atxLd64.trans rfl⟩
  | atxSt64 _ _ _ _ _ => exact ⟨_, fun s => exec_atxSt64.trans rfl⟩
  | longLatencyCompletion _ _ => exact (h.elim Bool.noConfusion (fun ⟨_, q⟩ => Instr.noConfusion q))
  | storeAtHome _ => exact (h.elim Bool.noConfusion (fun ⟨_, q⟩ => Instr.noConfusion q))
  | loadAtHome _ _ _ => exact (h.elim Bool.noConfusion (fun ⟨_, q⟩ => Instr.noConfusion q))
  | atomicAtHome _ => exact (h.elim Bool.noConfusion (fun ⟨_, q⟩ => Instr.noConfusion q))
  | fenceToken _ _ => exact (h.elim Bool.noConfusion (fun ⟨_, q⟩ => Instr.noConfusion q))
  | fenceTokenAck _ _ => exact (h.elim Bool.noConfusion (fun ⟨_, q⟩ => Instr.noConfusion q))
  | l1Invalidate _ _ => exact (h.elim Bool.noConfusion (fun ⟨_, q⟩ => Instr.noConfusion q))
  | stashRecall _ _ => exact (h.elim Bool.noConfusion (fun ⟨_, q⟩ => Instr.noConfusion q))
  | waitlTimeout _ => exact (h.elim Bool.noConfusion (fun ⟨_, q⟩ => Instr.noConfusion q))
  | teamPromotion _ => exact (h.elim Bool.noConfusion (fun ⟨_, q⟩ => Instr.noConfusion q))
  | tideProbe _ _ => exact (h.elim Bool.noConfusion (fun ⟨_, q⟩ => Instr.noConfusion q))
  | tideProbeReturn _ _ => exact (h.elim Bool.noConfusion (fun ⟨_, q⟩ => Instr.noConfusion q))
  | barrierPhaseCompletion _ => exact (h.elim Bool.noConfusion (fun ⟨_, q⟩ => Instr.noConfusion q))
  | barrierToken _ _ => exact (h.elim Bool.noConfusion (fun ⟨_, q⟩ => Instr.noConfusion q))
  | regroupExchange _ _ => exact (h.elim Bool.noConfusion (fun ⟨_, q⟩ => Instr.noConfusion q))
  | mmaCompletion _ _ => exact (h.elim Bool.noConfusion (fun ⟨_, q⟩ => Instr.noConfusion q))
  | streamEntryPush _ _ => exact (h.elim Bool.noConfusion (fun ⟨_, q⟩ => Instr.noConfusion q))
  | copyCompletion _ => exact (h.elim Bool.noConfusion (fun ⟨_, q⟩ => Instr.noConfusion q))
  | collectiveCompletion _ _ => exact (h.elim Bool.noConfusion (fun ⟨_, q⟩ => Instr.noConfusion q))
  | collectiveTimeout _ => exact (h.elim Bool.noConfusion (fun ⟨_, q⟩ => Instr.noConfusion q))
  | collectiveHalt _ => exact (h.elim Bool.noConfusion (fun ⟨_, q⟩ => Instr.noConfusion q))
  | collectiveResume _ => exact (h.elim Bool.noConfusion (fun ⟨_, q⟩ => Instr.noConfusion q))
  | haltLimitExpiry _ => exact (h.elim Bool.noConfusion (fun ⟨_, q⟩ => Instr.noConfusion q))
  | notificationWrite _ _ => exact (h.elim Bool.noConfusion (fun ⟨_, q⟩ => Instr.noConfusion q))
  | launchValidation _ => exact (h.elim Bool.noConfusion (fun ⟨_, q⟩ => Instr.noConfusion q))
  | dependencePoll _ => exact (h.elim Bool.noConfusion (fun ⟨_, q⟩ => Instr.noConfusion q))
  | gridStart _ => exact (h.elim Bool.noConfusion (fun ⟨_, q⟩ => Instr.noConfusion q))
  | bindRecord _ _ => exact (h.elim Bool.noConfusion (fun ⟨_, q⟩ => Instr.noConfusion q))
  | groupStart _ _ => exact (h.elim Bool.noConfusion (fun ⟨_, q⟩ => Instr.noConfusion q))
  | teamStart _ => exact (h.elim Bool.noConfusion (fun ⟨_, q⟩ => Instr.noConfusion q))
  | gridCompletion _ => exact (h.elim Bool.noConfusion (fun ⟨_, q⟩ => Instr.noConfusion q))
  | preemptionDecision _ _ => exact (h.elim Bool.noConfusion (fun ⟨_, q⟩ => Instr.noConfusion q))
  | drainDeadline _ _ => exact (h.elim Bool.noConfusion (fun ⟨_, q⟩ => Instr.noConfusion q))
  | saveComplete _ _ => exact (h.elim Bool.noConfusion (fun ⟨_, q⟩ => Instr.noConfusion q))
  | saveDeadline _ => exact (h.elim Bool.noConfusion (fun ⟨_, q⟩ => Instr.noConfusion q))
  | contextRestore _ _ => exact (h.elim Bool.noConfusion (fun ⟨_, q⟩ => Instr.noConfusion q))
  | traceSample _ _ => exact (h.elim Bool.noConfusion (fun ⟨_, q⟩ => Instr.noConfusion q))
  | wringerFrame _ => exact (h.elim Bool.noConfusion (fun ⟨_, q⟩ => Instr.noConfusion q))
  | timeSyncExchange _ _ _ => exact (h.elim Bool.noConfusion (fun ⟨_, q⟩ => Instr.noConfusion q))
  | domainTimeExchange _ _ _ => exact (h.elim Bool.noConfusion (fun ⟨_, q⟩ => Instr.noConfusion q))
  | hostAccess _ _ _ => exact (h.elim Bool.noConfusion (fun ⟨_, q⟩ => Instr.noConfusion q))
  | shorelineLinkFailure _ _ => exact (h.elim Bool.noConfusion (fun ⟨_, q⟩ => Instr.noConfusion q))
  | fabricRouteLoss _ => exact (h.elim Bool.noConfusion (fun ⟨_, q⟩ => Instr.noConfusion q))
  | thermalThrottle _ _ => exact (h.elim Bool.noConfusion (fun ⟨_, q⟩ => Instr.noConfusion q))
  | moduleReset _ => exact (h.elim Bool.noConfusion (fun ⟨_, q⟩ => Instr.noConfusion q))
  | registerWrite _ _ => exact (h.elim Bool.noConfusion (fun ⟨_, q⟩ => Instr.noConfusion q))
  | wordNotAnInstruction _ => exact ⟨_, fun s => exec_wordNotAnInstruction.trans rfl⟩
  | samplerInvalidation _ _ => exact (h.elim Bool.noConfusion (fun ⟨_, q⟩ => Instr.noConfusion q))
  | instructionCacheInvalidation _ _ => exact (h.elim Bool.noConfusion (fun ⟨_, q⟩ => Instr.noConfusion q))
  | storeAcknowledgement _ _ => exact (h.elim Bool.noConfusion (fun ⟨_, q⟩ => Instr.noConfusion q))
  | watchReport _ => exact (h.elim Bool.noConfusion (fun ⟨_, q⟩ => Instr.noConfusion q))
  | wakeWithoutNotice _ => exact (h.elim Bool.noConfusion (fun ⟨_, q⟩ => Instr.noConfusion q))
  | stallAccountClock _ _ => exact (h.elim Bool.noConfusion (fun ⟨_, q⟩ => Instr.noConfusion q))
  | dvfsClockChange _ _ => exact (h.elim Bool.noConfusion (fun ⟨_, q⟩ => Instr.noConfusion q))
  | join => exact ⟨_, fun s => exec_join.trans rfl⟩
  | ret => exact ⟨_, fun s => exec_ret.trans rfl⟩
  | exit => exact ⟨_, fun s => exec_exit.trans rfl⟩
  | nop => exact ⟨_, fun s => exec_nop.trans rfl⟩
  | yield => exact ⟨_, fun s => exec_yield.trans rfl⟩
  | seam => exact ⟨_, fun s => exec_seam.trans rfl⟩
  | leave => exact ⟨_, fun s => exec_leave.trans rfl⟩
  | bkpt => exact ⟨_, fun s => exec_bkpt.trans rfl⟩
  | isync => exact ⟨_, fun s => exec_isync.trans rfl⟩
  | cresume => exact ⟨_, fun s => exec_cresume.trans rfl⟩
  | raceEpochAdvance => exact (h.elim Bool.noConfusion (fun ⟨_, q⟩ => Instr.noConfusion q))
  | thermalShutdown => exact (h.elim Bool.noConfusion (fun ⟨_, q⟩ => Instr.noConfusion q))
  | resync => exact (h.elim Bool.noConfusion (fun ⟨_, q⟩ => Instr.noConfusion q))
  | start => exact (h.elim Bool.noConfusion (fun ⟨_, q⟩ => Instr.noConfusion q))
  | ctxnew => exact (h.elim Bool.noConfusion (fun ⟨_, q⟩ => Instr.noConfusion q))
  | ctxfree => exact (h.elim Bool.noConfusion (fun ⟨_, q⟩ => Instr.noConfusion q))
  | qreg => exact (h.elim Bool.noConfusion (fun ⟨_, q⟩ => Instr.noConfusion q))
  | inval => exact (h.elim Bool.noConfusion (fun ⟨_, q⟩ => Instr.noConfusion q))
  | resident => exact (h.elim Bool.noConfusion (fun ⟨_, q⟩ => Instr.noConfusion q))
  | halt => exact (h.elim Bool.noConfusion (fun ⟨_, q⟩ => Instr.noConfusion q))
  | release => exact (h.elim Bool.noConfusion (fun ⟨_, q⟩ => Instr.noConfusion q))
  | group => exact (h.elim Bool.noConfusion (fun ⟨_, q⟩ => Instr.noConfusion q))
  | keyload => exact (h.elim Bool.noConfusion (fun ⟨_, q⟩ => Instr.noConfusion q))
  | attest => exact (h.elim Bool.noConfusion (fun ⟨_, q⟩ => Instr.noConfusion q))
  | sinkrst => exact (h.elim Bool.noConfusion (fun ⟨_, q⟩ => Instr.noConfusion q))

end Sys2Proof.Machine
end

