-- ==== Sys2Proof/Laws/Map.lean ====
section
/-! SUPPORT. Maps: a read after a write, and that writing keeps the canonical form. -/

namespace Sys2Proof.Machine

variable {α : Type}

theorem listGet_listPut_same (d : α) (k : Nat) (v : α) (l : List (Nat × α)) : listGet d k (listPut k v l) = v := by
  induction l with
  | nil => simp [listPut, listGet]
  | cons e r ih =>
    obtain ⟨j, u⟩ := e
    by_cases h1 : k < j
    · simp [listPut, h1, listGet]
    · by_cases h2 : k = j
      · simp [listPut, h2, listGet]
      · have h3 : j ≠ k := fun h => h2 h.symm
        simp [listPut, h1, h2, listGet, h3, ih]

theorem listGet_listPut_ne (d : α) {k n : Nat} (v : α) (l : List (Nat × α)) (h : n ≠ k) :
    listGet d n (listPut k v l) = listGet d n l := by
  have hk : k ≠ n := fun e => h e.symm
  induction l with
  | nil => simp [listPut, listGet, hk]
  | cons e r ih =>
    obtain ⟨j, u⟩ := e
    by_cases h1 : k < j
    · simp [listPut, h1, listGet, hk]
    · by_cases h2 : k = j
      · subst h2
        simp [listPut, listGet, hk]
      · simp [listPut, h1, h2, listGet, ih]

theorem listGet_listDrop_ne (d : α) {k n : Nat} (l : List (Nat × α)) (h : n ≠ k) :
    listGet d n (listDrop k l) = listGet d n l := by
  have hk : k ≠ n := fun e => h e.symm
  induction l with
  | nil => simp [listDrop, listGet]
  | cons e r ih =>
    obtain ⟨j, u⟩ := e
    by_cases h2 : j = k
    · subst h2
      simp [listDrop, listGet, hk]
    · simp [listDrop, h2, listGet, ih]

/-- What holds of every value listed, and of what an unlisted key reads as, holds of what a key reads as. -/
theorem listGet_of_all {d : α} {p : α → Prop} {l : List (Nat × α)} (hd : p d) (hl : ∀ e ∈ l, p e.2) (k : Nat) : p (listGet d k l) := by
  induction l with
  | nil => exact hd
  | cons e l ih =>
    obtain ⟨j, v⟩ := e
    unfold listGet
    split
    · exact hl _ (List.mem_cons_self ..)
    · exact ih (fun e he => hl e (List.mem_cons_of_mem _ he))

theorem listGet_lt (d : α) {k b : Nat} (l : List (Nat × α)) (hl : risingFrom b l = true) (h : k < b) :
    listGet d k l = d := by
  induction l generalizing b with
  | nil => rfl
  | cons e r ih =>
    obtain ⟨j, u⟩ := e
    simp only [risingFrom, Bool.and_eq_true, decide_eq_true_eq] at hl
    have hj : j ≠ k := by omega
    simp only [listGet, hj, if_false]
    exact ih hl.2 (by omega)

theorem listGet_listDrop_same (d : α) {k b : Nat} (l : List (Nat × α)) (hl : risingFrom b l = true) :
    listGet d k (listDrop k l) = d := by
  induction l generalizing b with
  | nil => rfl
  | cons e r ih =>
    obtain ⟨j, u⟩ := e
    simp only [risingFrom, Bool.and_eq_true, decide_eq_true_eq] at hl
    by_cases h2 : j = k
    · subst h2
      simp only [listDrop, if_true]
      exact listGet_lt d r hl.2 (by omega)
    · simp only [listDrop, h2, if_false, listGet]
      exact ih hl.2

theorem risingFrom_listPut {k b : Nat} (v : α) (l : List (Nat × α)) (hl : risingFrom b l = true) (h : b ≤ k) :
    risingFrom b (listPut k v l) = true := by
  induction l generalizing b with
  | nil => simp [listPut, risingFrom, h]
  | cons e r ih =>
    obtain ⟨j, u⟩ := e
    simp only [risingFrom, Bool.and_eq_true, decide_eq_true_eq] at hl
    by_cases h1 : k < j
    · simp [listPut, h1, risingFrom, h, hl.2]
    · by_cases h2 : k = j
      · subst h2
        simp [listPut, risingFrom, h, hl.2]
      · simp only [listPut, h1, h2, if_false, risingFrom, Bool.and_eq_true, decide_eq_true_eq]
        exact ⟨hl.1, ih hl.2 (by omega)⟩

theorem risingFrom_le {b c : Nat} (l : List (Nat × α)) (hl : risingFrom c l = true) (h : b ≤ c) :
    risingFrom b l = true := by
  cases l with
  | nil => rfl
  | cons e r =>
    obtain ⟨j, u⟩ := e
    simp only [risingFrom, Bool.and_eq_true, decide_eq_true_eq] at hl ⊢
    exact ⟨by omega, hl.2⟩

theorem risingFrom_listDrop {k b : Nat} (l : List (Nat × α)) (hl : risingFrom b l = true) :
    risingFrom b (listDrop k l) = true := by
  induction l generalizing b with
  | nil => rfl
  | cons e r ih =>
    obtain ⟨j, u⟩ := e
    have hl' := hl
    simp only [risingFrom, Bool.and_eq_true, decide_eq_true_eq] at hl
    by_cases h2 : j = k
    · simp only [listDrop, h2, if_true]
      exact risingFrom_le r hl.2 (by omega)
    · simp only [listDrop, h2, if_false, risingFrom, Bool.and_eq_true, decide_eq_true_eq]
      exact ⟨hl.1, ih hl.2⟩

theorem all_listPut (p : Nat × α → Bool) (k : Nat) (v : α) (l : List (Nat × α)) (hl : l.all p = true) (h : p (k, v) = true) :
    (listPut k v l).all p = true := by
  induction l with
  | nil => simp [listPut, h]
  | cons e r ih =>
    obtain ⟨j, u⟩ := e
    simp only [List.all_cons, Bool.and_eq_true] at hl
    by_cases h1 : k < j
    · simp only [listPut, h1, if_true, List.all_cons, h, hl.1, hl.2, Bool.and_self]
    · by_cases h2 : k = j
      · subst h2
        simp only [listPut, Nat.lt_irrefl, if_true, if_false, List.all_cons, h, hl.2, Bool.and_self]
      · simp only [listPut, h1, h2, if_false, List.all_cons, hl.1, ih hl.2, Bool.and_self]

theorem all_listDrop (p : Nat × α → Bool) (k : Nat) (l : List (Nat × α)) (hl : l.all p = true) :
    (listDrop k l).all p = true := by
  induction l with
  | nil => rfl
  | cons e r ih =>
    obtain ⟨j, u⟩ := e
    simp only [List.all_cons, Bool.and_eq_true] at hl
    by_cases h2 : j = k
    · simp only [listDrop, h2, if_true, hl.2]
    · simp only [listDrop, h2, if_false, List.all_cons, hl.1, ih hl.2, Bool.and_self]

variable {d : α}

@[simp] theorem SMap.get_put_same (m : SMap d) (k : Nat) (v : α) : (m.put k v).get k = v :=
  listGet_listPut_same d k v m.entries

theorem SMap.get_put_ne (m : SMap d) {k n : Nat} (v : α) (h : n ≠ k) : (m.put k v).get n = m.get n :=
  listGet_listPut_ne d v m.entries h

theorem SMap.get_set_ne [DecidableEq α] (m : SMap d) {k n : Nat} (v : α) (h : n ≠ k) : (m.set k v).get n = m.get n := by
  unfold SMap.set
  split
  · exact listGet_listDrop_ne d m.entries h
  · exact listGet_listPut_ne d v m.entries h

theorem SMap.get_set_same [DecidableEq α] (m : SMap d) (k : Nat) (v : α) (hm : m.wf = true) : (m.set k v).get k = v := by
  unfold SMap.wf at hm
  rw [Bool.and_eq_true] at hm
  unfold SMap.set
  split
  · next h => rw [h]; exact listGet_listDrop_same d m.entries hm.1
  · exact listGet_listPut_same d k v m.entries

theorem SMap.wf_set [DecidableEq α] (m : SMap d) (k : Nat) (v : α) (hm : m.wf = true) : (m.set k v).wf = true := by
  unfold SMap.wf at hm ⊢
  rw [Bool.and_eq_true] at hm ⊢
  unfold SMap.set
  split
  · exact ⟨risingFrom_listDrop _ hm.1, all_listDrop _ _ _ hm.2⟩
  · next h => exact ⟨risingFrom_listPut _ _ hm.1 (Nat.zero_le _), all_listPut _ _ _ _ hm.2 (by simpa using h)⟩

theorem listPut_listPut (k : Nat) (v w : α) (l : List (Nat × α)) : listPut k w (listPut k v l) = listPut k w l := by
  induction l with
  | nil => simp [listPut]
  | cons e r ih =>
    obtain ⟨j, u⟩ := e
    by_cases h1 : k < j
    · simp [listPut, h1]
    · by_cases h2 : k = j
      · subst h2
        simp [listPut]
      · simp [listPut, h1, h2, ih]

/-- The later of two records written at one key stands. -/
@[simp] theorem SMap.put_put (m : SMap d) (k : Nat) (v w : α) : (m.put k v).put k w = m.put k w := by
  simp only [SMap.put, listPut_listPut]

theorem SMap.wf_empty [DecidableEq α] : (SMap.empty : SMap d).wf = true := rfl

@[simp] theorem SMap.get_empty (k : Nat) : (SMap.empty : SMap d).get k = d := rfl

end Sys2Proof.Machine
end

