-- ==== Sys2Proof/Laws/State.lean ====
section
/-! SUPPORT. What each update of State does to each field, one lemma for each field and update. -/

namespace Sys2Proof.Machine

@[simp] theorem State.setTeam_cur (s : State) (t : Team) : (s.setTeam t).cur = s.cur := rfl
@[simp] theorem State.setTeam_agenda (s : State) (t : Team) : (s.setTeam t).agenda = s.agenda := rfl
@[simp] theorem State.setTeam_freeCtr (s : State) (t : Team) : (s.setTeam t).freeCtr = s.freeCtr := rfl
@[simp] theorem State.setTeam_now (s : State) (t : Team) : (s.setTeam t).now = s.now := rfl
@[simp] theorem State.setTeam_teams (s : State) (t : Team) : (s.setTeam t).teams = s.teams.put s.cur t := rfl
@[simp] theorem State.setTeam_wgs (s : State) (t : Team) : (s.setTeam t).wgs = s.wgs := rfl
@[simp] theorem State.setTeam_grids (s : State) (t : Team) : (s.setTeam t).grids = s.grids := rfl
@[simp] theorem State.setTeam_ctxs (s : State) (t : Team) : (s.setTeam t).ctxs = s.ctxs := rfl
@[simp] theorem State.setTeam_cores (s : State) (t : Team) : (s.setTeam t).cores = s.cores := rfl
@[simp] theorem State.setTeam_dies (s : State) (t : Team) : (s.setTeam t).dies = s.dies := rfl
@[simp] theorem State.setTeam_mem (s : State) (t : Team) : (s.setTeam t).mem = s.mem := rfl
@[simp] theorem State.setTeam_past (s : State) (t : Team) : (s.setTeam t).past = s.past := rfl
@[simp] theorem State.setTeam_check (s : State) (t : Team) : (s.setTeam t).check = s.check := rfl
@[simp] theorem State.setTeam_release (s : State) (t : Team) : (s.setTeam t).release = s.release := rfl
@[simp] theorem State.setTeam_waves (s : State) (t : Team) : (s.setTeam t).waves = s.waves := rfl
@[simp] theorem State.setTeam_nextId (s : State) (t : Team) : (s.setTeam t).nextId = s.nextId := rfl
@[simp] theorem State.setTeam_copies (s : State) (t : Team) : (s.setTeam t).copies = s.copies := rfl
@[simp] theorem State.setTeam_colls (s : State) (t : Team) : (s.setTeam t).colls = s.colls := rfl
@[simp] theorem State.setTeam_binds (s : State) (t : Team) : (s.setTeam t).binds = s.binds := rfl
@[simp] theorem State.setTeam_watches (s : State) (t : Team) : (s.setTeam t).watches = s.watches := rfl
@[simp] theorem State.setTeam_savedTeams (s : State) (t : Team) : (s.setTeam t).savedTeams = s.savedTeams := rfl
@[simp] theorem State.setTeam_savedQueues (s : State) (t : Team) : (s.setTeam t).savedQueues = s.savedQueues := rfl
@[simp] theorem State.setTeam_savedSlices (s : State) (t : Team) : (s.setTeam t).savedSlices = s.savedSlices := rfl
@[simp] theorem State.setTeam_sectors (s : State) (t : Team) : (s.setTeam t).sectors = s.sectors := rfl
@[simp] theorem State.setTeam_bad (s : State) (t : Team) : (s.setTeam t).bad = s.bad := rfl
@[simp] theorem State.setTeam_errs (s : State) (t : Team) : (s.setTeam t).errs = s.errs := rfl
@[simp] theorem State.setTeam_kvOps (s : State) (t : Team) : (s.setTeam t).kvOps = s.kvOps := rfl
@[simp] theorem State.setTeam_hub (s : State) (t : Team) : (s.setTeam t).hub = s.hub := rfl
@[simp] theorem State.setTeam_mod (s : State) (t : Team) : (s.setTeam t).mod = s.mod := rfl

@[simp] theorem State.putTeam_cur (s : State) (u : Nat) (t : Team) : (s.putTeam u t).cur = s.cur := rfl
@[simp] theorem State.putTeam_agenda (s : State) (u : Nat) (t : Team) : (s.putTeam u t).agenda = s.agenda := rfl
@[simp] theorem State.putTeam_freeCtr (s : State) (u : Nat) (t : Team) : (s.putTeam u t).freeCtr = s.freeCtr := rfl
@[simp] theorem State.putTeam_now (s : State) (u : Nat) (t : Team) : (s.putTeam u t).now = s.now := rfl
@[simp] theorem State.putTeam_teams (s : State) (u : Nat) (t : Team) : (s.putTeam u t).teams = s.teams.put u t := rfl
@[simp] theorem State.putTeam_wgs (s : State) (u : Nat) (t : Team) : (s.putTeam u t).wgs = s.wgs := rfl
@[simp] theorem State.putTeam_grids (s : State) (u : Nat) (t : Team) : (s.putTeam u t).grids = s.grids := rfl
@[simp] theorem State.putTeam_ctxs (s : State) (u : Nat) (t : Team) : (s.putTeam u t).ctxs = s.ctxs := rfl
@[simp] theorem State.putTeam_cores (s : State) (u : Nat) (t : Team) : (s.putTeam u t).cores = s.cores := rfl
@[simp] theorem State.putTeam_dies (s : State) (u : Nat) (t : Team) : (s.putTeam u t).dies = s.dies := rfl
@[simp] theorem State.putTeam_mem (s : State) (u : Nat) (t : Team) : (s.putTeam u t).mem = s.mem := rfl
@[simp] theorem State.putTeam_past (s : State) (u : Nat) (t : Team) : (s.putTeam u t).past = s.past := rfl
@[simp] theorem State.putTeam_check (s : State) (u : Nat) (t : Team) : (s.putTeam u t).check = s.check := rfl
@[simp] theorem State.putTeam_release (s : State) (u : Nat) (t : Team) : (s.putTeam u t).release = s.release := rfl
@[simp] theorem State.putTeam_waves (s : State) (u : Nat) (t : Team) : (s.putTeam u t).waves = s.waves := rfl
@[simp] theorem State.putTeam_nextId (s : State) (u : Nat) (t : Team) : (s.putTeam u t).nextId = s.nextId := rfl
@[simp] theorem State.putTeam_copies (s : State) (u : Nat) (t : Team) : (s.putTeam u t).copies = s.copies := rfl
@[simp] theorem State.putTeam_colls (s : State) (u : Nat) (t : Team) : (s.putTeam u t).colls = s.colls := rfl
@[simp] theorem State.putTeam_binds (s : State) (u : Nat) (t : Team) : (s.putTeam u t).binds = s.binds := rfl
@[simp] theorem State.putTeam_watches (s : State) (u : Nat) (t : Team) : (s.putTeam u t).watches = s.watches := rfl
@[simp] theorem State.putTeam_savedTeams (s : State) (u : Nat) (t : Team) : (s.putTeam u t).savedTeams = s.savedTeams := rfl
@[simp] theorem State.putTeam_savedQueues (s : State) (u : Nat) (t : Team) : (s.putTeam u t).savedQueues = s.savedQueues := rfl
@[simp] theorem State.putTeam_savedSlices (s : State) (u : Nat) (t : Team) : (s.putTeam u t).savedSlices = s.savedSlices := rfl
@[simp] theorem State.putTeam_sectors (s : State) (u : Nat) (t : Team) : (s.putTeam u t).sectors = s.sectors := rfl
@[simp] theorem State.putTeam_bad (s : State) (u : Nat) (t : Team) : (s.putTeam u t).bad = s.bad := rfl
@[simp] theorem State.putTeam_errs (s : State) (u : Nat) (t : Team) : (s.putTeam u t).errs = s.errs := rfl
@[simp] theorem State.putTeam_kvOps (s : State) (u : Nat) (t : Team) : (s.putTeam u t).kvOps = s.kvOps := rfl
@[simp] theorem State.putTeam_hub (s : State) (u : Nat) (t : Team) : (s.putTeam u t).hub = s.hub := rfl
@[simp] theorem State.putTeam_mod (s : State) (u : Nat) (t : Team) : (s.putTeam u t).mod = s.mod := rfl

@[simp] theorem State.modTeam_cur (s : State) (u : Nat) (f : Team → Team) : (s.modTeam u f).cur = s.cur := rfl
@[simp] theorem State.modTeam_agenda (s : State) (u : Nat) (f : Team → Team) : (s.modTeam u f).agenda = s.agenda := rfl
@[simp] theorem State.modTeam_freeCtr (s : State) (u : Nat) (f : Team → Team) : (s.modTeam u f).freeCtr = s.freeCtr := rfl
@[simp] theorem State.modTeam_now (s : State) (u : Nat) (f : Team → Team) : (s.modTeam u f).now = s.now := rfl
@[simp] theorem State.modTeam_teams (s : State) (u : Nat) (f : Team → Team) : (s.modTeam u f).teams = s.teams.put u (f (s.teams.get u)) := rfl
@[simp] theorem State.modTeam_wgs (s : State) (u : Nat) (f : Team → Team) : (s.modTeam u f).wgs = s.wgs := rfl
@[simp] theorem State.modTeam_grids (s : State) (u : Nat) (f : Team → Team) : (s.modTeam u f).grids = s.grids := rfl
@[simp] theorem State.modTeam_ctxs (s : State) (u : Nat) (f : Team → Team) : (s.modTeam u f).ctxs = s.ctxs := rfl
@[simp] theorem State.modTeam_cores (s : State) (u : Nat) (f : Team → Team) : (s.modTeam u f).cores = s.cores := rfl
@[simp] theorem State.modTeam_dies (s : State) (u : Nat) (f : Team → Team) : (s.modTeam u f).dies = s.dies := rfl
@[simp] theorem State.modTeam_mem (s : State) (u : Nat) (f : Team → Team) : (s.modTeam u f).mem = s.mem := rfl
@[simp] theorem State.modTeam_past (s : State) (u : Nat) (f : Team → Team) : (s.modTeam u f).past = s.past := rfl
@[simp] theorem State.modTeam_check (s : State) (u : Nat) (f : Team → Team) : (s.modTeam u f).check = s.check := rfl
@[simp] theorem State.modTeam_release (s : State) (u : Nat) (f : Team → Team) : (s.modTeam u f).release = s.release := rfl
@[simp] theorem State.modTeam_waves (s : State) (u : Nat) (f : Team → Team) : (s.modTeam u f).waves = s.waves := rfl
@[simp] theorem State.modTeam_nextId (s : State) (u : Nat) (f : Team → Team) : (s.modTeam u f).nextId = s.nextId := rfl
@[simp] theorem State.modTeam_copies (s : State) (u : Nat) (f : Team → Team) : (s.modTeam u f).copies = s.copies := rfl
@[simp] theorem State.modTeam_colls (s : State) (u : Nat) (f : Team → Team) : (s.modTeam u f).colls = s.colls := rfl
@[simp] theorem State.modTeam_binds (s : State) (u : Nat) (f : Team → Team) : (s.modTeam u f).binds = s.binds := rfl
@[simp] theorem State.modTeam_watches (s : State) (u : Nat) (f : Team → Team) : (s.modTeam u f).watches = s.watches := rfl
@[simp] theorem State.modTeam_savedTeams (s : State) (u : Nat) (f : Team → Team) : (s.modTeam u f).savedTeams = s.savedTeams := rfl
@[simp] theorem State.modTeam_savedQueues (s : State) (u : Nat) (f : Team → Team) : (s.modTeam u f).savedQueues = s.savedQueues := rfl
@[simp] theorem State.modTeam_savedSlices (s : State) (u : Nat) (f : Team → Team) : (s.modTeam u f).savedSlices = s.savedSlices := rfl
@[simp] theorem State.modTeam_sectors (s : State) (u : Nat) (f : Team → Team) : (s.modTeam u f).sectors = s.sectors := rfl
@[simp] theorem State.modTeam_bad (s : State) (u : Nat) (f : Team → Team) : (s.modTeam u f).bad = s.bad := rfl
@[simp] theorem State.modTeam_errs (s : State) (u : Nat) (f : Team → Team) : (s.modTeam u f).errs = s.errs := rfl
@[simp] theorem State.modTeam_kvOps (s : State) (u : Nat) (f : Team → Team) : (s.modTeam u f).kvOps = s.kvOps := rfl
@[simp] theorem State.modTeam_hub (s : State) (u : Nat) (f : Team → Team) : (s.modTeam u f).hub = s.hub := rfl
@[simp] theorem State.modTeam_mod (s : State) (u : Nat) (f : Team → Team) : (s.modTeam u f).mod = s.mod := rfl

@[simp] theorem State.putCore_cur (s : State) (k : Nat) (c : Core) : (s.putCore k c).cur = s.cur := rfl
@[simp] theorem State.putCore_agenda (s : State) (k : Nat) (c : Core) : (s.putCore k c).agenda = s.agenda := rfl
@[simp] theorem State.putCore_freeCtr (s : State) (k : Nat) (c : Core) : (s.putCore k c).freeCtr = s.freeCtr := rfl
@[simp] theorem State.putCore_now (s : State) (k : Nat) (c : Core) : (s.putCore k c).now = s.now := rfl
@[simp] theorem State.putCore_teams (s : State) (k : Nat) (c : Core) : (s.putCore k c).teams = s.teams := rfl
@[simp] theorem State.putCore_wgs (s : State) (k : Nat) (c : Core) : (s.putCore k c).wgs = s.wgs := rfl
@[simp] theorem State.putCore_grids (s : State) (k : Nat) (c : Core) : (s.putCore k c).grids = s.grids := rfl
@[simp] theorem State.putCore_ctxs (s : State) (k : Nat) (c : Core) : (s.putCore k c).ctxs = s.ctxs := rfl
@[simp] theorem State.putCore_cores (s : State) (k : Nat) (c : Core) : (s.putCore k c).cores = s.cores.put k c := rfl
@[simp] theorem State.putCore_dies (s : State) (k : Nat) (c : Core) : (s.putCore k c).dies = s.dies := rfl
@[simp] theorem State.putCore_mem (s : State) (k : Nat) (c : Core) : (s.putCore k c).mem = s.mem := rfl
@[simp] theorem State.putCore_past (s : State) (k : Nat) (c : Core) : (s.putCore k c).past = s.past := rfl
@[simp] theorem State.putCore_check (s : State) (k : Nat) (c : Core) : (s.putCore k c).check = s.check := rfl
@[simp] theorem State.putCore_release (s : State) (k : Nat) (c : Core) : (s.putCore k c).release = s.release := rfl
@[simp] theorem State.putCore_waves (s : State) (k : Nat) (c : Core) : (s.putCore k c).waves = s.waves := rfl
@[simp] theorem State.putCore_nextId (s : State) (k : Nat) (c : Core) : (s.putCore k c).nextId = s.nextId := rfl
@[simp] theorem State.putCore_copies (s : State) (k : Nat) (c : Core) : (s.putCore k c).copies = s.copies := rfl
@[simp] theorem State.putCore_colls (s : State) (k : Nat) (c : Core) : (s.putCore k c).colls = s.colls := rfl
@[simp] theorem State.putCore_binds (s : State) (k : Nat) (c : Core) : (s.putCore k c).binds = s.binds := rfl
@[simp] theorem State.putCore_watches (s : State) (k : Nat) (c : Core) : (s.putCore k c).watches = s.watches := rfl
@[simp] theorem State.putCore_savedTeams (s : State) (k : Nat) (c : Core) : (s.putCore k c).savedTeams = s.savedTeams := rfl
@[simp] theorem State.putCore_savedQueues (s : State) (k : Nat) (c : Core) : (s.putCore k c).savedQueues = s.savedQueues := rfl
@[simp] theorem State.putCore_savedSlices (s : State) (k : Nat) (c : Core) : (s.putCore k c).savedSlices = s.savedSlices := rfl
@[simp] theorem State.putCore_sectors (s : State) (k : Nat) (c : Core) : (s.putCore k c).sectors = s.sectors := rfl
@[simp] theorem State.putCore_bad (s : State) (k : Nat) (c : Core) : (s.putCore k c).bad = s.bad := rfl
@[simp] theorem State.putCore_errs (s : State) (k : Nat) (c : Core) : (s.putCore k c).errs = s.errs := rfl
@[simp] theorem State.putCore_kvOps (s : State) (k : Nat) (c : Core) : (s.putCore k c).kvOps = s.kvOps := rfl
@[simp] theorem State.putCore_hub (s : State) (k : Nat) (c : Core) : (s.putCore k c).hub = s.hub := rfl
@[simp] theorem State.putCore_mod (s : State) (k : Nat) (c : Core) : (s.putCore k c).mod = s.mod := rfl

@[simp] theorem State.modCore_cur (s : State) (k : Nat) (f : Core → Core) : (s.modCore k f).cur = s.cur := rfl
@[simp] theorem State.modCore_agenda (s : State) (k : Nat) (f : Core → Core) : (s.modCore k f).agenda = s.agenda := rfl
@[simp] theorem State.modCore_freeCtr (s : State) (k : Nat) (f : Core → Core) : (s.modCore k f).freeCtr = s.freeCtr := rfl
@[simp] theorem State.modCore_now (s : State) (k : Nat) (f : Core → Core) : (s.modCore k f).now = s.now := rfl
@[simp] theorem State.modCore_teams (s : State) (k : Nat) (f : Core → Core) : (s.modCore k f).teams = s.teams := rfl
@[simp] theorem State.modCore_wgs (s : State) (k : Nat) (f : Core → Core) : (s.modCore k f).wgs = s.wgs := rfl
@[simp] theorem State.modCore_grids (s : State) (k : Nat) (f : Core → Core) : (s.modCore k f).grids = s.grids := rfl
@[simp] theorem State.modCore_ctxs (s : State) (k : Nat) (f : Core → Core) : (s.modCore k f).ctxs = s.ctxs := rfl
@[simp] theorem State.modCore_cores (s : State) (k : Nat) (f : Core → Core) : (s.modCore k f).cores = s.cores.put k (f (s.cores.get k)) := rfl
@[simp] theorem State.modCore_dies (s : State) (k : Nat) (f : Core → Core) : (s.modCore k f).dies = s.dies := rfl
@[simp] theorem State.modCore_mem (s : State) (k : Nat) (f : Core → Core) : (s.modCore k f).mem = s.mem := rfl
@[simp] theorem State.modCore_past (s : State) (k : Nat) (f : Core → Core) : (s.modCore k f).past = s.past := rfl
@[simp] theorem State.modCore_check (s : State) (k : Nat) (f : Core → Core) : (s.modCore k f).check = s.check := rfl
@[simp] theorem State.modCore_release (s : State) (k : Nat) (f : Core → Core) : (s.modCore k f).release = s.release := rfl
@[simp] theorem State.modCore_waves (s : State) (k : Nat) (f : Core → Core) : (s.modCore k f).waves = s.waves := rfl
@[simp] theorem State.modCore_nextId (s : State) (k : Nat) (f : Core → Core) : (s.modCore k f).nextId = s.nextId := rfl
@[simp] theorem State.modCore_copies (s : State) (k : Nat) (f : Core → Core) : (s.modCore k f).copies = s.copies := rfl
@[simp] theorem State.modCore_colls (s : State) (k : Nat) (f : Core → Core) : (s.modCore k f).colls = s.colls := rfl
@[simp] theorem State.modCore_binds (s : State) (k : Nat) (f : Core → Core) : (s.modCore k f).binds = s.binds := rfl
@[simp] theorem State.modCore_watches (s : State) (k : Nat) (f : Core → Core) : (s.modCore k f).watches = s.watches := rfl
@[simp] theorem State.modCore_savedTeams (s : State) (k : Nat) (f : Core → Core) : (s.modCore k f).savedTeams = s.savedTeams := rfl
@[simp] theorem State.modCore_savedQueues (s : State) (k : Nat) (f : Core → Core) : (s.modCore k f).savedQueues = s.savedQueues := rfl
@[simp] theorem State.modCore_savedSlices (s : State) (k : Nat) (f : Core → Core) : (s.modCore k f).savedSlices = s.savedSlices := rfl
@[simp] theorem State.modCore_sectors (s : State) (k : Nat) (f : Core → Core) : (s.modCore k f).sectors = s.sectors := rfl
@[simp] theorem State.modCore_bad (s : State) (k : Nat) (f : Core → Core) : (s.modCore k f).bad = s.bad := rfl
@[simp] theorem State.modCore_errs (s : State) (k : Nat) (f : Core → Core) : (s.modCore k f).errs = s.errs := rfl
@[simp] theorem State.modCore_kvOps (s : State) (k : Nat) (f : Core → Core) : (s.modCore k f).kvOps = s.kvOps := rfl
@[simp] theorem State.modCore_hub (s : State) (k : Nat) (f : Core → Core) : (s.modCore k f).hub = s.hub := rfl
@[simp] theorem State.modCore_mod (s : State) (k : Nat) (f : Core → Core) : (s.modCore k f).mod = s.mod := rfl

@[simp] theorem State.putDie_cur (s : State) (k : Nat) (d : Die) : (s.putDie k d).cur = s.cur := rfl
@[simp] theorem State.putDie_agenda (s : State) (k : Nat) (d : Die) : (s.putDie k d).agenda = s.agenda := rfl
@[simp] theorem State.putDie_freeCtr (s : State) (k : Nat) (d : Die) : (s.putDie k d).freeCtr = s.freeCtr := rfl
@[simp] theorem State.putDie_now (s : State) (k : Nat) (d : Die) : (s.putDie k d).now = s.now := rfl
@[simp] theorem State.putDie_teams (s : State) (k : Nat) (d : Die) : (s.putDie k d).teams = s.teams := rfl
@[simp] theorem State.putDie_wgs (s : State) (k : Nat) (d : Die) : (s.putDie k d).wgs = s.wgs := rfl
@[simp] theorem State.putDie_grids (s : State) (k : Nat) (d : Die) : (s.putDie k d).grids = s.grids := rfl
@[simp] theorem State.putDie_ctxs (s : State) (k : Nat) (d : Die) : (s.putDie k d).ctxs = s.ctxs := rfl
@[simp] theorem State.putDie_cores (s : State) (k : Nat) (d : Die) : (s.putDie k d).cores = s.cores := rfl
@[simp] theorem State.putDie_dies (s : State) (k : Nat) (d : Die) : (s.putDie k d).dies = s.dies.put k d := rfl
@[simp] theorem State.putDie_mem (s : State) (k : Nat) (d : Die) : (s.putDie k d).mem = s.mem := rfl
@[simp] theorem State.putDie_past (s : State) (k : Nat) (d : Die) : (s.putDie k d).past = s.past := rfl
@[simp] theorem State.putDie_check (s : State) (k : Nat) (d : Die) : (s.putDie k d).check = s.check := rfl
@[simp] theorem State.putDie_release (s : State) (k : Nat) (d : Die) : (s.putDie k d).release = s.release := rfl
@[simp] theorem State.putDie_waves (s : State) (k : Nat) (d : Die) : (s.putDie k d).waves = s.waves := rfl
@[simp] theorem State.putDie_nextId (s : State) (k : Nat) (d : Die) : (s.putDie k d).nextId = s.nextId := rfl
@[simp] theorem State.putDie_copies (s : State) (k : Nat) (d : Die) : (s.putDie k d).copies = s.copies := rfl
@[simp] theorem State.putDie_colls (s : State) (k : Nat) (d : Die) : (s.putDie k d).colls = s.colls := rfl
@[simp] theorem State.putDie_binds (s : State) (k : Nat) (d : Die) : (s.putDie k d).binds = s.binds := rfl
@[simp] theorem State.putDie_watches (s : State) (k : Nat) (d : Die) : (s.putDie k d).watches = s.watches := rfl
@[simp] theorem State.putDie_savedTeams (s : State) (k : Nat) (d : Die) : (s.putDie k d).savedTeams = s.savedTeams := rfl
@[simp] theorem State.putDie_savedQueues (s : State) (k : Nat) (d : Die) : (s.putDie k d).savedQueues = s.savedQueues := rfl
@[simp] theorem State.putDie_savedSlices (s : State) (k : Nat) (d : Die) : (s.putDie k d).savedSlices = s.savedSlices := rfl
@[simp] theorem State.putDie_sectors (s : State) (k : Nat) (d : Die) : (s.putDie k d).sectors = s.sectors := rfl
@[simp] theorem State.putDie_bad (s : State) (k : Nat) (d : Die) : (s.putDie k d).bad = s.bad := rfl
@[simp] theorem State.putDie_errs (s : State) (k : Nat) (d : Die) : (s.putDie k d).errs = s.errs := rfl
@[simp] theorem State.putDie_kvOps (s : State) (k : Nat) (d : Die) : (s.putDie k d).kvOps = s.kvOps := rfl
@[simp] theorem State.putDie_hub (s : State) (k : Nat) (d : Die) : (s.putDie k d).hub = s.hub := rfl
@[simp] theorem State.putDie_mod (s : State) (k : Nat) (d : Die) : (s.putDie k d).mod = s.mod := rfl

@[simp] theorem State.modDie_cur (s : State) (k : Nat) (f : Die → Die) : (s.modDie k f).cur = s.cur := rfl
@[simp] theorem State.modDie_agenda (s : State) (k : Nat) (f : Die → Die) : (s.modDie k f).agenda = s.agenda := rfl
@[simp] theorem State.modDie_freeCtr (s : State) (k : Nat) (f : Die → Die) : (s.modDie k f).freeCtr = s.freeCtr := rfl
@[simp] theorem State.modDie_now (s : State) (k : Nat) (f : Die → Die) : (s.modDie k f).now = s.now := rfl
@[simp] theorem State.modDie_teams (s : State) (k : Nat) (f : Die → Die) : (s.modDie k f).teams = s.teams := rfl
@[simp] theorem State.modDie_wgs (s : State) (k : Nat) (f : Die → Die) : (s.modDie k f).wgs = s.wgs := rfl
@[simp] theorem State.modDie_grids (s : State) (k : Nat) (f : Die → Die) : (s.modDie k f).grids = s.grids := rfl
@[simp] theorem State.modDie_ctxs (s : State) (k : Nat) (f : Die → Die) : (s.modDie k f).ctxs = s.ctxs := rfl
@[simp] theorem State.modDie_cores (s : State) (k : Nat) (f : Die → Die) : (s.modDie k f).cores = s.cores := rfl
@[simp] theorem State.modDie_dies (s : State) (k : Nat) (f : Die → Die) : (s.modDie k f).dies = s.dies.put k (f (s.dies.get k)) := rfl
@[simp] theorem State.modDie_mem (s : State) (k : Nat) (f : Die → Die) : (s.modDie k f).mem = s.mem := rfl
@[simp] theorem State.modDie_past (s : State) (k : Nat) (f : Die → Die) : (s.modDie k f).past = s.past := rfl
@[simp] theorem State.modDie_check (s : State) (k : Nat) (f : Die → Die) : (s.modDie k f).check = s.check := rfl
@[simp] theorem State.modDie_release (s : State) (k : Nat) (f : Die → Die) : (s.modDie k f).release = s.release := rfl
@[simp] theorem State.modDie_waves (s : State) (k : Nat) (f : Die → Die) : (s.modDie k f).waves = s.waves := rfl
@[simp] theorem State.modDie_nextId (s : State) (k : Nat) (f : Die → Die) : (s.modDie k f).nextId = s.nextId := rfl
@[simp] theorem State.modDie_copies (s : State) (k : Nat) (f : Die → Die) : (s.modDie k f).copies = s.copies := rfl
@[simp] theorem State.modDie_colls (s : State) (k : Nat) (f : Die → Die) : (s.modDie k f).colls = s.colls := rfl
@[simp] theorem State.modDie_binds (s : State) (k : Nat) (f : Die → Die) : (s.modDie k f).binds = s.binds := rfl
@[simp] theorem State.modDie_watches (s : State) (k : Nat) (f : Die → Die) : (s.modDie k f).watches = s.watches := rfl
@[simp] theorem State.modDie_savedTeams (s : State) (k : Nat) (f : Die → Die) : (s.modDie k f).savedTeams = s.savedTeams := rfl
@[simp] theorem State.modDie_savedQueues (s : State) (k : Nat) (f : Die → Die) : (s.modDie k f).savedQueues = s.savedQueues := rfl
@[simp] theorem State.modDie_savedSlices (s : State) (k : Nat) (f : Die → Die) : (s.modDie k f).savedSlices = s.savedSlices := rfl
@[simp] theorem State.modDie_sectors (s : State) (k : Nat) (f : Die → Die) : (s.modDie k f).sectors = s.sectors := rfl
@[simp] theorem State.modDie_bad (s : State) (k : Nat) (f : Die → Die) : (s.modDie k f).bad = s.bad := rfl
@[simp] theorem State.modDie_errs (s : State) (k : Nat) (f : Die → Die) : (s.modDie k f).errs = s.errs := rfl
@[simp] theorem State.modDie_kvOps (s : State) (k : Nat) (f : Die → Die) : (s.modDie k f).kvOps = s.kvOps := rfl
@[simp] theorem State.modDie_hub (s : State) (k : Nat) (f : Die → Die) : (s.modDie k f).hub = s.hub := rfl
@[simp] theorem State.modDie_mod (s : State) (k : Nat) (f : Die → Die) : (s.modDie k f).mod = s.mod := rfl

@[simp] theorem State.putWg_cur (s : State) (k : Nat) (w : Wg) : (s.putWg k w).cur = s.cur := rfl
@[simp] theorem State.putWg_agenda (s : State) (k : Nat) (w : Wg) : (s.putWg k w).agenda = s.agenda := rfl
@[simp] theorem State.putWg_freeCtr (s : State) (k : Nat) (w : Wg) : (s.putWg k w).freeCtr = s.freeCtr := rfl
@[simp] theorem State.putWg_now (s : State) (k : Nat) (w : Wg) : (s.putWg k w).now = s.now := rfl
@[simp] theorem State.putWg_teams (s : State) (k : Nat) (w : Wg) : (s.putWg k w).teams = s.teams := rfl
@[simp] theorem State.putWg_wgs (s : State) (k : Nat) (w : Wg) : (s.putWg k w).wgs = s.wgs.put k w := rfl
@[simp] theorem State.putWg_grids (s : State) (k : Nat) (w : Wg) : (s.putWg k w).grids = s.grids := rfl
@[simp] theorem State.putWg_ctxs (s : State) (k : Nat) (w : Wg) : (s.putWg k w).ctxs = s.ctxs := rfl
@[simp] theorem State.putWg_cores (s : State) (k : Nat) (w : Wg) : (s.putWg k w).cores = s.cores := rfl
@[simp] theorem State.putWg_dies (s : State) (k : Nat) (w : Wg) : (s.putWg k w).dies = s.dies := rfl
@[simp] theorem State.putWg_mem (s : State) (k : Nat) (w : Wg) : (s.putWg k w).mem = s.mem := rfl
@[simp] theorem State.putWg_past (s : State) (k : Nat) (w : Wg) : (s.putWg k w).past = s.past := rfl
@[simp] theorem State.putWg_check (s : State) (k : Nat) (w : Wg) : (s.putWg k w).check = s.check := rfl
@[simp] theorem State.putWg_release (s : State) (k : Nat) (w : Wg) : (s.putWg k w).release = s.release := rfl
@[simp] theorem State.putWg_waves (s : State) (k : Nat) (w : Wg) : (s.putWg k w).waves = s.waves := rfl
@[simp] theorem State.putWg_nextId (s : State) (k : Nat) (w : Wg) : (s.putWg k w).nextId = s.nextId := rfl
@[simp] theorem State.putWg_copies (s : State) (k : Nat) (w : Wg) : (s.putWg k w).copies = s.copies := rfl
@[simp] theorem State.putWg_colls (s : State) (k : Nat) (w : Wg) : (s.putWg k w).colls = s.colls := rfl
@[simp] theorem State.putWg_binds (s : State) (k : Nat) (w : Wg) : (s.putWg k w).binds = s.binds := rfl
@[simp] theorem State.putWg_watches (s : State) (k : Nat) (w : Wg) : (s.putWg k w).watches = s.watches := rfl
@[simp] theorem State.putWg_savedTeams (s : State) (k : Nat) (w : Wg) : (s.putWg k w).savedTeams = s.savedTeams := rfl
@[simp] theorem State.putWg_savedQueues (s : State) (k : Nat) (w : Wg) : (s.putWg k w).savedQueues = s.savedQueues := rfl
@[simp] theorem State.putWg_savedSlices (s : State) (k : Nat) (w : Wg) : (s.putWg k w).savedSlices = s.savedSlices := rfl
@[simp] theorem State.putWg_sectors (s : State) (k : Nat) (w : Wg) : (s.putWg k w).sectors = s.sectors := rfl
@[simp] theorem State.putWg_bad (s : State) (k : Nat) (w : Wg) : (s.putWg k w).bad = s.bad := rfl
@[simp] theorem State.putWg_errs (s : State) (k : Nat) (w : Wg) : (s.putWg k w).errs = s.errs := rfl
@[simp] theorem State.putWg_kvOps (s : State) (k : Nat) (w : Wg) : (s.putWg k w).kvOps = s.kvOps := rfl
@[simp] theorem State.putWg_hub (s : State) (k : Nat) (w : Wg) : (s.putWg k w).hub = s.hub := rfl
@[simp] theorem State.putWg_mod (s : State) (k : Nat) (w : Wg) : (s.putWg k w).mod = s.mod := rfl

@[simp] theorem State.modWg_cur (s : State) (k : Nat) (f : Wg → Wg) : (s.modWg k f).cur = s.cur := rfl
@[simp] theorem State.modWg_agenda (s : State) (k : Nat) (f : Wg → Wg) : (s.modWg k f).agenda = s.agenda := rfl
@[simp] theorem State.modWg_freeCtr (s : State) (k : Nat) (f : Wg → Wg) : (s.modWg k f).freeCtr = s.freeCtr := rfl
@[simp] theorem State.modWg_now (s : State) (k : Nat) (f : Wg → Wg) : (s.modWg k f).now = s.now := rfl
@[simp] theorem State.modWg_teams (s : State) (k : Nat) (f : Wg → Wg) : (s.modWg k f).teams = s.teams := rfl
@[simp] theorem State.modWg_wgs (s : State) (k : Nat) (f : Wg → Wg) : (s.modWg k f).wgs = s.wgs.put k (f (s.wgs.get k)) := rfl
@[simp] theorem State.modWg_grids (s : State) (k : Nat) (f : Wg → Wg) : (s.modWg k f).grids = s.grids := rfl
@[simp] theorem State.modWg_ctxs (s : State) (k : Nat) (f : Wg → Wg) : (s.modWg k f).ctxs = s.ctxs := rfl
@[simp] theorem State.modWg_cores (s : State) (k : Nat) (f : Wg → Wg) : (s.modWg k f).cores = s.cores := rfl
@[simp] theorem State.modWg_dies (s : State) (k : Nat) (f : Wg → Wg) : (s.modWg k f).dies = s.dies := rfl
@[simp] theorem State.modWg_mem (s : State) (k : Nat) (f : Wg → Wg) : (s.modWg k f).mem = s.mem := rfl
@[simp] theorem State.modWg_past (s : State) (k : Nat) (f : Wg → Wg) : (s.modWg k f).past = s.past := rfl
@[simp] theorem State.modWg_check (s : State) (k : Nat) (f : Wg → Wg) : (s.modWg k f).check = s.check := rfl
@[simp] theorem State.modWg_release (s : State) (k : Nat) (f : Wg → Wg) : (s.modWg k f).release = s.release := rfl
@[simp] theorem State.modWg_waves (s : State) (k : Nat) (f : Wg → Wg) : (s.modWg k f).waves = s.waves := rfl
@[simp] theorem State.modWg_nextId (s : State) (k : Nat) (f : Wg → Wg) : (s.modWg k f).nextId = s.nextId := rfl
@[simp] theorem State.modWg_copies (s : State) (k : Nat) (f : Wg → Wg) : (s.modWg k f).copies = s.copies := rfl
@[simp] theorem State.modWg_colls (s : State) (k : Nat) (f : Wg → Wg) : (s.modWg k f).colls = s.colls := rfl
@[simp] theorem State.modWg_binds (s : State) (k : Nat) (f : Wg → Wg) : (s.modWg k f).binds = s.binds := rfl
@[simp] theorem State.modWg_watches (s : State) (k : Nat) (f : Wg → Wg) : (s.modWg k f).watches = s.watches := rfl
@[simp] theorem State.modWg_savedTeams (s : State) (k : Nat) (f : Wg → Wg) : (s.modWg k f).savedTeams = s.savedTeams := rfl
@[simp] theorem State.modWg_savedQueues (s : State) (k : Nat) (f : Wg → Wg) : (s.modWg k f).savedQueues = s.savedQueues := rfl
@[simp] theorem State.modWg_savedSlices (s : State) (k : Nat) (f : Wg → Wg) : (s.modWg k f).savedSlices = s.savedSlices := rfl
@[simp] theorem State.modWg_sectors (s : State) (k : Nat) (f : Wg → Wg) : (s.modWg k f).sectors = s.sectors := rfl
@[simp] theorem State.modWg_bad (s : State) (k : Nat) (f : Wg → Wg) : (s.modWg k f).bad = s.bad := rfl
@[simp] theorem State.modWg_errs (s : State) (k : Nat) (f : Wg → Wg) : (s.modWg k f).errs = s.errs := rfl
@[simp] theorem State.modWg_kvOps (s : State) (k : Nat) (f : Wg → Wg) : (s.modWg k f).kvOps = s.kvOps := rfl
@[simp] theorem State.modWg_hub (s : State) (k : Nat) (f : Wg → Wg) : (s.modWg k f).hub = s.hub := rfl
@[simp] theorem State.modWg_mod (s : State) (k : Nat) (f : Wg → Wg) : (s.modWg k f).mod = s.mod := rfl

@[simp] theorem State.putGrid_cur (s : State) (k : Nat) (g : Grid) : (s.putGrid k g).cur = s.cur := rfl
@[simp] theorem State.putGrid_agenda (s : State) (k : Nat) (g : Grid) : (s.putGrid k g).agenda = s.agenda := rfl
@[simp] theorem State.putGrid_freeCtr (s : State) (k : Nat) (g : Grid) : (s.putGrid k g).freeCtr = s.freeCtr := rfl
@[simp] theorem State.putGrid_now (s : State) (k : Nat) (g : Grid) : (s.putGrid k g).now = s.now := rfl
@[simp] theorem State.putGrid_teams (s : State) (k : Nat) (g : Grid) : (s.putGrid k g).teams = s.teams := rfl
@[simp] theorem State.putGrid_wgs (s : State) (k : Nat) (g : Grid) : (s.putGrid k g).wgs = s.wgs := rfl
@[simp] theorem State.putGrid_grids (s : State) (k : Nat) (g : Grid) : (s.putGrid k g).grids = s.grids.put k g := rfl
@[simp] theorem State.putGrid_ctxs (s : State) (k : Nat) (g : Grid) : (s.putGrid k g).ctxs = s.ctxs := rfl
@[simp] theorem State.putGrid_cores (s : State) (k : Nat) (g : Grid) : (s.putGrid k g).cores = s.cores := rfl
@[simp] theorem State.putGrid_dies (s : State) (k : Nat) (g : Grid) : (s.putGrid k g).dies = s.dies := rfl
@[simp] theorem State.putGrid_mem (s : State) (k : Nat) (g : Grid) : (s.putGrid k g).mem = s.mem := rfl
@[simp] theorem State.putGrid_past (s : State) (k : Nat) (g : Grid) : (s.putGrid k g).past = s.past := rfl
@[simp] theorem State.putGrid_check (s : State) (k : Nat) (g : Grid) : (s.putGrid k g).check = s.check := rfl
@[simp] theorem State.putGrid_release (s : State) (k : Nat) (g : Grid) : (s.putGrid k g).release = s.release := rfl
@[simp] theorem State.putGrid_waves (s : State) (k : Nat) (g : Grid) : (s.putGrid k g).waves = s.waves := rfl
@[simp] theorem State.putGrid_nextId (s : State) (k : Nat) (g : Grid) : (s.putGrid k g).nextId = s.nextId := rfl
@[simp] theorem State.putGrid_copies (s : State) (k : Nat) (g : Grid) : (s.putGrid k g).copies = s.copies := rfl
@[simp] theorem State.putGrid_colls (s : State) (k : Nat) (g : Grid) : (s.putGrid k g).colls = s.colls := rfl
@[simp] theorem State.putGrid_binds (s : State) (k : Nat) (g : Grid) : (s.putGrid k g).binds = s.binds := rfl
@[simp] theorem State.putGrid_watches (s : State) (k : Nat) (g : Grid) : (s.putGrid k g).watches = s.watches := rfl
@[simp] theorem State.putGrid_savedTeams (s : State) (k : Nat) (g : Grid) : (s.putGrid k g).savedTeams = s.savedTeams := rfl
@[simp] theorem State.putGrid_savedQueues (s : State) (k : Nat) (g : Grid) : (s.putGrid k g).savedQueues = s.savedQueues := rfl
@[simp] theorem State.putGrid_savedSlices (s : State) (k : Nat) (g : Grid) : (s.putGrid k g).savedSlices = s.savedSlices := rfl
@[simp] theorem State.putGrid_sectors (s : State) (k : Nat) (g : Grid) : (s.putGrid k g).sectors = s.sectors := rfl
@[simp] theorem State.putGrid_bad (s : State) (k : Nat) (g : Grid) : (s.putGrid k g).bad = s.bad := rfl
@[simp] theorem State.putGrid_errs (s : State) (k : Nat) (g : Grid) : (s.putGrid k g).errs = s.errs := rfl
@[simp] theorem State.putGrid_kvOps (s : State) (k : Nat) (g : Grid) : (s.putGrid k g).kvOps = s.kvOps := rfl
@[simp] theorem State.putGrid_hub (s : State) (k : Nat) (g : Grid) : (s.putGrid k g).hub = s.hub := rfl
@[simp] theorem State.putGrid_mod (s : State) (k : Nat) (g : Grid) : (s.putGrid k g).mod = s.mod := rfl

@[simp] theorem State.modGrid_cur (s : State) (k : Nat) (f : Grid → Grid) : (s.modGrid k f).cur = s.cur := rfl
@[simp] theorem State.modGrid_agenda (s : State) (k : Nat) (f : Grid → Grid) : (s.modGrid k f).agenda = s.agenda := rfl
@[simp] theorem State.modGrid_freeCtr (s : State) (k : Nat) (f : Grid → Grid) : (s.modGrid k f).freeCtr = s.freeCtr := rfl
@[simp] theorem State.modGrid_now (s : State) (k : Nat) (f : Grid → Grid) : (s.modGrid k f).now = s.now := rfl
@[simp] theorem State.modGrid_teams (s : State) (k : Nat) (f : Grid → Grid) : (s.modGrid k f).teams = s.teams := rfl
@[simp] theorem State.modGrid_wgs (s : State) (k : Nat) (f : Grid → Grid) : (s.modGrid k f).wgs = s.wgs := rfl
@[simp] theorem State.modGrid_grids (s : State) (k : Nat) (f : Grid → Grid) : (s.modGrid k f).grids = s.grids.put k (f (s.grids.get k)) := rfl
@[simp] theorem State.modGrid_ctxs (s : State) (k : Nat) (f : Grid → Grid) : (s.modGrid k f).ctxs = s.ctxs := rfl
@[simp] theorem State.modGrid_cores (s : State) (k : Nat) (f : Grid → Grid) : (s.modGrid k f).cores = s.cores := rfl
@[simp] theorem State.modGrid_dies (s : State) (k : Nat) (f : Grid → Grid) : (s.modGrid k f).dies = s.dies := rfl
@[simp] theorem State.modGrid_mem (s : State) (k : Nat) (f : Grid → Grid) : (s.modGrid k f).mem = s.mem := rfl
@[simp] theorem State.modGrid_past (s : State) (k : Nat) (f : Grid → Grid) : (s.modGrid k f).past = s.past := rfl
@[simp] theorem State.modGrid_check (s : State) (k : Nat) (f : Grid → Grid) : (s.modGrid k f).check = s.check := rfl
@[simp] theorem State.modGrid_release (s : State) (k : Nat) (f : Grid → Grid) : (s.modGrid k f).release = s.release := rfl
@[simp] theorem State.modGrid_waves (s : State) (k : Nat) (f : Grid → Grid) : (s.modGrid k f).waves = s.waves := rfl
@[simp] theorem State.modGrid_nextId (s : State) (k : Nat) (f : Grid → Grid) : (s.modGrid k f).nextId = s.nextId := rfl
@[simp] theorem State.modGrid_copies (s : State) (k : Nat) (f : Grid → Grid) : (s.modGrid k f).copies = s.copies := rfl
@[simp] theorem State.modGrid_colls (s : State) (k : Nat) (f : Grid → Grid) : (s.modGrid k f).colls = s.colls := rfl
@[simp] theorem State.modGrid_binds (s : State) (k : Nat) (f : Grid → Grid) : (s.modGrid k f).binds = s.binds := rfl
@[simp] theorem State.modGrid_watches (s : State) (k : Nat) (f : Grid → Grid) : (s.modGrid k f).watches = s.watches := rfl
@[simp] theorem State.modGrid_savedTeams (s : State) (k : Nat) (f : Grid → Grid) : (s.modGrid k f).savedTeams = s.savedTeams := rfl
@[simp] theorem State.modGrid_savedQueues (s : State) (k : Nat) (f : Grid → Grid) : (s.modGrid k f).savedQueues = s.savedQueues := rfl
@[simp] theorem State.modGrid_savedSlices (s : State) (k : Nat) (f : Grid → Grid) : (s.modGrid k f).savedSlices = s.savedSlices := rfl
@[simp] theorem State.modGrid_sectors (s : State) (k : Nat) (f : Grid → Grid) : (s.modGrid k f).sectors = s.sectors := rfl
@[simp] theorem State.modGrid_bad (s : State) (k : Nat) (f : Grid → Grid) : (s.modGrid k f).bad = s.bad := rfl
@[simp] theorem State.modGrid_errs (s : State) (k : Nat) (f : Grid → Grid) : (s.modGrid k f).errs = s.errs := rfl
@[simp] theorem State.modGrid_kvOps (s : State) (k : Nat) (f : Grid → Grid) : (s.modGrid k f).kvOps = s.kvOps := rfl
@[simp] theorem State.modGrid_hub (s : State) (k : Nat) (f : Grid → Grid) : (s.modGrid k f).hub = s.hub := rfl
@[simp] theorem State.modGrid_mod (s : State) (k : Nat) (f : Grid → Grid) : (s.modGrid k f).mod = s.mod := rfl

@[simp] theorem State.putCtx_cur (s : State) (k : Nat) (c : Ctx) : (s.putCtx k c).cur = s.cur := rfl
@[simp] theorem State.putCtx_agenda (s : State) (k : Nat) (c : Ctx) : (s.putCtx k c).agenda = s.agenda := rfl
@[simp] theorem State.putCtx_freeCtr (s : State) (k : Nat) (c : Ctx) : (s.putCtx k c).freeCtr = s.freeCtr := rfl
@[simp] theorem State.putCtx_now (s : State) (k : Nat) (c : Ctx) : (s.putCtx k c).now = s.now := rfl
@[simp] theorem State.putCtx_teams (s : State) (k : Nat) (c : Ctx) : (s.putCtx k c).teams = s.teams := rfl
@[simp] theorem State.putCtx_wgs (s : State) (k : Nat) (c : Ctx) : (s.putCtx k c).wgs = s.wgs := rfl
@[simp] theorem State.putCtx_grids (s : State) (k : Nat) (c : Ctx) : (s.putCtx k c).grids = s.grids := rfl
@[simp] theorem State.putCtx_ctxs (s : State) (k : Nat) (c : Ctx) : (s.putCtx k c).ctxs = s.ctxs.put k c := rfl
@[simp] theorem State.putCtx_cores (s : State) (k : Nat) (c : Ctx) : (s.putCtx k c).cores = s.cores := rfl
@[simp] theorem State.putCtx_dies (s : State) (k : Nat) (c : Ctx) : (s.putCtx k c).dies = s.dies := rfl
@[simp] theorem State.putCtx_mem (s : State) (k : Nat) (c : Ctx) : (s.putCtx k c).mem = s.mem := rfl
@[simp] theorem State.putCtx_past (s : State) (k : Nat) (c : Ctx) : (s.putCtx k c).past = s.past := rfl
@[simp] theorem State.putCtx_check (s : State) (k : Nat) (c : Ctx) : (s.putCtx k c).check = s.check := rfl
@[simp] theorem State.putCtx_release (s : State) (k : Nat) (c : Ctx) : (s.putCtx k c).release = s.release := rfl
@[simp] theorem State.putCtx_waves (s : State) (k : Nat) (c : Ctx) : (s.putCtx k c).waves = s.waves := rfl
@[simp] theorem State.putCtx_nextId (s : State) (k : Nat) (c : Ctx) : (s.putCtx k c).nextId = s.nextId := rfl
@[simp] theorem State.putCtx_copies (s : State) (k : Nat) (c : Ctx) : (s.putCtx k c).copies = s.copies := rfl
@[simp] theorem State.putCtx_colls (s : State) (k : Nat) (c : Ctx) : (s.putCtx k c).colls = s.colls := rfl
@[simp] theorem State.putCtx_binds (s : State) (k : Nat) (c : Ctx) : (s.putCtx k c).binds = s.binds := rfl
@[simp] theorem State.putCtx_watches (s : State) (k : Nat) (c : Ctx) : (s.putCtx k c).watches = s.watches := rfl
@[simp] theorem State.putCtx_savedTeams (s : State) (k : Nat) (c : Ctx) : (s.putCtx k c).savedTeams = s.savedTeams := rfl
@[simp] theorem State.putCtx_savedQueues (s : State) (k : Nat) (c : Ctx) : (s.putCtx k c).savedQueues = s.savedQueues := rfl
@[simp] theorem State.putCtx_savedSlices (s : State) (k : Nat) (c : Ctx) : (s.putCtx k c).savedSlices = s.savedSlices := rfl
@[simp] theorem State.putCtx_sectors (s : State) (k : Nat) (c : Ctx) : (s.putCtx k c).sectors = s.sectors := rfl
@[simp] theorem State.putCtx_bad (s : State) (k : Nat) (c : Ctx) : (s.putCtx k c).bad = s.bad := rfl
@[simp] theorem State.putCtx_errs (s : State) (k : Nat) (c : Ctx) : (s.putCtx k c).errs = s.errs := rfl
@[simp] theorem State.putCtx_kvOps (s : State) (k : Nat) (c : Ctx) : (s.putCtx k c).kvOps = s.kvOps := rfl
@[simp] theorem State.putCtx_hub (s : State) (k : Nat) (c : Ctx) : (s.putCtx k c).hub = s.hub := rfl
@[simp] theorem State.putCtx_mod (s : State) (k : Nat) (c : Ctx) : (s.putCtx k c).mod = s.mod := rfl

@[simp] theorem State.modCtx_cur (s : State) (k : Nat) (f : Ctx → Ctx) : (s.modCtx k f).cur = s.cur := rfl
@[simp] theorem State.modCtx_agenda (s : State) (k : Nat) (f : Ctx → Ctx) : (s.modCtx k f).agenda = s.agenda := rfl
@[simp] theorem State.modCtx_freeCtr (s : State) (k : Nat) (f : Ctx → Ctx) : (s.modCtx k f).freeCtr = s.freeCtr := rfl
@[simp] theorem State.modCtx_now (s : State) (k : Nat) (f : Ctx → Ctx) : (s.modCtx k f).now = s.now := rfl
@[simp] theorem State.modCtx_teams (s : State) (k : Nat) (f : Ctx → Ctx) : (s.modCtx k f).teams = s.teams := rfl
@[simp] theorem State.modCtx_wgs (s : State) (k : Nat) (f : Ctx → Ctx) : (s.modCtx k f).wgs = s.wgs := rfl
@[simp] theorem State.modCtx_grids (s : State) (k : Nat) (f : Ctx → Ctx) : (s.modCtx k f).grids = s.grids := rfl
@[simp] theorem State.modCtx_ctxs (s : State) (k : Nat) (f : Ctx → Ctx) : (s.modCtx k f).ctxs = s.ctxs.put k (f (s.ctxs.get k)) := rfl
@[simp] theorem State.modCtx_cores (s : State) (k : Nat) (f : Ctx → Ctx) : (s.modCtx k f).cores = s.cores := rfl
@[simp] theorem State.modCtx_dies (s : State) (k : Nat) (f : Ctx → Ctx) : (s.modCtx k f).dies = s.dies := rfl
@[simp] theorem State.modCtx_mem (s : State) (k : Nat) (f : Ctx → Ctx) : (s.modCtx k f).mem = s.mem := rfl
@[simp] theorem State.modCtx_past (s : State) (k : Nat) (f : Ctx → Ctx) : (s.modCtx k f).past = s.past := rfl
@[simp] theorem State.modCtx_check (s : State) (k : Nat) (f : Ctx → Ctx) : (s.modCtx k f).check = s.check := rfl
@[simp] theorem State.modCtx_release (s : State) (k : Nat) (f : Ctx → Ctx) : (s.modCtx k f).release = s.release := rfl
@[simp] theorem State.modCtx_waves (s : State) (k : Nat) (f : Ctx → Ctx) : (s.modCtx k f).waves = s.waves := rfl
@[simp] theorem State.modCtx_nextId (s : State) (k : Nat) (f : Ctx → Ctx) : (s.modCtx k f).nextId = s.nextId := rfl
@[simp] theorem State.modCtx_copies (s : State) (k : Nat) (f : Ctx → Ctx) : (s.modCtx k f).copies = s.copies := rfl
@[simp] theorem State.modCtx_colls (s : State) (k : Nat) (f : Ctx → Ctx) : (s.modCtx k f).colls = s.colls := rfl
@[simp] theorem State.modCtx_binds (s : State) (k : Nat) (f : Ctx → Ctx) : (s.modCtx k f).binds = s.binds := rfl
@[simp] theorem State.modCtx_watches (s : State) (k : Nat) (f : Ctx → Ctx) : (s.modCtx k f).watches = s.watches := rfl
@[simp] theorem State.modCtx_savedTeams (s : State) (k : Nat) (f : Ctx → Ctx) : (s.modCtx k f).savedTeams = s.savedTeams := rfl
@[simp] theorem State.modCtx_savedQueues (s : State) (k : Nat) (f : Ctx → Ctx) : (s.modCtx k f).savedQueues = s.savedQueues := rfl
@[simp] theorem State.modCtx_savedSlices (s : State) (k : Nat) (f : Ctx → Ctx) : (s.modCtx k f).savedSlices = s.savedSlices := rfl
@[simp] theorem State.modCtx_sectors (s : State) (k : Nat) (f : Ctx → Ctx) : (s.modCtx k f).sectors = s.sectors := rfl
@[simp] theorem State.modCtx_bad (s : State) (k : Nat) (f : Ctx → Ctx) : (s.modCtx k f).bad = s.bad := rfl
@[simp] theorem State.modCtx_errs (s : State) (k : Nat) (f : Ctx → Ctx) : (s.modCtx k f).errs = s.errs := rfl
@[simp] theorem State.modCtx_kvOps (s : State) (k : Nat) (f : Ctx → Ctx) : (s.modCtx k f).kvOps = s.kvOps := rfl
@[simp] theorem State.modCtx_hub (s : State) (k : Nat) (f : Ctx → Ctx) : (s.modCtx k f).hub = s.hub := rfl
@[simp] theorem State.modCtx_mod (s : State) (k : Nat) (f : Ctx → Ctx) : (s.modCtx k f).mod = s.mod := rfl

@[simp] theorem State.putCopy_cur (s : State) (k : Nat) (c : Copy) : (s.putCopy k c).cur = s.cur := rfl
@[simp] theorem State.putCopy_agenda (s : State) (k : Nat) (c : Copy) : (s.putCopy k c).agenda = s.agenda := rfl
@[simp] theorem State.putCopy_freeCtr (s : State) (k : Nat) (c : Copy) : (s.putCopy k c).freeCtr = s.freeCtr := rfl
@[simp] theorem State.putCopy_now (s : State) (k : Nat) (c : Copy) : (s.putCopy k c).now = s.now := rfl
@[simp] theorem State.putCopy_teams (s : State) (k : Nat) (c : Copy) : (s.putCopy k c).teams = s.teams := rfl
@[simp] theorem State.putCopy_wgs (s : State) (k : Nat) (c : Copy) : (s.putCopy k c).wgs = s.wgs := rfl
@[simp] theorem State.putCopy_grids (s : State) (k : Nat) (c : Copy) : (s.putCopy k c).grids = s.grids := rfl
@[simp] theorem State.putCopy_ctxs (s : State) (k : Nat) (c : Copy) : (s.putCopy k c).ctxs = s.ctxs := rfl
@[simp] theorem State.putCopy_cores (s : State) (k : Nat) (c : Copy) : (s.putCopy k c).cores = s.cores := rfl
@[simp] theorem State.putCopy_dies (s : State) (k : Nat) (c : Copy) : (s.putCopy k c).dies = s.dies := rfl
@[simp] theorem State.putCopy_mem (s : State) (k : Nat) (c : Copy) : (s.putCopy k c).mem = s.mem := rfl
@[simp] theorem State.putCopy_past (s : State) (k : Nat) (c : Copy) : (s.putCopy k c).past = s.past := rfl
@[simp] theorem State.putCopy_check (s : State) (k : Nat) (c : Copy) : (s.putCopy k c).check = s.check := rfl
@[simp] theorem State.putCopy_release (s : State) (k : Nat) (c : Copy) : (s.putCopy k c).release = s.release := rfl
@[simp] theorem State.putCopy_waves (s : State) (k : Nat) (c : Copy) : (s.putCopy k c).waves = s.waves := rfl
@[simp] theorem State.putCopy_nextId (s : State) (k : Nat) (c : Copy) : (s.putCopy k c).nextId = s.nextId := rfl
@[simp] theorem State.putCopy_copies (s : State) (k : Nat) (c : Copy) : (s.putCopy k c).copies = s.copies.put k c := rfl
@[simp] theorem State.putCopy_colls (s : State) (k : Nat) (c : Copy) : (s.putCopy k c).colls = s.colls := rfl
@[simp] theorem State.putCopy_binds (s : State) (k : Nat) (c : Copy) : (s.putCopy k c).binds = s.binds := rfl
@[simp] theorem State.putCopy_watches (s : State) (k : Nat) (c : Copy) : (s.putCopy k c).watches = s.watches := rfl
@[simp] theorem State.putCopy_savedTeams (s : State) (k : Nat) (c : Copy) : (s.putCopy k c).savedTeams = s.savedTeams := rfl
@[simp] theorem State.putCopy_savedQueues (s : State) (k : Nat) (c : Copy) : (s.putCopy k c).savedQueues = s.savedQueues := rfl
@[simp] theorem State.putCopy_savedSlices (s : State) (k : Nat) (c : Copy) : (s.putCopy k c).savedSlices = s.savedSlices := rfl
@[simp] theorem State.putCopy_sectors (s : State) (k : Nat) (c : Copy) : (s.putCopy k c).sectors = s.sectors := rfl
@[simp] theorem State.putCopy_bad (s : State) (k : Nat) (c : Copy) : (s.putCopy k c).bad = s.bad := rfl
@[simp] theorem State.putCopy_errs (s : State) (k : Nat) (c : Copy) : (s.putCopy k c).errs = s.errs := rfl
@[simp] theorem State.putCopy_kvOps (s : State) (k : Nat) (c : Copy) : (s.putCopy k c).kvOps = s.kvOps := rfl
@[simp] theorem State.putCopy_hub (s : State) (k : Nat) (c : Copy) : (s.putCopy k c).hub = s.hub := rfl
@[simp] theorem State.putCopy_mod (s : State) (k : Nat) (c : Copy) : (s.putCopy k c).mod = s.mod := rfl

@[simp] theorem State.putColl_cur (s : State) (k : Nat) (c : Coll) : (s.putColl k c).cur = s.cur := rfl
@[simp] theorem State.putColl_agenda (s : State) (k : Nat) (c : Coll) : (s.putColl k c).agenda = s.agenda := rfl
@[simp] theorem State.putColl_freeCtr (s : State) (k : Nat) (c : Coll) : (s.putColl k c).freeCtr = s.freeCtr := rfl
@[simp] theorem State.putColl_now (s : State) (k : Nat) (c : Coll) : (s.putColl k c).now = s.now := rfl
@[simp] theorem State.putColl_teams (s : State) (k : Nat) (c : Coll) : (s.putColl k c).teams = s.teams := rfl
@[simp] theorem State.putColl_wgs (s : State) (k : Nat) (c : Coll) : (s.putColl k c).wgs = s.wgs := rfl
@[simp] theorem State.putColl_grids (s : State) (k : Nat) (c : Coll) : (s.putColl k c).grids = s.grids := rfl
@[simp] theorem State.putColl_ctxs (s : State) (k : Nat) (c : Coll) : (s.putColl k c).ctxs = s.ctxs := rfl
@[simp] theorem State.putColl_cores (s : State) (k : Nat) (c : Coll) : (s.putColl k c).cores = s.cores := rfl
@[simp] theorem State.putColl_dies (s : State) (k : Nat) (c : Coll) : (s.putColl k c).dies = s.dies := rfl
@[simp] theorem State.putColl_mem (s : State) (k : Nat) (c : Coll) : (s.putColl k c).mem = s.mem := rfl
@[simp] theorem State.putColl_past (s : State) (k : Nat) (c : Coll) : (s.putColl k c).past = s.past := rfl
@[simp] theorem State.putColl_check (s : State) (k : Nat) (c : Coll) : (s.putColl k c).check = s.check := rfl
@[simp] theorem State.putColl_release (s : State) (k : Nat) (c : Coll) : (s.putColl k c).release = s.release := rfl
@[simp] theorem State.putColl_waves (s : State) (k : Nat) (c : Coll) : (s.putColl k c).waves = s.waves := rfl
@[simp] theorem State.putColl_nextId (s : State) (k : Nat) (c : Coll) : (s.putColl k c).nextId = s.nextId := rfl
@[simp] theorem State.putColl_copies (s : State) (k : Nat) (c : Coll) : (s.putColl k c).copies = s.copies := rfl
@[simp] theorem State.putColl_colls (s : State) (k : Nat) (c : Coll) : (s.putColl k c).colls = s.colls.put k c := rfl
@[simp] theorem State.putColl_binds (s : State) (k : Nat) (c : Coll) : (s.putColl k c).binds = s.binds := rfl
@[simp] theorem State.putColl_watches (s : State) (k : Nat) (c : Coll) : (s.putColl k c).watches = s.watches := rfl
@[simp] theorem State.putColl_savedTeams (s : State) (k : Nat) (c : Coll) : (s.putColl k c).savedTeams = s.savedTeams := rfl
@[simp] theorem State.putColl_savedQueues (s : State) (k : Nat) (c : Coll) : (s.putColl k c).savedQueues = s.savedQueues := rfl
@[simp] theorem State.putColl_savedSlices (s : State) (k : Nat) (c : Coll) : (s.putColl k c).savedSlices = s.savedSlices := rfl
@[simp] theorem State.putColl_sectors (s : State) (k : Nat) (c : Coll) : (s.putColl k c).sectors = s.sectors := rfl
@[simp] theorem State.putColl_bad (s : State) (k : Nat) (c : Coll) : (s.putColl k c).bad = s.bad := rfl
@[simp] theorem State.putColl_errs (s : State) (k : Nat) (c : Coll) : (s.putColl k c).errs = s.errs := rfl
@[simp] theorem State.putColl_kvOps (s : State) (k : Nat) (c : Coll) : (s.putColl k c).kvOps = s.kvOps := rfl
@[simp] theorem State.putColl_hub (s : State) (k : Nat) (c : Coll) : (s.putColl k c).hub = s.hub := rfl
@[simp] theorem State.putColl_mod (s : State) (k : Nat) (c : Coll) : (s.putColl k c).mod = s.mod := rfl

@[simp] theorem State.begin_cur (s : State) : s.begin_.cur = s.cur := rfl
@[simp] theorem State.begin_agenda (s : State) : s.begin_.agenda = s.agenda := rfl
@[simp] theorem State.begin_freeCtr (s : State) : s.begin_.freeCtr = s.freeCtr + 1 := rfl
@[simp] theorem State.begin_now (s : State) : s.begin_.now = s.now := rfl
@[simp] theorem State.begin_teams (s : State) : s.begin_.teams = s.teams := rfl
@[simp] theorem State.begin_wgs (s : State) : s.begin_.wgs = s.wgs := rfl
@[simp] theorem State.begin_grids (s : State) : s.begin_.grids = s.grids := rfl
@[simp] theorem State.begin_ctxs (s : State) : s.begin_.ctxs = s.ctxs := rfl
@[simp] theorem State.begin_cores (s : State) : s.begin_.cores = s.cores := rfl
@[simp] theorem State.begin_dies (s : State) : s.begin_.dies = s.dies := rfl
@[simp] theorem State.begin_mem (s : State) : s.begin_.mem = s.mem := rfl
@[simp] theorem State.begin_past (s : State) : s.begin_.past = s.past := rfl
@[simp] theorem State.begin_check (s : State) : s.begin_.check = s.check := rfl
@[simp] theorem State.begin_release (s : State) : s.begin_.release = s.release := rfl
@[simp] theorem State.begin_waves (s : State) : s.begin_.waves = s.waves := rfl
@[simp] theorem State.begin_nextId (s : State) : s.begin_.nextId = s.nextId := rfl
@[simp] theorem State.begin_copies (s : State) : s.begin_.copies = s.copies := rfl
@[simp] theorem State.begin_colls (s : State) : s.begin_.colls = s.colls := rfl
@[simp] theorem State.begin_binds (s : State) : s.begin_.binds = s.binds := rfl
@[simp] theorem State.begin_watches (s : State) : s.begin_.watches = s.watches := rfl
@[simp] theorem State.begin_savedTeams (s : State) : s.begin_.savedTeams = s.savedTeams := rfl
@[simp] theorem State.begin_savedQueues (s : State) : s.begin_.savedQueues = s.savedQueues := rfl
@[simp] theorem State.begin_savedSlices (s : State) : s.begin_.savedSlices = s.savedSlices := rfl
@[simp] theorem State.begin_sectors (s : State) : s.begin_.sectors = s.sectors := rfl
@[simp] theorem State.begin_bad (s : State) : s.begin_.bad = s.bad := rfl
@[simp] theorem State.begin_errs (s : State) : s.begin_.errs = s.errs := rfl
@[simp] theorem State.begin_kvOps (s : State) : s.begin_.kvOps = s.kvOps := rfl
@[simp] theorem State.begin_hub (s : State) : s.begin_.hub = s.hub := rfl
@[simp] theorem State.begin_mod (s : State) : s.begin_.mod = s.mod := rfl

@[simp] theorem State.setByte_cur (s : State) (a : Nat) (b : Byte) : (s.setByte a b).cur = s.cur := rfl
@[simp] theorem State.setByte_agenda (s : State) (a : Nat) (b : Byte) : (s.setByte a b).agenda = s.agenda := rfl
@[simp] theorem State.setByte_freeCtr (s : State) (a : Nat) (b : Byte) : (s.setByte a b).freeCtr = s.freeCtr := rfl
@[simp] theorem State.setByte_now (s : State) (a : Nat) (b : Byte) : (s.setByte a b).now = s.now := rfl
@[simp] theorem State.setByte_teams (s : State) (a : Nat) (b : Byte) : (s.setByte a b).teams = s.teams := rfl
@[simp] theorem State.setByte_wgs (s : State) (a : Nat) (b : Byte) : (s.setByte a b).wgs = s.wgs := rfl
@[simp] theorem State.setByte_grids (s : State) (a : Nat) (b : Byte) : (s.setByte a b).grids = s.grids := rfl
@[simp] theorem State.setByte_ctxs (s : State) (a : Nat) (b : Byte) : (s.setByte a b).ctxs = s.ctxs := rfl
@[simp] theorem State.setByte_cores (s : State) (a : Nat) (b : Byte) : (s.setByte a b).cores = s.cores := rfl
@[simp] theorem State.setByte_dies (s : State) (a : Nat) (b : Byte) : (s.setByte a b).dies = s.dies := rfl
@[simp] theorem State.setByte_mem (s : State) (a : Nat) (b : Byte) : (s.setByte a b).mem = s.mem.set (canonPA a) b := rfl
@[simp] theorem State.setByte_past (s : State) (a : Nat) (b : Byte) : (s.setByte a b).past = s.past := rfl
@[simp] theorem State.setByte_check (s : State) (a : Nat) (b : Byte) : (s.setByte a b).check = s.check := rfl
@[simp] theorem State.setByte_release (s : State) (a : Nat) (b : Byte) : (s.setByte a b).release = s.release := rfl
@[simp] theorem State.setByte_waves (s : State) (a : Nat) (b : Byte) : (s.setByte a b).waves = s.waves := rfl
@[simp] theorem State.setByte_nextId (s : State) (a : Nat) (b : Byte) : (s.setByte a b).nextId = s.nextId := rfl
@[simp] theorem State.setByte_copies (s : State) (a : Nat) (b : Byte) : (s.setByte a b).copies = s.copies := rfl
@[simp] theorem State.setByte_colls (s : State) (a : Nat) (b : Byte) : (s.setByte a b).colls = s.colls := rfl
@[simp] theorem State.setByte_binds (s : State) (a : Nat) (b : Byte) : (s.setByte a b).binds = s.binds := rfl
@[simp] theorem State.setByte_watches (s : State) (a : Nat) (b : Byte) : (s.setByte a b).watches = s.watches := rfl
@[simp] theorem State.setByte_savedTeams (s : State) (a : Nat) (b : Byte) : (s.setByte a b).savedTeams = s.savedTeams := rfl
@[simp] theorem State.setByte_savedQueues (s : State) (a : Nat) (b : Byte) : (s.setByte a b).savedQueues = s.savedQueues := rfl
@[simp] theorem State.setByte_savedSlices (s : State) (a : Nat) (b : Byte) : (s.setByte a b).savedSlices = s.savedSlices := rfl
@[simp] theorem State.setByte_sectors (s : State) (a : Nat) (b : Byte) : (s.setByte a b).sectors = s.sectors := rfl
@[simp] theorem State.setByte_bad (s : State) (a : Nat) (b : Byte) : (s.setByte a b).bad = s.bad := rfl
@[simp] theorem State.setByte_errs (s : State) (a : Nat) (b : Byte) : (s.setByte a b).errs = s.errs := rfl
@[simp] theorem State.setByte_kvOps (s : State) (a : Nat) (b : Byte) : (s.setByte a b).kvOps = s.kvOps := rfl
@[simp] theorem State.setByte_hub (s : State) (a : Nat) (b : Byte) : (s.setByte a b).hub = s.hub := rfl
@[simp] theorem State.setByte_mod (s : State) (a : Nat) (b : Byte) : (s.setByte a b).mod = s.mod := rfl

@[simp] theorem State.tick_cur (s : State) (d : Nat) : (s.tick d).cur = s.cur := rfl
@[simp] theorem State.tick_agenda (s : State) (d : Nat) : (s.tick d).agenda = s.agenda := rfl
@[simp] theorem State.tick_freeCtr (s : State) (d : Nat) : (s.tick d).freeCtr = s.freeCtr := rfl
@[simp] theorem State.tick_teams (s : State) (d : Nat) : (s.tick d).teams = s.teams := rfl
@[simp] theorem State.tick_wgs (s : State) (d : Nat) : (s.tick d).wgs = s.wgs := rfl
@[simp] theorem State.tick_grids (s : State) (d : Nat) : (s.tick d).grids = s.grids := rfl
@[simp] theorem State.tick_ctxs (s : State) (d : Nat) : (s.tick d).ctxs = s.ctxs := rfl
@[simp] theorem State.tick_cores (s : State) (d : Nat) : (s.tick d).cores = s.cores := rfl
@[simp] theorem State.tick_mem (s : State) (d : Nat) : (s.tick d).mem = s.mem := rfl
@[simp] theorem State.tick_past (s : State) (d : Nat) : (s.tick d).past = s.past := rfl
@[simp] theorem State.tick_check (s : State) (d : Nat) : (s.tick d).check = s.check := rfl
@[simp] theorem State.tick_release (s : State) (d : Nat) : (s.tick d).release = s.release := rfl
@[simp] theorem State.tick_waves (s : State) (d : Nat) : (s.tick d).waves = s.waves := rfl
@[simp] theorem State.tick_nextId (s : State) (d : Nat) : (s.tick d).nextId = s.nextId := rfl
@[simp] theorem State.tick_copies (s : State) (d : Nat) : (s.tick d).copies = s.copies := rfl
@[simp] theorem State.tick_colls (s : State) (d : Nat) : (s.tick d).colls = s.colls := rfl
@[simp] theorem State.tick_binds (s : State) (d : Nat) : (s.tick d).binds = s.binds := rfl
@[simp] theorem State.tick_watches (s : State) (d : Nat) : (s.tick d).watches = s.watches := rfl
@[simp] theorem State.tick_savedTeams (s : State) (d : Nat) : (s.tick d).savedTeams = s.savedTeams := rfl
@[simp] theorem State.tick_savedQueues (s : State) (d : Nat) : (s.tick d).savedQueues = s.savedQueues := rfl
@[simp] theorem State.tick_savedSlices (s : State) (d : Nat) : (s.tick d).savedSlices = s.savedSlices := rfl
@[simp] theorem State.tick_sectors (s : State) (d : Nat) : (s.tick d).sectors = s.sectors := rfl
@[simp] theorem State.tick_errs (s : State) (d : Nat) : (s.tick d).errs = s.errs := rfl
@[simp] theorem State.tick_kvOps (s : State) (d : Nat) : (s.tick d).kvOps = s.kvOps := rfl
@[simp] theorem State.tick_hub (s : State) (d : Nat) : (s.tick d).hub = s.hub := rfl
@[simp] theorem State.tick_mod (s : State) (d : Nat) : (s.tick d).mod = s.mod := rfl

@[simp] theorem State.occupy_cur (s : State) (u n : Nat) : (s.occupy u n).cur = s.cur := rfl
@[simp] theorem State.occupy_agenda (s : State) (u n : Nat) : (s.occupy u n).agenda = s.agenda := rfl
@[simp] theorem State.occupy_freeCtr (s : State) (u n : Nat) : (s.occupy u n).freeCtr = s.freeCtr := rfl
@[simp] theorem State.occupy_now (s : State) (u n : Nat) : (s.occupy u n).now = s.now := rfl
@[simp] theorem State.occupy_teams (s : State) (u n : Nat) : (s.occupy u n).teams = s.teams := rfl
@[simp] theorem State.occupy_wgs (s : State) (u n : Nat) : (s.occupy u n).wgs = s.wgs := rfl
@[simp] theorem State.occupy_grids (s : State) (u n : Nat) : (s.occupy u n).grids = s.grids := rfl
@[simp] theorem State.occupy_ctxs (s : State) (u n : Nat) : (s.occupy u n).ctxs = s.ctxs := rfl
@[simp] theorem State.occupy_dies (s : State) (u n : Nat) : (s.occupy u n).dies = s.dies := rfl
@[simp] theorem State.occupy_mem (s : State) (u n : Nat) : (s.occupy u n).mem = s.mem := rfl
@[simp] theorem State.occupy_past (s : State) (u n : Nat) : (s.occupy u n).past = s.past := rfl
@[simp] theorem State.occupy_check (s : State) (u n : Nat) : (s.occupy u n).check = s.check := rfl
@[simp] theorem State.occupy_release (s : State) (u n : Nat) : (s.occupy u n).release = s.release := rfl
@[simp] theorem State.occupy_waves (s : State) (u n : Nat) : (s.occupy u n).waves = s.waves := rfl
@[simp] theorem State.occupy_nextId (s : State) (u n : Nat) : (s.occupy u n).nextId = s.nextId := rfl
@[simp] theorem State.occupy_copies (s : State) (u n : Nat) : (s.occupy u n).copies = s.copies := rfl
@[simp] theorem State.occupy_colls (s : State) (u n : Nat) : (s.occupy u n).colls = s.colls := rfl
@[simp] theorem State.occupy_binds (s : State) (u n : Nat) : (s.occupy u n).binds = s.binds := rfl
@[simp] theorem State.occupy_watches (s : State) (u n : Nat) : (s.occupy u n).watches = s.watches := rfl
@[simp] theorem State.occupy_savedTeams (s : State) (u n : Nat) : (s.occupy u n).savedTeams = s.savedTeams := rfl
@[simp] theorem State.occupy_savedQueues (s : State) (u n : Nat) : (s.occupy u n).savedQueues = s.savedQueues := rfl
@[simp] theorem State.occupy_savedSlices (s : State) (u n : Nat) : (s.occupy u n).savedSlices = s.savedSlices := rfl
@[simp] theorem State.occupy_sectors (s : State) (u n : Nat) : (s.occupy u n).sectors = s.sectors := rfl
@[simp] theorem State.occupy_bad (s : State) (u n : Nat) : (s.occupy u n).bad = s.bad := rfl
@[simp] theorem State.occupy_errs (s : State) (u n : Nat) : (s.occupy u n).errs = s.errs := rfl
@[simp] theorem State.occupy_kvOps (s : State) (u n : Nat) : (s.occupy u n).kvOps = s.kvOps := rfl
@[simp] theorem State.occupy_hub (s : State) (u n : Nat) : (s.occupy u n).hub = s.hub := rfl
@[simp] theorem State.occupy_mod (s : State) (u n : Nat) : (s.occupy u n).mod = s.mod := rfl

@[simp] theorem State.issued_cur (s : State) (u n : Nat) : (s.issued u n).cur = s.cur := rfl
@[simp] theorem State.issued_agenda (s : State) (u n : Nat) : (s.issued u n).agenda = s.agenda := rfl
@[simp] theorem State.issued_freeCtr (s : State) (u n : Nat) : (s.issued u n).freeCtr = s.freeCtr := rfl
@[simp] theorem State.issued_now (s : State) (u n : Nat) : (s.issued u n).now = s.now := rfl
@[simp] theorem State.issued_teams (s : State) (u n : Nat) : (s.issued u n).teams = s.teams.put u { s.teams.get u with lastIssue := s.freeCtr, eligible := 0, promoted := none } := rfl
@[simp] theorem State.issued_wgs (s : State) (u n : Nat) : (s.issued u n).wgs = s.wgs := rfl
@[simp] theorem State.issued_grids (s : State) (u n : Nat) : (s.issued u n).grids = s.grids := rfl
@[simp] theorem State.issued_ctxs (s : State) (u n : Nat) : (s.issued u n).ctxs = s.ctxs := rfl
@[simp] theorem State.issued_dies (s : State) (u n : Nat) : (s.issued u n).dies = s.dies := rfl
@[simp] theorem State.issued_mem (s : State) (u n : Nat) : (s.issued u n).mem = s.mem := rfl
@[simp] theorem State.issued_past (s : State) (u n : Nat) : (s.issued u n).past = s.past := rfl
@[simp] theorem State.issued_check (s : State) (u n : Nat) : (s.issued u n).check = s.check := rfl
@[simp] theorem State.issued_release (s : State) (u n : Nat) : (s.issued u n).release = s.release := rfl
@[simp] theorem State.issued_waves (s : State) (u n : Nat) : (s.issued u n).waves = s.waves := rfl
@[simp] theorem State.issued_nextId (s : State) (u n : Nat) : (s.issued u n).nextId = s.nextId := rfl
@[simp] theorem State.issued_copies (s : State) (u n : Nat) : (s.issued u n).copies = s.copies := rfl
@[simp] theorem State.issued_colls (s : State) (u n : Nat) : (s.issued u n).colls = s.colls := rfl
@[simp] theorem State.issued_binds (s : State) (u n : Nat) : (s.issued u n).binds = s.binds := rfl
@[simp] theorem State.issued_watches (s : State) (u n : Nat) : (s.issued u n).watches = s.watches := rfl
@[simp] theorem State.issued_savedTeams (s : State) (u n : Nat) : (s.issued u n).savedTeams = s.savedTeams := rfl
@[simp] theorem State.issued_savedQueues (s : State) (u n : Nat) : (s.issued u n).savedQueues = s.savedQueues := rfl
@[simp] theorem State.issued_savedSlices (s : State) (u n : Nat) : (s.issued u n).savedSlices = s.savedSlices := rfl
@[simp] theorem State.issued_sectors (s : State) (u n : Nat) : (s.issued u n).sectors = s.sectors := rfl
@[simp] theorem State.issued_bad (s : State) (u n : Nat) : (s.issued u n).bad = s.bad := rfl
@[simp] theorem State.issued_errs (s : State) (u n : Nat) : (s.issued u n).errs = s.errs := rfl
@[simp] theorem State.issued_kvOps (s : State) (u n : Nat) : (s.issued u n).kvOps = s.kvOps := rfl
@[simp] theorem State.issued_hub (s : State) (u n : Nat) : (s.issued u n).hub = s.hub := rfl
@[simp] theorem State.issued_mod (s : State) (u n : Nat) : (s.issued u n).mod = s.mod := rfl

@[simp] theorem State.withRegs_cur (s : State) (f : Regs → Regs) : (s.withRegs f).cur = s.cur := rfl
@[simp] theorem State.withRegs_agenda (s : State) (f : Regs → Regs) : (s.withRegs f).agenda = s.agenda := rfl
@[simp] theorem State.withRegs_freeCtr (s : State) (f : Regs → Regs) : (s.withRegs f).freeCtr = s.freeCtr := rfl
@[simp] theorem State.withRegs_now (s : State) (f : Regs → Regs) : (s.withRegs f).now = s.now := rfl
@[simp] theorem State.withRegs_teams (s : State) (f : Regs → Regs) : (s.withRegs f).teams = s.teams.put s.cur (s.team.withRegs f) := rfl
@[simp] theorem State.withRegs_wgs (s : State) (f : Regs → Regs) : (s.withRegs f).wgs = s.wgs := rfl
@[simp] theorem State.withRegs_grids (s : State) (f : Regs → Regs) : (s.withRegs f).grids = s.grids := rfl
@[simp] theorem State.withRegs_ctxs (s : State) (f : Regs → Regs) : (s.withRegs f).ctxs = s.ctxs := rfl
@[simp] theorem State.withRegs_cores (s : State) (f : Regs → Regs) : (s.withRegs f).cores = s.cores := rfl
@[simp] theorem State.withRegs_dies (s : State) (f : Regs → Regs) : (s.withRegs f).dies = s.dies := rfl
@[simp] theorem State.withRegs_mem (s : State) (f : Regs → Regs) : (s.withRegs f).mem = s.mem := rfl
@[simp] theorem State.withRegs_past (s : State) (f : Regs → Regs) : (s.withRegs f).past = s.past := rfl
@[simp] theorem State.withRegs_check (s : State) (f : Regs → Regs) : (s.withRegs f).check = s.check := rfl
@[simp] theorem State.withRegs_release (s : State) (f : Regs → Regs) : (s.withRegs f).release = s.release := rfl
@[simp] theorem State.withRegs_waves (s : State) (f : Regs → Regs) : (s.withRegs f).waves = s.waves := rfl
@[simp] theorem State.withRegs_nextId (s : State) (f : Regs → Regs) : (s.withRegs f).nextId = s.nextId := rfl
@[simp] theorem State.withRegs_copies (s : State) (f : Regs → Regs) : (s.withRegs f).copies = s.copies := rfl
@[simp] theorem State.withRegs_colls (s : State) (f : Regs → Regs) : (s.withRegs f).colls = s.colls := rfl
@[simp] theorem State.withRegs_binds (s : State) (f : Regs → Regs) : (s.withRegs f).binds = s.binds := rfl
@[simp] theorem State.withRegs_watches (s : State) (f : Regs → Regs) : (s.withRegs f).watches = s.watches := rfl
@[simp] theorem State.withRegs_savedTeams (s : State) (f : Regs → Regs) : (s.withRegs f).savedTeams = s.savedTeams := rfl
@[simp] theorem State.withRegs_savedQueues (s : State) (f : Regs → Regs) : (s.withRegs f).savedQueues = s.savedQueues := rfl
@[simp] theorem State.withRegs_savedSlices (s : State) (f : Regs → Regs) : (s.withRegs f).savedSlices = s.savedSlices := rfl
@[simp] theorem State.withRegs_sectors (s : State) (f : Regs → Regs) : (s.withRegs f).sectors = s.sectors := rfl
@[simp] theorem State.withRegs_bad (s : State) (f : Regs → Regs) : (s.withRegs f).bad = s.bad := rfl
@[simp] theorem State.withRegs_errs (s : State) (f : Regs → Regs) : (s.withRegs f).errs = s.errs := rfl
@[simp] theorem State.withRegs_kvOps (s : State) (f : Regs → Regs) : (s.withRegs f).kvOps = s.kvOps := rfl
@[simp] theorem State.withRegs_hub (s : State) (f : Regs → Regs) : (s.withRegs f).hub = s.hub := rfl
@[simp] theorem State.withRegs_mod (s : State) (f : Regs → Regs) : (s.withRegs f).mod = s.mod := rfl

/-! The current team. -/

@[simp] theorem State.setTeam_team (s : State) (t : Team) : (s.setTeam t).team = t := SMap.get_put_same _ _ _
@[simp] theorem State.begin_team (s : State) : s.begin_.team = s.team := rfl
@[simp] theorem State.tick_team (s : State) (d : Nat) : (s.tick d).team = s.team := rfl
@[simp] theorem State.issued_team (s : State) (n : Nat) : (s.issued s.cur n).team = { s.team with lastIssue := s.freeCtr, eligible := 0, promoted := none } := SMap.get_put_same _ _ _
@[simp] theorem State.withRegs_team (s : State) (f : Regs → Regs) : (s.withRegs f).team = s.team.withRegs f := SMap.get_put_same _ _ _
@[simp] theorem Team.withRegs_regs (t : Team) (f : Regs → Regs) : (t.withRegs f).regs = f t.regs := rfl

/-! Registers. -/

@[simp] theorem Regs.writeS_s (r : Regs) (n : Nat) (x : W64) : (r.writeS n x).s = r.s.set n x := rfl
@[simp] theorem Regs.writeS_v (r : Regs) (n : Nat) (x : W64) : (r.writeS n x).v = r.v := rfl
@[simp] theorem Regs.writeS_ab (r : Regs) (n : Nat) (x : W64) : (r.writeS n x).ab = r.ab := rfl
@[simp] theorem Regs.writeS_as (r : Regs) (n : Nat) (x : W64) : (r.writeS n x).as = r.as := rfl
@[simp] theorem Regs.writeS_m (r : Regs) (n : Nat) (x : W64) : (r.writeS n x).m = r.m := rfl
@[simp] theorem Regs.writeS_i (r : Regs) (n : Nat) (x : W64) : (r.writeS n x).i = r.i := rfl
@[simp] theorem Regs.writeV_s (r : Regs) (n l : Nat) (x : W32) : (r.writeV n l x).s = r.s := rfl
@[simp] theorem Regs.writeV_v (r : Regs) (n l : Nat) (x : W32) : (r.writeV n l x).v = r.v.set (laneKey n l) x := rfl
@[simp] theorem Regs.writeV_ab (r : Regs) (n l : Nat) (x : W32) : (r.writeV n l x).ab = r.ab := rfl
@[simp] theorem Regs.writeV_as (r : Regs) (n l : Nat) (x : W32) : (r.writeV n l x).as = r.as := rfl
@[simp] theorem Regs.writeV_m (r : Regs) (n l : Nat) (x : W32) : (r.writeV n l x).m = r.m := rfl
@[simp] theorem Regs.writeV_i (r : Regs) (n l : Nat) (x : W32) : (r.writeV n l x).i = r.i := rfl
@[simp] theorem Regs.writeI_s (r : Regs) (n l : Nat) (x : IReg) : (r.writeI n l x).s = r.s := rfl
@[simp] theorem Regs.writeI_v (r : Regs) (n l : Nat) (x : IReg) : (r.writeI n l x).v = r.v := rfl
@[simp] theorem Regs.writeI_ab (r : Regs) (n l : Nat) (x : IReg) : (r.writeI n l x).ab = r.ab := rfl
@[simp] theorem Regs.writeI_as (r : Regs) (n l : Nat) (x : IReg) : (r.writeI n l x).as = r.as := rfl
@[simp] theorem Regs.writeI_m (r : Regs) (n l : Nat) (x : IReg) : (r.writeI n l x).m = r.m := rfl
@[simp] theorem Regs.writeI_i (r : Regs) (n l : Nat) (x : IReg) : (r.writeI n l x).i = r.i.set (laneKey n l) x := rfl
@[simp] theorem Regs.writeM_s (r : Regs) (w n : Nat) (x : Mask) : (r.writeM w n x).s = r.s := rfl
@[simp] theorem Regs.writeM_v (r : Regs) (w n : Nat) (x : Mask) : (r.writeM w n x).v = r.v := rfl
@[simp] theorem Regs.writeM_ab (r : Regs) (w n : Nat) (x : Mask) : (r.writeM w n x).ab = r.ab := rfl
@[simp] theorem Regs.writeM_as (r : Regs) (w n : Nat) (x : Mask) : (r.writeM w n x).as = r.as := rfl
@[simp] theorem Regs.writeM_m (r : Regs) (w n : Nat) (x : Mask) : (r.writeM w n x).m = r.m.set n (x &&& fullMask w) := rfl
@[simp] theorem Regs.writeM_i (r : Regs) (w n : Nat) (x : Mask) : (r.writeM w n x).i = r.i := rfl
@[simp] theorem Regs.writeA_s (r : Regs) (n : Nat) (x : W64) (y : W32) : (r.writeA n x y).s = r.s := rfl
@[simp] theorem Regs.writeA_v (r : Regs) (n : Nat) (x : W64) (y : W32) : (r.writeA n x y).v = r.v := rfl
@[simp] theorem Regs.writeA_ab (r : Regs) (n : Nat) (x : W64) (y : W32) : (r.writeA n x y).ab = r.ab.set n x := rfl
@[simp] theorem Regs.writeA_as (r : Regs) (n : Nat) (x : W64) (y : W32) : (r.writeA n x y).as = r.as.set n y := rfl
@[simp] theorem Regs.writeA_m (r : Regs) (n : Nat) (x : W64) (y : W32) : (r.writeA n x y).m = r.m := rfl
@[simp] theorem Regs.writeA_i (r : Regs) (n : Nat) (x : W64) (y : W32) : (r.writeA n x y).i = r.i := rfl

end Sys2Proof.Machine
end

