-- ==== Sys2Proof/Laws/Memory.lean ====
section
/-! SUPPORT. Memory: every write keeps the canonical form, a read after a write gives the byte written, and a write
leaves every other byte alone. -/

namespace Sys2Proof.Machine

theorem State.reset_wf : Memory.wf State.reset := rfl

theorem State.setByte_wf (s : State) (a : Nat) (b : Byte) (h : Memory.wf s) : Memory.wf (s.setByte a b) :=
  SMap.wf_set s.mem (canonPA a) b h

theorem State.putBytes_wf (s : State) (a : Nat) (l : List Byte) (h : Memory.wf s) : Memory.wf (s.putBytes a l) := by
  induction l generalizing s a with
  | nil => exact h
  | cons b r ih => exact ih _ _ (s.setByte_wf a b h)

theorem State.setBytes_wf (s : State) (a : Nat) (l : List Byte) (h : Memory.wf s) : Memory.wf (s.setBytes a l) :=
  s.putBytes_wf a l h

theorem State.setNum_wf (s : State) (a n x : Nat) (h : Memory.wf s) : Memory.wf (s.setNum a n x) :=
  s.setBytes_wf a _ h

theorem State.byteAt_setByte_same (s : State) (a : Nat) (b : Byte) (h : Memory.wf s) : (s.setByte a b).byteAt a = b :=
  SMap.get_set_same s.mem (canonPA a) b h

theorem State.byteAt_setByte_ne (s : State) {a c : Nat} (b : Byte) (h : canonPA c ≠ canonPA a) :
    (s.setByte a b).byteAt c = s.byteAt c :=
  SMap.get_set_ne s.mem b h

theorem State.byteAt_putBytes_ne (s : State) (a c : Nat) (l : List Byte)
    (h : ∀ i, i < l.length → canonPA c ≠ canonPA (a + i)) : (s.putBytes a l).byteAt c = s.byteAt c := by
  induction l generalizing s a with
  | nil => rfl
  | cons b r ih =>
    have h0 : canonPA c ≠ canonPA a := by simpa using h 0 (by simp)
    have hr : ∀ i, i < r.length → canonPA c ≠ canonPA (a + 1 + i) := fun i hi => by
      have := h (i + 1) (by simpa using hi)
      rwa [show a + (i + 1) = a + 1 + i by omega] at this
    show ((s.setByte a b).putBytes (a + 1) r).byteAt c = s.byteAt c
    rw [ih _ _ hr, s.byteAt_setByte_ne b h0]

/-- A write of bytes leaves every byte of another name alone. -/
theorem State.byteAt_setBytes_ne (s : State) (a c : Nat) (l : List Byte)
    (h : ∀ i, i < l.length → canonPA c ≠ canonPA (a + i)) : (s.setBytes a l).byteAt c = s.byteAt c :=
  s.byteAt_putBytes_ne a c l h

theorem State.putBytes_mem_only (s : State) (a : Nat) (l : List Byte) :
    s.putBytes a l = { s with mem := (s.putBytes a l).mem } := by
  induction l generalizing s a with
  | nil => rfl
  | cons b r ih =>
    show (s.setByte a b).putBytes (a + 1) r = { s with mem := ((s.setByte a b).putBytes (a + 1) r).mem }
    rw [ih]
    rfl

/-- Bytes change memory, with what a sampler may still read of it, and nothing else. -/
theorem State.setBytes_mem_only (s : State) (a : Nat) (l : List Byte) :
    s.setBytes a l = { s with mem := (s.setBytes a l).mem, past := (s.setBytes a l).past } := by
  show ({ s.putBytes a l with past := _ } : State) = _
  rw [s.putBytes_mem_only]
  rfl

@[simp] theorem State.setBytes_teams (s : State) (a : Nat) (l : List Byte) : (s.setBytes a l).teams = s.teams := by
  rw [s.setBytes_mem_only]
@[simp] theorem State.setBytes_cur (s : State) (a : Nat) (l : List Byte) : (s.setBytes a l).cur = s.cur := by
  rw [s.setBytes_mem_only]
@[simp] theorem State.setBytes_cores (s : State) (a : Nat) (l : List Byte) : (s.setBytes a l).cores = s.cores := by
  rw [s.setBytes_mem_only]

end Sys2Proof.Machine
end

