-- ==== Sys2Proof/Laws/Words.lean ====
section
/-! SUPPORT. What a word can do: everything `State.runWord` answers, and what each end of an effect makes of the state. -/

namespace Sys2Proof.Machine

open Sys2Proof.Safety

theorem lowest_nil_iff (l : List Nat) : lowest l = none ↔ l = [] := by
  cases l with
  | nil => simp [lowest]
  | cons a r => simp only [lowest]; split <;> simp

/-- A word that passes its checks, and whose transfer, if it makes one, goes to a clause header, has its effect. -/
theorem State.runWord_passes {i : Instr} {s : State} (h : Passes i s) (eff : Wd → State → Eff)
    (ht : s.begin_.targetFault (wordOf i s) (eff (wordOf i s) s.begin_) = none) :
    s.runWord i eff =
      .next ((s.begin_.settle (wordOf i s) (setsOf i s) (eff (wordOf i s) s.begin_)).tick (dieOf s.cur)) := by
  have hd : lowest (s.begin_.details i) = none := (lowest_nil_iff _).2 h.details
  have ht' : s.begin_.targetFault (s.begin_.wd i) (eff (s.begin_.wd i) s.begin_) = none := ht
  have hc : useSet ((s.begin_.wd i).f).writes &&&
      (s.begin_.team.rbw ||| (readSet (s.begin_.wd i).f (s.begin_.wd i).h &&& ~~~s.begin_.team.wr)) = 0 := h.contract
  have hb : s.begin_.badReg s.begin_.cur (readSet (s.begin_.wd i).f (s.begin_.wd i).h) = none := h.whole
  unfold State.runWord
  simp only [hd, ht', hb]
  rw [if_neg (by rw [hc]; simp)]
  by_cases hw : s.begin_.team.wait = .none
  · have hz : ¬ (s.begin_.team.wait = .none ∧ ((s.begin_.ctxOf s.begin_.team).cfg.hazard = true) ∧
        ((readSet (s.begin_.wd i).f (s.begin_.wd i).h ||| useSet (s.begin_.wd i).f.writes ||| useSet (s.begin_.wd i).f.seamWrites) &&&
          s.begin_.team.pendingRegs) ≠ 0) := fun ⟨_, a, b⟩ => b (h.hazard hw a)
    rw [if_neg hz]
    rw [if_neg]
    · rfl
    · intro ⟨_, q⟩
      have := h.flag hw
      change ∀ n, flagOf (s.begin_.wd i).f s.begin_.team.flow.pos = some n → _ at this
      cases hq : flagOf (s.begin_.wd i).f s.begin_.team.flow.pos with
      | none => rw [hq] at q; exact Bool.noConfusion q
      | some n => rw [hq] at q; exact this n hq (by simpa using q)
  · rw [if_neg (fun q => hw q.1), if_neg (fun q => hw q.1)]
    rfl

/-- Everything a word can do: one of the checks refuses it, or the target of its transfer or the data of a register does, and it traps;
it waits for a free place on its flag; or its effect follows. -/
theorem State.runWord_cases (i : Instr) (s : State) (eff : Wd → State → Eff) :
    (∃ z u r, s.runWord i eff = .next ((z.takeTrap u r).tick (dieOf s.cur)) ∧
      ((z = s.begin_ ∧ u = s.cur ∧ (r.cause = cILLEGAL ∨ r.cause = cCONTRACT ∨ r.cause = cHAZARD)) ∨
       (∃ f, s.begin_.targetFault (wordOf i s) (eff (wordOf i s) s.begin_) = some (f, r) ∧ z = s.begin_.fetchFailed s.cur r.addr f ∧
         u = s.cur) ∨
       ∃ b, s.badReg s.cur (readSet (info i) s.team.hints) = some b ∧ r.cause = cMEMERR ∧ u = z.cur)) ∨
    s.runWord i eff = .next ((s.begin_.stalled 4).tick (dieOf s.cur)) ∨
    (Passes i s ∧ s.begin_.targetFault (wordOf i s) (eff (wordOf i s) s.begin_) = none) := by
  by_cases hd : s.details i = []
  · have h1 : lowest (s.begin_.details i) = none := (lowest_nil_iff _).2 hd
    cases ht : s.begin_.targetFault (wordOf i s) (eff (wordOf i s) s.begin_) with
    | some q =>
      obtain ⟨f, r⟩ := q
      refine .inl ⟨s.begin_.fetchFailed s.cur r.addr f, s.cur, r, ?_, .inr (.inl ⟨f, rfl, rfl, rfl⟩)⟩
      have ht' : s.begin_.targetFault (s.begin_.wd i) (eff (s.begin_.wd i) s.begin_) = some (f, r) := ht
      unfold State.runWord
      simp only [h1, ht']
      rfl
    | none =>
      have ht' : s.begin_.targetFault (s.begin_.wd i) (eff (s.begin_.wd i) s.begin_) = none := ht
      by_cases hc : useSet (info i).writes &&& readBefore i s = 0
      · have h2 : useSet ((s.begin_.wd i).f).writes &&&
          (s.begin_.team.rbw ||| (readSet (s.begin_.wd i).f (s.begin_.wd i).h &&& ~~~s.begin_.team.wr)) = 0 := hc
        by_cases hz : s.team.wait = .none ∧ (s.ctxOf s.team).cfg.hazard = true ∧ (regsTouched i s &&& s.team.pendingRegs) ≠ 0
        · refine .inl ⟨s.begin_, s.cur, (s.begin_.wd i).trap s.begin_ cHAZARD, ?_, .inl ⟨rfl, rfl, .inr (.inr rfl)⟩⟩
          unfold State.runWord
          simp only [h1, ht']
          rw [if_neg (by rw [h2]; simp)]
          exact if_pos hz
        · cases hb : s.badReg s.cur (readSet (info i) s.team.hints) with
          | some b =>
            have hb' : s.begin_.badReg s.begin_.cur (readSet (s.begin_.wd i).f (s.begin_.wd i).h) = some b := hb
            let s1 := (s.begin_.errRecord 0 4 (dieOf s.cur) (some s.cur) (some s.team.place.ctx)).mended (regKey s.cur b)
            refine .inl ⟨s1, s1.cur, (s.begin_.wd i).trap s1 cMEMERR, ?_, .inr (.inr ⟨b, rfl, rfl, rfl⟩)⟩
            unfold State.runWord
            simp only [h1, ht', hb']
            rw [if_neg (by rw [h2]; simp)]
            exact if_neg hz
          | none =>
            have hb' : s.begin_.badReg s.begin_.cur (readSet (s.begin_.wd i).f (s.begin_.wd i).h) = none := hb
            by_cases hf : s.team.wait = .none ∧ ∃ n, flagOf (info i) s.team.flow.pos = some n ∧ s.team.flags.get n = 63
            · refine .inr (.inl ?_)
              obtain ⟨hw, n, hn, hv⟩ := hf
              unfold State.runWord
              simp only [h1, ht', hb']
              rw [if_neg (by rw [h2]; simp)]
              refine (if_neg hz).trans (if_pos ⟨hw, ?_⟩)
              change flagOf (s.begin_.wd i).f s.begin_.team.flow.pos = some n at hn
              rw [hn]
              exact beq_iff_eq.2 hv
            · exact .inr (.inr ⟨⟨hd, hc, hb, fun a b => by
                by_contra q
                exact hz ⟨a, b, q⟩, fun a n hn q => hf ⟨a, n, hn, q⟩⟩, rfl⟩)
      · refine .inl ⟨s.begin_, s.cur, (s.begin_.wd i).trap s.begin_ cCONTRACT 0 0 0xFFFF (auxOf (useSet (info i).writes &&& readBefore i s)), ?_,
          .inl ⟨rfl, rfl, .inr (.inl rfl)⟩⟩
        unfold State.runWord
        simp only [h1, ht']
        exact if_pos hc
  · cases hl : lowest (s.begin_.details i) with
    | none => exact absurd ((lowest_nil_iff _).1 hl) hd
    | some d =>
      refine .inl ⟨s.begin_, s.cur, (s.begin_.wd i).trap s.begin_ cILLEGAL d, ?_, .inl ⟨rfl, rfl, .inl rfl⟩⟩
      unfold State.runWord
      simp only [hl]
      rfl

/-! What a word that passes its checks makes of the state, by the end that its effect has. -/

theorem State.runWord_next {i : Instr} {s : State} {eff : Wd → State → Eff} (h : Passes i s) {f : State → State}
    (he : eff (wordOf i s) s.begin_ = .next (f s.begin_)) : s.runWord i eff = .next (after i s f) := by
  rw [State.runWord_passes h _ (by rw [he]; rfl), he]; rfl

theorem State.runWord_seam {i : Instr} {s : State} {eff : Wd → State → Eff} (h : Passes i s) {f : State → State}
    {d : RegSet} (he : eff (wordOf i s) s.begin_ = .seam (f s.begin_) d) :
    s.runWord i eff = .next (Safety.afterSeam i s f d) := by
  rw [State.runWord_passes h _ (by rw [he]; rfl), he]; rfl

theorem State.runWord_placed {i : Instr} {s : State} {eff : Wd → State → Eff} (h : Passes i s) {f : State → State}
    (he : eff (wordOf i s) s.begin_ = .placed (f s.begin_)) :
    s.runWord i eff = .next ((f s.begin_).tick (dieOf s.cur)) := by
  rw [State.runWord_passes h _ (by rw [he]; rfl), he]; rfl

/-- A word that waits, as it already did: only the reason is noted. -/
theorem State.runWord_hold {i : Instr} {s : State} {eff : Wd → State → Eff} (h : Passes i s) {f : State → State} {reason : Nat}
    (he : eff (wordOf i s) s.begin_ = .hold (f s.begin_) reason) (hw : (f s.begin_).team.wait = s.team.wait) :
    s.runWord i eff = .next (((f s.begin_).stalled reason).tick (dieOf s.cur)) := by
  have hw' : ((f s.begin_).stalled reason).team.wait = (wordOf i s).wait := by simpa [State.stalled, wordOf, State.wd] using hw
  rw [State.runWord_passes h _ (by rw [he]; rfl), he]
  simp only [State.settle, hw', if_true]

/-- A word that begins to wait for something has issued. -/
theorem State.runWord_waits {i : Instr} {s : State} {eff : Wd → State → Eff} (h : Passes i s) {f : State → State} {reason : Nat}
    (he : eff (wordOf i s) s.begin_ = .hold (f s.begin_) reason) (hw : (f s.begin_).team.wait ≠ s.team.wait) :
    s.runWord i eff =
      .next ((((f s.begin_).stalled reason).issued (f s.begin_).cur (wordOf i s).clocks).tick (dieOf s.cur)) := by
  have hw' : ((f s.begin_).stalled reason).team.wait ≠ (wordOf i s).wait := by simpa [State.stalled, wordOf, State.wd] using hw
  rw [State.runWord_passes h _ (by rw [he]; rfl), he]
  simp only [State.settle, if_neg hw']
  rfl

/-- A transfer to a clause header has no fault at its target. -/
theorem State.targetFault_header {s : State} {w : Wd} {target : W64} {a : Except TrapReq State} (ht : headerAt s target) :
    s.begin_.targetFault w (.go target a) = none := by
  obtain ⟨x, hx, hh⟩ := ht
  have hx' : s.begin_.fetchWord s.begin_.cur target = .ok x := hx
  simp only [State.targetFault, hx', hh, if_true, ite_self]

/-- A word that is no transfer checks no target. -/
theorem State.targetFault_not_last {s : State} {w : Wd} (h : w.f.last = false) (e : Eff) : s.targetFault w e = none := by
  cases e <;> simp [State.targetFault, h]

theorem State.runWord_go {i : Instr} {s : State} {eff : Wd → State → Eff} (h : Passes i s) {f : State → State}
    {target : W64} (he : eff (wordOf i s) s.begin_ = .go target (.ok (f s.begin_))) (ht : headerAt s target) :
    s.runWord i eff = .next (afterJump i s f target) := by
  rw [State.runWord_passes h _ (by rw [he]; exact State.targetFault_header ht), he]; rfl

end Sys2Proof.Machine
end

