-- ==== Sys2Proof/Laws/Accesses.lean ====
section
/-! SUPPORT. What a word that accesses memory makes of the state: what filling the translation caches leaves alone, and what
`issueWord` and `issueStores` answer. -/

namespace Sys2Proof.Machine

open Sys2Proof.Safety

/-- The team that was put is the team. -/
theorem State.team_setTeam (s : State) (t : Team) : (s.setTeam t).team = t :=
  SMap.get_put_same s.teams s.cur t

/-- The later of two teams put stands. -/
theorem State.setTeam_setTeam (s : State) (t u : Team) : (s.setTeam t).setTeam u = s.setTeam u := by
  simp only [State.setTeam, SMap.put_put]

/-! ### What wakes sleepers changes of a team only its monitor and its stall reason -/

/-- A team but for its monitor and the reason for which it waits. -/
def Team.calm (t : Team) : Team := { t with mon := none, stall := none }

/-- The same team is current, no number has been given out, and every team is the same but for its monitor and the reason for which it
waits. -/
structure Calm (s t : State) : Prop where
  cur : t.cur = s.cur
  nextId : t.nextId = s.nextId
  teams : ∀ u, (t.teams.get u).calm = (s.teams.get u).calm

theorem Calm.refl (s : State) : Calm s s := ⟨rfl, rfl, fun _ => rfl⟩
theorem Calm.trans {s t u : State} (h : Calm s t) (k : Calm t u) : Calm s u :=
  ⟨k.1.trans h.1, k.2.trans h.2, fun v => (k.3 v).trans (h.3 v)⟩

/-- What changes neither the teams nor which of them is current. -/
theorem Calm.of_eq {s t : State} (hc : t.cur = s.cur) (hn : t.nextId = s.nextId) (ht : t.teams = s.teams) : Calm s t :=
  ⟨hc, hn, fun u => by rw [ht]⟩

theorem Calm.team {s t : State} (h : Calm s t) : t.team.calm = s.team.calm := by
  unfold State.team
  rw [h.1]
  exact h.3 s.cur

/-- A property of a team that its monitor and its reason do not change. -/
theorem Calm.keeps {s t : State} (h : Calm s t) {α : Type} (f : Team → α) (hf : ∀ x : Team, f x.calm = f x) : f t.team = f s.team := by
  rw [← hf t.team, ← hf s.team, h.team]

theorem Calm.wait {s t : State} (h : Calm s t) : t.team.wait = s.team.wait := h.keeps Team.wait (fun _ => rfl)
theorem Calm.fail {s t : State} (h : Calm s t) : t.team.fail = s.team.fail := h.keeps Team.fail (fun _ => rfl)
theorem Calm.nextSeq {s t : State} (h : Calm s t) : t.team.nextSeq = s.team.nextSeq := h.keeps Team.nextSeq (fun _ => rfl)
theorem Calm.words {s t : State} (h : Calm s t) : t.team.words = s.team.words := h.keeps Team.words (fun _ => rfl)

theorem Calm.foldl {α : Type} {f : State → α → State} (hf : ∀ s x, Calm s (f s x)) (l : List α) (s : State) : Calm s (l.foldl f s) := by
  induction l generalizing s with
  | nil => exact Calm.refl s
  | cons x r ih => exact (hf s x).trans (ih _)

theorem calm_woken (t : Team) : t.woken.calm = t.calm := rfl

theorem State.modTeam_woken_calm (s : State) (u : Nat) : Calm s (s.modTeam u Team.woken) := by
  refine ⟨rfl, rfl, fun v => ?_⟩
  show ((s.teams.put u (s.teams.get u).woken).get v).calm = _
  by_cases h : v = u
  · subst h; rw [SMap.get_put_same]; rfl
  · rw [SMap.get_put_ne _ _ h]

theorem State.wake_calm (s : State) (core line : Nat) : Calm s (s.wake core line) :=
  Calm.foldl (fun s u => s.modTeam_woken_calm u) _ s

theorem State.modWg_calm (s : State) (k : Nat) (f : Wg → Wg) : Calm s (s.modWg k f) := Calm.of_eq rfl rfl rfl
theorem State.modDie_calm (s : State) (k : Nat) (f : Die → Die) : Calm s (s.modDie k f) := Calm.of_eq rfl rfl rfl
theorem State.raise_calm (s : State) (v : Nat) : Calm s (s.raise v) := Calm.of_eq rfl rfl rfl
theorem State.mended_calm (s : State) (k : Nat) : Calm s (s.mended k) := Calm.of_eq rfl rfl rfl

theorem State.setBytes_calm (s : State) (a : Nat) (l : List Byte) : Calm s (s.setBytes a l) :=
  Calm.of_eq (s.setBytes_cur a l) (by rw [s.setBytes_mem_only]) (s.setBytes_teams a l)

/-- What a map reads after a change of its values that the unlisted value does not need. -/
theorem listGet_map {α β : Type}  {d : α} {g : Nat × α → Nat × α} (hk : ∀ e, (g e).1 = e.1) (p : α → β) (hp : ∀ e, p (g e).2 = p e.2)
    (l : List (Nat × α)) (k : Nat) : p (listGet d k (l.map g)) = p (listGet d k l) := by
  induction l with
  | nil => rfl
  | cons e r ih =>
    have e1 : listGet d k ((e :: r).map g) = if e.1 = k then (g e).2 else listGet d k (r.map g) := by
      show listGet d k (((g e).1, (g e).2) :: r.map g) = _
      rw [listGet, hk]
    have e2 : listGet d k (e :: r) = if e.1 = k then e.2 else listGet d k r := rfl
    rw [e1, e2]
    split
    · exact hp e
    · exact ih

theorem State.dropCopies_calm (s : State) (line : Nat) : Calm s (s.dropCopies line) := by
  let g (e : Nat × Team) : Nat × Team :=
    match e.2.mon with
    | some (l, _, _) => if l = line then (e.1, e.2.woken) else e
    | none => e
  have hg : ∀ e, (g e).1 = e.1 ∧ (g e).2.calm = e.2.calm := by
    intro e
    show (match e.2.mon with | some (l, _, _) => if l = line then (e.1, e.2.woken) else e | none => e).1 = e.1 ∧
      (match e.2.mon with | some (l, _, _) => if l = line then (e.1, e.2.woken) else e | none => e).2.calm = e.2.calm
    cases e.2.mon with
    | none => exact ⟨rfl, rfl⟩
    | some m => dsimp only; split <;> exact ⟨rfl, rfl⟩
  exact ⟨rfl, rfl, fun u => listGet_map (fun e => (hg e).1) Team.calm (fun e => (hg e).2) s.teams.entries u⟩

theorem State.giveBack_calm (s : State) (line : Nat) : Calm s (s.giveBack line) := by
  unfold State.giveBack
  split
  · exact Calm.refl s
  · exact (Calm.foldl (fun s j => by split; exacts [s.setBytes_calm _ _, Calm.refl s]) _ s).trans (State.modWg_calm _ _ _)

theorem State.claim_calm (s : State) (line : Nat) : Calm s (s.claim line) :=
  (s.giveBack_calm line).trans (State.dropCopies_calm _ line)

theorem State.homeNum_calm (s : State) (pa n x : Nat) : Calm s (s.homeNum pa n x) :=
  (s.claim_calm _).trans (State.setBytes_calm _ _ _)

theorem State.homeBytes_calm (s : State) (pa : Nat) (l : List Byte) : Calm s (s.homeBytes pa l) :=
  (Calm.foldl (fun s _ => s.claim_calm _) _ s).trans (State.setBytes_calm _ _ _)

theorem State.ringPut_calm (s : State) (base : Nat) (l : List Byte) (v : Nat) : Calm s (s.ringPut base l v).1 := by
  unfold State.ringPut
  split
  · exact Calm.refl s
  · split
    · exact s.homeNum_calm _ _ _
    · exact ((s.homeBytes_calm _ _).trans (State.homeNum_calm _ _ _ _)).trans (State.raise_calm _ _)

theorem State.errRecord_calm (s : State) (pa unit die : Nat) (uid ctx : Option Nat) : Calm s (s.errRecord pa unit die uid ctx) := by
  unfold State.errRecord
  extract_lets sec n s1 cons r s2 s3
  have h1 : Calm s s1 := Calm.of_eq rfl rfl rfl
  have h3 : Calm s s3 := (h1.trans (s1.modDie_calm die _)).trans (s2.ringPut_calm _ r 4)
  cases ctx with
  | none => exact h3
  | some c => exact h3.trans (s3.ringPut_calm _ r 4)

/-! ### Filling the translation caches -/

theorem State.mendTlb_calm (s : State) (core ctx : Nat) (uid : Option Nat) (l : List W64) : Calm s (s.mendTlb core ctx uid l) := by
  induction l generalizing s with
  | nil => exact Calm.refl s
  | cons va r ih =>
    unfold State.mendTlb
    dsimp only
    refine Calm.trans ?_ (ih _)
    split
    · exact (s.errRecord_calm _ _ _ _ _).trans (State.mended_calm _ _)
    · exact Calm.refl s

/-- Walks change the translation caches of a core and its die, and nothing else. -/
theorem State.fillTlb_caches_only (s : State) (core ctx : Nat) (l : List W64) :
    s.fillTlb core ctx l = { s with dies := (s.fillTlb core ctx l).dies, cores := (s.fillTlb core ctx l).cores } := by
  induction l generalizing s with
  | nil => rfl
  | cons va r ih =>
    unfold State.fillTlb
    dsimp only
    split
    · exact ih s
    · rw [ih]; rfl

/-- Block-table entries change the translation cache of a die, and nothing else. -/
theorem State.fillKv_dies_only (s : State) (core ctx : Nat) (d : KvDesc) (l : List W64) :
    s.fillKv core ctx d l = { s with dies := (s.fillKv core ctx d l).dies } := by
  induction l generalizing s with
  | nil => rfl
  | cons va r ih =>
    unfold State.fillKv
    dsimp only
    split
    · exact ih s
    · rw [ih]; rfl

/-- With no address nothing is filled. -/
@[simp] theorem State.fillCaches_nil (s : State) (core ctx : Nat) (uid : Option Nat) : s.fillCaches core ctx uid [] = s := by
  unfold State.fillCaches
  have h : (if s.bad.entries.isEmpty = true then s else s.mendTlb core ctx uid []).fillTlb core ctx [] = s := by
    split <;> rfl
  rw [h]
  cases h2 : s.kvDesc ctx <;> simp only [h2, State.fillKv]

/-- Filling the translation caches leaves every team as it is, but for sleepers that an error record may wake. -/
theorem State.fillCaches_calm (s : State) (core ctx : Nat) (uid : Option Nat) (l : List W64) : Calm s (s.fillCaches core ctx uid l) := by
  have h : Calm s ((if s.bad.entries.isEmpty = true then s else s.mendTlb core ctx uid l).fillTlb core ctx l) := by
    have h (z : State) : Calm z (z.fillTlb core ctx l) :=
      Calm.of_eq (by rw [State.fillTlb_caches_only]) (by rw [State.fillTlb_caches_only]) (by rw [State.fillTlb_caches_only])
    refine Calm.trans ?_ (h _)
    split
    · exact Calm.refl s
    · exact s.mendTlb_calm core ctx uid l
  unfold State.fillCaches
  dsimp only
  split
  · exact h
  · exact h.trans (Calm.of_eq (by rw [State.fillKv_dies_only]) (by rw [State.fillKv_dies_only]) (by rw [State.fillKv_dies_only]))

/-! ### Outstanding words -/

/-- A team gives its places up and changes nothing else of itself. -/
theorem State.leaveWaits_teams (s : State) (u : Nat) : (s.leaveWaits u).teams = s.teams := by
  unfold State.leaveWaits
  dsimp only
  split <;> rfl

theorem State.leaveWaits_cur (s : State) (u : Nat) : (s.leaveWaits u).cur = s.cur := by
  unfold State.leaveWaits
  dsimp only
  split <;> rfl

theorem State.leaveWaits_nextId (s : State) (u : Nat) : (s.leaveWaits u).nextId = s.nextId := by
  unfold State.leaveWaits
  dsimp only
  split <;> rfl

/-- A pass that issues leaves its team as it was, but for its word, its place in its port's order, and what its own store wakes. -/
theorem State.issuePass_team (s : State) (v : LongWord) (pass : Nat) (lines : List Nat) :
    (s.issuePass v pass lines).cur = s.cur ∧
    (s.issuePass v pass lines).team.calm =
      ({ (s.team.setWord (v.passed pass lines)) with lastIssue := s.freeCtr, eligible := 0, promoted := none } : Team).calm := by
  let s1 := ((s.leaveWaits s.cur).modTeam s.cur (fun t => t.setWord (v.passed pass lines))).issued s.cur 1
  have hc1 : s1.cur = s.cur := s.leaveWaits_cur s.cur
  have ht1 : s1.team =
      { (s.team.setWord (v.passed pass lines)) with lastIssue := s.freeCtr, eligible := 0, promoted := none } := by
    have hf : (s.leaveWaits s.cur).freeCtr = s.freeCtr := by unfold State.leaveWaits; dsimp only; split <;> rfl
    unfold State.team
    rw [hc1]
    show (((s.leaveWaits s.cur).teams.put s.cur _).put s.cur _).get s.cur = _
    rw [SMap.get_put_same]
    have : ((s.leaveWaits s.cur).modTeam s.cur (fun t => t.setWord (v.passed pass lines))).teams.get s.cur =
        s.team.setWord (v.passed pass lines) := by
      show ((s.leaveWaits s.cur).teams.put s.cur (((s.leaveWaits s.cur).teams.get s.cur).setWord _)).get s.cur = _
      rw [SMap.get_put_same, s.leaveWaits_teams]; rfl
    have e : ({ (((s.leaveWaits s.cur).modTeam s.cur (fun t => t.setWord (v.passed pass lines))).teams.get s.cur) with
        lastIssue := (s.leaveWaits s.cur).freeCtr, eligible := 0, promoted := none } : Team) =
        { (s.team.setWord (v.passed pass lines)) with lastIssue := s.freeCtr, eligible := 0, promoted := none } := by rw [this, hf]
    exact e
  have hk : Calm s1 (s.issuePass v pass lines) := by
    unfold State.issuePass
    dsimp only
    split
    · split
      · exact Calm.foldl (fun s l => s.wake_calm _ l) _ _
      · exact Calm.refl _
    · exact Calm.refl _
  exact ⟨hk.1.trans hc1, by rw [hk.team, ht1]⟩

/-- The first pass of a word leaves its team waiting for the word, and no failure of its own. -/
theorem State.openPass_team (s : State) (w : Wd) (lw : LongWord) (pass : Nat) (lines : List Nat) :
    (s.openPass w lw pass lines).cur = s.cur ∧ (s.openPass w lw pass lines).team.wait = .access s.nextId ∧
    (s.openPass w lw pass lines).team.fail = s.team.fail := by
  let s0 := (s.addWord w lw).1
  obtain ⟨h1, h2⟩ := s0.issuePass_team (s.newWord w lw) pass lines
  have h3 := congrArg Team.fail h2
  have ht : s0.team.fail = s.team.fail := by
    show ((s.fresh.2.setTeam _).team).fail = _
    rw [State.team_setTeam]; rfl
  refine ⟨h1, ?_, ?_⟩
  · unfold State.openPass; dsimp only; rw [State.team_setTeam]
  · unfold State.openPass; dsimp only; rw [State.team_setTeam]
    exact h3.trans ht

/-! ### Passes -/

theorem nextPass_const {n : Nat} {l : List Nat} (h0 : l ≠ []) (h : ∀ x ∈ l, x = n) : nextPass l = some n := by
  have aux : ∀ (l : List Nat), (∀ x ∈ l, x = n) → l.foldl (fun m n => match m with
      | none => some n | some x => some (if n < x then n else x)) (some n) = some n := by
    intro l
    induction l with
    | nil => intro _; rfl
    | cons x r ih =>
      intro h
      have hx := h x (List.mem_cons_self ..)
      subst hx
      simp only [List.foldl_cons, Nat.lt_irrefl, if_false]
      exact ih (fun y hy => h y (List.mem_cons_of_mem _ hy))
  cases l with
  | nil => exact absurd rfl h0
  | cons x r =>
    have hx := h x (List.mem_cons_self ..)
    subst hx
    exact aux r (fun y hy => h y (List.mem_cons_of_mem _ hy))

theorem onePass_nextPass {parts : List Part} {n : Nat} (h : OnePass parts n) : nextPass (parts.map Part.pass) = some n :=
  nextPass_const (by simpa using h.1) (fun x hx => by
    obtain ⟨p, hp, rfl⟩ := List.mem_map.1 hx
    exact h.2 p hp)

/-- Once its last pass has issued, no pass of a word is left. -/
theorem LongWord.passed_left {v : LongWord} {n : Nat} {lines : List Nat} (h : ∀ p ∈ v.parts, p.issued = false → p.pass = n) :
    (v.passed n lines).passLeft = none := by
  have : (v.passed n lines).parts.filter (fun p => !p.issued) = [] := by
    rw [List.filter_eq_nil_iff]
    intro q hq
    obtain ⟨p, hp, rfl⟩ := List.mem_map.1 hq
    by_cases hi : p.pass = n
    · simp [hi]
    · simp only [hi, if_false]
      intro hf
      exact hi (h p hp (by simpa using hf))
  unfold LongWord.passLeft
  rw [this]
  rfl

/-- A word whose requests need no check first has no check left. -/
theorem allChecked_of_not_first {race : Nat} {parts : List Part} {v : LongWord} (h : checkedFirst race parts = false) (hr : v.who.race = race)
    (h1 : race = 1) (hp : ∀ p ∈ v.parts, ∃ q ∈ parts, p.rc = q.rc) : v.allChecked = true := by
  subst h1
  simp only [checkedFirst, beq_self_eq_true, Bool.true_and, List.any_eq_false] at h
  unfold LongWord.allChecked
  rw [List.all_eq_true]
  intro p hpm
  obtain ⟨q, hq, e⟩ := hp p hpm
  have := h q hq
  simp [Who.checks, e, this]

/-! ### What `issueWord` answers -/

/-- A word that waits for nothing more goes on. -/
theorem State.wordGoes_done {s : State} {w : Wd} {v : LongWord} {done : State → Eff} (hp : v.passLeft = none)
    (hc : v.who.race = 1 → v.allChecked = true) (hf : s.team.fail = none) : s.wordGoes w v done = done s := by
  unfold State.wordGoes
  rw [if_neg (by simp [hp]), if_neg (fun q => by simp [hc q.1] at q), hf]

/-- A word without requests is outstanding, or complete. -/
theorem State.issueWord_empty {s : State} {w : Wd} {lw : LongWord} {done : State → Eff} (hw : s.team.wait = .none) :
    s.issueWord w [] lw done = s.outstanding w lw (lw.kind == .atomic) := by
  simp only [State.issueWord, hw]
  rfl

/-- A word of one pass that the miss tracker accepts, and that needs no check first, is outstanding. -/
theorem State.issueWord_open {s : State} {w : Wd} {parts : List Part} {lw : LongWord} {done : State → Eff} {n : Nat}
    (hw : s.team.wait = .none) (hf : s.team.fail = none) (h1 : OnePass parts n) (hc : checkedFirst lw.who.race parts = false)
    (hr : s.trackerRefuses s.cur ((lw.opened parts).passNeeds s n).length = false) :
    s.issueWord w parts lw done = done (s.openPass w (lw.opened parts) n ((lw.opened parts).passNeeds s n)) := by
  have hp : ∀ p ∈ (s.newWord w (lw.opened parts)).parts, ∃ q ∈ parts, p = { q with issued := false } := fun p hp => by
    obtain ⟨q, hq, rfl⟩ := List.mem_map.1 hp
    exact ⟨q, hq, rfl⟩
  simp only [State.issueWord, hw, onePass_nextPass h1, hr]
  rw [if_neg (by simp)]
  refine State.wordGoes_done (LongWord.passed_left (fun p hpm _ => ?_)) (fun hrace => ?_) ?_
  · obtain ⟨q, hq, rfl⟩ := hp p hpm
    exact h1.2 q hq
  · refine allChecked_of_not_first hc rfl hrace (fun p hpm => ?_)
    obtain ⟨p0, hp0, rfl⟩ := List.mem_map.1 hpm
    obtain ⟨q, hq, rfl⟩ := hp p0 hp0
    refine ⟨q, hq, ?_⟩
    split <;> rfl
  · rw [(s.openPass_team w (lw.opened parts) n _).2.2, hf]

/-- A word that waits, and has no pass left, goes on when its checks have passed. -/
theorem State.issueWord_last {s : State} {w : Wd} {parts : List Part} {lw v : LongWord} {done : State → Eff} {n : Nat}
    (hw : s.team.wait = .access n) (hv : s.team.word? n = some v) (hp : v.passLeft = none)
    (hc : v.who.race = 1 → v.allChecked = true) (hf : s.team.fail = none) : s.issueWord w parts lw done = done s := by
  simp only [State.issueWord, hw, hv, State.issueNext, hp]
  exact State.wordGoes_done hp hc hf

/-- A word that waits issues its last pass, and goes on. -/
theorem State.issueWord_pass {s : State} {w : Wd} {parts : List Part} {lw v : LongWord} {done : State → Eff} {id n : Nat}
    (hw : s.team.wait = .access id) (hv : s.team.word? id = some v) (hp : v.passLeft = some n)
    (h1 : ∀ p ∈ v.parts, p.issued = false → p.pass = n) (hc : v.who.race = 1 → v.allChecked = true) (hf : s.team.fail = none)
    (hr : s.trackerRefuses s.cur (v.passNeeds s n).length = false) :
    s.issueWord w parts lw done = done (s.issuePass v n (v.passNeeds s n)) := by
  simp only [State.issueWord, hw, hv, State.issueNext, hp, hr]
  rw [if_neg (by simp)]
  refine State.wordGoes_done (LongWord.passed_left h1) (fun hrace => ?_) ?_
  · have := hc hrace
    unfold LongWord.allChecked at this ⊢
    rw [List.all_eq_true] at this ⊢
    intro p hpm
    obtain ⟨q, hq, rfl⟩ := List.mem_map.1 hpm
    have e := this q hq
    have hw : (v.passed n (v.passNeeds s n)).who = v.who := rfl
    rw [hw]
    split
    · simpa using e
    · exact e
  · have h := congrArg Team.fail (s.issuePass_team v n (v.passNeeds s n)).2
    exact h.trans hf

/-! ### What `issueStores` answers -/

/-- A word of stores without requests goes on. -/
theorem State.issueStores_empty {s : State} {w : Wd} {op : Option AtomicOp} {rel fin : Bool} {who : Who} {done : State → Eff}
    (hw : s.team.wait = .none) :
    s.issueStores w [] op rel who fin done = done (s.setTeam { s.team with nextSeq := s.team.nextSeq + 1 }) := by
  simp only [State.issueStores, hw]
  rfl

/-- A word of stores of one pass that the miss tracker accepts, and that waits for nothing, goes on with its stores in the miss tracker. -/
theorem State.issueStores_open {s : State} {w : Wd} {parts : List Part} {op : Option AtomicOp} {rel fin : Bool} {who : Who}
    {done : State → Eff} {n : Nat} (hw : s.team.wait = .none) (h1 : OnePass parts n) (hc : checkedFirst who.race parts = false)
    (hk : parts.any (fun p => p.kv) = false) (ho : (fin && op.isNone) = false)
    (hr : s.trackerRefuses s.cur parts.length = false) :
    s.issueStores w parts op rel who fin done = done (s.openStorePass w parts op rel who false fin n) := by
  have hc' : (decide (who.race = 1) && parts.any (fun p => p.rc)) = false := by
    rw [← hc]; unfold checkedFirst; congr 1
  have hl : (parts.filter (fun p => p.pass == n)).length = parts.length := by
    rw [List.filter_eq_self.2 (fun p hp => by simp [h1.2 p hp])]
  have ha : parts.any (fun p => p.kv || decide (p.pass ≠ n)) = false := by
    rw [List.any_eq_false] at hk ⊢
    intro p hp
    simp [h1.2 p hp, hk p hp]
  simp only [State.issueStores, hw, onePass_nextPass h1, hl, hr, hc', ho, ha]
  rfl

theorem State.storesGo_done {s : State} {w : Wd} {seq : Nat} {fin : Bool} {done : State → Eff} (hf : s.team.fail = none)
    (h : ∀ r ∈ s.storesOf seq, r.later = false ∧ r.held = false ∧ ((r.kv = false ∧ r.fin = false) ∨ r.performed = true)) :
    s.storesGo w seq fin done = done s := by
  have h0 : (s.storesOf seq).any (fun r => r.later) = false := by
    rw [List.any_eq_false]; intro r hr; simp [(h r hr).1]
  have h1 : (s.storesOf seq).any (fun r => r.held && !r.checked && r.who.checks r.rc) = false := by
    rw [List.any_eq_false]; intro r hr; simp [(h r hr).2.1]
  have h2 : (s.storesOf seq).any (fun r => r.held) = false := by
    rw [List.any_eq_false]; intro r hr; simp [(h r hr).2.1]
  have h3 : (s.storesOf seq).any (fun r => (r.kv || r.fin) && !r.performed) = false := by
    rw [List.any_eq_false]; intro r hr
    rcases (h r hr).2.2 with ⟨a, b⟩ | e <;> simp [*]
  unfold State.storesGo
  simp only [hf, h0, h1, h2, h3]
  rfl

/-- A word of stores that waited, and has no pass left, goes on when none of its stores waits any more. -/
theorem State.issueStores_last {s : State} {w : Wd} {parts : List Part} {op : Option AtomicOp} {rel fin : Bool} {who : Who}
    {done : State → Eff} {n : Nat} (hw : s.team.wait = .access n) (hf : s.team.fail = none) (hp : s.storesLeft n = none)
    (h : ∀ r ∈ s.storesOf n, r.held = false ∧ ((r.kv = false ∧ r.fin = false) ∨ r.performed = true)) :
    s.issueStores w parts op rel who fin done = done s := by
  have hl : ∀ r ∈ s.storesOf n, r.later = false := by
    intro r hr
    by_contra q
    have hm : r.pass ∈ ((s.storesOf n).filter (fun r => r.later)).map StoreReq.pass :=
      List.mem_map.2 ⟨r, List.mem_filter.2 ⟨hr, by simpa using q⟩, rfl⟩
    have aux : ∀ (l : List Nat) (m : Option Nat), (m.isSome ∨ l ≠ []) → l.foldl (fun m n => match m with
        | none => some n | some x => some (if n < x then n else x)) m ≠ none := by
      intro l
      induction l with
      | nil => intro m h; rcases h with h | h
               · cases m <;> simp_all
               · exact absurd rfl h
      | cons x r ih => intro m _; exact ih _ (.inl (by cases m <;> rfl))
    exact aux _ _ (.inr (List.ne_nil_of_mem hm)) hp
  simp only [State.issueStores, hw, State.storesNext, hf, hp]
  exact State.storesGo_done hf (fun r hr => ⟨hl r hr, h r hr⟩)

/-- Accepting the last pass of a word leaves its other stores as they were, and none of its stores for later. -/
theorem State.acceptPass_stores {s : State} {n k : Nat} {P : StoreReq → Prop} (hP : ∀ r id, P r → P { r with id := id, later := false })
    (h : ∀ r ∈ s.storesOf n, P r) (h1 : ∀ r ∈ s.storesOf n, r.later = true → r.pass = k) :
    (s.acceptPass s.cur n k).team.fail = s.team.fail ∧ ∀ r ∈ (s.acceptPass s.cur n k).storesOf n, P r ∧ r.later = false := by
  let core := coreOf s.cur
  let mine (r : StoreReq) : Bool := r.uid == s.cur && r.seq == n && r.later && r.pass == k
  let good (r : StoreReq) : Prop := r.uid = s.cur → r.seq = n → P r ∧ r.later = false
  let step (s : State) (r : StoreReq) : State :=
    (s.fresh.2.modCore core (fun c => { c with tracker := c.tracker ++ [{ r with id := s.fresh.1, later := false }] })).wake core r.line
  have fold : ∀ (l : List StoreReq) (z : State), (∀ r ∈ l, P r) → (∀ r ∈ (z.cores.get core).tracker, good r) →
      (l.foldl step z).cur = z.cur ∧ (l.foldl step z).team.fail = z.team.fail ∧
      ∀ r ∈ ((l.foldl step z).cores.get core).tracker, good r := by
    intro l
    induction l with
    | nil => intro z _ hz; exact ⟨rfl, rfl, hz⟩
    | cons a r ih =>
      intro z hl hz
      have ha := hl a (List.mem_cons_self ..)
      have hm (c : Core → Core) : Calm z.fresh.2 (z.fresh.2.modCore core c) := Calm.of_eq rfl rfl rfl
      have hs : Calm z.fresh.2 (step z a) := (hm _).trans (State.wake_calm _ _ _)
      have hc : ((step z a).cores.get core).tracker = (z.cores.get core).tracker ++ [{ a with id := z.fresh.1, later := false }] := by
        have hw : ∀ (x : State) c l, (x.wake c l).cores = x.cores := by
          intro x c l
          unfold State.wake
          generalize x.sleepers c l = us
          induction us generalizing x with
          | nil => rfl
          | cons u us ih => exact ih _
        show ((State.wake _ core a.line).cores.get core).tracker = _
        rw [hw]
        show (((z.cores.put core _).get core) : Core).tracker = _
        rw [SMap.get_put_same]
        rfl
      obtain ⟨i1, i2, i3⟩ := ih (step z a) (fun r hr => hl r (List.mem_cons_of_mem _ hr)) (by
        intro r hr
        rw [hc] at hr
        rcases List.mem_append.1 hr with hr | hr
        · exact hz r hr
        · rw [List.mem_singleton.1 hr]
          exact fun _ _ => ⟨hP _ _ ha, rfl⟩)
      exact ⟨i1.trans hs.1, i2.trans hs.fail, i3⟩
  let s1 := (s.modCore core (fun c => { c with tracker := c.tracker.filter (fun r => !mine r) })).issued s.cur 1
  have ht : s1.team.fail = s.team.fail := by
    show ((s.teams.put s.cur _).get s.cur).fail = _
    rw [SMap.get_put_same]; rfl
  have hcores : (s1.cores.get core).tracker = (s.cores.get core).tracker.filter (fun r => !mine r) := by
    show (((s.cores.put core _).put (coreOf s.cur) _).get core).tracker = _
    rw [SMap.get_put_same]
    show (((s.cores.put core _).get core)).tracker = _
    rw [SMap.get_put_same]
  have hP' : ∀ r ∈ (s.cores.get core).tracker.filter mine, P r := by
    intro r hr
    obtain ⟨hm, hr⟩ := List.mem_filter.1 hr
    simp only [mine, Bool.and_eq_true, beq_iff_eq] at hr
    exact h r (List.mem_filter.2 ⟨hm, by simp [hr.1.1.1, hr.1.1.2]⟩)
  obtain ⟨i1, i2, i3⟩ := fold _ s1 hP' (by
    intro r hr
    rw [hcores] at hr
    obtain ⟨hm, hr⟩ := List.mem_filter.1 hr
    intro hu hq
    have hin : r ∈ s.storesOf n := List.mem_filter.2 ⟨hm, by simp [hu, hq]⟩
    refine ⟨h r hin, ?_⟩
    by_contra hl
    have hl' : r.later = true := by simpa using hl
    simp [mine, hu, hq, hl', h1 r hin hl'] at hr)
  refine ⟨i2.trans ht, fun r hr => ?_⟩
  obtain ⟨hm, hr⟩ := List.mem_filter.1 hr
  have hcur : (s.acceptPass s.cur n k).cur = s.cur := i1
  rw [hcur] at hm hr
  simp only [Bool.and_eq_true, beq_iff_eq] at hr
  exact i3 r hm hr.1 hr.2
/-- Giving its places up changes none of the stores of a team. -/
theorem State.leaveWaits_storesOf (s : State) (u n : Nat) : (s.leaveWaits u).storesOf n = s.storesOf n := by
  unfold State.storesOf
  rw [s.leaveWaits_cur u]
  congr 1
  unfold State.leaveWaits
  dsimp only
  split
  · by_cases h : coreOf s.cur = coreOf u
    · rw [h]
      show (((s.cores.put (coreOf u) _).get (coreOf u)) : Core).tracker = _
      rw [SMap.get_put_same]
    · show (((s.cores.put (coreOf u) _).get (coreOf s.cur)) : Core).tracker = _
      rw [SMap.get_put_ne _ _ h]
  · rfl

/-- A word of stores that waited issues its last pass, and goes on when none of its stores waits any more. -/
theorem State.issueStores_pass {s : State} {w : Wd} {parts : List Part} {op : Option AtomicOp} {rel fin : Bool} {who : Who}
    {done : State → Eff} {n k : Nat} (hw : s.team.wait = .access n) (hf : s.team.fail = none) (hl : s.storesLeft n = some k)
    (h : ∀ r ∈ s.storesOf n, r.held = false ∧ ((r.kv = false ∧ r.fin = false) ∨ r.performed = true))
    (h1 : ∀ r ∈ s.storesOf n, r.later = true → r.pass = k)
    (hr : s.trackerRefuses s.cur ((s.storesOf n).filter (fun r => r.later && r.pass == k)).length = false) :
    s.issueStores w parts op rel who fin done = done ((s.leaveWaits s.cur).acceptPass s.cur n k) := by
  have hc := s.leaveWaits_cur s.cur
  have ht := s.leaveWaits_teams s.cur
  have hs := s.leaveWaits_storesOf s.cur n
  have key := State.acceptPass_stores (s := s.leaveWaits s.cur) (n := n) (k := k)
    (P := fun r => r.held = false ∧ ((r.kv = false ∧ r.fin = false) ∨ r.performed = true)) (fun _ _ hp => hp)
    (by rw [hs]; exact h) (by rw [hs]; exact h1)
  rw [hc] at key
  simp only [State.issueStores, hw, State.storesNext, hf, hl, Option.any_none, Bool.false_eq_true, if_false]
  rw [if_neg (by rw [hr]; simp)]
  refine State.storesGo_done (key.1.trans ?_) (fun r hr => ⟨(key.2 r hr).2, (key.2 r hr).1⟩)
  unfold State.team
  rw [hc, ht]
  exact hf

/-! ### Copies of lines -/

/-- No core holds a copy of a line, or monitors it, where no core's L1 holds lines and no monitor is armed. -/
theorem State.anyCopy_none {s : State} {line : Nat} (hc : ∀ c ∈ s.cores.entries, c.2.l1 = []) (ht : ∀ t ∈ s.teams.entries, t.2.mon = none) :
    s.anyCopy line = false := by
  have h1 (c : Nat) : (s.cores.get c).l1 = [] := listGet_of_all (p := fun (c : Core) => c.l1 = []) rfl hc c
  have h2 (u : Nat) : (s.teams.get u).mon = none := listGet_of_all (p := fun (t : Team) => t.mon = none) rfl ht u
  have h3 (c : Nat) : s.sleepers c line = [] := by
    rw [State.sleepers, List.map_eq_nil_iff, List.filter_eq_nil_iff]
    intro e he
    simp [ht e he]
  simp only [State.anyCopy, h1, h3, List.contains_nil, List.isEmpty_nil, Bool.not_true, Bool.or_self, List.any_eq_false,
    Bool.false_eq_true, not_false_eq_true, implies_true]

end Sys2Proof.Machine
end

