-- ==== Sys2Proof/Laws/Frames.lean ====
section
/-! SUPPORT. Frames: which registers a write leaves alone, and the frame of a word whose effect is on registers and sticky
flags alone. -/

namespace Sys2Proof.Machine

open Sys2Proof.Safety

/-! ### Register sets -/

/-- A register set holds the registers of its use, and no other. -/
theorem Use.getLsbD_set {u : Use} (h : u.cls ≠ .q) (b : Nat) :
    u.set.getLsbD b = (decide (b < 172) && decide (u.cls.base + u.num ≤ b) && decide (b < u.cls.base + u.num + u.cnt)) := by
  unfold Use.set
  rw [if_neg h]
  simp only [BitVec.getLsbD_shiftLeft, BitVec.getLsbD_ofNat, Nat.testBit_two_pow_sub_one]
  by_cases h1 : b < 172
  · by_cases h2 : u.cls.base + u.num ≤ b
    · have : b - (u.cls.base + u.num) < 172 := by omega
      have e : (b - (u.cls.base + u.num) < u.cnt) ↔ b < u.cls.base + u.num + u.cnt := by omega
      simp [h1, h2, this, e, Nat.not_lt.2 h2]
    · simp [h1, h2, Nat.lt_of_not_le h2]
  · simp [h1]

theorem useSet_nil : useSet [] = 0 := rfl

theorem useSet_cons (u : Use) (l : List Use) : useSet (u :: l) = u.set ||| useSet l := by
  have : ∀ (l : List Use) (x : RegSet), l.foldl (fun r u => r ||| u.set) x = x ||| l.foldl (fun r u => r ||| u.set) 0 := by
    intro l
    induction l with
    | nil => intro x; simp
    | cons v r ih => intro x; simp only [List.foldl_cons]; rw [ih (x ||| v.set), ih (0 ||| v.set)]; simp [BitVec.or_assoc]
  unfold useSet
  rw [List.foldl_cons, this]
  simp

/-- A word that writes one register writes that one. -/
theorem useSet_one {c : RC} {d : Nat} (hc : c ≠ .q) (hb : c.base + d < 172) : (useSet [⟨c, d, 1⟩]).getLsbD (c.base + d) = true := by
  rw [useSet_cons, useSet_nil, show ∀ x : RegSet, x ||| 0 = x from fun x => BitVec.or_zero, Use.getLsbD_set hc]
  simp [hb]

/-- A word that writes v-registers in a row writes each of them. -/
theorem useSet_row {d cnt j : Nat} (h : d + j < 64) (hj : j < cnt) : (useSet [⟨.v, d, cnt⟩]).getLsbD (d + j) = true := by
  rw [useSet_cons, useSet_nil, show ∀ x : RegSet, x ||| 0 = x from fun x => BitVec.or_zero, Use.getLsbD_set (by simp)]
  simp [RC.base]; omega

/-! ### Writes of registers -/

theorem regsKept_refl (w : RegSet) (ls : List Nat) (r : Regs) : RegsKept w ls r r :=
  ⟨fun _ _ _ _ _ => rfl, fun _ _ _ => rfl, fun _ _ _ => ⟨rfl, rfl⟩, fun _ _ _ => rfl, fun _ _ => rfl⟩

theorem regsKept_writeS {w : RegSet} {ls : List Nat} {r r' : Regs} (h : RegsKept w ls r r') {d : Nat} (x : W64)
    (hd : d < 64 → w.getLsbD (64 + d) = true) : RegsKept w ls r (r'.writeS d x) where
  v := h.v
  s n hn hw := by
    have : n ≠ d := fun e => by subst e; rw [hd hn] at hw; cases hw
    rw [← h.s n hn hw]
    exact SMap.get_set_ne r'.s x this
  a := h.a
  m := h.m
  i := h.i

theorem regsKept_writeA {w : RegSet} {ls : List Nat} {r r' : Regs} (h : RegsKept w ls r r') {d : Nat} (x : W64) (y : W32)
    (hd : d < 32 → w.getLsbD (128 + d) = true) : RegsKept w ls r (r'.writeA d x y) where
  v := h.v
  s := h.s
  a n hn hw := by
    have : n ≠ d := fun e => by subst e; rw [hd hn] at hw; cases hw
    rw [← (h.a n hn hw).1, ← (h.a n hn hw).2]
    exact ⟨SMap.get_set_ne r'.ab x this, SMap.get_set_ne r'.as y this⟩
  m := h.m
  i := h.i

theorem regsKept_writeM {w : RegSet} {ls : List Nat} {r r' : Regs} (h : RegsKept w ls r r') {d width : Nat} (x : Mask)
    (hd : d < 8 → w.getLsbD (160 + d) = true) : RegsKept w ls r (r'.writeM width d x) where
  v := h.v
  s := h.s
  a := h.a
  m n hn hw := by
    have : n ≠ d := fun e => by subst e; rw [hd hn] at hw; cases hw
    rw [← h.m n hn hw]
    exact SMap.get_set_ne r'.m _ this
  i := h.i

theorem regsKept_writeV {w : RegSet} {ls : List Nat} {r r' : Regs} (h : RegsKept w ls r r') {d l : Nat} (x : W32)
    (hl : l < 1024) (hls : l ∈ ls) (hd : d < 64 → w.getLsbD d = true) : RegsKept w ls r (r'.writeV d l x) where
  v n k hn hk hw := by
    have : laneKey n k ≠ laneKey d l := fun e => by
      unfold laneKey at e
      obtain ⟨e1, e2⟩ : n = d ∧ k = l := by omega
      subst e1 e2
      rcases hw with hw | hw
      · rw [hd hn] at hw; cases hw
      · exact hw hls
    rw [← h.v n k hn hk hw]
    exact SMap.get_set_ne r'.v x this
  s := h.s
  a := h.a
  m := h.m
  i := h.i

theorem regsKept_writeVec {w : RegSet} {ls : List Nat} {r r' : Regs} (h : RegsKept w ls r r') {d cnt l : Nat} (x : W64)
    (hl : l < 1024) (hls : l ∈ ls) (hd : ∀ j, j < max cnt 1 → d + j < 64 → w.getLsbD (d + j) = true) :
    RegsKept w ls r (r'.writeVec d cnt l x) := by
  unfold Regs.writeVec
  split
  · subst_vars
    exact regsKept_writeV (regsKept_writeV h _ hl hls (hd 0 (by decide))) _ hl hls (hd 1 (by decide))
  · exact regsKept_writeV h _ hl hls (hd 0 (by omega))

theorem regsKept_writeLanes {w : RegSet} {ls : List Nat} {r : Regs} {d cnt : Nat} (g : Nat → W64)
    (hd : ∀ j, j < max cnt 1 → d + j < 64 → w.getLsbD (d + j) = true) (l : List Nat) (hl : ∀ x ∈ l, x < 1024 ∧ x ∈ ls) :
    ∀ {r' : Regs}, RegsKept w ls r r' → RegsKept w ls r (r'.writeLanes d cnt g l) := by
  induction l with
  | nil => intro r' h; exact h
  | cons x xs ih =>
    intro r' h
    exact ih (fun y hy => hl y (List.mem_cons_of_mem _ hy))
      (regsKept_writeVec h _ (hl x (List.mem_cons_self ..)).1 (hl x (List.mem_cons_self ..)).2 hd)

/-! ### The frame of a word -/

theorem lanes_lt (w : Wd) : ∀ l ∈ w.lanes, l < 1024 ∧ l ∈ w.lanes := by
  intro l hl
  refine ⟨?_, hl⟩
  unfold Wd.lanes lanesOf at hl
  rw [List.mem_filter] at hl
  exact BitVec.lt_of_getLsbD hl.2

theorem State.raiseFlags_zero_sys (s : State) : (s.raiseFlags 0).team.sys = s.team.sys := by
  unfold State.raiseFlags
  rw [State.team_setTeam]
  simp

/-- The state after a word that has ended with the next word: its team, and what the port and the clocks make of the rest. -/
theorem State.finish_team (s : State) (k : Sets) :
    (s.finish k).team = { s.team.advance.note k with lastIssue := s.freeCtr, eligible := 0, promoted := none } := by
  show (((s.teams.put s.cur (s.team.advance.note k)).put s.cur _).get s.cur) = _
  rw [SMap.get_put_same]
  have h : (s.setTeam (s.team.advance.note k)).teams.get s.cur = s.team.advance.note k := SMap.get_put_same ..
  have e : ({ ((s.setTeam (s.team.advance.note k)).teams.get s.cur) with lastIssue := s.freeCtr, eligible := 0, promoted := none } : Team) =
      { s.team.advance.note k with lastIssue := s.freeCtr, eligible := 0, promoted := none } := by rw [h]
  exact e

/-- A word that writes registers and raises flags has the frame of its writes. -/
theorem framed_of_after {i : Instr} {s t : State} (g : Regs → Regs) (f : FFlags) (hf : setsFlags i = false → f = 0)
    (hk : RegsKept (useSet (info i).writes) (wordOf i s).lanes s.team.regs (g s.team.regs))
    (he : exec i s = .next (after i s (fun x => (x.withRegs g).raiseFlags f))) (ht : exec i s = .next t) : Framed i s t := by
  rw [he] at ht
  cases ht
  let y := ((s.begin_).withRegs g).raiseFlags f
  have hy : y.team = { s.team.withRegs g with sys := { s.team.sys with status := s.team.sys.status ||| (f.setWidth 64 <<< 5) } } := by
    show (State.raiseFlags _ f).team = _
    unfold State.raiseFlags
    rw [State.team_setTeam]
    unfold State.withRegs
    rw [State.team_setTeam]
    rfl
  have ht : (after i s (fun x => (x.withRegs g).raiseFlags f)).team =
      { y.team.advance.note (setsOf i s) with lastIssue := y.freeCtr, eligible := 0, promoted := none } :=
    Eq.trans (b := (y.finish (setsOf i s)).team) rfl (y.finish_team _)
  rw [hy] at ht
  have hu : ∀ u, u ≠ s.cur → (after i s (fun x => (x.withRegs g).raiseFlags f)).teams.get u = s.teams.get u := by
    intro u h
    show (((((s.teams.put s.cur _).put s.cur _).put s.cur _).put s.cur _).get u) = _
    rw [SMap.get_put_ne _ _ h, SMap.get_put_ne _ _ h, SMap.get_put_ne _ _ h, SMap.get_put_ne _ _ h]
  refine ⟨?_, ⟨f, ?_, hf⟩, ?_, hu, fun a => rfl, fun d => ?_, fun c => ?_, rfl⟩
  · rw [ht]; exact hk
  · rw [ht]; unfold State.raiseFlags; rw [State.team_setTeam]; rfl
  · rw [ht]; rfl
  · show ({ (s.dies.modify (dieOf s.cur) _).get d with clk := (s.dies.get d).clk, time := (s.dies.get d).time, soft := (s.dies.get d).soft } : Die) =
      s.dies.get d
    unfold SMap.modify
    by_cases h : d = dieOf s.cur
    · subst h; rw [SMap.get_put_same]
    · rw [SMap.get_put_ne _ _ h]
  · show ({ (s.cores.put (coreOf s.cur) { s.cores.get (coreOf s.cur) with ports := _ }).get c with ports := (s.cores.get c).ports } : Core) = s.cores.get c
    by_cases h : c = coreOf s.cur
    · subst h; rw [SMap.get_put_same]
    · rw [SMap.get_put_ne _ _ h]

/-- A word that writes registers alone. -/
theorem framed_of_writes {i : Instr} {s t : State} (g : Regs → Regs)
    (hk : RegsKept (useSet (info i).writes) (wordOf i s).lanes s.team.regs (g s.team.regs))
    (he : exec i s = .next (after i s (fun x => x.withRegs g))) (ht : exec i s = .next t) : Framed i s t := by
  refine framed_of_after g 0 (fun _ => rfl) hk (he.trans ?_) ht
  have : ∀ x : State, (x.withRegs g).raiseFlags 0 = x.withRegs g := by
    intro x
    have z : ∀ u : Team, ({ u with sys := { u.sys with status := u.sys.status ||| ((0 : FFlags).setWidth 64 <<< 5) } } : Team) = u := by
      intro u
      rw [show u.sys.status ||| ((0 : FFlags).setWidth 64 <<< 5) = u.sys.status by simp]
    refine (congrArg (fun u => (x.withRegs g).setTeam u) (z (x.withRegs g).team)).trans ?_
    unfold State.withRegs
    rw [State.team_setTeam, State.setTeam_setTeam]
  exact congrArg _ (congrArg _ (funext (fun x => (this x).symm)))

end Sys2Proof.Machine
end

