-- ==== Sys2Proof/Laws/PerInstr.lean ====
section
/-! SUPPORT. The family Encoding: the word of an instruction decodes to it, with every operand at every value. -/

open Sys2Proof

namespace Sys2Proof.Laws

theorem field_low {n k m lo : Nat} (a : BitVec n) (b : BitVec k) (h : lo + m ≤ k) :
    (a ++ b).extractLsb' lo m = b.extractLsb' lo m := by
  apply BitVec.eq_of_getLsbD_eq
  intro i hi
  simp [BitVec.getLsbD_append, hi, show lo + i < k by omega]

theorem field_high {n k m lo : Nat} (a : BitVec n) (b : BitVec k) (h : k ≤ lo) :
    (a ++ b).extractLsb' lo m = a.extractLsb' (lo - k) m := by
  apply BitVec.eq_of_getLsbD_eq
  intro i hi
  simp [BitVec.getLsbD_append, hi, show ¬ (lo + i < k) by omega, show lo + i - k = lo - k + i by omega]

/-- The fields of a word that is two parts joined: those of the low part and those of the high one. -/
theorem fieldsOf {w : W32} {n k : Nat} {a : BitVec n} {b : BitVec k} (h : w.toNat = (a ++ b).toNat) :
    (∀ lo m : Nat, lo + m ≤ k → w.extractLsb' lo m = b.extractLsb' lo m) ∧
    (∀ lo m : Nat, k ≤ lo → w.extractLsb' lo m = a.extractLsb' (lo - k) m) := by
  have f : ∀ lo m : Nat, w.extractLsb' lo m = (a ++ b).extractLsb' lo m := fun lo m => by
    apply BitVec.eq_of_toNat_eq
    simp only [BitVec.extractLsb'_toNat, h]
  exact ⟨fun lo m q => by rw [f, field_low _ _ q], fun lo m q => by rw [f, field_high _ _ q]⟩

end Sys2Proof.Laws

/-- The word of the instruction, where it has one, decodes to it. -/
def Sys2Proof.Laws.Encoding.Statement (i : Instr) : Prop := ∀ w, encode i = some w → decodeWord w = .ok i

open Sys2Proof.Laws

theorem Sys2Proof.Laws.Encoding.clause {x0 x1 x2 x3} : Sys2Proof.Laws.Encoding.Statement (.clause x0 x1 x2 x3) := by
  intro w h
  have f := fieldsOf (w := w) (congrArg BitVec.toNat (Option.some.inj h.symm))
  simp (disch := decide) [-Nat.reduceAdd, decodeWord, lookup, lookupControl, fld, f.1, f.2, field_low, field_high]
theorem Sys2Proof.Laws.Encoding.hintImm {x0} : Sys2Proof.Laws.Encoding.Statement (.hintImm x0) := by
  intro w h
  have f := fieldsOf (w := w) (congrArg BitVec.toNat (Option.some.inj h.symm))
  simp (disch := decide) [-Nat.reduceAdd, decodeWord, lookup, lookupControl, fld, f.1, f.2]
theorem Sys2Proof.Laws.Encoding.hintSched {x0 x1 x2 x3} : Sys2Proof.Laws.Encoding.Statement (.hintSched x0 x1 x2 x3) := by
  intro w h
  have f := fieldsOf (w := w) (congrArg BitVec.toNat (Option.some.inj h.symm))
  simp (disch := decide) [-Nat.reduceAdd, decodeWord, lookup, lookupControl, fld, f.1, f.2, field_low, field_high]
theorem Sys2Proof.Laws.Encoding.hintMod {x0 x1 x2 x3 x4} : Sys2Proof.Laws.Encoding.Statement (.hintMod x0 x1 x2 x3 x4) := by
  intro w h
  have f := fieldsOf (w := w) (congrArg BitVec.toNat (Option.some.inj h.symm))
  simp (disch := decide) [-Nat.reduceAdd, decodeWord, lookup, lookupControl, fld, f.1, f.2, field_low, field_high]
theorem Sys2Proof.Laws.Encoding.hintSrc3 {x0 x1} : Sys2Proof.Laws.Encoding.Statement (.hintSrc3 x0 x1) := by
  intro w h
  have f := fieldsOf (w := w) (congrArg BitVec.toNat (Option.some.inj h.symm))
  simp (disch := decide) [-Nat.reduceAdd, decodeWord, lookup, lookupControl, fld, f.1, f.2, field_low, field_high]
theorem Sys2Proof.Laws.Encoding.hintGuard {x0 x1} : Sys2Proof.Laws.Encoding.Statement (.hintGuard x0 x1) := by
  intro w h
  have f := fieldsOf (w := w) (congrArg BitVec.toNat (Option.some.inj h.symm))
  simp (disch := decide) [-Nat.reduceAdd, decodeWord, lookup, lookupControl, fld, f.1, f.2, field_low, field_high]
theorem Sys2Proof.Laws.Encoding.bra {x0} : Sys2Proof.Laws.Encoding.Statement (.bra x0) := by
  intro w h
  have f := fieldsOf (w := w) (congrArg BitVec.toNat (Option.some.inj h.symm))
  simp (disch := decide) [-Nat.reduceAdd, decodeWord, lookup, lookupControl, fld, f.1, f.2]
theorem Sys2Proof.Laws.Encoding.brc {x0 x1 x2} : Sys2Proof.Laws.Encoding.Statement (.brc x0 x1 x2) := by
  intro w h
  have f := fieldsOf (w := w) (congrArg BitVec.toNat (Option.some.inj h.symm))
  simp (disch := decide) [-Nat.reduceAdd, decodeWord, lookup, lookupControl, fld, f.1, f.2, field_low, field_high]
theorem Sys2Proof.Laws.Encoding.brd {x0 x1 x2} : Sys2Proof.Laws.Encoding.Statement (.brd x0 x1 x2) := by
  intro w h
  have f := fieldsOf (w := w) (congrArg BitVec.toNat (Option.some.inj h.symm))
  simp (disch := decide) [-Nat.reduceAdd, decodeWord, lookup, lookupControl, fld, f.1, f.2, field_low, field_high]
theorem Sys2Proof.Laws.Encoding.markj {x0} : Sys2Proof.Laws.Encoding.Statement (.markj x0) := by
  intro w h
  have f := fieldsOf (w := w) (congrArg BitVec.toNat (Option.some.inj h.symm))
  simp (disch := decide) [-Nat.reduceAdd, decodeWord, lookup, lookupControl, fld, f.1, f.2]
theorem Sys2Proof.Laws.Encoding.call {x0} : Sys2Proof.Laws.Encoding.Statement (.call x0) := by
  intro w h
  have f := fieldsOf (w := w) (congrArg BitVec.toNat (Option.some.inj h.symm))
  simp (disch := decide) [-Nat.reduceAdd, decodeWord, lookup, lookupControl, fld, f.1, f.2]
theorem Sys2Proof.Laws.Encoding.join : Sys2Proof.Laws.Encoding.Statement .join := by
  intro w h
  cases h
  decide
theorem Sys2Proof.Laws.Encoding.ret : Sys2Proof.Laws.Encoding.Statement .ret := by
  intro w h
  cases h
  decide
theorem Sys2Proof.Laws.Encoding.callr {x0} : Sys2Proof.Laws.Encoding.Statement (.callr x0) := by
  intro w h
  have f := fieldsOf (w := w) (congrArg BitVec.toNat (Option.some.inj h.symm))
  simp (disch := decide) [-Nat.reduceAdd, decodeWord, lookup, lookupControl, fld, f.1, f.2, field_low, field_high]
theorem Sys2Proof.Laws.Encoding.exit : Sys2Proof.Laws.Encoding.Statement .exit := by
  intro w h
  cases h
  decide
theorem Sys2Proof.Laws.Encoding.nop : Sys2Proof.Laws.Encoding.Statement .nop := by
  intro w h
  cases h
  decide
theorem Sys2Proof.Laws.Encoding.yield : Sys2Proof.Laws.Encoding.Statement .yield := by
  intro w h
  cases h
  decide
theorem Sys2Proof.Laws.Encoding.seam : Sys2Proof.Laws.Encoding.Statement .seam := by
  intro w h
  cases h
  decide
theorem Sys2Proof.Laws.Encoding.enter {x0} : Sys2Proof.Laws.Encoding.Statement (.enter x0) := by
  intro w h
  have f := fieldsOf (w := w) (congrArg BitVec.toNat (Option.some.inj h.symm))
  simp (disch := decide) [-Nat.reduceAdd, decodeWord, lookup, lookupControl, fld, f.1, f.2]
theorem Sys2Proof.Laws.Encoding.leave : Sys2Proof.Laws.Encoding.Statement .leave := by
  intro w h
  cases h
  decide
theorem Sys2Proof.Laws.Encoding.bkpt : Sys2Proof.Laws.Encoding.Statement .bkpt := by
  intro w h
  cases h
  decide
theorem Sys2Proof.Laws.Encoding.trap {x0} : Sys2Proof.Laws.Encoding.Statement (.trap x0) := by
  intro w h
  have f := fieldsOf (w := w) (congrArg BitVec.toNat (Option.some.inj h.symm))
  simp (disch := decide) [-Nat.reduceAdd, decodeWord, lookup, lookupControl, fld, f.1, f.2]
theorem Sys2Proof.Laws.Encoding.isync : Sys2Proof.Laws.Encoding.Statement .isync := by
  intro w h
  cases h
  decide
theorem Sys2Proof.Laws.Encoding.srd {x0 x1} : Sys2Proof.Laws.Encoding.Statement (.srd x0 x1) := by
  intro w h
  have f := fieldsOf (w := w) (congrArg BitVec.toNat (Option.some.inj h.symm))
  simp (disch := decide) [-Nat.reduceAdd, decodeWord, lookup, lookupControl, fld, f.1, f.2, field_low, field_high]
theorem Sys2Proof.Laws.Encoding.swr {x0 x1} : Sys2Proof.Laws.Encoding.Statement (.swr x0 x1) := by
  intro w h
  have f := fieldsOf (w := w) (congrArg BitVec.toNat (Option.some.inj h.symm))
  simp (disch := decide) [-Nat.reduceAdd, decodeWord, lookup, lookupControl, fld, f.1, f.2, field_low, field_high]
theorem Sys2Proof.Laws.Encoding.time {x0} : Sys2Proof.Laws.Encoding.Statement (.time x0) := by
  intro w h
  have f := fieldsOf (w := w) (congrArg BitVec.toNat (Option.some.inj h.symm))
  simp (disch := decide) [-Nat.reduceAdd, decodeWord, lookup, lookupControl, fld, f.1, f.2, field_low, field_high]
theorem Sys2Proof.Laws.Encoding.clk {x0} : Sys2Proof.Laws.Encoding.Statement (.clk x0) := by
  intro w h
  have f := fieldsOf (w := w) (congrArg BitVec.toNat (Option.some.inj h.symm))
  simp (disch := decide) [-Nat.reduceAdd, decodeWord, lookup, lookupControl, fld, f.1, f.2, field_low, field_high]
theorem Sys2Proof.Laws.Encoding.trec {x0 x1} : Sys2Proof.Laws.Encoding.Statement (.trec x0 x1) := by
  intro w h
  have f := fieldsOf (w := w) (congrArg BitVec.toNat (Option.some.inj h.symm))
  simp (disch := decide) [-Nat.reduceAdd, decodeWord, lookup, lookupControl, fld, f.1, f.2, field_low, field_high]
theorem Sys2Proof.Laws.Encoding.icinv {x0 x1 x2} : Sys2Proof.Laws.Encoding.Statement (.icinv x0 x1 x2) := by
  intro w h
  have f := fieldsOf (w := w) (congrArg BitVec.toNat (Option.some.inj h.symm))
  simp (disch := decide) [-Nat.reduceAdd, decodeWord, lookup, lookupControl, fld, f.1, f.2, field_low, field_high]
theorem Sys2Proof.Laws.Encoding.rclr {x0 x1} : Sys2Proof.Laws.Encoding.Statement (.rclr x0 x1) := by
  intro w h
  have f := fieldsOf (w := w) (congrArg BitVec.toNat (Option.some.inj h.symm))
  simp (disch := decide) [-Nat.reduceAdd, decodeWord, lookup, lookupControl, fld, f.1, f.2, field_low, field_high]
theorem Sys2Proof.Laws.Encoding.lnch {x0 x1} : Sys2Proof.Laws.Encoding.Statement (.lnch x0 x1) := by
  intro w h
  have f := fieldsOf (w := w) (congrArg BitVec.toNat (Option.some.inj h.symm))
  simp (disch := decide) [-Nat.reduceAdd, decodeWord, lookup, lookupControl, fld, f.1, f.2, field_low, field_high]
theorem Sys2Proof.Laws.Encoding.contset {x0} : Sys2Proof.Laws.Encoding.Statement (.contset x0) := by
  intro w h
  have f := fieldsOf (w := w) (congrArg BitVec.toNat (Option.some.inj h.symm))
  simp (disch := decide) [-Nat.reduceAdd, decodeWord, lookup, lookupControl, fld, f.1, f.2, field_low, field_high]
theorem Sys2Proof.Laws.Encoding.cresume : Sys2Proof.Laws.Encoding.Statement .cresume := by
  intro w h
  cases h
  decide
theorem Sys2Proof.Laws.Encoding.sadd {x0 x1 x2 x3 x4} : Sys2Proof.Laws.Encoding.Statement (.sadd x0 x1 x2 x3 x4) := by
  intro w h
  have f := fieldsOf (w := w) (congrArg BitVec.toNat (Option.some.inj h.symm))
  simp (disch := decide) [-Nat.reduceAdd, decodeWord, lookup, lookupScalar, fld, f.1, f.2, field_low, field_high]
theorem Sys2Proof.Laws.Encoding.ssub {x0 x1 x2 x3 x4} : Sys2Proof.Laws.Encoding.Statement (.ssub x0 x1 x2 x3 x4) := by
  intro w h
  have f := fieldsOf (w := w) (congrArg BitVec.toNat (Option.some.inj h.symm))
  simp (disch := decide) [-Nat.reduceAdd, decodeWord, lookup, lookupScalar, fld, f.1, f.2, field_low, field_high]
theorem Sys2Proof.Laws.Encoding.smul {x0 x1 x2 x3 x4} : Sys2Proof.Laws.Encoding.Statement (.smul x0 x1 x2 x3 x4) := by
  intro w h
  have f := fieldsOf (w := w) (congrArg BitVec.toNat (Option.some.inj h.symm))
  simp (disch := decide) [-Nat.reduceAdd, decodeWord, lookup, lookupScalar, fld, f.1, f.2, field_low, field_high]
theorem Sys2Proof.Laws.Encoding.smulh {x0 x1 x2 x3 x4} : Sys2Proof.Laws.Encoding.Statement (.smulh x0 x1 x2 x3 x4) := by
  intro w h
  have f := fieldsOf (w := w) (congrArg BitVec.toNat (Option.some.inj h.symm))
  simp (disch := decide) [-Nat.reduceAdd, decodeWord, lookup, lookupScalar, fld, f.1, f.2, field_low, field_high]
theorem Sys2Proof.Laws.Encoding.sand {x0 x1 x2 x3 x4} : Sys2Proof.Laws.Encoding.Statement (.sand x0 x1 x2 x3 x4) := by
  intro w h
  have f := fieldsOf (w := w) (congrArg BitVec.toNat (Option.some.inj h.symm))
  simp (disch := decide) [-Nat.reduceAdd, decodeWord, lookup, lookupScalar, fld, f.1, f.2, field_low, field_high]
theorem Sys2Proof.Laws.Encoding.sor {x0 x1 x2 x3 x4} : Sys2Proof.Laws.Encoding.Statement (.sor x0 x1 x2 x3 x4) := by
  intro w h
  have f := fieldsOf (w := w) (congrArg BitVec.toNat (Option.some.inj h.symm))
  simp (disch := decide) [-Nat.reduceAdd, decodeWord, lookup, lookupScalar, fld, f.1, f.2, field_low, field_high]
theorem Sys2Proof.Laws.Encoding.sxor {x0 x1 x2 x3 x4} : Sys2Proof.Laws.Encoding.Statement (.sxor x0 x1 x2 x3 x4) := by
  intro w h
  have f := fieldsOf (w := w) (congrArg BitVec.toNat (Option.some.inj h.symm))
  simp (disch := decide) [-Nat.reduceAdd, decodeWord, lookup, lookupScalar, fld, f.1, f.2, field_low, field_high]
theorem Sys2Proof.Laws.Encoding.ssel {x0 x1 x2 x3 x4} : Sys2Proof.Laws.Encoding.Statement (.ssel x0 x1 x2 x3 x4) := by
  intro w h
  have f := fieldsOf (w := w) (congrArg BitVec.toNat (Option.some.inj h.symm))
  simp (disch := decide) [-Nat.reduceAdd, decodeWord, lookup, lookupScalar, fld, f.1, f.2, field_low, field_high]
theorem Sys2Proof.Laws.Encoding.sshl {x0 x1 x2 x3 x4} : Sys2Proof.Laws.Encoding.Statement (.sshl x0 x1 x2 x3 x4) := by
  intro w h
  have f := fieldsOf (w := w) (congrArg BitVec.toNat (Option.some.inj h.symm))
  simp (disch := decide) [-Nat.reduceAdd, decodeWord, lookup, lookupScalar, fld, f.1, f.2, field_low, field_high]
theorem Sys2Proof.Laws.Encoding.sshr {x0 x1 x2 x3 x4} : Sys2Proof.Laws.Encoding.Statement (.sshr x0 x1 x2 x3 x4) := by
  intro w h
  have f := fieldsOf (w := w) (congrArg BitVec.toNat (Option.some.inj h.symm))
  simp (disch := decide) [-Nat.reduceAdd, decodeWord, lookup, lookupScalar, fld, f.1, f.2, field_low, field_high]
theorem Sys2Proof.Laws.Encoding.ssar {x0 x1 x2 x3 x4} : Sys2Proof.Laws.Encoding.Statement (.ssar x0 x1 x2 x3 x4) := by
  intro w h
  have f := fieldsOf (w := w) (congrArg BitVec.toNat (Option.some.inj h.symm))
  simp (disch := decide) [-Nat.reduceAdd, decodeWord, lookup, lookupScalar, fld, f.1, f.2, field_low, field_high]
theorem Sys2Proof.Laws.Encoding.scmp {x0 x1 x2 x3 x4} : Sys2Proof.Laws.Encoding.Statement (.scmp x0 x1 x2 x3 x4) := by
  intro w h
  have f := fieldsOf (w := w) (congrArg BitVec.toNat (Option.some.inj h.symm))
  simp (disch := decide) [-Nat.reduceAdd, decodeWord, lookup, lookupScalar, fld, f.1, f.2, field_low, field_high]
theorem Sys2Proof.Laws.Encoding.smin {x0 x1 x2 x3 x4} : Sys2Proof.Laws.Encoding.Statement (.smin x0 x1 x2 x3 x4) := by
  intro w h
  have f := fieldsOf (w := w) (congrArg BitVec.toNat (Option.some.inj h.symm))
  simp (disch := decide) [-Nat.reduceAdd, decodeWord, lookup, lookupScalar, fld, f.1, f.2, field_low, field_high]
theorem Sys2Proof.Laws.Encoding.smax {x0 x1 x2 x3 x4} : Sys2Proof.Laws.Encoding.Statement (.smax x0 x1 x2 x3 x4) := by
  intro w h
  have f := fieldsOf (w := w) (congrArg BitVec.toNat (Option.some.inj h.symm))
  simp (disch := decide) [-Nat.reduceAdd, decodeWord, lookup, lookupScalar, fld, f.1, f.2, field_low, field_high]
theorem Sys2Proof.Laws.Encoding.smov {x0 x1 x2 x3} : Sys2Proof.Laws.Encoding.Statement (.smov x0 x1 x2 x3) := by
  intro w h
  have f := fieldsOf (w := w) (congrArg BitVec.toNat (Option.some.inj h.symm))
  simp (disch := decide) [-Nat.reduceAdd, decodeWord, lookup, lookupScalar, fld, f.1, f.2, field_low, field_high]
theorem Sys2Proof.Laws.Encoding.sdiv {x0 x1 x2 x3 x4} : Sys2Proof.Laws.Encoding.Statement (.sdiv x0 x1 x2 x3 x4) := by
  intro w h
  have f := fieldsOf (w := w) (congrArg BitVec.toNat (Option.some.inj h.symm))
  simp (disch := decide) [-Nat.reduceAdd, decodeWord, lookup, lookupScalar, fld, f.1, f.2, field_low, field_high]
theorem Sys2Proof.Laws.Encoding.smovi {x0 x1} : Sys2Proof.Laws.Encoding.Statement (.smovi x0 x1) := by
  intro w h
  have f := fieldsOf (w := w) (congrArg BitVec.toNat (Option.some.inj h.symm))
  simp (disch := decide) [-Nat.reduceAdd, decodeWord, lookup, lookupScalar, fld, f.1, f.2, field_low, field_high]
theorem Sys2Proof.Laws.Encoding.saddi {x0 x1 x2} : Sys2Proof.Laws.Encoding.Statement (.saddi x0 x1 x2) := by
  intro w h
  have f := fieldsOf (w := w) (congrArg BitVec.toNat (Option.some.inj h.symm))
  simp (disch := decide) [-Nat.reduceAdd, decodeWord, lookup, lookupScalar, fld, f.1, f.2, field_low, field_high]
theorem Sys2Proof.Laws.Encoding.aadd {x0 x1 x2 x3} : Sys2Proof.Laws.Encoding.Statement (.aadd x0 x1 x2 x3) := by
  intro w h
  have f := fieldsOf (w := w) (congrArg BitVec.toNat (Option.some.inj h.symm))
  simp (disch := decide) [-Nat.reduceAdd, decodeWord, lookup, lookupScalar, fld, f.1, f.2, field_low, field_high]
theorem Sys2Proof.Laws.Encoding.asub {x0 x1 x2 x3} : Sys2Proof.Laws.Encoding.Statement (.asub x0 x1 x2 x3) := by
  intro w h
  have f := fieldsOf (w := w) (congrArg BitVec.toNat (Option.some.inj h.symm))
  simp (disch := decide) [-Nat.reduceAdd, decodeWord, lookup, lookupScalar, fld, f.1, f.2, field_low, field_high]
theorem Sys2Proof.Laws.Encoding.ashl {x0 x1 x2 x3} : Sys2Proof.Laws.Encoding.Statement (.ashl x0 x1 x2 x3) := by
  intro w h
  have f := fieldsOf (w := w) (congrArg BitVec.toNat (Option.some.inj h.symm))
  simp (disch := decide) [-Nat.reduceAdd, decodeWord, lookup, lookupScalar, fld, f.1, f.2, field_low, field_high]
theorem Sys2Proof.Laws.Encoding.amov {x0 x1 x2} : Sys2Proof.Laws.Encoding.Statement (.amov x0 x1 x2) := by
  intro w h
  have f := fieldsOf (w := w) (congrArg BitVec.toNat (Option.some.inj h.symm))
  simp (disch := decide) [-Nat.reduceAdd, decodeWord, lookup, lookupScalar, fld, f.1, f.2, field_low, field_high]
theorem Sys2Proof.Laws.Encoding.amovA {x0 x1} : Sys2Proof.Laws.Encoding.Statement (.amovA x0 x1) := by
  intro w h
  have f := fieldsOf (w := w) (congrArg BitVec.toNat (Option.some.inj h.symm))
  simp (disch := decide) [-Nat.reduceAdd, decodeWord, lookup, lookupScalar, fld, f.1, f.2, field_low, field_high]
theorem Sys2Proof.Laws.Encoding.aset {x0 x1 x2} : Sys2Proof.Laws.Encoding.Statement (.aset x0 x1 x2) := by
  intro w h
  have f := fieldsOf (w := w) (congrArg BitVec.toNat (Option.some.inj h.symm))
  simp (disch := decide) [-Nat.reduceAdd, decodeWord, lookup, lookupScalar, fld, f.1, f.2, field_low, field_high]
theorem Sys2Proof.Laws.Encoding.avec {x0 x1 x2} : Sys2Proof.Laws.Encoding.Statement (.avec x0 x1 x2) := by
  intro w h
  have f := fieldsOf (w := w) (congrArg BitVec.toNat (Option.some.inj h.symm))
  simp (disch := decide) [-Nat.reduceAdd, decodeWord, lookup, lookupScalar, fld, f.1, f.2, field_low, field_high]
theorem Sys2Proof.Laws.Encoding.abase {x0 x1} : Sys2Proof.Laws.Encoding.Statement (.abase x0 x1) := by
  intro w h
  have f := fieldsOf (w := w) (congrArg BitVec.toNat (Option.some.inj h.symm))
  simp (disch := decide) [-Nat.reduceAdd, decodeWord, lookup, lookupScalar, fld, f.1, f.2, field_low, field_high]
theorem Sys2Proof.Laws.Encoding.astr {x0 x1} : Sys2Proof.Laws.Encoding.Statement (.astr x0 x1) := by
  intro w h
  have f := fieldsOf (w := w) (congrArg BitVec.toNat (Option.some.inj h.symm))
  simp (disch := decide) [-Nat.reduceAdd, decodeWord, lookup, lookupScalar, fld, f.1, f.2, field_low, field_high]
theorem Sys2Proof.Laws.Encoding.aoff {x0 x1 x2 x3} : Sys2Proof.Laws.Encoding.Statement (.aoff x0 x1 x2 x3) := by
  intro w h
  have f := fieldsOf (w := w) (congrArg BitVec.toNat (Option.some.inj h.symm))
  simp (disch := decide) [-Nat.reduceAdd, decodeWord, lookup, lookupScalar, fld, f.1, f.2, field_low, field_high]
theorem Sys2Proof.Laws.Encoding.vadd {x0 x1 x2 x3 x4 x5} : Sys2Proof.Laws.Encoding.Statement (.vadd x0 x1 x2 x3 x4 x5) := by
  intro w h
  have f := fieldsOf (w := w) (congrArg BitVec.toNat (Option.some.inj h.symm))
  simp (disch := decide) [-Nat.reduceAdd, decodeWord, lookup, lookupVector, fld, f.1, f.2, field_low, field_high]
theorem Sys2Proof.Laws.Encoding.vsub {x0 x1 x2 x3 x4 x5} : Sys2Proof.Laws.Encoding.Statement (.vsub x0 x1 x2 x3 x4 x5) := by
  intro w h
  have f := fieldsOf (w := w) (congrArg BitVec.toNat (Option.some.inj h.symm))
  simp (disch := decide) [-Nat.reduceAdd, decodeWord, lookup, lookupVector, fld, f.1, f.2, field_low, field_high]
theorem Sys2Proof.Laws.Encoding.vmul {x0 x1 x2 x3 x4 x5} : Sys2Proof.Laws.Encoding.Statement (.vmul x0 x1 x2 x3 x4 x5) := by
  intro w h
  have f := fieldsOf (w := w) (congrArg BitVec.toNat (Option.some.inj h.symm))
  simp (disch := decide) [-Nat.reduceAdd, decodeWord, lookup, lookupVector, fld, f.1, f.2, field_low, field_high]
theorem Sys2Proof.Laws.Encoding.vmulh {x0 x1 x2 x3 x4 x5} : Sys2Proof.Laws.Encoding.Statement (.vmulh x0 x1 x2 x3 x4 x5) := by
  intro w h
  have f := fieldsOf (w := w) (congrArg BitVec.toNat (Option.some.inj h.symm))
  simp (disch := decide) [-Nat.reduceAdd, decodeWord, lookup, lookupVector, fld, f.1, f.2, field_low, field_high]
theorem Sys2Proof.Laws.Encoding.vmad {x0 x1 x2 x3 x4 x5} : Sys2Proof.Laws.Encoding.Statement (.vmad x0 x1 x2 x3 x4 x5) := by
  intro w h
  have f := fieldsOf (w := w) (congrArg BitVec.toNat (Option.some.inj h.symm))
  simp (disch := decide) [-Nat.reduceAdd, decodeWord, lookup, lookupVector, fld, f.1, f.2, field_low, field_high]
theorem Sys2Proof.Laws.Encoding.vsadd {x0 x1 x2 x3 x4 x5} : Sys2Proof.Laws.Encoding.Statement (.vsadd x0 x1 x2 x3 x4 x5) := by
  intro w h
  have f := fieldsOf (w := w) (congrArg BitVec.toNat (Option.some.inj h.symm))
  simp (disch := decide) [-Nat.reduceAdd, decodeWord, lookup, lookupVector, fld, f.1, f.2, field_low, field_high]
theorem Sys2Proof.Laws.Encoding.vssub {x0 x1 x2 x3 x4 x5} : Sys2Proof.Laws.Encoding.Statement (.vssub x0 x1 x2 x3 x4 x5) := by
  intro w h
  have f := fieldsOf (w := w) (congrArg BitVec.toNat (Option.some.inj h.symm))
  simp (disch := decide) [-Nat.reduceAdd, decodeWord, lookup, lookupVector, fld, f.1, f.2, field_low, field_high]
theorem Sys2Proof.Laws.Encoding.vabsd {x0 x1 x2 x3 x4 x5} : Sys2Proof.Laws.Encoding.Statement (.vabsd x0 x1 x2 x3 x4 x5) := by
  intro w h
  have f := fieldsOf (w := w) (congrArg BitVec.toNat (Option.some.inj h.symm))
  simp (disch := decide) [-Nat.reduceAdd, decodeWord, lookup, lookupVector, fld, f.1, f.2, field_low, field_high]
theorem Sys2Proof.Laws.Encoding.vand {x0 x1 x2 x3 x4 x5} : Sys2Proof.Laws.Encoding.Statement (.vand x0 x1 x2 x3 x4 x5) := by
  intro w h
  have f := fieldsOf (w := w) (congrArg BitVec.toNat (Option.some.inj h.symm))
  simp (disch := decide) [-Nat.reduceAdd, decodeWord, lookup, lookupVector, fld, f.1, f.2, field_low, field_high]
theorem Sys2Proof.Laws.Encoding.vor {x0 x1 x2 x3 x4 x5} : Sys2Proof.Laws.Encoding.Statement (.vor x0 x1 x2 x3 x4 x5) := by
  intro w h
  have f := fieldsOf (w := w) (congrArg BitVec.toNat (Option.some.inj h.symm))
  simp (disch := decide) [-Nat.reduceAdd, decodeWord, lookup, lookupVector, fld, f.1, f.2, field_low, field_high]
theorem Sys2Proof.Laws.Encoding.vxor {x0 x1 x2 x3 x4 x5} : Sys2Proof.Laws.Encoding.Statement (.vxor x0 x1 x2 x3 x4 x5) := by
  intro w h
  have f := fieldsOf (w := w) (congrArg BitVec.toNat (Option.some.inj h.symm))
  simp (disch := decide) [-Nat.reduceAdd, decodeWord, lookup, lookupVector, fld, f.1, f.2, field_low, field_high]
theorem Sys2Proof.Laws.Encoding.vandn {x0 x1 x2 x3 x4 x5} : Sys2Proof.Laws.Encoding.Statement (.vandn x0 x1 x2 x3 x4 x5) := by
  intro w h
  have f := fieldsOf (w := w) (congrArg BitVec.toNat (Option.some.inj h.symm))
  simp (disch := decide) [-Nat.reduceAdd, decodeWord, lookup, lookupVector, fld, f.1, f.2, field_low, field_high]
theorem Sys2Proof.Laws.Encoding.vshl {x0 x1 x2 x3 x4 x5} : Sys2Proof.Laws.Encoding.Statement (.vshl x0 x1 x2 x3 x4 x5) := by
  intro w h
  have f := fieldsOf (w := w) (congrArg BitVec.toNat (Option.some.inj h.symm))
  simp (disch := decide) [-Nat.reduceAdd, decodeWord, lookup, lookupVector, fld, f.1, f.2, field_low, field_high]
theorem Sys2Proof.Laws.Encoding.vshr {x0 x1 x2 x3 x4 x5} : Sys2Proof.Laws.Encoding.Statement (.vshr x0 x1 x2 x3 x4 x5) := by
  intro w h
  have f := fieldsOf (w := w) (congrArg BitVec.toNat (Option.some.inj h.symm))
  simp (disch := decide) [-Nat.reduceAdd, decodeWord, lookup, lookupVector, fld, f.1, f.2, field_low, field_high]
theorem Sys2Proof.Laws.Encoding.vsar {x0 x1 x2 x3 x4 x5} : Sys2Proof.Laws.Encoding.Statement (.vsar x0 x1 x2 x3 x4 x5) := by
  intro w h
  have f := fieldsOf (w := w) (congrArg BitVec.toNat (Option.some.inj h.symm))
  simp (disch := decide) [-Nat.reduceAdd, decodeWord, lookup, lookupVector, fld, f.1, f.2, field_low, field_high]
theorem Sys2Proof.Laws.Encoding.vrot {x0 x1 x2 x3 x4 x5} : Sys2Proof.Laws.Encoding.Statement (.vrot x0 x1 x2 x3 x4 x5) := by
  intro w h
  have f := fieldsOf (w := w) (congrArg BitVec.toNat (Option.some.inj h.symm))
  simp (disch := decide) [-Nat.reduceAdd, decodeWord, lookup, lookupVector, fld, f.1, f.2, field_low, field_high]
theorem Sys2Proof.Laws.Encoding.vmin {x0 x1 x2 x3 x4 x5} : Sys2Proof.Laws.Encoding.Statement (.vmin x0 x1 x2 x3 x4 x5) := by
  intro w h
  have f := fieldsOf (w := w) (congrArg BitVec.toNat (Option.some.inj h.symm))
  simp (disch := decide) [-Nat.reduceAdd, decodeWord, lookup, lookupVector, fld, f.1, f.2, field_low, field_high]
theorem Sys2Proof.Laws.Encoding.vmax {x0 x1 x2 x3 x4 x5} : Sys2Proof.Laws.Encoding.Statement (.vmax x0 x1 x2 x3 x4 x5) := by
  intro w h
  have f := fieldsOf (w := w) (congrArg BitVec.toNat (Option.some.inj h.symm))
  simp (disch := decide) [-Nat.reduceAdd, decodeWord, lookup, lookupVector, fld, f.1, f.2, field_low, field_high]
theorem Sys2Proof.Laws.Encoding.vsel {x0 x1 x2 x3 x4 x5} : Sys2Proof.Laws.Encoding.Statement (.vsel x0 x1 x2 x3 x4 x5) := by
  intro w h
  have f := fieldsOf (w := w) (congrArg BitVec.toNat (Option.some.inj h.symm))
  simp (disch := decide) [-Nat.reduceAdd, decodeWord, lookup, lookupVector, fld, f.1, f.2, field_low, field_high]
theorem Sys2Proof.Laws.Encoding.vmov {x0 x1 x2 x3 x4} : Sys2Proof.Laws.Encoding.Statement (.vmov x0 x1 x2 x3 x4) := by
  intro w h
  have f := fieldsOf (w := w) (congrArg BitVec.toNat (Option.some.inj h.symm))
  simp (disch := decide) [-Nat.reduceAdd, decodeWord, lookup, lookupVector, fld, f.1, f.2, field_low, field_high]
theorem Sys2Proof.Laws.Encoding.vclz {x0 x1 x2 x3} : Sys2Proof.Laws.Encoding.Statement (.vclz x0 x1 x2 x3) := by
  intro w h
  have f := fieldsOf (w := w) (congrArg BitVec.toNat (Option.some.inj h.symm))
  simp (disch := decide) [-Nat.reduceAdd, decodeWord, lookup, lookupVector, fld, f.1, f.2, field_low, field_high]
theorem Sys2Proof.Laws.Encoding.vpop {x0 x1 x2 x3} : Sys2Proof.Laws.Encoding.Statement (.vpop x0 x1 x2 x3) := by
  intro w h
  have f := fieldsOf (w := w) (congrArg BitVec.toNat (Option.some.inj h.symm))
  simp (disch := decide) [-Nat.reduceAdd, decodeWord, lookup, lookupVector, fld, f.1, f.2, field_low, field_high]
theorem Sys2Proof.Laws.Encoding.vbrev {x0 x1 x2 x3} : Sys2Proof.Laws.Encoding.Statement (.vbrev x0 x1 x2 x3) := by
  intro w h
  have f := fieldsOf (w := w) (congrArg BitVec.toNat (Option.some.inj h.symm))
  simp (disch := decide) [-Nat.reduceAdd, decodeWord, lookup, lookupVector, fld, f.1, f.2, field_low, field_high]
theorem Sys2Proof.Laws.Encoding.vbfe {x0 x1 x2 x3 x4 x5} : Sys2Proof.Laws.Encoding.Statement (.vbfe x0 x1 x2 x3 x4 x5) := by
  intro w h
  have f := fieldsOf (w := w) (congrArg BitVec.toNat (Option.some.inj h.symm))
  simp (disch := decide) [-Nat.reduceAdd, decodeWord, lookup, lookupVector, fld, f.1, f.2, field_low, field_high]
theorem Sys2Proof.Laws.Encoding.vbfi {x0 x1 x2 x3 x4 x5} : Sys2Proof.Laws.Encoding.Statement (.vbfi x0 x1 x2 x3 x4 x5) := by
  intro w h
  have f := fieldsOf (w := w) (congrArg BitVec.toNat (Option.some.inj h.symm))
  simp (disch := decide) [-Nat.reduceAdd, decodeWord, lookup, lookupVector, fld, f.1, f.2, field_low, field_high]
theorem Sys2Proof.Laws.Encoding.vcvti {x0 x1 x2 x3 x4} : Sys2Proof.Laws.Encoding.Statement (.vcvti x0 x1 x2 x3 x4) := by
  intro w h
  have f := fieldsOf (w := w) (congrArg BitVec.toNat (Option.some.inj h.symm))
  simp (disch := decide) [-Nat.reduceAdd, decodeWord, lookup, lookupVector, fld, f.1, f.2, field_low, field_high]
theorem Sys2Proof.Laws.Encoding.vlane {x0 x1 x2} : Sys2Proof.Laws.Encoding.Statement (.vlane x0 x1 x2) := by
  intro w h
  have f := fieldsOf (w := w) (congrArg BitVec.toNat (Option.some.inj h.symm))
  simp (disch := decide) [-Nat.reduceAdd, decodeWord, lookup, lookupVector, fld, f.1, f.2, field_low, field_high]
theorem Sys2Proof.Laws.Encoding.vdiv {x0 x1 x2 x3 x4 x5} : Sys2Proof.Laws.Encoding.Statement (.vdiv x0 x1 x2 x3 x4 x5) := by
  intro w h
  have f := fieldsOf (w := w) (congrArg BitVec.toNat (Option.some.inj h.symm))
  simp (disch := decide) [-Nat.reduceAdd, decodeWord, lookup, lookupVector, fld, f.1, f.2, field_low, field_high]
theorem Sys2Proof.Laws.Encoding.vcmp {x0 x1 x2 x3 x4 x5 x6} : Sys2Proof.Laws.Encoding.Statement (.vcmp x0 x1 x2 x3 x4 x5 x6) := by
  intro w h
  have f := fieldsOf (w := w) (congrArg BitVec.toNat (Option.some.inj h.symm))
  simp (disch := decide) [-Nat.reduceAdd, decodeWord, lookup, lookupVector, fld, f.1, f.2, field_low, field_high]
theorem Sys2Proof.Laws.Encoding.fadd {x0 x1 x2 x3 x4 x5} : Sys2Proof.Laws.Encoding.Statement (.fadd x0 x1 x2 x3 x4 x5) := by
  intro w h
  have f := fieldsOf (w := w) (congrArg BitVec.toNat (Option.some.inj h.symm))
  simp (disch := decide) [-Nat.reduceAdd, decodeWord, lookup, lookupFloat, fld, f.1, f.2, field_low, field_high]
theorem Sys2Proof.Laws.Encoding.fsub {x0 x1 x2 x3 x4 x5} : Sys2Proof.Laws.Encoding.Statement (.fsub x0 x1 x2 x3 x4 x5) := by
  intro w h
  have f := fieldsOf (w := w) (congrArg BitVec.toNat (Option.some.inj h.symm))
  simp (disch := decide) [-Nat.reduceAdd, decodeWord, lookup, lookupFloat, fld, f.1, f.2, field_low, field_high]
theorem Sys2Proof.Laws.Encoding.fmul {x0 x1 x2 x3 x4 x5} : Sys2Proof.Laws.Encoding.Statement (.fmul x0 x1 x2 x3 x4 x5) := by
  intro w h
  have f := fieldsOf (w := w) (congrArg BitVec.toNat (Option.some.inj h.symm))
  simp (disch := decide) [-Nat.reduceAdd, decodeWord, lookup, lookupFloat, fld, f.1, f.2, field_low, field_high]
theorem Sys2Proof.Laws.Encoding.ffma {x0 x1 x2 x3 x4 x5} : Sys2Proof.Laws.Encoding.Statement (.ffma x0 x1 x2 x3 x4 x5) := by
  intro w h
  have f := fieldsOf (w := w) (congrArg BitVec.toNat (Option.some.inj h.symm))
  simp (disch := decide) [-Nat.reduceAdd, decodeWord, lookup, lookupFloat, fld, f.1, f.2, field_low, field_high]
theorem Sys2Proof.Laws.Encoding.fmin {x0 x1 x2 x3 x4 x5} : Sys2Proof.Laws.Encoding.Statement (.fmin x0 x1 x2 x3 x4 x5) := by
  intro w h
  have f := fieldsOf (w := w) (congrArg BitVec.toNat (Option.some.inj h.symm))
  simp (disch := decide) [-Nat.reduceAdd, decodeWord, lookup, lookupFloat, fld, f.1, f.2, field_low, field_high]
theorem Sys2Proof.Laws.Encoding.fmax {x0 x1 x2 x3 x4 x5} : Sys2Proof.Laws.Encoding.Statement (.fmax x0 x1 x2 x3 x4 x5) := by
  intro w h
  have f := fieldsOf (w := w) (congrArg BitVec.toNat (Option.some.inj h.symm))
  simp (disch := decide) [-Nat.reduceAdd, decodeWord, lookup, lookupFloat, fld, f.1, f.2, field_low, field_high]
theorem Sys2Proof.Laws.Encoding.fcpsgn {x0 x1 x2 x3 x4 x5} : Sys2Proof.Laws.Encoding.Statement (.fcpsgn x0 x1 x2 x3 x4 x5) := by
  intro w h
  have f := fieldsOf (w := w) (congrArg BitVec.toNat (Option.some.inj h.symm))
  simp (disch := decide) [-Nat.reduceAdd, decodeWord, lookup, lookupFloat, fld, f.1, f.2, field_low, field_high]
theorem Sys2Proof.Laws.Encoding.frnd {x0 x1 x2 x3} : Sys2Proof.Laws.Encoding.Statement (.frnd x0 x1 x2 x3) := by
  intro w h
  have f := fieldsOf (w := w) (congrArg BitVec.toNat (Option.some.inj h.symm))
  simp (disch := decide) [-Nat.reduceAdd, decodeWord, lookup, lookupFloat, fld, f.1, f.2, field_low, field_high]
theorem Sys2Proof.Laws.Encoding.frcp {x0 x1 x2 x3} : Sys2Proof.Laws.Encoding.Statement (.frcp x0 x1 x2 x3) := by
  intro w h
  have f := fieldsOf (w := w) (congrArg BitVec.toNat (Option.some.inj h.symm))
  simp (disch := decide) [-Nat.reduceAdd, decodeWord, lookup, lookupFloat, fld, f.1, f.2, field_low, field_high]
theorem Sys2Proof.Laws.Encoding.frsq {x0 x1 x2 x3} : Sys2Proof.Laws.Encoding.Statement (.frsq x0 x1 x2 x3) := by
  intro w h
  have f := fieldsOf (w := w) (congrArg BitVec.toNat (Option.some.inj h.symm))
  simp (disch := decide) [-Nat.reduceAdd, decodeWord, lookup, lookupFloat, fld, f.1, f.2, field_low, field_high]
theorem Sys2Proof.Laws.Encoding.fsqrt {x0 x1 x2 x3} : Sys2Proof.Laws.Encoding.Statement (.fsqrt x0 x1 x2 x3) := by
  intro w h
  have f := fieldsOf (w := w) (congrArg BitVec.toNat (Option.some.inj h.symm))
  simp (disch := decide) [-Nat.reduceAdd, decodeWord, lookup, lookupFloat, fld, f.1, f.2, field_low, field_high]
theorem Sys2Proof.Laws.Encoding.fdiv {x0 x1 x2 x3 x4 x5} : Sys2Proof.Laws.Encoding.Statement (.fdiv x0 x1 x2 x3 x4 x5) := by
  intro w h
  have f := fieldsOf (w := w) (congrArg BitVec.toNat (Option.some.inj h.symm))
  simp (disch := decide) [-Nat.reduceAdd, decodeWord, lookup, lookupFloat, fld, f.1, f.2, field_low, field_high]
theorem Sys2Proof.Laws.Encoding.fexp2 {x0 x1 x2 x3} : Sys2Proof.Laws.Encoding.Statement (.fexp2 x0 x1 x2 x3) := by
  intro w h
  have f := fieldsOf (w := w) (congrArg BitVec.toNat (Option.some.inj h.symm))
  simp (disch := decide) [-Nat.reduceAdd, decodeWord, lookup, lookupFloat, fld, f.1, f.2, field_low, field_high]
theorem Sys2Proof.Laws.Encoding.flog2 {x0 x1 x2 x3} : Sys2Proof.Laws.Encoding.Statement (.flog2 x0 x1 x2 x3) := by
  intro w h
  have f := fieldsOf (w := w) (congrArg BitVec.toNat (Option.some.inj h.symm))
  simp (disch := decide) [-Nat.reduceAdd, decodeWord, lookup, lookupFloat, fld, f.1, f.2, field_low, field_high]
theorem Sys2Proof.Laws.Encoding.fsin {x0 x1 x2 x3} : Sys2Proof.Laws.Encoding.Statement (.fsin x0 x1 x2 x3) := by
  intro w h
  have f := fieldsOf (w := w) (congrArg BitVec.toNat (Option.some.inj h.symm))
  simp (disch := decide) [-Nat.reduceAdd, decodeWord, lookup, lookupFloat, fld, f.1, f.2, field_low, field_high]
theorem Sys2Proof.Laws.Encoding.fcos {x0 x1 x2 x3} : Sys2Proof.Laws.Encoding.Statement (.fcos x0 x1 x2 x3) := by
  intro w h
  have f := fieldsOf (w := w) (congrArg BitVec.toNat (Option.some.inj h.symm))
  simp (disch := decide) [-Nat.reduceAdd, decodeWord, lookup, lookupFloat, fld, f.1, f.2, field_low, field_high]
theorem Sys2Proof.Laws.Encoding.fcmp {x0 x1 x2 x3 x4 x5 x6} : Sys2Proof.Laws.Encoding.Statement (.fcmp x0 x1 x2 x3 x4 x5 x6) := by
  intro w h
  have f := fieldsOf (w := w) (congrArg BitVec.toNat (Option.some.inj h.symm))
  simp (disch := decide) [-Nat.reduceAdd, decodeWord, lookup, lookupFloat, fld, f.1, f.2, field_low, field_high]
theorem Sys2Proof.Laws.Encoding.fcvt {x0 x1 x2 x3 x4} : Sys2Proof.Laws.Encoding.Statement (.fcvt x0 x1 x2 x3 x4) := by
  intro w h
  have f := fieldsOf (w := w) (congrArg BitVec.toNat (Option.some.inj h.symm))
  simp (disch := decide) [-Nat.reduceAdd, decodeWord, lookup, lookupFloat, fld, f.1, f.2, field_low, field_high]
theorem Sys2Proof.Laws.Encoding.cvti {x0 x1 x2 x3 x4} : Sys2Proof.Laws.Encoding.Statement (.cvti x0 x1 x2 x3 x4) := by
  intro w h
  have f := fieldsOf (w := w) (congrArg BitVec.toNat (Option.some.inj h.symm))
  simp (disch := decide) [-Nat.reduceAdd, decodeWord, lookup, lookupFloat, fld, f.1, f.2, field_low, field_high]
theorem Sys2Proof.Laws.Encoding.cvtf {x0 x1 x2 x3 x4} : Sys2Proof.Laws.Encoding.Statement (.cvtf x0 x1 x2 x3 x4) := by
  intro w h
  have f := fieldsOf (w := w) (congrArg BitVec.toNat (Option.some.inj h.symm))
  simp (disch := decide) [-Nat.reduceAdd, decodeWord, lookup, lookupFloat, fld, f.1, f.2, field_low, field_high]
theorem Sys2Proof.Laws.Encoding.fclass {x0 x1 x2 x3} : Sys2Proof.Laws.Encoding.Statement (.fclass x0 x1 x2 x3) := by
  intro w h
  have f := fieldsOf (w := w) (congrArg BitVec.toNat (Option.some.inj h.symm))
  simp (disch := decide) [-Nat.reduceAdd, decodeWord, lookup, lookupFloat, fld, f.1, f.2, field_low, field_high]
theorem Sys2Proof.Laws.Encoding.vshuf {x0 x1 x2 x3 x4 x5} : Sys2Proof.Laws.Encoding.Statement (.vshuf x0 x1 x2 x3 x4 x5) := by
  intro w h
  have f := fieldsOf (w := w) (congrArg BitVec.toNat (Option.some.inj h.symm))
  simp (disch := decide) [-Nat.reduceAdd, decodeWord, lookup, lookupFloat, fld, f.1, f.2, field_low, field_high]
theorem Sys2Proof.Laws.Encoding.vbcast {x0 x1 x2 x3} : Sys2Proof.Laws.Encoding.Statement (.vbcast x0 x1 x2 x3) := by
  intro w h
  have f := fieldsOf (w := w) (congrArg BitVec.toNat (Option.some.inj h.symm))
  simp (disch := decide) [-Nat.reduceAdd, decodeWord, lookup, lookupFloat, fld, f.1, f.2, field_low, field_high]
theorem Sys2Proof.Laws.Encoding.vscan {x0 x1 x2 x3 x4 x5 x6} : Sys2Proof.Laws.Encoding.Statement (.vscan x0 x1 x2 x3 x4 x5 x6) := by
  intro w h
  have f := fieldsOf (w := w) (congrArg BitVec.toNat (Option.some.inj h.symm))
  simp (disch := decide) [-Nat.reduceAdd, decodeWord, lookup, lookupFloat, fld, f.1, f.2, field_low, field_high]
theorem Sys2Proof.Laws.Encoding.vred {x0 x1 x2 x3 x4 x5} : Sys2Proof.Laws.Encoding.Statement (.vred x0 x1 x2 x3 x4 x5) := by
  intro w h
  have f := fieldsOf (w := w) (congrArg BitVec.toNat (Option.some.inj h.symm))
  simp (disch := decide) [-Nat.reduceAdd, decodeWord, lookup, lookupFloat, fld, f.1, f.2, field_low, field_high]
theorem Sys2Proof.Laws.Encoding.mand {x0 x1 x2} : Sys2Proof.Laws.Encoding.Statement (.mand x0 x1 x2) := by
  intro w h
  have f := fieldsOf (w := w) (congrArg BitVec.toNat (Option.some.inj h.symm))
  simp (disch := decide) [-Nat.reduceAdd, decodeWord, lookup, lookupFloat, fld, f.1, f.2, field_low, field_high]
theorem Sys2Proof.Laws.Encoding.mor {x0 x1 x2} : Sys2Proof.Laws.Encoding.Statement (.mor x0 x1 x2) := by
  intro w h
  have f := fieldsOf (w := w) (congrArg BitVec.toNat (Option.some.inj h.symm))
  simp (disch := decide) [-Nat.reduceAdd, decodeWord, lookup, lookupFloat, fld, f.1, f.2, field_low, field_high]
theorem Sys2Proof.Laws.Encoding.mxor {x0 x1 x2} : Sys2Proof.Laws.Encoding.Statement (.mxor x0 x1 x2) := by
  intro w h
  have f := fieldsOf (w := w) (congrArg BitVec.toNat (Option.some.inj h.symm))
  simp (disch := decide) [-Nat.reduceAdd, decodeWord, lookup, lookupFloat, fld, f.1, f.2, field_low, field_high]
theorem Sys2Proof.Laws.Encoding.mnot {x0 x1} : Sys2Proof.Laws.Encoding.Statement (.mnot x0 x1) := by
  intro w h
  have f := fieldsOf (w := w) (congrArg BitVec.toNat (Option.some.inj h.symm))
  simp (disch := decide) [-Nat.reduceAdd, decodeWord, lookup, lookupFloat, fld, f.1, f.2, field_low, field_high]
theorem Sys2Proof.Laws.Encoding.mpop {x0 x1} : Sys2Proof.Laws.Encoding.Statement (.mpop x0 x1) := by
  intro w h
  have f := fieldsOf (w := w) (congrArg BitVec.toNat (Option.some.inj h.symm))
  simp (disch := decide) [-Nat.reduceAdd, decodeWord, lookup, lookupFloat, fld, f.1, f.2, field_low, field_high]
theorem Sys2Proof.Laws.Encoding.mfirst {x0 x1} : Sys2Proof.Laws.Encoding.Statement (.mfirst x0 x1) := by
  intro w h
  have f := fieldsOf (w := w) (congrArg BitVec.toNat (Option.some.inj h.symm))
  simp (disch := decide) [-Nat.reduceAdd, decodeWord, lookup, lookupFloat, fld, f.1, f.2, field_low, field_high]
theorem Sys2Proof.Laws.Encoding.mtos {x0 x1 x2} : Sys2Proof.Laws.Encoding.Statement (.mtos x0 x1 x2) := by
  intro w h
  have f := fieldsOf (w := w) (congrArg BitVec.toNat (Option.some.inj h.symm))
  simp (disch := decide) [-Nat.reduceAdd, decodeWord, lookup, lookupFloat, fld, f.1, f.2, field_low, field_high]
theorem Sys2Proof.Laws.Encoding.stom {x0 x1 x2} : Sys2Proof.Laws.Encoding.Statement (.stom x0 x1 x2) := by
  intro w h
  have f := fieldsOf (w := w) (congrArg BitVec.toNat (Option.some.inj h.symm))
  simp (disch := decide) [-Nat.reduceAdd, decodeWord, lookup, lookupFloat, fld, f.1, f.2, field_low, field_high]
theorem Sys2Proof.Laws.Encoding.regroup {x0 x1 x2 x3 x4} : Sys2Proof.Laws.Encoding.Statement (.regroup x0 x1 x2 x3 x4) := by
  intro w h
  have f := fieldsOf (w := w) (congrArg BitVec.toNat (Option.some.inj h.symm))
  simp (disch := decide) [-Nat.reduceAdd, decodeWord, lookup, lookupFloat, fld, f.1, f.2, field_low, field_high]
theorem Sys2Proof.Laws.Encoding.vvote {x0 x1 x2} : Sys2Proof.Laws.Encoding.Statement (.vvote x0 x1 x2) := by
  intro w h
  have f := fieldsOf (w := w) (congrArg BitVec.toNat (Option.some.inj h.symm))
  simp (disch := decide) [-Nat.reduceAdd, decodeWord, lookup, lookupFloat, fld, f.1, f.2, field_low, field_high]
theorem Sys2Proof.Laws.Encoding.vldg {x0 x1 x2 x3 x4 x5 x6 x7 x8} : Sys2Proof.Laws.Encoding.Statement (.vldg x0 x1 x2 x3 x4 x5 x6 x7 x8) := by
  intro w h
  have f := fieldsOf (w := w) (congrArg BitVec.toNat (Option.some.inj h.symm))
  simp (disch := decide) [-Nat.reduceAdd, decodeWord, lookup, lookupMemory, fld, f.1, f.2, field_low, field_high]
theorem Sys2Proof.Laws.Encoding.vstg {x0 x1 x2 x3 x4 x5 x6 x7} : Sys2Proof.Laws.Encoding.Statement (.vstg x0 x1 x2 x3 x4 x5 x6 x7) := by
  intro w h
  have f := fieldsOf (w := w) (congrArg BitVec.toNat (Option.some.inj h.symm))
  simp (disch := decide) [-Nat.reduceAdd, decodeWord, lookup, lookupMemory, fld, f.1, f.2, field_low, field_high]
theorem Sys2Proof.Laws.Encoding.vlds {x0 x1 x2 x3 x4 x5 x6 x7 x8} : Sys2Proof.Laws.Encoding.Statement (.vlds x0 x1 x2 x3 x4 x5 x6 x7 x8) := by
  intro w h
  have f := fieldsOf (w := w) (congrArg BitVec.toNat (Option.some.inj h.symm))
  simp (disch := decide) [-Nat.reduceAdd, decodeWord, lookup, lookupMemory, fld, f.1, f.2, field_low, field_high]
theorem Sys2Proof.Laws.Encoding.vsts {x0 x1 x2 x3 x4 x5 x6 x7} : Sys2Proof.Laws.Encoding.Statement (.vsts x0 x1 x2 x3 x4 x5 x6 x7) := by
  intro w h
  have f := fieldsOf (w := w) (congrArg BitVec.toNat (Option.some.inj h.symm))
  simp (disch := decide) [-Nat.reduceAdd, decodeWord, lookup, lookupMemory, fld, f.1, f.2, field_low, field_high]
theorem Sys2Proof.Laws.Encoding.sld {x0 x1 x2 x3} : Sys2Proof.Laws.Encoding.Statement (.sld x0 x1 x2 x3) := by
  intro w h
  have f := fieldsOf (w := w) (congrArg BitVec.toNat (Option.some.inj h.symm))
  simp (disch := decide) [-Nat.reduceAdd, decodeWord, lookup, lookupMemory, fld, f.1, f.2, field_low, field_high]
theorem Sys2Proof.Laws.Encoding.sst {x0 x1 x2} : Sys2Proof.Laws.Encoding.Statement (.sst x0 x1 x2) := by
  intro w h
  have f := fieldsOf (w := w) (congrArg BitVec.toNat (Option.some.inj h.symm))
  simp (disch := decide) [-Nat.reduceAdd, decodeWord, lookup, lookupMemory, fld, f.1, f.2, field_low, field_high]
theorem Sys2Proof.Laws.Encoding.atom {x0 x1 x2 x3 x4 x5 x6} : Sys2Proof.Laws.Encoding.Statement (.atom x0 x1 x2 x3 x4 x5 x6) := by
  intro w h
  have f := fieldsOf (w := w) (congrArg BitVec.toNat (Option.some.inj h.symm))
  simp (disch := decide) [-Nat.reduceAdd, decodeWord, lookup, lookupMemory, fld, f.1, f.2, field_low, field_high]
theorem Sys2Proof.Laws.Encoding.atom64 {x0 x1 x2 x3 x4 x5 x6} : Sys2Proof.Laws.Encoding.Statement (.atom64 x0 x1 x2 x3 x4 x5 x6) := by
  intro w h
  have f := fieldsOf (w := w) (congrArg BitVec.toNat (Option.some.inj h.symm))
  simp (disch := decide) [-Nat.reduceAdd, decodeWord, lookup, lookupMemory, fld, f.1, f.2, field_low, field_high]
theorem Sys2Proof.Laws.Encoding.atomf {x0 x1 x2 x3 x4 x5 x6} : Sys2Proof.Laws.Encoding.Statement (.atomf x0 x1 x2 x3 x4 x5 x6) := by
  intro w h
  have f := fieldsOf (w := w) (congrArg BitVec.toNat (Option.some.inj h.symm))
  simp (disch := decide) [-Nat.reduceAdd, decodeWord, lookup, lookupMemory, fld, f.1, f.2, field_low, field_high]
theorem Sys2Proof.Laws.Encoding.fence {x0 x1 x2} : Sys2Proof.Laws.Encoding.Statement (.fence x0 x1 x2) := by
  intro w h
  have f := fieldsOf (w := w) (congrArg BitVec.toNat (Option.some.inj h.symm))
  simp (disch := decide) [-Nat.reduceAdd, decodeWord, lookup, lookupMemory, fld, f.1, f.2, field_low, field_high]
theorem Sys2Proof.Laws.Encoding.waitl {x0 x1 x2} : Sys2Proof.Laws.Encoding.Statement (.waitl x0 x1 x2) := by
  intro w h
  have f := fieldsOf (w := w) (congrArg BitVec.toNat (Option.some.inj h.symm))
  simp (disch := decide) [-Nat.reduceAdd, decodeWord, lookup, lookupMemory, fld, f.1, f.2, field_low, field_high]
theorem Sys2Proof.Laws.Encoding.pref {x0 x1 x2} : Sys2Proof.Laws.Encoding.Statement (.pref x0 x1 x2) := by
  intro w h
  have f := fieldsOf (w := w) (congrArg BitVec.toNat (Option.some.inj h.symm))
  simp (disch := decide) [-Nat.reduceAdd, decodeWord, lookup, lookupMemory, fld, f.1, f.2, field_low, field_high]
theorem Sys2Proof.Laws.Encoding.tld {x0 x1 x2 x3 x4 x5} : Sys2Proof.Laws.Encoding.Statement (.tld x0 x1 x2 x3 x4 x5) := by
  intro w h
  have f := fieldsOf (w := w) (congrArg BitVec.toNat (Option.some.inj h.symm))
  simp (disch := decide) [-Nat.reduceAdd, decodeWord, lookup, lookupMemory, fld, f.1, f.2, field_low, field_high]
theorem Sys2Proof.Laws.Encoding.tex {x0 x1 x2 x3 x4} : Sys2Proof.Laws.Encoding.Statement (.tex x0 x1 x2 x3 x4) := by
  intro w h
  have f := fieldsOf (w := w) (congrArg BitVec.toNat (Option.some.inj h.symm))
  simp (disch := decide) [-Nat.reduceAdd, decodeWord, lookup, lookupMemory, fld, f.1, f.2, field_low, field_high]
theorem Sys2Proof.Laws.Encoding.texg {x0 x1 x2 x3 x4} : Sys2Proof.Laws.Encoding.Statement (.texg x0 x1 x2 x3 x4) := by
  intro w h
  have f := fieldsOf (w := w) (congrArg BitVec.toNat (Option.some.inj h.symm))
  simp (disch := decide) [-Nat.reduceAdd, decodeWord, lookup, lookupMemory, fld, f.1, f.2, field_low, field_high]
theorem Sys2Proof.Laws.Encoding.tqry {x0 x1 x2} : Sys2Proof.Laws.Encoding.Statement (.tqry x0 x1 x2) := by
  intro w h
  have f := fieldsOf (w := w) (congrArg BitVec.toNat (Option.some.inj h.symm))
  simp (disch := decide) [-Nat.reduceAdd, decodeWord, lookup, lookupMemory, fld, f.1, f.2, field_low, field_high]
theorem Sys2Proof.Laws.Encoding.stmap {x0 x1 x2} : Sys2Proof.Laws.Encoding.Statement (.stmap x0 x1 x2) := by
  intro w h
  have f := fieldsOf (w := w) (congrArg BitVec.toNat (Option.some.inj h.symm))
  simp (disch := decide) [-Nat.reduceAdd, decodeWord, lookup, lookupMemory, fld, f.1, f.2, field_low, field_high]
theorem Sys2Proof.Laws.Encoding.stflush {x0} : Sys2Proof.Laws.Encoding.Statement (.stflush x0) := by
  intro w h
  have f := fieldsOf (w := w) (congrArg BitVec.toNat (Option.some.inj h.symm))
  simp (disch := decide) [-Nat.reduceAdd, decodeWord, lookup, lookupMemory, fld, f.1, f.2]
theorem Sys2Proof.Laws.Encoding.stunmap {x0} : Sys2Proof.Laws.Encoding.Statement (.stunmap x0) := by
  intro w h
  have f := fieldsOf (w := w) (congrArg BitVec.toNat (Option.some.inj h.symm))
  simp (disch := decide) [-Nat.reduceAdd, decodeWord, lookup, lookupMemory, fld, f.1, f.2]
theorem Sys2Proof.Laws.Encoding.stqry {x0 x1} : Sys2Proof.Laws.Encoding.Statement (.stqry x0 x1) := by
  intro w h
  have f := fieldsOf (w := w) (congrArg BitVec.toNat (Option.some.inj h.symm))
  simp (disch := decide) [-Nat.reduceAdd, decodeWord, lookup, lookupMemory, fld, f.1, f.2, field_low, field_high]
theorem Sys2Proof.Laws.Encoding.cpy {x0 x1 x2} : Sys2Proof.Laws.Encoding.Statement (.cpy x0 x1 x2) := by
  intro w h
  have f := fieldsOf (w := w) (congrArg BitVec.toNat (Option.some.inj h.symm))
  simp (disch := decide) [-Nat.reduceAdd, decodeWord, lookup, lookupMemory, fld, f.1, f.2, field_low, field_high]
theorem Sys2Proof.Laws.Encoding.cpy2d {x0 x1 x2} : Sys2Proof.Laws.Encoding.Statement (.cpy2d x0 x1 x2) := by
  intro w h
  have f := fieldsOf (w := w) (congrArg BitVec.toNat (Option.some.inj h.symm))
  simp (disch := decide) [-Nat.reduceAdd, decodeWord, lookup, lookupMemory, fld, f.1, f.2, field_low, field_high]
theorem Sys2Proof.Laws.Encoding.cpyb {x0} : Sys2Proof.Laws.Encoding.Statement (.cpyb x0) := by
  intro w h
  have f := fieldsOf (w := w) (congrArg BitVec.toNat (Option.some.inj h.symm))
  simp (disch := decide) [-Nat.reduceAdd, decodeWord, lookup, lookupMemory, fld, f.1, f.2, field_low, field_high]
theorem Sys2Proof.Laws.Encoding.cpyw {x0} : Sys2Proof.Laws.Encoding.Statement (.cpyw x0) := by
  intro w h
  have f := fieldsOf (w := w) (congrArg BitVec.toNat (Option.some.inj h.symm))
  simp (disch := decide) [-Nat.reduceAdd, decodeWord, lookup, lookupMemory, fld, f.1, f.2, field_low, field_high]
theorem Sys2Proof.Laws.Encoding.bar {x0 x1} : Sys2Proof.Laws.Encoding.Statement (.bar x0 x1) := by
  intro w h
  have f := fieldsOf (w := w) (congrArg BitVec.toNat (Option.some.inj h.symm))
  simp (disch := decide) [-Nat.reduceAdd, decodeWord, lookup, lookupMemory, fld, f.1, f.2, field_low, field_high]
theorem Sys2Proof.Laws.Encoding.bara {x0 x1} : Sys2Proof.Laws.Encoding.Statement (.bara x0 x1) := by
  intro w h
  have f := fieldsOf (w := w) (congrArg BitVec.toNat (Option.some.inj h.symm))
  simp (disch := decide) [-Nat.reduceAdd, decodeWord, lookup, lookupMemory, fld, f.1, f.2, field_low, field_high]
theorem Sys2Proof.Laws.Encoding.barw {x0 x1} : Sys2Proof.Laws.Encoding.Statement (.barw x0 x1) := by
  intro w h
  have f := fieldsOf (w := w) (congrArg BitVec.toNat (Option.some.inj h.symm))
  simp (disch := decide) [-Nat.reduceAdd, decodeWord, lookup, lookupMemory, fld, f.1, f.2, field_low, field_high]
theorem Sys2Proof.Laws.Encoding.barq {x0 x1 x2} : Sys2Proof.Laws.Encoding.Statement (.barq x0 x1 x2) := by
  intro w h
  have f := fieldsOf (w := w) (congrArg BitVec.toNat (Option.some.inj h.symm))
  simp (disch := decide) [-Nat.reduceAdd, decodeWord, lookup, lookupMemory, fld, f.1, f.2, field_low, field_high]
theorem Sys2Proof.Laws.Encoding.stream {x0 x1} : Sys2Proof.Laws.Encoding.Statement (.stream x0 x1) := by
  intro w h
  have f := fieldsOf (w := w) (congrArg BitVec.toNat (Option.some.inj h.symm))
  simp (disch := decide) [-Nat.reduceAdd, decodeWord, lookup, lookupEngine, fld, f.1, f.2, field_low, field_high]
theorem Sys2Proof.Laws.Encoding.qpop {x0 x1 x2} : Sys2Proof.Laws.Encoding.Statement (.qpop x0 x1 x2) := by
  intro w h
  have f := fieldsOf (w := w) (congrArg BitVec.toNat (Option.some.inj h.symm))
  simp (disch := decide) [-Nat.reduceAdd, decodeWord, lookup, lookupEngine, fld, f.1, f.2, field_low, field_high]
theorem Sys2Proof.Laws.Encoding.qstat {x0 x1} : Sys2Proof.Laws.Encoding.Statement (.qstat x0 x1) := by
  intro w h
  have f := fieldsOf (w := w) (congrArg BitVec.toNat (Option.some.inj h.symm))
  simp (disch := decide) [-Nat.reduceAdd, decodeWord, lookup, lookupEngine, fld, f.1, f.2, field_low, field_high]
theorem Sys2Proof.Laws.Encoding.qclose {x0} : Sys2Proof.Laws.Encoding.Statement (.qclose x0) := by
  intro w h
  have f := fieldsOf (w := w) (congrArg BitVec.toNat (Option.some.inj h.symm))
  simp (disch := decide) [-Nat.reduceAdd, decodeWord, lookup, lookupEngine, fld, f.1, f.2, field_low, field_high]
theorem Sys2Proof.Laws.Encoding.mgang {x0} : Sys2Proof.Laws.Encoding.Statement (.mgang x0) := by
  intro w h
  have f := fieldsOf (w := w) (congrArg BitVec.toNat (Option.some.inj h.symm))
  simp (disch := decide) [-Nat.reduceAdd, decodeWord, lookup, lookupEngine, fld, f.1, f.2, field_low, field_high]
theorem Sys2Proof.Laws.Encoding.mma {x0 x1 x2} : Sys2Proof.Laws.Encoding.Statement (.mma x0 x1 x2) := by
  intro w h
  have f := fieldsOf (w := w) (congrArg BitVec.toNat (Option.some.inj h.symm))
  simp (disch := decide) [-Nat.reduceAdd, decodeWord, lookup, lookupEngine, fld, f.1, f.2, field_low, field_high]
theorem Sys2Proof.Laws.Encoding.mdrain {x0 x1 x2 x3 x4 x5 x6} : Sys2Proof.Laws.Encoding.Statement (.mdrain x0 x1 x2 x3 x4 x5 x6) := by
  intro w h
  have f := fieldsOf (w := w) (congrArg BitVec.toNat (Option.some.inj h.symm))
  simp (disch := decide) [-Nat.reduceAdd, decodeWord, lookup, lookupEngine, fld, f.1, f.2, field_low, field_high]
theorem Sys2Proof.Laws.Encoding.mzero {x0} : Sys2Proof.Laws.Encoding.Statement (.mzero x0) := by
  intro w h
  have f := fieldsOf (w := w) (congrArg BitVec.toNat (Option.some.inj h.symm))
  simp (disch := decide) [-Nat.reduceAdd, decodeWord, lookup, lookupEngine, fld, f.1, f.2, field_low, field_high]
theorem Sys2Proof.Laws.Encoding.maccrd {x0 x1 x2 x3} : Sys2Proof.Laws.Encoding.Statement (.maccrd x0 x1 x2 x3) := by
  intro w h
  have f := fieldsOf (w := w) (congrArg BitVec.toNat (Option.some.inj h.symm))
  simp (disch := decide) [-Nat.reduceAdd, decodeWord, lookup, lookupEngine, fld, f.1, f.2, field_low, field_high]
theorem Sys2Proof.Laws.Encoding.maccwr {x0 x1 x2} : Sys2Proof.Laws.Encoding.Statement (.maccwr x0 x1 x2) := by
  intro w h
  have f := fieldsOf (w := w) (congrArg BitVec.toNat (Option.some.inj h.symm))
  simp (disch := decide) [-Nat.reduceAdd, decodeWord, lookup, lookupEngine, fld, f.1, f.2, field_low, field_high]
theorem Sys2Proof.Laws.Encoding.mfmt {x0 x1} : Sys2Proof.Laws.Encoding.Statement (.mfmt x0 x1) := by
  intro w h
  have f := fieldsOf (w := w) (congrArg BitVec.toNat (Option.some.inj h.symm))
  simp (disch := decide) [-Nat.reduceAdd, decodeWord, lookup, lookupEngine, fld, f.1, f.2, field_low, field_high]
theorem Sys2Proof.Laws.Encoding.mqry {x0 x1} : Sys2Proof.Laws.Encoding.Statement (.mqry x0 x1) := by
  intro w h
  have f := fieldsOf (w := w) (congrArg BitVec.toNat (Option.some.inj h.symm))
  simp (disch := decide) [-Nat.reduceAdd, decodeWord, lookup, lookupEngine, fld, f.1, f.2, field_low, field_high]
theorem Sys2Proof.Laws.Encoding.lfset {x0 x1 x2} : Sys2Proof.Laws.Encoding.Statement (.lfset x0 x1 x2) := by
  intro w h
  have f := fieldsOf (w := w) (congrArg BitVec.toNat (Option.some.inj h.symm))
  simp (disch := decide) [-Nat.reduceAdd, decodeWord, lookup, lookupEngine, fld, f.1, f.2, field_low, field_high]
theorem Sys2Proof.Laws.Encoding.lfspan {x0 x1 x2} : Sys2Proof.Laws.Encoding.Statement (.lfspan x0 x1 x2) := by
  intro w h
  have f := fieldsOf (w := w) (congrArg BitVec.toNat (Option.some.inj h.symm))
  simp (disch := decide) [-Nat.reduceAdd, decodeWord, lookup, lookupEngine, fld, f.1, f.2, field_low, field_high]
theorem Sys2Proof.Laws.Encoding.lfint {x0 x1 x2 x3 x4} : Sys2Proof.Laws.Encoding.Statement (.lfint x0 x1 x2 x3 x4) := by
  intro w h
  have f := fieldsOf (w := w) (congrArg BitVec.toNat (Option.some.inj h.symm))
  simp (disch := decide) [-Nat.reduceAdd, decodeWord, lookup, lookupEngine, fld, f.1, f.2, field_low, field_high]
theorem Sys2Proof.Laws.Encoding.lfz {x0 x1 x2} : Sys2Proof.Laws.Encoding.Statement (.lfz x0 x1 x2) := by
  intro w h
  have f := fieldsOf (w := w) (congrArg BitVec.toNat (Option.some.inj h.symm))
  simp (disch := decide) [-Nat.reduceAdd, decodeWord, lookup, lookupEngine, fld, f.1, f.2, field_low, field_high]
theorem Sys2Proof.Laws.Encoding.lfout {x0 x1 x2 x3 x4} : Sys2Proof.Laws.Encoding.Statement (.lfout x0 x1 x2 x3 x4) := by
  intro w h
  have f := fieldsOf (w := w) (congrArg BitVec.toNat (Option.some.inj h.symm))
  simp (disch := decide) [-Nat.reduceAdd, decodeWord, lookup, lookupEngine, fld, f.1, f.2, field_low, field_high]
theorem Sys2Proof.Laws.Encoding.mshdec {x0 x1 x2} : Sys2Proof.Laws.Encoding.Statement (.mshdec x0 x1 x2) := by
  intro w h
  have f := fieldsOf (w := w) (congrArg BitVec.toNat (Option.some.inj h.symm))
  simp (disch := decide) [-Nat.reduceAdd, decodeWord, lookup, lookupEngine, fld, f.1, f.2, field_low, field_high]
theorem Sys2Proof.Laws.Encoding.qmerge {x0 x1 x2} : Sys2Proof.Laws.Encoding.Statement (.qmerge x0 x1 x2) := by
  intro w h
  have f := fieldsOf (w := w) (congrArg BitVec.toNat (Option.some.inj h.symm))
  simp (disch := decide) [-Nat.reduceAdd, decodeWord, lookup, lookupEngine, fld, f.1, f.2, field_low, field_high]
theorem Sys2Proof.Laws.Encoding.lfqry {x0 x1 x2} : Sys2Proof.Laws.Encoding.Statement (.lfqry x0 x1 x2) := by
  intro w h
  have f := fieldsOf (w := w) (congrArg BitVec.toNat (Option.some.inj h.symm))
  simp (disch := decide) [-Nat.reduceAdd, decodeWord, lookup, lookupEngine, fld, f.1, f.2, field_low, field_high]
theorem Sys2Proof.Laws.Encoding.trace {x0 x1 x2 x3} : Sys2Proof.Laws.Encoding.Statement (.trace x0 x1 x2 x3) := by
  intro w h
  have f := fieldsOf (w := w) (congrArg BitVec.toNat (Option.some.inj h.symm))
  simp (disch := decide) [-Nat.reduceAdd, decodeWord, lookup, lookupEngine, fld, f.1, f.2, field_low, field_high]
theorem Sys2Proof.Laws.Encoding.trres {x0 x1} : Sys2Proof.Laws.Encoding.Statement (.trres x0 x1) := by
  intro w h
  have f := fieldsOf (w := w) (congrArg BitVec.toNat (Option.some.inj h.symm))
  simp (disch := decide) [-Nat.reduceAdd, decodeWord, lookup, lookupEngine, fld, f.1, f.2, field_low, field_high]
theorem Sys2Proof.Laws.Encoding.trget {x0 x1 x2} : Sys2Proof.Laws.Encoding.Statement (.trget x0 x1 x2) := by
  intro w h
  have f := fieldsOf (w := w) (congrArg BitVec.toNat (Option.some.inj h.symm))
  simp (disch := decide) [-Nat.reduceAdd, decodeWord, lookup, lookupEngine, fld, f.1, f.2, field_low, field_high]
theorem Sys2Proof.Laws.Encoding.trhit {x0 x1} : Sys2Proof.Laws.Encoding.Statement (.trhit x0 x1) := by
  intro w h
  have f := fieldsOf (w := w) (congrArg BitVec.toNat (Option.some.inj h.symm))
  simp (disch := decide) [-Nat.reduceAdd, decodeWord, lookup, lookupEngine, fld, f.1, f.2, field_low, field_high]
theorem Sys2Proof.Laws.Encoding.trsave {x0 x1 x2 x3} : Sys2Proof.Laws.Encoding.Statement (.trsave x0 x1 x2 x3) := by
  intro w h
  have f := fieldsOf (w := w) (congrArg BitVec.toNat (Option.some.inj h.symm))
  simp (disch := decide) [-Nat.reduceAdd, decodeWord, lookup, lookupEngine, fld, f.1, f.2, field_low, field_high]
theorem Sys2Proof.Laws.Encoding.trload {x0 x1 x2 x3 x4 x5} : Sys2Proof.Laws.Encoding.Statement (.trload x0 x1 x2 x3 x4 x5) := by
  intro w h
  have f := fieldsOf (w := w) (congrArg BitVec.toNat (Option.some.inj h.symm))
  simp (disch := decide) [-Nat.reduceAdd, decodeWord, lookup, lookupEngine, fld, f.1, f.2, field_low, field_high]
theorem Sys2Proof.Laws.Encoding.coll {x0 x1} : Sys2Proof.Laws.Encoding.Statement (.coll x0 x1) := by
  intro w h
  have f := fieldsOf (w := w) (congrArg BitVec.toNat (Option.some.inj h.symm))
  simp (disch := decide) [-Nat.reduceAdd, decodeWord, lookup, lookupEngine, fld, f.1, f.2, field_low, field_high]
theorem Sys2Proof.Laws.Encoding.collw {x0 x1 x2} : Sys2Proof.Laws.Encoding.Statement (.collw x0 x1 x2) := by
  intro w h
  have f := fieldsOf (w := w) (congrArg BitVec.toNat (Option.some.inj h.symm))
  simp (disch := decide) [-Nat.reduceAdd, decodeWord, lookup, lookupEngine, fld, f.1, f.2, field_low, field_high]
theorem Sys2Proof.Laws.Encoding.kvfork {x0 x1 x2} : Sys2Proof.Laws.Encoding.Statement (.kvfork x0 x1 x2) := by
  intro w h
  have f := fieldsOf (w := w) (congrArg BitVec.toNat (Option.some.inj h.symm))
  simp (disch := decide) [-Nat.reduceAdd, decodeWord, lookup, lookupEngine, fld, f.1, f.2, field_low, field_high]
theorem Sys2Proof.Laws.Encoding.kvfree {x0 x1 x2} : Sys2Proof.Laws.Encoding.Statement (.kvfree x0 x1 x2) := by
  intro w h
  have f := fieldsOf (w := w) (congrArg BitVec.toNat (Option.some.inj h.symm))
  simp (disch := decide) [-Nat.reduceAdd, decodeWord, lookup, lookupEngine, fld, f.1, f.2, field_low, field_high]
theorem Sys2Proof.Laws.Encoding.red {x0 x1 x2 x3 x4 x5} : Sys2Proof.Laws.Encoding.Statement (.red x0 x1 x2 x3 x4 x5) := by
  intro w h
  have f := fieldsOf (w := w) (congrArg BitVec.toNat (Option.some.inj h.symm))
  simp (disch := decide) [-Nat.reduceAdd, decodeWord, lookup, lookupHome, fld, f.1, f.2, field_low, field_high]
theorem Sys2Proof.Laws.Encoding.atxXchg32 {x0 x1 x2 x3 x4 x5} : Sys2Proof.Laws.Encoding.Statement (.atxXchg32 x0 x1 x2 x3 x4 x5) := by
  intro w h
  have f := fieldsOf (w := w) (congrArg BitVec.toNat (Option.some.inj h.symm))
  simp (disch := decide) [-Nat.reduceAdd, decodeWord, lookup, lookupHome, fld, f.1, f.2, field_low, field_high]
theorem Sys2Proof.Laws.Encoding.atxCas32 {x0 x1 x2 x3 x4 x5} : Sys2Proof.Laws.Encoding.Statement (.atxCas32 x0 x1 x2 x3 x4 x5) := by
  intro w h
  have f := fieldsOf (w := w) (congrArg BitVec.toNat (Option.some.inj h.symm))
  simp (disch := decide) [-Nat.reduceAdd, decodeWord, lookup, lookupHome, fld, f.1, f.2, field_low, field_high]
theorem Sys2Proof.Laws.Encoding.atxLd32 {x0 x1 x2 x3 x4 x5} : Sys2Proof.Laws.Encoding.Statement (.atxLd32 x0 x1 x2 x3 x4 x5) := by
  intro w h
  have f := fieldsOf (w := w) (congrArg BitVec.toNat (Option.some.inj h.symm))
  simp (disch := decide) [-Nat.reduceAdd, decodeWord, lookup, lookupHome, fld, f.1, f.2, field_low, field_high]
theorem Sys2Proof.Laws.Encoding.atxSt32 {x0 x1 x2 x3 x4} : Sys2Proof.Laws.Encoding.Statement (.atxSt32 x0 x1 x2 x3 x4) := by
  intro w h
  have f := fieldsOf (w := w) (congrArg BitVec.toNat (Option.some.inj h.symm))
  simp (disch := decide) [-Nat.reduceAdd, decodeWord, lookup, lookupHome, fld, f.1, f.2, field_low, field_high]
theorem Sys2Proof.Laws.Encoding.atxXchg64 {x0 x1 x2 x3 x4 x5} : Sys2Proof.Laws.Encoding.Statement (.atxXchg64 x0 x1 x2 x3 x4 x5) := by
  intro w h
  have f := fieldsOf (w := w) (congrArg BitVec.toNat (Option.some.inj h.symm))
  simp (disch := decide) [-Nat.reduceAdd, decodeWord, lookup, lookupHome, fld, f.1, f.2, field_low, field_high]
theorem Sys2Proof.Laws.Encoding.atxCas64 {x0 x1 x2 x3 x4 x5} : Sys2Proof.Laws.Encoding.Statement (.atxCas64 x0 x1 x2 x3 x4 x5) := by
  intro w h
  have f := fieldsOf (w := w) (congrArg BitVec.toNat (Option.some.inj h.symm))
  simp (disch := decide) [-Nat.reduceAdd, decodeWord, lookup, lookupHome, fld, f.1, f.2, field_low, field_high]
theorem Sys2Proof.Laws.Encoding.atxLd64 {x0 x1 x2 x3 x4 x5} : Sys2Proof.Laws.Encoding.Statement (.atxLd64 x0 x1 x2 x3 x4 x5) := by
  intro w h
  have f := fieldsOf (w := w) (congrArg BitVec.toNat (Option.some.inj h.symm))
  simp (disch := decide) [-Nat.reduceAdd, decodeWord, lookup, lookupHome, fld, f.1, f.2, field_low, field_high]
theorem Sys2Proof.Laws.Encoding.atxSt64 {x0 x1 x2 x3 x4} : Sys2Proof.Laws.Encoding.Statement (.atxSt64 x0 x1 x2 x3 x4) := by
  intro w h
  have f := fieldsOf (w := w) (congrArg BitVec.toNat (Option.some.inj h.symm))
  simp (disch := decide) [-Nat.reduceAdd, decodeWord, lookup, lookupHome, fld, f.1, f.2, field_low, field_high]
theorem Sys2Proof.Laws.Encoding.longLatencyCompletion {x0 x1} : Sys2Proof.Laws.Encoding.Statement (.longLatencyCompletion x0 x1) := fun _ h => nomatch h
theorem Sys2Proof.Laws.Encoding.storeAtHome {x0} : Sys2Proof.Laws.Encoding.Statement (.storeAtHome x0) := fun _ h => nomatch h
theorem Sys2Proof.Laws.Encoding.loadAtHome {x0 x1 x2} : Sys2Proof.Laws.Encoding.Statement (.loadAtHome x0 x1 x2) := fun _ h => nomatch h
theorem Sys2Proof.Laws.Encoding.atomicAtHome {x0} : Sys2Proof.Laws.Encoding.Statement (.atomicAtHome x0) := fun _ h => nomatch h
theorem Sys2Proof.Laws.Encoding.fenceToken {x0 x1} : Sys2Proof.Laws.Encoding.Statement (.fenceToken x0 x1) := fun _ h => nomatch h
theorem Sys2Proof.Laws.Encoding.fenceTokenAck {x0 x1} : Sys2Proof.Laws.Encoding.Statement (.fenceTokenAck x0 x1) := fun _ h => nomatch h
theorem Sys2Proof.Laws.Encoding.l1Invalidate {x0 x1} : Sys2Proof.Laws.Encoding.Statement (.l1Invalidate x0 x1) := fun _ h => nomatch h
theorem Sys2Proof.Laws.Encoding.stashRecall {x0 x1} : Sys2Proof.Laws.Encoding.Statement (.stashRecall x0 x1) := fun _ h => nomatch h
theorem Sys2Proof.Laws.Encoding.waitlTimeout {x0} : Sys2Proof.Laws.Encoding.Statement (.waitlTimeout x0) := fun _ h => nomatch h
theorem Sys2Proof.Laws.Encoding.teamPromotion {x0} : Sys2Proof.Laws.Encoding.Statement (.teamPromotion x0) := fun _ h => nomatch h
theorem Sys2Proof.Laws.Encoding.tideProbe {x0 x1} : Sys2Proof.Laws.Encoding.Statement (.tideProbe x0 x1) := fun _ h => nomatch h
theorem Sys2Proof.Laws.Encoding.tideProbeReturn {x0 x1} : Sys2Proof.Laws.Encoding.Statement (.tideProbeReturn x0 x1) := fun _ h => nomatch h
theorem Sys2Proof.Laws.Encoding.barrierPhaseCompletion {x0} : Sys2Proof.Laws.Encoding.Statement (.barrierPhaseCompletion x0) := fun _ h => nomatch h
theorem Sys2Proof.Laws.Encoding.barrierToken {x0 x1} : Sys2Proof.Laws.Encoding.Statement (.barrierToken x0 x1) := fun _ h => nomatch h
theorem Sys2Proof.Laws.Encoding.regroupExchange {x0 x1} : Sys2Proof.Laws.Encoding.Statement (.regroupExchange x0 x1) := fun _ h => nomatch h
theorem Sys2Proof.Laws.Encoding.mmaCompletion {x0 x1} : Sys2Proof.Laws.Encoding.Statement (.mmaCompletion x0 x1) := fun _ h => nomatch h
theorem Sys2Proof.Laws.Encoding.streamEntryPush {x0 x1} : Sys2Proof.Laws.Encoding.Statement (.streamEntryPush x0 x1) := fun _ h => nomatch h
theorem Sys2Proof.Laws.Encoding.copyCompletion {x0} : Sys2Proof.Laws.Encoding.Statement (.copyCompletion x0) := fun _ h => nomatch h
theorem Sys2Proof.Laws.Encoding.collectiveCompletion {x0 x1} : Sys2Proof.Laws.Encoding.Statement (.collectiveCompletion x0 x1) := fun _ h => nomatch h
theorem Sys2Proof.Laws.Encoding.collectiveTimeout {x0} : Sys2Proof.Laws.Encoding.Statement (.collectiveTimeout x0) := fun _ h => nomatch h
theorem Sys2Proof.Laws.Encoding.collectiveHalt {x0} : Sys2Proof.Laws.Encoding.Statement (.collectiveHalt x0) := fun _ h => nomatch h
theorem Sys2Proof.Laws.Encoding.collectiveResume {x0} : Sys2Proof.Laws.Encoding.Statement (.collectiveResume x0) := fun _ h => nomatch h
theorem Sys2Proof.Laws.Encoding.haltLimitExpiry {x0} : Sys2Proof.Laws.Encoding.Statement (.haltLimitExpiry x0) := fun _ h => nomatch h
theorem Sys2Proof.Laws.Encoding.notificationWrite {x0 x1} : Sys2Proof.Laws.Encoding.Statement (.notificationWrite x0 x1) := fun _ h => nomatch h
theorem Sys2Proof.Laws.Encoding.launchValidation {x0} : Sys2Proof.Laws.Encoding.Statement (.launchValidation x0) := fun _ h => nomatch h
theorem Sys2Proof.Laws.Encoding.dependencePoll {x0} : Sys2Proof.Laws.Encoding.Statement (.dependencePoll x0) := fun _ h => nomatch h
theorem Sys2Proof.Laws.Encoding.gridStart {x0} : Sys2Proof.Laws.Encoding.Statement (.gridStart x0) := fun _ h => nomatch h
theorem Sys2Proof.Laws.Encoding.bindRecord {x0 x1} : Sys2Proof.Laws.Encoding.Statement (.bindRecord x0 x1) := fun _ h => nomatch h
theorem Sys2Proof.Laws.Encoding.groupStart {x0 x1} : Sys2Proof.Laws.Encoding.Statement (.groupStart x0 x1) := fun _ h => nomatch h
theorem Sys2Proof.Laws.Encoding.teamStart {x0} : Sys2Proof.Laws.Encoding.Statement (.teamStart x0) := fun _ h => nomatch h
theorem Sys2Proof.Laws.Encoding.gridCompletion {x0} : Sys2Proof.Laws.Encoding.Statement (.gridCompletion x0) := fun _ h => nomatch h
theorem Sys2Proof.Laws.Encoding.preemptionDecision {x0 x1} : Sys2Proof.Laws.Encoding.Statement (.preemptionDecision x0 x1) := fun _ h => nomatch h
theorem Sys2Proof.Laws.Encoding.drainDeadline {x0 x1} : Sys2Proof.Laws.Encoding.Statement (.drainDeadline x0 x1) := fun _ h => nomatch h
theorem Sys2Proof.Laws.Encoding.saveComplete {x0 x1} : Sys2Proof.Laws.Encoding.Statement (.saveComplete x0 x1) := fun _ h => nomatch h
theorem Sys2Proof.Laws.Encoding.saveDeadline {x0} : Sys2Proof.Laws.Encoding.Statement (.saveDeadline x0) := fun _ h => nomatch h
theorem Sys2Proof.Laws.Encoding.contextRestore {x0 x1} : Sys2Proof.Laws.Encoding.Statement (.contextRestore x0 x1) := fun _ h => nomatch h
theorem Sys2Proof.Laws.Encoding.raceEpochAdvance : Sys2Proof.Laws.Encoding.Statement .raceEpochAdvance := fun _ h => nomatch h
theorem Sys2Proof.Laws.Encoding.traceSample {x0 x1} : Sys2Proof.Laws.Encoding.Statement (.traceSample x0 x1) := fun _ h => nomatch h
theorem Sys2Proof.Laws.Encoding.wringerFrame {x0} : Sys2Proof.Laws.Encoding.Statement (.wringerFrame x0) := fun _ h => nomatch h
theorem Sys2Proof.Laws.Encoding.timeSyncExchange {x0 x1 x2} : Sys2Proof.Laws.Encoding.Statement (.timeSyncExchange x0 x1 x2) := fun _ h => nomatch h
theorem Sys2Proof.Laws.Encoding.domainTimeExchange {x0 x1 x2} : Sys2Proof.Laws.Encoding.Statement (.domainTimeExchange x0 x1 x2) := fun _ h => nomatch h
theorem Sys2Proof.Laws.Encoding.hostAccess {x0 x1 x2} : Sys2Proof.Laws.Encoding.Statement (.hostAccess x0 x1 x2) := fun _ h => nomatch h
theorem Sys2Proof.Laws.Encoding.shorelineLinkFailure {x0 x1} : Sys2Proof.Laws.Encoding.Statement (.shorelineLinkFailure x0 x1) := fun _ h => nomatch h
theorem Sys2Proof.Laws.Encoding.fabricRouteLoss {x0} : Sys2Proof.Laws.Encoding.Statement (.fabricRouteLoss x0) := fun _ h => nomatch h
theorem Sys2Proof.Laws.Encoding.thermalThrottle {x0 x1} : Sys2Proof.Laws.Encoding.Statement (.thermalThrottle x0 x1) := fun _ h => nomatch h
theorem Sys2Proof.Laws.Encoding.thermalShutdown : Sys2Proof.Laws.Encoding.Statement .thermalShutdown := fun _ h => nomatch h
theorem Sys2Proof.Laws.Encoding.moduleReset {x0} : Sys2Proof.Laws.Encoding.Statement (.moduleReset x0) := fun _ h => nomatch h
theorem Sys2Proof.Laws.Encoding.registerWrite {x0 x1} : Sys2Proof.Laws.Encoding.Statement (.registerWrite x0 x1) := fun _ h => nomatch h
theorem Sys2Proof.Laws.Encoding.resync : Sys2Proof.Laws.Encoding.Statement .resync := fun _ h => nomatch h
theorem Sys2Proof.Laws.Encoding.start : Sys2Proof.Laws.Encoding.Statement .start := fun _ h => nomatch h
theorem Sys2Proof.Laws.Encoding.ctxnew : Sys2Proof.Laws.Encoding.Statement .ctxnew := fun _ h => nomatch h
theorem Sys2Proof.Laws.Encoding.ctxfree : Sys2Proof.Laws.Encoding.Statement .ctxfree := fun _ h => nomatch h
theorem Sys2Proof.Laws.Encoding.qreg : Sys2Proof.Laws.Encoding.Statement .qreg := fun _ h => nomatch h
theorem Sys2Proof.Laws.Encoding.inval : Sys2Proof.Laws.Encoding.Statement .inval := fun _ h => nomatch h
theorem Sys2Proof.Laws.Encoding.resident : Sys2Proof.Laws.Encoding.Statement .resident := fun _ h => nomatch h
theorem Sys2Proof.Laws.Encoding.halt : Sys2Proof.Laws.Encoding.Statement .halt := fun _ h => nomatch h
theorem Sys2Proof.Laws.Encoding.release : Sys2Proof.Laws.Encoding.Statement .release := fun _ h => nomatch h
theorem Sys2Proof.Laws.Encoding.group : Sys2Proof.Laws.Encoding.Statement .group := fun _ h => nomatch h
theorem Sys2Proof.Laws.Encoding.keyload : Sys2Proof.Laws.Encoding.Statement .keyload := fun _ h => nomatch h
theorem Sys2Proof.Laws.Encoding.attest : Sys2Proof.Laws.Encoding.Statement .attest := fun _ h => nomatch h
theorem Sys2Proof.Laws.Encoding.sinkrst : Sys2Proof.Laws.Encoding.Statement .sinkrst := fun _ h => nomatch h
theorem Sys2Proof.Laws.Encoding.wordNotAnInstruction {x0} : Sys2Proof.Laws.Encoding.Statement (.wordNotAnInstruction x0) := fun _ h => nomatch h
theorem Sys2Proof.Laws.Encoding.samplerInvalidation {x0 x1} : Sys2Proof.Laws.Encoding.Statement (.samplerInvalidation x0 x1) := fun _ h => nomatch h
theorem Sys2Proof.Laws.Encoding.instructionCacheInvalidation {x0 x1} : Sys2Proof.Laws.Encoding.Statement (.instructionCacheInvalidation x0 x1) := fun _ h => nomatch h
theorem Sys2Proof.Laws.Encoding.storeAcknowledgement {x0 x1} : Sys2Proof.Laws.Encoding.Statement (.storeAcknowledgement x0 x1) := fun _ h => nomatch h
theorem Sys2Proof.Laws.Encoding.watchReport {x0} : Sys2Proof.Laws.Encoding.Statement (.watchReport x0) := fun _ h => nomatch h
theorem Sys2Proof.Laws.Encoding.wakeWithoutNotice {x0} : Sys2Proof.Laws.Encoding.Statement (.wakeWithoutNotice x0) := fun _ h => nomatch h
theorem Sys2Proof.Laws.Encoding.stallAccountClock {x0 x1} : Sys2Proof.Laws.Encoding.Statement (.stallAccountClock x0 x1) := fun _ h => nomatch h
theorem Sys2Proof.Laws.Encoding.dvfsClockChange {x0 x1} : Sys2Proof.Laws.Encoding.Statement (.dvfsClockChange x0 x1) := fun _ h => nomatch h
end

