-- ==== Sys2Proof/Laws/Reset.lean ====
section
/-! SUPPORT. Operations that write many bytes keep memory in its canonical form: those of a module reset, and the bytes that
an abandoned work leaves unspecified. -/

namespace Sys2Proof.Machine

/-- A fold whose steps keep the canonical form keeps it. -/
theorem foldl_wf {α : Type} {f : State → α → State} (hf : ∀ s a, Memory.wf s → Memory.wf (f s a)) (l : List α) (s : State)
    (h : Memory.wf s) : Memory.wf (l.foldl f s) := by
  induction l generalizing s with
  | nil => exact h
  | cons a r ih => exact ih _ (hf s a h)

/-- What a module reset leaves in memory is in the canonical form. -/
theorem State.resetMem_wf (s : State) : s.resetMem.wf = true := by
  have h (l : List (Nat × Byte)) (m : SMap (0xFF#8)) (hm : m.wf = true) :
      (l.foldl (fun (m : SMap (0xFF#8)) e =>
        m.set e.1 (if paModule e.1 ≠ s.hub.modid ∨ paHost e.1 then e.2 else Config.freeByte s.freeCtr e.1)) m).wf = true := by
    induction l generalizing m with
    | nil => exact hm
    | cons a r ih => exact ih _ (SMap.wf_set m _ _ hm)
  exact h _ _ rfl

theorem State.scramble_wf (s : State) (die ctx : Nat) (va : W64) (n : Nat) (h : Memory.wf s) : Memory.wf (s.scramble die ctx va n) := by
  refine foldl_wf (fun s i h => ?_) _ s h
  split
  · exact s.setBytes_wf _ _ h
  · exact h

end Sys2Proof.Machine
end

