-- ==== Sys2Proof/Laws/Traps.lean ====
section
/-! SUPPORT. Translation and fetching do not depend on what the slots hold but for the fetching team's own buffer; and what
taking a trap does. -/

namespace Sys2Proof.Machine

/-- Translation does not depend on what the slots hold. -/
theorem State.translate_teams (s : State) (ts : SMap ({} : Team)) (die ctx : Nat) (a : Acc) (va : W64) :
    ({ s with teams := ts } : State).translate die ctx a va = s.translate die ctx a va := rfl

theorem State.icRead_teams (s : State) (ts : SMap ({} : Team)) (core line : Nat) :
    ({ s with teams := ts } : State).icRead core line = s.icRead core line := rfl

theorem State.badRange_teams (s : State) (ts : SMap ({} : Team)) (pa n : Nat) :
    ({ s with teams := ts } : State).badRange pa n = s.badRange pa n := rfl

/-- A fetch depends on the slots only by the fetching team's context, its buffer and the line it runs from. -/
theorem State.fetchWord_teams (s : State) (ts : SMap ({} : Team)) (uid : Nat)
    (hx : (ts.get uid).place.ctx = (s.teams.get uid).place.ctx) (hp : (ts.get uid).prefetch = (s.teams.get uid).prefetch)
    (hl : (ts.get uid).line = (s.teams.get uid).line) (va : W64) :
    ({ s with teams := ts } : State).fetchWord uid va = s.fetchWord uid va := by
  have ha : ({ s with teams := ts } : State).fetchedAhead uid va = s.fetchedAhead uid va := by
    show ((ts.get uid).prefetch.get _ ≠ [] && ((ts.get uid).line == _ || s.choice 8 _)) = _
    rw [hp, hl]
    rfl
  have hL : ({ s with teams := ts } : State).fetchLine uid va = s.fetchLine uid va := by
    unfold State.fetchLine
    rw [ha]
    simp only [State.translate_teams, State.icRead_teams, State.badRange_teams, hx, hp]
    rfl
  unfold State.fetchWord
  rw [hL]

/-- A team with its waiting trap taken off. -/
def Team.noPending (t : Team) : Team := { t with trap := { t.trap with pending := none } }

/-- A trap in place of a team with no word outstanding is taken at once. -/
theorem State.takeTrap_inPlace (s : State) (uid : Nat) (r : TrapReq) (hc : r.cls = 1) (hw : (s.teams.get uid).words = []) :
    s.takeTrap uid r = (s.modTeam uid Team.noPending).enterTrap uid r := by
  unfold State.takeTrap
  simp only [hc]
  rw [if_neg (by simp)]
  exact (if_pos trivial).trans (if_pos hw)

/-- Entering a handler that can be entered. -/
theorem State.enterTrap_handler (s : State) (uid : Nat) (r : TrapReq) {x : W32} (hn : r.cause ≠ cNOTPRESENT)
    (hh : BitVec.ofNat 64 (s.grids.get (s.teams.get uid).place.grid).launch.traph ≠ 0)
    (hf : (s.teams.get uid).trap.handler = none)
    (hx : s.fetchWord uid (BitVec.ofNat 64 (s.grids.get (s.teams.get uid).place.grid).launch.traph) = .ok x)
    (hi : isHeader x = true) :
    s.enterTrap uid r = ((s.putTeam uid ((s.teams.get uid).enterAt
      (s.trapRecord uid r (s.teams.get uid).flow.pos.pc false) r.cause
      (BitVec.ofNat 64 (s.grids.get (s.teams.get uid).place.grid).launch.traph) true)).traceTrap uid r).haltAtSeam uid := by
  unfold State.enterTrap
  simp only [hx, hi, hf]
  rw [if_neg hn, if_neg (by simpa using hh)]
  rfl

theorem State.traceTrap_teams (s : State) (uid : Nat) (r : TrapReq) : (s.traceTrap uid r).teams = s.teams := by
  unfold State.traceTrap
  dsimp only
  split <;> rfl

theorem State.traceTrap_ctxs (s : State) (uid : Nat) (r : TrapReq) : (s.traceTrap uid r).ctxs = s.ctxs := by
  unfold State.traceTrap
  dsimp only
  split <;> rfl

/-- Where the context is not halted, a seam stops no team. -/
theorem State.haltAtSeam_running (s : State) (uid : Nat) (h : (s.ctxs.get (s.teams.get uid).place.ctx).state ≠ 2) :
    s.haltAtSeam uid = s := by
  unfold State.haltAtSeam
  exact if_neg (fun q => h q.1)

end Sys2Proof.Machine
end

