-- ==== Sys2Proof/Tests/Slice0.lean ====
section
/-! SUPPORT. Tests: words of the spec's tables, single steps on small states, and, for every statement with hypotheses, a state
and operands that meet them (`witness_<the statement>`). -/

open Sys2Proof Sys2Proof.Machine Sys2Proof.Safety

namespace Sys2Proof.Tests

/-! The tests are checked one after the other: each holds much memory while it is evaluated. -/

set_option Elab.async false

/-! ### Small states -/

/-- One team of 32 lanes at the last word of its clause, with lanes 0 and 31 active, changed by `f`. -/
def st (f : Team → Team) : State :=
  let s := State.reset.placeTeam 0
  s.setTeam (f { s.team with flow := { s.team.flow with active := 0x80000001 } })

/-- The same, with page tables that map the first gibibyte. -/
def stm (f : Team → Team) : State :=
  let s := State.reset.placeTables.placeTeam 0
  s.setTeam (f { s.team with flow := { s.team.flow with active := 0x80000001 } })

/-- Change the registers of a team. -/
def withR (f : Regs → Regs) (t : Team) : Team := { t with regs := f t.regs }

/-- Whether a word passes its checks. -/
def passesB (i : Instr) (s : State) : Bool :=
  decide (s.details i = []) && decide (useSet (info i).writes &&& readBefore i s = 0) &&
  (s.badReg s.cur (readSet (info i) s.team.hints)).isNone &&
  (decide (s.team.wait ≠ .none) ||
    (!(s.ctxOf s.team).cfg.hazard || decide (regsTouched i s &&& s.team.pendingRegs = 0)) &&
    (match flagOf (info i) s.team.flow.pos with | none => true | some n => decide (s.team.flags.get n ≠ 63)))

theorem passes_of {i : Instr} {s : State} (h : passesB i s = true) : Passes i s := by
  unfold passesB at h
  simp only [Bool.and_eq_true, decide_eq_true_eq, Bool.or_eq_true, Option.isNone_iff_eq_none] at h
  obtain ⟨⟨⟨h1, h2⟩, h4⟩, h3⟩ := h
  refine ⟨h1, h2, h4, fun hw hz => ?_, fun hw n hn => ?_⟩
  · rcases h3 with h3 | h3
    · exact absurd hw h3
    · rcases h3.1 with h4 | h4
      · rw [hz] at h4; cases h4
      · exact h4
  · rcases h3 with h3 | h3
    · exact absurd hw h3
    · rw [hn] at h3; exact of_decide_eq_true h3.2

theorem all_pass {l : List Instr} {s : State} (h : l.all (passesB · s) = true) : ∀ i ∈ l, Passes i s :=
  fun i hi => passes_of (List.all_eq_true.1 h i hi)

/-- A value that an operation answers, with a property. -/
def okAnd {α ε : Type} (x : Except ε α) (p : α → Bool) : Bool :=
  match x with | .ok a => p a | .error _ => false

theorem ok_of {α ε : Type} {x : Except ε α} {p : α → Bool} (h : okAnd x p = true) : ∃ a, x = .ok a ∧ p a = true := by
  unfold okAnd at h
  split at h
  · exact ⟨_, rfl, h⟩
  · cases h

/-! ### Words of the spec's tables (R34 to R62) -/

theorem test_decode_control : decodeWord 0x0400BFC0 = .ok (.clause 2 15 15 0) ∧ decodeWord 0x08C00009 = .ok (.hintSrc3 0 9) ∧
    decodeWord 0x08800005 = .ok (.hintMod 0 0 0 1 1) ∧ decodeWord 0x14800004 = .ok (.brd 1 0 4) ∧
    decodeWord 0x18000008 = .ok (.markj 8) ∧ decodeWord 0x1C000028 = .ok (.call 40) ∧ decodeWord 0x20000000 = .ok .join ∧
    decodeWord 0x20300000 = .ok .exit ∧ decodeWord 0x20700007 = .ok (.enter 7) := by decide +kernel
theorem test_decode_scalar : decodeWord 0x282081C1 = .ok (.ssub 2 2 1 3 0) ∧ decodeWord 0x30A0C44B = .ok (.scmp 10 3 4 1 2) ∧
    decodeWord 0x3462094F = .ok (.sdiv 6 8 9 1 3) ∧ decodeWord 0x40310543 = .ok (.amov 3 4 5) ∧
    decodeWord 0x4067C2C2 = .ok (.ashl 6 31 2 3) ∧ decodeWord 0x48104000 = .ok (.avec 1 1 0) := by decide +kernel
theorem test_decode_vector : decodeWord 0x4C107DC0 = .ok (.vadd 1 1 61 3 0 0) ∧ decodeWord 0x4C200120 = .ok (.vadd 2 0 1 0 1 0) ∧
    decodeWord 0x4C210608 = .ok (.vadd 2 4 6 0 0 2) ∧ decodeWord 0x581001D8 = .ok (.vshl 1 0 1 3 0 6) ∧
    decodeWord 0x6C200100 = .ok (.fadd 2 0 1 0 0 0) ∧ decodeWord 0x6C310503 = .ok (.ffma 3 4 5 0 0 0) ∧
    decodeWord 0x806000C4 = .ok (.fcvt 6 0 0 0 1) ∧ decodeWord 0x8071C0C1 = .ok (.cvti 7 7 0 0 0) ∧
    decodeWord 0x88304200 = .ok (.mand 3 1 2) := by decide +kernel
theorem test_decode_memory : decodeWord 0x9450C1CA = .ok (.vldg 5 3 1 1 1 0 2 1 0) ∧ decodeWord 0x981080C8 = .ok (.vstg 1 2 0 1 1 0 2 0) ∧
    decodeWord 0x24610500 = .ok (.rclr 4 5) ∧ decodeWord 0xC8100042 = .ok (.bara 1 2) ∧ decodeWord 0xC8324003 = .ok (.barq 9 0 3) := by
  decide +kernel
/-- R66: an odd pair is refused by its detail; a major of no row, and a field that must be zero, by name. -/
theorem test_decode_refuses : (Instr.vadd 3 4 6 0 0 2).wellFormed = false ∧ wordDetails 64 0x4C310608 = [0x06] ∧
    wordDetails 64 0x6C108310 = [0x07] ∧ decodeWord 0x00000000 = .error .permanentlyIllegal ∧ decodeWord 0x20000001 = .error .fieldNotZero := by
  decide +kernel

/-! ### Witnesses: words on registers -/

/-- The team's region has written every register, so that no word breaks the region contract. -/
def stw : State := st (fun t => { t with wr := BitVec.allOnes 172 })


theorem witness_ScalarArithmetic : ∀ i ∈ ([.sadd 63 63 63 1 0, .ssub 0 0 0 3 2, .smul 63 0 63 1 1, .smulh 0 63 63 1 3, .smin 63 63 63 1 2,
    .smax 0 0 0 3 1, .scmp 63 63 63 1 3, .sdiv 62 63 62 1 2] : List Instr), Passes i stw := all_pass (by decide +kernel)
theorem witness_ScalarLogic : ∀ i ∈ ([.sand 63 63 63 1 6, .sor 0 0 0 3 7, .sxor 63 0 63 1 6, .ssel 0 63 63 1 7, .sshl 63 63 63 1 6,
    .sshr 0 0 0 3 7, .ssar 63 63 63 1 2, .smov 62 63 1 7, .smovi 63 0x3FFF, .saddi 63 63 0x2000] : List Instr), Passes i stw :=
  all_pass (by decide +kernel)
theorem witness_AffineWords : ∀ i ∈ ([.aadd 31 31 31 2, .asub 0 0 63 1, .ashl 31 31 63 3, .amov 31 63 63, .amovA 0 31,
    .aoff 31 31 63 1, .abase 63 31, .astr 0 31, .avec 62 31 7] : List Instr), Passes i stw := all_pass (by decide +kernel)
/-- ASET with no HINT.IMM, with one and with two. -/
theorem witness_AffineSet : Passes (.aset 31 63 0x2000) stw ∧
    Passes (.aset 0 0 0) (st (fun t => { t with hints := { imms := [0x3FFFFF] } })) ∧
    Passes (.aset 31 0 0x3FFF) (st (fun t => { t with hints := { imms := [0x200000, 1] } })) :=
  ⟨passes_of (by decide +kernel), passes_of (by decide +kernel), passes_of (by decide +kernel)⟩
theorem witness_VectorArithmetic : ∀ i ∈ ([.vadd 63 63 63 0 1 0, .vsub 62 62 31 2 0 2, .vmul 0 0 63 1 0 1, .vmulh 62 0 63 3 1 3,
    .vmad 63 63 63 0 0 0, .vsadd 63 0 63 1 0 4, .vssub 0 63 0 0 1 5, .vabsd 62 62 62 0 0 3, .vmin 63 63 0 3 0 4, .vmax 0 0 31 2 0 0] :
    List Instr), Passes i stw := all_pass (by decide +kernel)
theorem witness_VectorLogic : ∀ i ∈ ([.vand 63 63 63 0 1 6, .vor 62 62 31 2 0 7, .vxor 0 0 63 1 0 6, .vandn 62 0 63 3 1 7,
    .vshl 63 63 63 0 0 6, .vshr 63 0 63 1 0 6, .vsar 0 63 0 0 1 6, .vrot 62 62 62 0 0 7, .vsel 63 63 0 3 0 6, .vmov 0 31 2 0 6,
    .vbfe 63 63 63 0 0 0, .vbfi 62 62 63 3 0 7] : List Instr), Passes i stw := all_pass (by decide +kernel)
theorem witness_VectorUnary : ∀ i ∈ ([.vclz 63 63 1 6, .vpop 62 62 0 7, .vbrev 0 63 0 6, .vcvti 62 63 0 1 2, .vlane 63 7 0] :
    List Instr), Passes i stw := all_pass (by decide +kernel)
theorem witness_VectorDivideCompare : ∀ i ∈ ([.vdiv 62 63 63 0 1 0, .vcmp 6 7 62 63 1 0 3] : List Instr), Passes i stw :=
  all_pass (by decide +kernel)
theorem witness_FloatArithmetic : ∀ i ∈ ([.fadd 63 63 63 0 1 0, .fsub 62 62 62 0 0 3, .fmul 0 0 63 1 0 1, .ffma 63 63 63 0 0 2,
    .fdiv 63 0 63 0 0 0, .fmin 62 0 62 0 1 3, .fmax 63 63 63 3 0 0, .fcpsgn 0 63 0 0 0 1] : List Instr), Passes i stw :=
  all_pass (by decide +kernel)
theorem witness_FloatUnary : ∀ i ∈ ([.frnd 63 63 1 0, .fsqrt 62 62 0 3, .frcp 0 63 0 0, .frsq 63 0 0 0, .fexp2 63 63 1 0, .flog2 0 0 0 0,
    .fsin 63 63 0 0, .fcos 0 63 0 0] : List Instr), Passes i stw := all_pass (by decide +kernel)
theorem witness_FloatConvert : ∀ i ∈ ([.fcmp 0 7 63 63 0 1 0, .fcvt 62 63 0 0 3, .cvti 63 63 0 0 0, .cvtf 0 63 1 1 0, .fclass 63 62 0 3] :
    List Instr), Passes i stw := all_pass (by decide +kernel)
theorem witness_MaskWords : (∀ i ∈ ([.mand 7 7 7, .mor 0 7 0, .mxor 7 0 7, .mnot 0 7, .mpop 63 7, .mfirst 0 0, .mtos 63 7 15,
    .stom 7 63 15] : List Instr), Passes i stw) ∧ 16 ≤ (16 : BitVec 6).toNat := ⟨all_pass (by decide +kernel), by decide⟩
theorem witness_CrossLaneWords : ∀ i ∈ ([.vshuf 63 63 63 0 1 6, .vbcast 62 62 0 7, .vscan 63 63 1 0 0 0 0, .vscan 0 63 0 1 1 0 0,
    .vred 63 63 0 5 1 6, .vvote 63 63 0, .vvote 0 63 1, .vvote 7 63 2, .vvote 63 0 3] : List Instr), Passes i stw :=
  all_pass (by decide +kernel)
/-- The words of the frame, one of each kind. -/
theorem witness_RegisterWordsFrame : registersOnly (.vadd 63 63 63 0 1 0) = true ∧ Passes (.vadd 63 63 63 0 1 0) stw ∧
    ∃ t, exec (.vadd 63 63 63 0 1 0) stw = .next t := ⟨rfl, passes_of (by decide +kernel), _, rfl⟩

/-! ### Witnesses: control, traps and steps -/

/-- A team with headers 16 words after its word, and one word before it. -/
def hs (f : Team → Team) : State := ((stm f).setNum 0x10040 4 0x04003FC0).setNum 0xFFFC 4 0x04003FC0

theorem header_of {s : State} {v : W64} (h : okAnd (s.begin_.fetchWord s.cur v) isHeader = true) : headerAt s v := ok_of h

theorem witness_ClauseAndHints :
    (let s := st (fun t => { t with flow := { t.flow with pos := { t.flow.pos with left := 0 } } })
     Passes (.clause 0xFFF 11 0 0) s ∧ s.team.flagsZero 0xFFF = true) ∧
    (let s := st (fun t => { t with flow := { t.flow with pos := { t.flow.pos with left := 0 } }, flags := ⟨[(11, 63)]⟩ })
     Passes (.clause 0x800 0 0 63) s ∧ s.team.flagsZero 0x800 = false) ∧
    (∀ i ∈ ([.hintImm 0x3FFFFF, .hintSched 1 0 1 0, .hintMod 2 1 1 1 3, .hintSrc3 0 63, .hintGuard 1 7] : List Instr),
      Passes i (st (fun t => { t with flow := { t.flow with pos := { t.flow.pos with left := 2 } } }))) :=
  ⟨⟨passes_of (by decide +kernel), by decide +kernel⟩, ⟨passes_of (by decide +kernel), by decide +kernel⟩, all_pass (by decide +kernel)⟩

theorem witness_Branches :
    (let s := hs id
     Passes (.bra (-1)) s ∧ headerAt s (s.team.flow.pos.pc + ((-1 : BitVec 26).signExtend 64 <<< 2)) ∧
     Passes (.call 16) s ∧ headerAt s (s.team.flow.pos.pc + ((16 : BitVec 26).signExtend 64 <<< 2)) ∧
     Passes (.brc 63 1 16) s ∧ brcHolds 1 ((wordOf (.brc 63 1 16) s).r.readS 63) = false) ∧
    (let s := hs (withR (fun r => (r.writeS 63 0x10040).writeS 12 0xFFFC))
     let t := (wordOf (.callr 12) s).r.readS 12
     let u := (wordOf .ret s).r.readS 63
     Passes .ret s ∧ (u.extractLsb' 0 2 = 0 ∧ canonical u = true) ∧ headerAt s u ∧
     Passes (.callr 12) s ∧ (t.extractLsb' 0 2 = 0 ∧ canonical t = true) ∧ headerAt s t ∧
     Passes (.brc 63 1 16) s ∧ brcHolds 1 ((wordOf (.brc 63 1 16) s).r.readS 63) = true ∧
       headerAt s (s.team.flow.pos.pc + ((16 : BitVec 17).signExtend 64 <<< 2))) ∧
    (let s := hs (withR (fun r => (r.writeS 63 0x10042).writeS 12 0x8000000000000000))
     let t := (wordOf (.callr 12) s).r.readS 12
     let u := (wordOf .ret s).r.readS 63
     Passes .ret s ∧ ¬ (u.extractLsb' 0 2 = 0 ∧ canonical u = true) ∧ Passes (.callr 12) s ∧ ¬ (t.extractLsb' 0 2 = 0 ∧ canonical t = true)) :=
  ⟨⟨passes_of (by decide +kernel), header_of (by decide +kernel), passes_of (by decide +kernel), header_of (by decide +kernel),
    passes_of (by decide +kernel), by decide +kernel⟩,
   ⟨passes_of (by decide +kernel), by decide +kernel, header_of (by decide +kernel), passes_of (by decide +kernel), by decide +kernel,
    header_of (by decide +kernel), passes_of (by decide +kernel), by decide +kernel, header_of (by decide +kernel)⟩,
   ⟨passes_of (by decide +kernel), by decide +kernel, passes_of (by decide +kernel), by decide +kernel⟩⟩

/-- A divergence stack of so many entries. -/
def deep (n : Nat) (m : Mask) (t : Team) : Team :=
  { t with flow := { t.flow with dstack := List.replicate n ⟨false, 0x10040, 1⟩ }, regs := t.regs.writeM 32 2 m }

/-- What BRD makes of its mask: the lanes that branch, and those that do not. -/
def splits (s : State) (i : Instr) : Mask × Mask :=
  let t := s.team.flow.active &&& (wordOf i s).r.readM 2
  (t, s.team.flow.active &&& ~~~t)

theorem fails_of {ε α : Type} {x : Except ε α} (h : okAnd x (fun _ => true) = false) : ∃ e, x = .error e := by
  cases x with
  | error e => exact ⟨e, rfl⟩
  | ok a => cases h

theorem witness_Divergence :
    (Passes (.markj 0x1FFFFFF) (st (deep 31 0)) ∧ (st (deep 31 0)).team.flow.dstack.length = 31) ∧
    (Passes (.markj 0) (st (deep 32 0)) ∧ (st (deep 32 0)).team.flow.dstack.length = 32) ∧
    (Passes (.brd 2 0 16) (st id) ∧ (splits (st id) (.brd 2 0 16)).1 = 0) ∧
    (let s := hs (deep 32 0x80000001)
     Passes (.brd 2 0 16) s ∧ (splits s (.brd 2 0 16)).1 ≠ 0 ∧ (splits s (.brd 2 0 16)).2 = 0 ∧
       headerAt s (s.team.flow.pos.pc + ((16 : BitVec 22).signExtend 64 <<< 2))) ∧
    (let s := hs (deep 31 1)
     Passes (.brd 2 0 (-1)) s ∧ (splits s (.brd 2 0 (-1))).1 ≠ 0 ∧ (splits s (.brd 2 0 (-1))).2 ≠ 0 ∧
       headerAt s (s.team.flow.pos.pc + ((-1 : BitVec 22).signExtend 64 <<< 2)) ∧ s.team.flow.dstack.length = 31) ∧
    (let s := hs (deep 32 1)
     Passes (.brd 2 0 (-1)) s ∧ (splits s (.brd 2 0 (-1))).1 ≠ 0 ∧ (splits s (.brd 2 0 (-1))).2 ≠ 0 ∧
       headerAt s (s.team.flow.pos.pc + ((-1 : BitVec 22).signExtend 64 <<< 2)) ∧ s.team.flow.dstack.length = 32 ∧
       (∃ g, s.begin_.fetchWord s.cur (s.team.flow.pos.pc + ((0x200000 : BitVec 22).signExtend 64 <<< 2)) = .error g) ∧
       (∃ x, s.begin_.fetchWord s.cur (s.team.flow.pos.pc + ((1 : BitVec 22).signExtend 64 <<< 2)) = .ok x ∧ (!isHeader x) = true)) ∧
    (Passes .join (st id) ∧ (st id).team.flow.dstack = []) ∧
    (let s := hs (deep 32 1)
     Passes .join s ∧ s.team.flow.dstack = ⟨false, 0x10040, 1⟩ :: List.replicate 31 ⟨false, 0x10040, 1⟩ ∧ headerAt s 0x10040 ∧
       (∃ g, s.begin_.fetchWord s.cur 0x40000000 = .error g) ∧
       (∃ x, s.begin_.fetchWord s.cur 0x10044 = .ok x ∧ (!isHeader x) = true)) :=
  ⟨⟨passes_of (by decide +kernel), rfl⟩, ⟨passes_of (by decide +kernel), rfl⟩, ⟨passes_of (by decide +kernel), by decide +kernel⟩,
   ⟨passes_of (by decide +kernel), by decide +kernel, by decide +kernel, header_of (by decide +kernel)⟩,
   ⟨passes_of (by decide +kernel), by decide +kernel, by decide +kernel, header_of (by decide +kernel), rfl⟩,
   ⟨passes_of (by decide +kernel), by decide +kernel, by decide +kernel, header_of (by decide +kernel), rfl, fails_of (by decide +kernel),
    ok_of (by decide +kernel)⟩,
   ⟨passes_of (by decide +kernel), rfl⟩,
   ⟨passes_of (by decide +kernel), rfl, header_of (by decide +kernel), fails_of (by decide +kernel), ok_of (by decide +kernel)⟩⟩

/-- The greatest range, mapped. -/
def range0 : StRange := { mapped := true, gbase := 0x3FE80000, soff := 0, lines := 12288 }

theorem flushed_of {s : State} {t : Team} {l : List Nat} (h : (s.flushRanges t l).2.isNone = true) : ∃ z, s.flushRanges t l = (z, none) :=
  ⟨_, Prod.ext rfl (Option.isNone_iff_eq_none.1 h)⟩

theorem witness_FlowWords :
    (let s := hs (fun t => { t with flow := { t.flow with dstack := [⟨true, 0x10040, 0x80000003⟩] } })
     Passes .exit s ∧ exitStack s.team.flow.active s.team.flow.dstack = [⟨true, 0x10040, 2⟩] ∧ headerAt s 0x10040) ∧
    (let s : State := { st id with wgs := ⟨[(0, { bound := true, slots := [0, 1] })]⟩ }
     Passes .exit s ∧ exitStack s.team.flow.active s.team.flow.dstack = [] ∧ s.team.flagsZero (BitVec.allOnes 12) = true ∧
       s.sliceBusy s.cur = false ∧ s.matStop s.cur = none ∧ s.lastTeam s.cur = false) ∧
    (let s : State := { stm id with wgs := ⟨[(0, { bound := true, slots := [0], ranges := ⟨[(7, { range0 with lines := 2, state := ⟨[(0, 3)]⟩, pas := ⟨[(0, 0x30000)]⟩ })]⟩ })]⟩ }
     Passes .exit s ∧ exitStack s.team.flow.active s.team.flow.dstack = [] ∧ s.team.flagsZero (BitVec.allOnes 12) = true ∧
       s.sliceBusy s.cur = false ∧ s.matStop s.cur = none ∧ s.lastTeam s.cur = true ∧ (∀ a, s.team.wait ≠ .resident a) ∧
       ∃ z, s.begin_.flushRanges s.team (s.wgOf s.team).ranges.keys = (z, none)) ∧
    (∀ i ∈ ([.nop, .yield, .isync, .seam, .enter 0xFF] : List Instr), Passes i (st id)) ∧ ((st id).ctxOf (st id).team).dbgctl.getLsbD 47 = false ∧
    (let s := st (fun t => { t with flow := { t.flow with rstack := List.replicate 15 1 } })
     Passes (.enter 0) s ∧ s.team.flow.rstack.length = 15 ∧ Passes .leave s ∧ s.team.flow.rstack = 1 :: List.replicate 14 1) ∧
    (let s := st (fun t => { t with flow := { t.flow with rstack := List.replicate 16 1, rovf := 255 } })
     Passes (.enter 0) s ∧ s.team.flow.rstack.length = 16) ∧
    (let s := st (fun t => { t with flow := { t.flow with rovf := 1 } })
     Passes .leave s ∧ s.team.flow.rstack = [] ∧ s.team.flow.rovf ≠ 0) ∧
    (Passes .leave (st id) ∧ (st id).team.flow.rstack = [] ∧ (st id).team.flow.rovf = 0) :=
  ⟨⟨passes_of (by decide +kernel), by decide +kernel, header_of (by decide +kernel)⟩,
   ⟨passes_of (by decide +kernel), rfl, by decide +kernel, by decide +kernel, by decide +kernel, by decide +kernel⟩,
   ⟨passes_of (by decide +kernel), rfl, by decide +kernel, by decide +kernel, by decide +kernel, by decide +kernel,
     fun a h => Wait.noConfusion (show Wait.none = Wait.resident a from h), flushed_of (by decide +kernel)⟩,
   all_pass (by decide +kernel), by decide +kernel, ⟨passes_of (by decide +kernel), rfl, passes_of (by decide +kernel), rfl⟩,
   ⟨passes_of (by decide +kernel), rfl⟩, ⟨passes_of (by decide +kernel), rfl, by decide⟩, ⟨passes_of (by decide +kernel), rfl, rfl⟩⟩

theorem witness_SoftwareTraps : ∀ i ∈ ([.bkpt, .trap 0xFF] : List Instr), Passes i (st id) := all_pass (by decide +kernel)

/-- A grid with a handler. -/
def handled : State :=
  let s := hs id
  { s with grids := ⟨[(0, { phase := .running, launch := { gx := 1, gy := 1, gz := 1, vregs := 64, traph := 0x10040 } })]⟩ }

theorem witness_HandlerEntry :
    let t := handled.team
    let h := BitVec.ofNat 64 (handled.gridOf t).launch.traph
    t.words = [] ∧ h ≠ 0 ∧ t.trap.handler = none ∧ (handled.ctxOf t).state ≠ 2 ∧
    (∃ x, handled.fetchWord handled.cur h = .ok x ∧ isHeader x = true) ∧
    ∃ r : TrapReq, r.cls = 1 ∧ r.cause ≠ cNOTPRESENT :=
  ⟨rfl, by decide +kernel, rfl, by decide +kernel, ok_of (by decide +kernel), { cause := cSWTRAP, cls := 1 }, rfl, by decide⟩

theorem witness_ResumeWord :
    let s := st (fun t => { t with trap := { t.trap with handler := some ⟨.atHeader 0x10040, 1, [], none⟩ } })
    Passes .cresume s ∧ s.team.flagsZero (BitVec.allOnes 12) = true ∧ ∃ t', s.team.returnFromTrap = some t' :=
  ⟨passes_of (by decide +kernel), by decide +kernel, _, rfl⟩

theorem witness_IllegalFirst :
    (Instr.isWord .nop = true ∧
      lowest ((st (fun t => { t with flow := { t.flow with pos := { t.flow.pos with left := 0 } } })).details .nop) = some 0x08) ∧
    lookup 0x23000000 = none ∧ wordDetails (st id).team.place.vregs 0x4C310608 ≠ [] := by decide +kernel

theorem witness_ContractHolds :
    let i : Instr := .vadd 63 63 0 0 0 0
    (i.isWord = true ∧ (st id).details i = [] ∧ useSet (info i).writes &&& readBefore i (st id) ≠ 0) ∧
    (let s := hs (fun t => withR (fun r => r.writeS 12 0x10040) { t with rbw := 1 <<< 127 })
     (s.details (.call 16) = [] ∧ useSet (info (.call 16)).writes &&& readBefore (.call 16) s ≠ 0 ∧
       headerAt s (s.team.flow.pos.pc + ((16 : BitVec 26).signExtend 64 <<< 2))) ∧
     (s.details (.callr 12) = [] ∧ useSet (info (.callr 12)).writes &&& readBefore (.callr 12) s ≠ 0 ∧
       let x := (wordOf (.callr 12) s).r.readS 12
       x.extractLsb' 0 2 = 0 ∧ canonical x = true ∧ headerAt s x)) :=
  ⟨by decide +kernel, ⟨by decide +kernel, by decide +kernel, header_of (by decide +kernel)⟩, by decide +kernel, by decide +kernel,
    by decide +kernel, by decide +kernel, header_of (by decide +kernel)⟩

theorem runs_of {s : State} (h : (decide (s.team.phase = .running) && (!s.preempted s.cur || s.midAccess s.cur) && !s.stranded s.cur &&
    (s.midAccess s.cur || decide (s.team.trap.pending = none))) = true) : Runs s := by
  simp only [Bool.and_eq_true, decide_eq_true_eq, Bool.or_eq_true, Bool.not_eq_true'] at h
  exact ⟨h.1.1.1, h.1.1.2, h.1.2, h.2⟩

/-- Two teams of a port at NOP, each with the line of its word. -/
def pair : State :=
  let t := { (st id).team with line := some 512, prefetch := ⟨[(512, [0, 0, 0x40, 0x20] ++ List.replicate 124 0)]⟩ }
  { st id with teams := ⟨[(0, t), (4, t)]⟩, agenda := [.issue 4] }

/-- A placed word, found by its slot or by the agenda; a word that is none; two teams that may both issue; an event that is due; and a
module without power. -/
theorem witness_StepRuns :
    (let s := State.reset.withFetchWord 32 0x20400000
     s.agenda = [] ∧ s.mod.powered = true ∧ Runs s ∧ s.fetchWord s.cur s.team.flow.pos.pc = .ok 0x20400000 ∧
       decodeWord 0x20400000 = .ok .nop) ∧
    (let s := State.reset.withFetchWord 32 0x23000000
     Runs { s with agenda := [], cur := 0 } ∧ ({ s with agenda := [.issue 0], cur := 9 } : State).agenda = [.issue 0] ∧
       s.fetchWord 0 s.team.flow.pos.pc = .ok 0x23000000 ∧ decodeWord 0x23000000 = .error .reservedCode) ∧
    (let free := ({ pair with agenda := [] } : State).portFree 4
     pair.agenda = [.issue 4] ∧ free.issuesNow 4 = true ∧ free.issuesNow 0 = true ∧ (free.rivals 4).head? = some 0 ∧
       (pair.portFree 0).rivals 0 = [] ∧ free.issuesNow 9 = false) ∧
    (∃ s : State, s.agenda = [.event .resync] ∧ s.mod.powered = true) ∧
    (∃ s : State, s.agenda = [.event (.moduleReset [])]) ∧
    (∃ s : State, s.agenda = [] ∧ s.mod.powered = false) :=
  ⟨⟨rfl, rfl, runs_of (by decide +kernel), by decide +kernel, by decide +kernel⟩,
   ⟨runs_of (by decide +kernel), rfl, by decide +kernel, by decide +kernel⟩,
   ⟨rfl, by decide +kernel, by decide +kernel, by decide +kernel, by decide +kernel, by decide +kernel⟩,
   ⟨{ State.reset with agenda := [.event .resync] }, rfl, rfl⟩, ⟨{ State.reset with agenda := [.event (.moduleReset [])] }, rfl⟩,
   ⟨{ State.reset with mod := { powered := false } }, rfl, rfl⟩⟩

theorem witness_DecodeEncode : encode (.vadd 63 63 63 3 1 7) = some 0x4FFFFFFC ∧ decodeWord 0x4FFFFFFC = .ok (.vadd 63 63 63 3 1 7) := by
  decide +kernel

theorem witness_StepKeepsMemory : Memory.wf State.reset ∧ step State.reset = .next State.reset.begin_ := ⟨rfl, rfl⟩

/-- A store of four bytes at the end of a line. -/
def store1 : StoreReq :=
  { id := 5, uid := 0, seq := 0, line := 0x1000, va := 0x1000, who := {}, elems := [{ lane := 31, off := 124, size := 4, x := 0x12345678 }] }

/-- That store in the miss tracker of the team's core. -/
def storing1 : State := { st id with cores := ⟨[(0, { tracker := [store1] })]⟩ }

theorem witness_StoreFrame :
    let s := storing1
    (s.cores.get 0).tracker.find? (fun r => r.id == 5) = some store1 ∧ s.begin_.storeMay 0 store1 = true ∧ store1.held = false ∧
      store1.kv = false ∧ store1.op = none ∧ store1.who.checks store1.rc = false ∧ s.stashOwner store1.line = none ∧
      (∀ c ∈ s.ctxs.entries, ∀ k, (c.2.watch.get k).ctl.getLsbD 0 = false) ∧ (∀ sec, s.badSector sec = false) ∧ Memory.wf s ∧
      (∃ e, store1.elems = [e] ∧ ∀ j k, j < e.size → k < e.size →
        canonPA (store1.line + e.off + j) = canonPA (store1.line + e.off + k) → j = k) := by
  refine ⟨rfl, by decide +kernel, rfl, rfl, rfl, by decide +kernel, by decide +kernel, ?_, fun _ => rfl, rfl, _, rfl, ?_⟩
  · intro c hc k
    have hc : c ∈ [((0 : Nat), ({ state := 1, cfg := { root := 0x1000 }, nextLnum := 1 } : Ctx))] := hc
    simp only [List.mem_singleton] at hc
    subst hc
    show (0 : W64).getLsbD 0 = false
    decide
  · have : ∀ j : Fin 4, ∀ k : Fin 4, canonPA (0x1000 + 124 + j) = canonPA (0x1000 + 124 + k) → j = k := by decide +kernel
    intro j k hj hk h
    exact congrArg Fin.val (this ⟨j, hj⟩ ⟨k, hk⟩ h)

/-! ### Witnesses: system words, barriers, monitors -/

/-- Change the first context. -/
def withC (f : Ctx → Ctx) (s : State) : State := s.modCtx 0 f

theorem witness_SystemWords :
    (∀ i ∈ ([.srd 63 0x0700, .swr 63 0x0500, .clk 63, .time 62, .trec 63 0xFF, .contset 63, .mfmt 1 0] : List Instr),
      Passes i (st (withR (fun r => r.writeS 1 63)))) ∧
    ((st id).ctxOf (st id).team).dbgctl.getLsbD 0 = false ∧
    (let s := withC (fun c => { c with dbgctl := 1 }) (st id)
     Passes (.trec 63 0xFF) s ∧ (s.ctxOf s.team).dbgctl.getLsbD 0 = true) ∧
    (let s : State := { st (withR (fun r => r.writeS 63 0xFFFFFFFFFFFFFFFC)) with
       grids := ⟨[(0, { phase := .running, launch := { gx := 1, gy := 1, gz := 1, vregs := 64, cont := 1 } })]⟩ }
     let x := (wordOf (.contset 63) s).r.readS 63
     Passes (.contset 63) s ∧ x.extractLsb' 0 2 = 0 ∧ canonical x = true ∧ (s.gridOf s.team).launch.cont = 1) ∧
    (let x := (wordOf (.contset 63) (st id)).r.readS 63
     x.extractLsb' 0 2 = 0 ∧ canonical x = true ∧ ((st id).gridOf (st id).team).launch.cont ≠ 1) ∧
    (let s := st (withR (fun r => r.writeS 1 63))
     let i := (((wordOf (.mfmt 1 0) s).r.readS 1).extractLsb' 0 6).toNat
     let v := (wordOf (.mfmt 1 0) s).r.readS 0
     i = 63 ∧ v = 0 ∧ s.begin_.genHeld s.team.place.ctx i (v.getLsbD 25) = false) :=
  ⟨all_pass (by decide +kernel), by decide +kernel, ⟨passes_of (by decide +kernel), by decide +kernel⟩,
   ⟨passes_of (by decide +kernel), by decide +kernel⟩, by decide +kernel, by decide +kernel⟩

theorem witness_InvalidatingWords :
    (let s := st (fun t => { t with wait := .invalidation 7 0 })
     Passes (.icinv 63 63 3) s ∧ s.team.wait = .invalidation 7 0 ∧ s.waving 7 = false) ∧
    (let s := stm (withR (fun r => (r.writeS 1 0x1007F).writeS 2 2))
     let va := (wordOf (.rclr 1 2) s).r.readS 1
     let n := ((wordOf (.rclr 1 2) s).r.readS 2).toNat
     Passes (.rclr 1 2) s ∧ canonical va = true ∧ passesTop va n = false ∧
       (s.begin_.checkedLines (dieOf s.cur) s.team.place.ctx va n).any (s.begin_.ownPending s.cur) = false) :=
  ⟨⟨passes_of (by decide +kernel), rfl, by decide +kernel⟩, ⟨passes_of (by decide +kernel), by decide +kernel⟩⟩

/-- A context with a descriptor of key-value blocks at 0x5000, all of whose words are 0. -/
def kvs : State := (withC (fun c => { c with cfg := { c.cfg with kv := 0x5000 } }) (stm id)).setBytes 0x5000 (List.replicate 64 0)

theorem witness_KeyValueWords :
    ∃ kv, kvs.begin_.kvDesc kvs.team.place.ctx = some kv ∧ kvs.team.acquiresFixed kvs.team.nextSeq = true ∧
    (∀ i ∈ ([.kvfork 63 1 2, .kvfree 63 1 2] : List Instr), Passes i kvs ∧
      (let x := (wordOf i kvs).r.readS 2
       let first := (x.extractLsb' 0 16).toNat
       let n := (x.extractLsb' 16 16).toNat
       first + n ≤ 2 ^ kv.ib ∧ kvs.begin_.kvAbsent kvs.team.place.ctx kv [0, 0] first n = none ∧
         kvs.begin_.kvAbsent kvs.team.place.ctx kv [0] first n = none ∧
         kvs.begin_.kvCopying kvs.team.place.ctx kv [0, 0] first n = none ∧ kvs.begin_.kvCopying kvs.team.place.ctx kv [0] first n = none)) := by
  refine ⟨⟨0, 0, 0, 0, 0, 0, 0, 0, 0⟩, by decide +kernel, by decide +kernel, fun i hi => ⟨all_pass (by decide +kernel) i hi, ?_⟩⟩
  have : ∀ i ∈ ([.kvfork 63 1 2, .kvfree 63 1 2] : List Instr), (wordOf i kvs).r.readS 2 = 0 := by decide +kernel
  rw [this i hi]
  decide +kernel

theorem witness_BarrierWords :
    (let s : State := { st (fun t => { t with wait := .barrier 0 7 2, arrivals := ⟨[(7, 3)]⟩ }) with
       wgs := ⟨[(0, { bound := true, slots := [0], bars := ⟨[(7, { phase := 3 })]⟩ })]⟩ }
     s.barMissing s.team 0 = false ∧ Passes (.bar 0 7) s ∧ s.team.wait = .barrier 0 7 2 ∧ 2 < (s.barOf s.team 0 7).phase ∧
       Passes (.barw 0 7) s ∧ s.team.arrivals.get (barKey 0 7) = 2 + 1 ∧ s.team.arrivals.get (barKey 0 0) = 0 ∧ Passes (.barw 0 0) s ∧
       Passes (.barq 63 0 7) s) ∧
    (let s := st (fun t => { t with wait := .wave 3 })
     s.barMissing s.team 2 = false ∧ Passes (.bara 2 1) s ∧ s.team.wait = .wave 3 ∧ s.begin_.releaseDone (barScope 2) 3 = true ∧
       (s.barOf s.team 2 1).has s.cur = false ∧ Passes (.bar 2 1) s ∧ Passes (.barw 2 1) s) :=
  ⟨⟨by decide +kernel, passes_of (by decide +kernel), rfl, by decide +kernel, passes_of (by decide +kernel), by decide +kernel,
    by decide +kernel, passes_of (by decide +kernel), passes_of (by decide +kernel)⟩,
   ⟨by decide +kernel, passes_of (by decide +kernel), rfl, by decide +kernel, by decide +kernel, passes_of (by decide +kernel),
    passes_of (by decide +kernel)⟩⟩

theorem witness_PhasesAndMonitors :
    (let s : State := { st id with wgs := ⟨[(0, { bound := true, slots := [0], bars := ⟨[(7, { arrived := [0] })]⟩ })]⟩ }
     (s.barAt (.wg 0 0 7)).arrived ≠ [] ∧ s.allArrived (.wg 0 0 7) = true ∧ s.allArrived (.wg 0 0 6) = false) ∧
    (let s : State := { st id with grids := ⟨[(0, { gridBars := ⟨[(1, { tokens := [(5, 9)] })]⟩ })]⟩ }
     (s.barAt (.grid 0 1)).tokens.find? (fun x => x.1 == 5) = some (5, 9)) ∧
    (let s := st (fun t => { t with wait := .monitor, mon := some (0x1000, 4, true) })
     Passes (.waitl 1 2 1) s ∧ s.team.wait = .monitor ∧ ∀ l c, s.team.mon ≠ some (l, c, false)) ∧
    (let s : State := { st (fun t => { t with mon := some (0x1000, 4, false) }) with dies := ⟨[(0, { clk := 4 + 2 ^ 20 })]⟩ }
     (s.teams.get 0).mon = some (0x1000, 4, false) ∧ 4 + 2 ^ 20 ≤ (s.dies.get (dieOf 0)).clk) := by
  refine ⟨by decide +kernel, by decide +kernel, ⟨passes_of (by decide +kernel), rfl, fun l c h => ?_⟩, by decide +kernel⟩
  have : some (0x1000, 4, true) = some (l, c, false) := h
  simp at this

/-! ### Witnesses: accesses of memory -/

/-- Two addresses that lanes use. -/
def mem1 (f : Team → Team) : State :=
  stm (fun t => f (withR (fun r => (r.writeS 1 0x10000).writeA 1 0x1007C 4)
    { t with wr := BitVec.allOnes 172, flow := { t.flow with pos := { t.flow.pos with setA := 11, setB := 0 } } }))

/-- The requests of a word of loads, in one pass that the miss tracker accepts in a state. -/
def Opens (s z : State) (lw : LongWord) (parts : List Part) : Prop :=
  checkedFirst lw.who.race parts = false ∧
  ∃ n, OnePass parts n ∧ z.trackerRefuses s.cur ((lw.opened parts).passNeeds z n).length = false

/-- The same of a word of stores. -/
def OpensStores (s z : State) (parts : List Part) : Prop :=
  checkedFirst (s.whoOf s.cur).race parts = false ∧ parts.any (fun p => p.kv) = false ∧
  ∃ n, OnePass parts n ∧ z.trackerRefuses s.cur parts.length = false

/-- The pass of the first request, and whether the requests are all of it. -/
def passOf (parts : List Part) : Nat := (parts.headD { line := 0, va := 0, elems := [] }).pass
def firstPassB (parts : List Part) : Bool := !parts.isEmpty && parts.all (fun p => p.pass == passOf parts)

theorem firstPass_of {parts : List Part} (h : firstPassB parts = true) : OnePass parts (passOf parts) := by
  simp only [firstPassB, Bool.and_eq_true, Bool.not_eq_true', List.isEmpty_eq_false_iff, List.all_eq_true, beq_iff_eq] at h
  exact h

def opensB (s z : State) (lw : LongWord) (parts : List Part) : Bool :=
  !checkedFirst lw.who.race parts && firstPassB parts && !z.trackerRefuses s.cur ((lw.opened parts).passNeeds z (passOf parts)).length
def opensStoresB (s z : State) (parts : List Part) : Bool :=
  !checkedFirst (s.whoOf s.cur).race parts && !parts.any (fun p => p.kv) && firstPassB parts && !z.trackerRefuses s.cur parts.length

theorem opens_of {s z : State} {lw : LongWord} {parts : List Part} (h : opensB s z lw parts = true) : Opens s z lw parts := by
  simp only [opensB, Bool.and_eq_true, Bool.not_eq_true'] at h
  exact ⟨h.1.1, _, firstPass_of h.1.2, h.2⟩
theorem opensStores_of {s z : State} {parts : List Part} (h : opensStoresB s z parts = true) : OpensStores s z parts := by
  simp only [opensStoresB, Bool.and_eq_true, Bool.not_eq_true'] at h
  exact ⟨h.1.1.1, h.1.1.2, _, firstPass_of h.1.2, h.2⟩

/-- Lanes that pass their checks, whose requests open. -/
theorem loads_of {s z : State} {race : Nat} {acc : Acc} {plain : Bool} {reqs : List LaneReq} {split : List LaneAcc → List Part} {lw : LongWord}
    (h : okAnd (s.begin_.checkLanes (dieOf s.cur) s.team.place.ctx race acc plain reqs) (fun l => opensB s z lw (split l)) = true) :
    ∃ l, LanesOk s race acc plain reqs l ∧ Opens s z lw (split l) := by
  obtain ⟨l, h1, h2⟩ := ok_of h
  exact ⟨l, h1, opens_of h2⟩
theorem stores_of {s z : State} {acc : Acc} {reqs : List LaneReq} {split : List LaneAcc → List Part}
    (h : okAnd (s.begin_.checkLanes (dieOf s.cur) s.team.place.ctx (s.whoOf s.cur).race acc false reqs) (fun l =>
      opensStoresB s z (split l)) = true) :
    ∃ l, LanesOk s (s.whoOf s.cur).race acc false reqs l ∧ OpensStores s z (split l) := by
  obtain ⟨l, h1, h2⟩ := ok_of h
  exact ⟨l, h1, opensStores_of h2⟩

/-- Words that pass their checks with no lane in their effective mask. -/
theorem none_of {l : List Instr} {s : State} (h : l.all (fun i => passesB i s && decide ((wordOf i s).mask = 0)) = true) :
    ∀ i ∈ l, Passes i s ∧ (wordOf i s).mask = 0 := by
  intro i hi
  have h := List.all_eq_true.1 h i hi
  simp only [Bool.and_eq_true, decide_eq_true_eq] at h
  exact ⟨passes_of h.1, h.2⟩

/-- A request of one lane. -/
def part1 (lane : Nat) (f : Part → Part) : Part := f { line := 0x10000, va := 0x10000, elems := [{ lane := lane, off := 0, size := 4 }] }

/-- A team whose word has issued and waits, with the outstanding word that it waits for. -/
def waits (v : LongWord) (t : Team) : Team := { t with wait := .access 3, words := [{ v with id := 3 }] }

/-- A team whose core's miss tracker holds these stores. -/
def tracks (l : List StoreReq) (s : State) : State := { s with cores := ⟨[(0, { tracker := l })]⟩ }

/-- What a held word needs to go on: no request is left, or those of its last pass are. -/
def GoesOn (s : State) (v : LongWord) (n : Option Nat) : Prop :=
  ∃ k, s.team.wait = .access k ∧ s.team.word? k = some v ∧ s.team.fail = none ∧ (v.who.race = 1 → v.allChecked = true) ∧ v.passLeft = n ∧
    ∀ m, n = some m → (∀ p ∈ v.parts, p.issued = false → p.pass = m) ∧
      s.begin_.trackerRefuses s.cur (v.passNeeds s.begin_ m).length = false

/-- The same of a word of stores. -/
def StoresGoOn (s : State) (n : Option Nat) : Prop :=
  ∃ k, s.team.wait = .access k ∧ s.team.fail = none ∧ s.storesLeft k = n ∧
    (∀ r ∈ s.storesOf k, r.held = false ∧ ((r.kv = false ∧ r.fin = false) ∨ r.performed = true)) ∧
    ∀ m, n = some m → (∀ r ∈ s.storesOf k, r.later = true → r.pass = m) ∧
      s.begin_.trackerRefuses s.cur ((s.storesOf k).filter (fun r => r.later && r.pass == m)).length = false

/-- A word of loads with nothing left, and one whose second pass is left, of a trap-mode team. -/
def held0 : LongWord := { id := 3, kind := .load, who := { race := 1 }, parts := [part1 0 (fun p => { p with rc := true, checked := true })] }
def held1 : LongWord := { held0 with parts := held0.parts ++ [part1 32 (fun p => { p with issued := false })] }

/-- A store that a held word has accepted, and one of its second pass. -/
def stored0 : StoreReq := { id := 1, seq := 3, line := 0x10000, elems := [{ lane := 0, off := 0, size := 4 }], fin := true, performed := true }
def stored1 : StoreReq := { id := 2, seq := 3, line := 0x10000, elems := [{ lane := 32, off := 0, size := 4 }], later := true }

theorem goesOn_of {f : (Team → Team) → State} (h : ∀ v ∈ [held0, held1], decide ((f (waits v)).team.wait = .access 3) &&
      decide ((f (waits v)).team.word? 3 = some v) && decide ((f (waits v)).team.fail = none) &&
      (!(f (waits v)).begin_.trackerRefuses (f (waits v)).cur (v.passNeeds (f (waits v)).begin_ 1).length) = true) :
    GoesOn (f (waits held0)) held0 none ∧ GoesOn (f (waits held1)) held1 (some 1) := by
  have h0 := h held0 (by simp)
  have h1 := h held1 (by simp)
  simp only [Bool.and_eq_true, decide_eq_true_eq, Bool.not_eq_true'] at h0 h1
  refine ⟨⟨3, h0.1.1.1, h0.1.1.2, h0.1.2, fun _ => by decide, by decide, fun m hm => by cases hm⟩,
    3, h1.1.1.1, h1.1.1.2, h1.1.2, fun _ => by decide, by decide, fun m hm => ?_⟩
  cases hm
  exact ⟨by decide, h1.2⟩

theorem storesGoOn_of {s : State} {l : List StoreReq} {n : Option Nat} (hl : s.storesOf 3 = l) (hw : s.team.wait = .access 3)
    (hf : s.team.fail = none)
    (h : (decide (nextPass ((l.filter (fun r => r.later)).map StoreReq.pass) = n) &&
      l.all (fun r => !r.held && ((!r.kv && !r.fin) || r.performed)) &&
      (match n with
        | none => true
        | some m => l.all (fun r => !r.later || r.pass == m) &&
          !s.begin_.trackerRefuses s.cur (l.filter (fun r => r.later && r.pass == m)).length)) = true) : StoresGoOn s n := by
  subst hl
  simp only [Bool.and_eq_true, decide_eq_true_eq, List.all_eq_true, Bool.not_eq_true', Bool.or_eq_true] at h
  obtain ⟨⟨h1, h2⟩, h3⟩ := h
  refine ⟨3, hw, hf, h1, h2, ?_⟩
  rintro m rfl
  simp only [Bool.and_eq_true, List.all_eq_true, Bool.not_eq_true', Bool.or_eq_true, beq_iff_eq] at h3
  exact ⟨fun r hr hl => (h3.1 r hr).resolve_left (by simp [hl]), h3.2⟩

theorem witness_GlobalAccesses :
    (let s := mem1 id
     let ld : Instr := .vldg 60 1 0 1 1 0 4 0 0
     let sl : Instr := .sld 63 1 0x1FFF 0
     let st : Instr := .vstg 63 1 0 1 1 0 2 0
     let one (i : Instr) (x : BitVec 128) : List LaneReq :=
       [{ lane := 0xFFFF, va := (wordOf i s).r.readS 1 + 8 * (wordOf i s).imm, size := 8, x := x }]
     let lds := (wordOf ld s).lanes.map (fun l => { lane := l, va := (wordOf ld s).address 1 0 1 1 (widthSize 2) l, size := widthSize 2, idx := 60 })
     let sts := (wordOf st s).storeReqs 63 1 0 1 1 2
     let ss := one (.sst 63 1 0) (((wordOf (.sst 63 1 0) s).r.readS 63).setWidth 128)
     s.team.wait = .none ∧ s.team.fail = none ∧
     (Passes ld s ∧ ∃ l, LanesOk s (s.whoOf s.cur).race .load false lds l ∧
       Opens s (seen s lds s.begin_) { id := 0, kind := .load, width := 4, dests := useSet (wordOf ld s).f.writes, who := s.whoOf s.cur } (gather l)) ∧
     (Passes sl s ∧ ∃ l, LanesOk s (s.whoOf s.cur).race .load false (one sl 0) l ∧
       Opens s (seen s (one sl 0) s.begin_)
         { id := 0, kind := .scalar, width := 3, dests := useSet (wordOf sl s).f.writes, who := s.whoOf s.cur, reg := 63 } (gather l)) ∧
     (Passes st s ∧ ∃ l, LanesOk s (s.whoOf s.cur).race .store false sts l ∧ OpensStores s (seen s sts s.begin_) (gather l)) ∧
     (Passes (.sst 63 1 0) s ∧ ∃ l, LanesOk s (s.whoOf s.cur).race .store false ss l ∧ OpensStores s (seen s ss s.begin_) (gather l)) ∧
     Passes (.pref 1 2 255) s ∧ Passes (.pref 1 0 0) s) ∧
    (let s := mem1 (fun t => { t with flow := { t.flow with active := 0 } })
     ∀ i ∈ ([.vldg 60 1 0 1 1 0 4 0 0, .vstg 63 1 0 1 1 0 2 0] : List Instr), Passes i s ∧ (wordOf i s).mask = 0) ∧
    (∀ v ∈ [held0, held1], ∀ i ∈ ([.vldg 60 1 0 1 1 0 4 0 0, .sld 63 1 0 1] : List Instr), Passes i (mem1 (waits v))) ∧
    (GoesOn (mem1 (waits held0)) held0 none ∧ GoesOn (mem1 (waits held1)) held1 (some 1)) ∧
    (∀ i ∈ ([.vstg 63 1 0 1 1 0 2 0, .sst 63 1 0] : List Instr), Passes i (tracks [stored0] (mem1 (waits held0))) ∧
      Passes i (tracks [stored0, stored1] (mem1 (waits held0)))) ∧
    StoresGoOn (tracks [stored0] (mem1 (waits held0))) none ∧ StoresGoOn (tracks [stored0, stored1] (mem1 (waits held0))) (some 1) :=
  ⟨⟨rfl, rfl, ⟨passes_of (by decide +kernel), loads_of (by decide +kernel)⟩, ⟨passes_of (by decide +kernel), loads_of (by decide +kernel)⟩,
    ⟨passes_of (by decide +kernel), stores_of (by decide +kernel)⟩, ⟨passes_of (by decide +kernel), stores_of (by decide +kernel)⟩,
    passes_of (by decide +kernel), passes_of (by decide +kernel)⟩,
   none_of (by decide +kernel),
   fun v hv => by
     simp only [List.mem_cons, List.not_mem_nil, or_false] at hv
     obtain rfl | rfl := hv <;> exact all_pass (by decide +kernel),
   goesOn_of (by decide +kernel), fun i hi => ⟨all_pass (by decide +kernel) i hi, all_pass (by decide +kernel) i hi⟩,
   storesGoOn_of (l := [stored0]) (by decide +kernel) rfl rfl (by decide +kernel),
   storesGoOn_of (l := [stored0, stored1]) (by decide +kernel) rfl rfl (by decide +kernel)⟩

/-- A workgroup with a stash of the greatest size. -/
def stash (f : Team → Team) (ranges : SMap ({} : StRange)) : State :=
  { mem1 f with wgs := ⟨[(0, { bound := true, slots := [0], ranges := ranges })]⟩,
                grids := ⟨[(0, { phase := .running, launch := { gx := 1, gy := 1, gz := 1, vregs := 64, stash := 1572864, traph := 0x10040 } })]⟩ }

theorem stash_of {i : Instr} {s : State} {acc : Acc} {reqs : List LaneReq} {store : Bool}
    (h : okAnd (s.begin_.checkStash s.team (dieOf s.cur) acc reqs) (fun l =>
      s.begin_.linesReady s.cur s.team.wgKey (linesOf l) && !l.any (fun a => s.begin_.engineOwnsStash s.cur a.req.va.toNat) &&
      ((s.begin_.fillLines s.team.wgKey (linesOf l)).stashTrap (wordOf i s) s.team.wgKey (stashParts l) (s.whoOf s.cur) store).2.isNone) = true) :
    ∃ l z, StashOk s acc reqs l ∧ Filled i s l store z := by
  obtain ⟨l, h1, h2⟩ := ok_of h
  simp only [Bool.and_eq_true, Bool.not_eq_true', Option.isNone_iff_eq_none] at h2
  exact ⟨l, _, ⟨h1, h2.1.1, h2.1.2⟩, Prod.ext rfl h2.2⟩

def storePassB (z : State) (l : List StashAcc) (who : Who) : Bool :=
  !z.team.stashPending (linesOf l) && z.team.acquiresFixed z.team.nextSeq && z.linesReady z.cur z.team.wgKey (linesOf l) &&
  !l.any (fun a => z.engineOwnsStash z.cur a.req.va.toNat) && okAnd (z.ownBlocks z.team.wgKey who l) (fun _ => true)

theorem storePass_of {z : State} {l : List StashAcc} {who : Who} (h : storePassB z l who = true) : ∃ y, StorePass z l who y := by
  simp only [storePassB, Bool.and_eq_true, Bool.not_eq_true'] at h
  obtain ⟨z0, h0, -⟩ := ok_of h.2
  exact ⟨_, z0, h.1.1.1.1, h.1.1.1.2, h.1.1.2, h.1.2, h0, rfl⟩

/-- The lanes of a stash store pass their checks, in one pass, no request races, and the pass can be performed. -/
theorem stashStore_of {i : Instr} {s : State} {reqs : List LaneReq}
    (h : okAnd (s.begin_.checkStash s.team (dieOf s.cur) .store reqs) (fun l =>
      let x := s.begin_.stashTrap (wordOf i s) s.team.wgKey (stashParts l) (s.whoOf s.cur) true
      storePassB s.begin_ l (s.whoOf s.cur) && x.2.isNone && storePassB x.1 l (s.whoOf s.cur)) = true) :
    ∃ l y0 z y, s.begin_.checkStash s.team (dieOf s.cur) .store reqs = .ok l ∧ StorePass s.begin_ l (s.whoOf s.cur) y0 ∧
      s.begin_.stashTrap (wordOf i s) s.team.wgKey (stashParts l) (s.whoOf s.cur) true = (z, none) ∧ StorePass z l (s.whoOf s.cur) y := by
  obtain ⟨l, h1, h2⟩ := ok_of h
  simp only [Bool.and_eq_true, Option.isNone_iff_eq_none] at h2
  obtain ⟨y0, h3⟩ := storePass_of h2.1.1
  obtain ⟨y, h4⟩ := storePass_of h2.2
  exact ⟨l, y0, _, y, h1, h3, Prod.ext rfl h2.1.2, h4⟩

/-- An open stash store whose second pass is left. -/
def held2 : LongWord := { id := 3, kind := .gather, parts := keepLanes [{ lane := 32, va := 124, size := 4 }] }

theorem witness_StashAccesses :
    let ld : Instr := .vlds 63 1 0 1 1 0 2 0 0
    let st : Instr := .vsts 63 1 0 1 1 0 2 0
    Passes ld (stash (fun t => { t with flow := { t.flow with active := 3 } }) .empty) ∧
    (let s := stash (fun t => { withR (fun r => r.writeA 1 0 1572860) t with flow := { t.flow with active := 3 } }) .empty
     (Passes ld s ∧ ∃ l z, StashOk s .load ((wordOf ld s).loadReqs 63 1 0 1 1 2) l ∧ Filled ld s l false z) ∧
     (Passes st s ∧ s.team.wait = .none ∧ (∀ r ∈ (wordOf st s).storeReqs 63 1 0 1 1 2, r.lane / 32 = 0) ∧
       ∃ l y0 z y, s.begin_.checkStash s.team (dieOf s.cur) .store ((wordOf st s).storeReqs 63 1 0 1 1 2) = .ok l ∧
         StorePass s.begin_ l (s.whoOf s.cur) y0 ∧
         s.begin_.stashTrap (wordOf st s) s.team.wgKey (stashParts l) (s.whoOf s.cur) true = (z, none) ∧ StorePass z l (s.whoOf s.cur) y)) ∧
    (let s := stash (fun t => { t with wait := .access 3, words := [held2] }) .empty
     Passes st s ∧ s.team.wait = .access 3 ∧ s.team.word? 3 = some held2 ∧ (∀ r ∈ held2.lanesLeft, r.lane / 32 = 1) ∧
       ∃ l, s.begin_.checkStash s.team (dieOf s.cur) .store held2.lanesLeft = .ok l ∧ ∃ y, StorePass s.begin_ l held2.who y) := by
  refine ⟨passes_of (by decide +kernel), ⟨⟨passes_of (by decide +kernel), stash_of (by decide +kernel)⟩,
    passes_of (by decide +kernel), rfl, by decide +kernel, stashStore_of (by decide +kernel)⟩,
    passes_of (by decide +kernel), rfl, rfl, by decide +kernel, ?_⟩
  obtain ⟨l, h1, h2⟩ := ok_of (x := (stash (fun t => { t with wait := .access 3, words := [held2] }) .empty).begin_.checkStash
    (stash (fun t => { t with wait := .access 3, words := [held2] }) .empty).team 0 .store held2.lanesLeft) (p := fun l =>
    storePassB (stash (fun t => { t with wait := .access 3, words := [held2] }) .empty).begin_ l held2.who) (by decide +kernel)
  exact ⟨l, h1, storePass_of h2⟩

/-! ### Witnesses: ranges, samplers, atomics, fences -/

theorem witness_StashRanges :
    (let f := withR (fun r => (r.writeS 2 0x3FE80000).writeS 3 0x300000000000)
     let i : Instr := .stmap 2 3 7
     (∀ s ∈ [stash f .empty, stash f ⟨[(7, range0)]⟩],
       let base := (wordOf i s).r.readS 2
       let x := (wordOf i s).r.readS 3
       Passes i s ∧ base = range0.gbase ∧ x.toNat % 2 ^ 32 = range0.soff ∧ x.toNat / 2 ^ 32 % 65536 = 12288 ∧ base.toNat % 128 = 0 ∧
         canonical base = true ∧ x.toNat / 2 ^ 48 = 0 ∧ x.toNat % 2 ^ 32 + 128 * 12288 ≤ s.stashSize s.team ∧
         s.unmapping = false ∧ s.team.wait = .none) ∧
     ((stash f .empty).wgOf (stash f .empty).team).ranges.entries = [] ∧
     ((stash f ⟨[(7, range0)]⟩).wgOf (stash f ⟨[(7, range0)]⟩).team).ranges.entries = [(7, range0)]) ∧
    (let r := { range0 with lines := 2, state := ⟨[(1, 3)]⟩, pas := ⟨[(1, 0x30000)]⟩ }
     let s := stash id ⟨[(7, { r with gone := 1 })]⟩
     let y := stash (fun t => { t with wait := .unmap }) ⟨[(7, r)]⟩
     (∀ n ∈ ([7, 255] : List (BitVec 8)), Passes (.stflush n) s ∧ Passes (.stunmap n) s ∧ Passes (.stunmap n) y ∧
       (s.wgOf s.team).nextUnmap ((s.wgOf s.team).named n) = some (7, 1, true) ∧
       (y.wgOf y.team).nextUnmap ((y.wgOf y.team).named n) = some (7, 0, false) ∧
       (s.begin_.flushRanges s.team ((s.wgOf s.team).named n)).2 = none) ∧
     (∃ z, s.begin_.flushRanges s.team [7] = (z, none)) ∧ (∃ z, y.begin_.flushRanges y.team [7] = (z, none)) ∧
     s.unmapping = false ∧ y.unmapping = false ∧ s.team.wait = .none ∧ y.team.wait = .unmap ∧ s.team.stashQuiet = true ∧
     y.team.stashQuiet = true ∧ Passes (.stqry 62 7) s) ∧
    ((stash id .empty).wgOf (stash id .empty).team).nextUnmap (((stash id .empty).wgOf (stash id .empty).team).named 7) = none := by
  refine ⟨⟨fun s hs => ?_, rfl, rfl⟩, ⟨fun n hn => ?_, flushed_of (by decide +kernel), flushed_of (by decide +kernel), by decide +kernel,
    by decide +kernel, rfl, rfl, rfl, rfl, passes_of (by decide +kernel)⟩, by decide +kernel⟩
  · simp only [List.mem_cons, List.not_mem_nil, or_false] at hs
    obtain rfl | rfl := hs <;> exact ⟨passes_of (by decide +kernel), by decide +kernel⟩
  · simp only [List.mem_cons, List.not_mem_nil, or_false] at hn
    obtain rfl | rfl := hn <;> exact ⟨passes_of (by decide +kernel), passes_of (by decide +kernel), passes_of (by decide +kernel), by decide +kernel⟩

/-- A descriptor at 0x10020 of an image of four by 65536 texels. -/
def image0 : Image := ⟨0x20000, 16, 3, 65535, 0, 0⟩
def imaged (f : Team → Team) : State :=
  { (mem1 (fun t => f (withR (fun r => (r.writeS 4 0x10020).writeA 2 0x10070 16) t))).setBytes 0x10020
      ([0, 0, 2, 0, 0, 0, 0, 0, 16, 0, 0, 0, 3, 0, 255, 255] ++ List.replicate 16 0) with past := [] }

/-- Where nothing has been written since, a sampler read finds what stands at home. -/
theorem samplerElem_still {s : State} (h : s.past = []) (pa size since key : Nat) : s.samplerElem pa size since key =
    (List.range ((size + 7) / 8)).flatMap (fun j => s.bytesAt (pa + 8 * j) (if size < 8 then size else 8)) := by
  simp [State.samplerElem, State.bytesBefore, State.writesSince, h]

theorem described_of {s : State} {va : W64} {img : Image}
    (h : (decide (va.toNat % 32 = 0) && s.begin_.past.isEmpty &&
      okAnd (s.begin_.checkElem (dieOf s.cur) s.team.place.ctx 0 .sampler false 32 va) (fun p =>
        !s.begin_.badRange p.pa 32 &&
        decide (imageOf ((List.range 4).flatMap (fun j => s.begin_.bytesAt (p.pa + 8 * j) 8)) = some img))) = true) :
    Described s va img := by
  simp only [Bool.and_eq_true, decide_eq_true_eq, List.isEmpty_iff] at h
  obtain ⟨p, h1, h2⟩ := ok_of h.2
  simp only [Bool.and_eq_true, decide_eq_true_eq, Bool.not_eq_true'] at h2
  refine ⟨p, h.1.1, h1, h2.1, ?_⟩
  rw [samplerElem_still h.1.2]
  exact h2.2

/-- Lanes whose samples pass their checks and open. -/
def SamplesOpen (i : Instr) (s : State) (reqs : List LaneReq) (lw : LongWord) : Prop :=
  ∃ l, LanesOk s 0 .sampler true reqs l ∧
    let v : LongWord := { lw with upto := s.begin_.samplerFrom, word := wordBits i, mask := (wordOf i s).mask }
    Opens s (seen s reqs s.begin_) (if l.isEmpty then { v with results := v.texResults (wordOf i s).width } else v) (gather l)

theorem samples_of {i : Instr} {s : State} {reqs : List LaneReq} {lw : LongWord}
    (h : okAnd (s.begin_.checkLanes (dieOf s.cur) s.team.place.ctx 0 .sampler true reqs) (fun l => !l.isEmpty &&
      opensB s (seen s reqs s.begin_) { lw with upto := s.begin_.samplerFrom, word := wordBits i, mask := (wordOf i s).mask } (gather l)) = true) :
    SamplesOpen i s reqs lw := by
  obtain ⟨l, h1, h2⟩ := ok_of h
  simp only [Bool.and_eq_true, Bool.not_eq_true'] at h2
  refine ⟨l, h1, ?_⟩
  show Opens _ _ (if l.isEmpty then _ else _) _
  rw [h2.1]
  exact opens_of h2.2

theorem witness_SamplerWords :
    let s := imaged id
    let td (k : BitVec 1) : Instr := .tld 60 2 63 0 4 k
    let tx : Instr := .tex 60 2 4 0 0
    let tg : Instr := .texg 60 2 4 0 3
    let lw (i : Instr) (wd : BitVec 3) : LongWord :=
      { id := 0, kind := .sampler, width := wd, dests := useSet (info i).writes, who := { s.whoOf s.cur with race := 0 } }
    s.team.wait = .none ∧ s.team.fail = none ∧ Described s ((wordOf tx s).r.readS 4) image0 ∧ Passes (.tqry 63 4 0) s ∧
    (∀ k ∈ ([0, 1] : List (BitVec 1)), Passes (td k) s) ∧
    SamplesOpen (td 0) s ((wordOf (td 0) s).lanes.map (fun l =>
        { lane := l, va := (wordOf (td 0) s).r.aLane 2 l + ((wordOf (td 0) s).r.readV 63 l).signExtend 64, size := 16, idx := 60 })) (lw (td 0) 4) ∧
    (Passes tx s ∧ SamplesOpen tx s ((wordOf tx s).texReqs ⟨60, false, none⟩ image0 2) { lw tx 2 with args := (wordOf tx s).texArgs image0 2 }) ∧
    (Passes tg s ∧ SamplesOpen tg s ((wordOf tg s).texReqs ⟨60, false, some 3⟩ image0 2) { lw tg 2 with args := (wordOf tg s).texArgs image0 2 }) ∧
    (∀ v ∈ [held0, held1], ∀ i ∈ [td 0, tx, tg], Passes i (imaged (waits v))) ∧
    (GoesOn (imaged (waits held0)) held0 none ∧ GoesOn (imaged (waits held1)) held1 (some 1)) :=
  ⟨rfl, rfl, described_of (by decide +kernel), passes_of (by decide +kernel), fun k hk => by
     simp only [List.mem_cons, List.not_mem_nil, or_false] at hk
     obtain rfl | rfl := hk <;> exact passes_of (by decide +kernel),
   samples_of (by decide +kernel), ⟨passes_of (by decide +kernel), samples_of (by decide +kernel)⟩,
   ⟨passes_of (by decide +kernel), samples_of (by decide +kernel)⟩,
   fun v hv => by
     simp only [List.mem_cons, List.not_mem_nil, or_false] at hv
     obtain rfl | rfl := hv <;> exact all_pass (by decide +kernel),
   goesOn_of (by decide +kernel)⟩

/-- An atomic word with its first operands, its operation, its size and its scope. -/
structure Atomic where
  i : Instr
  v : BitVec 6
  o : BitVec 6
  op : AtomicOp
  size : Nat
  c : BitVec 3

def Atomic.reqs (x : Atomic) (s : State) : List LaneReq := (wordOf x.i s).atomicReqs x.v x.o 2 x.op x.size

/-- The atomic words that return values, and those that do not, of each operation. -/
def atomics (r : BitVec 2) : List Atomic :=
  [⟨.atom 63 62 2 7 r 1 0, 63, 62, aopOf 7, 4, 1⟩, ⟨.atom64 60 62 2 0 r 4 0, 60, 62, aopOf 0, 8, 4⟩, ⟨.atomf 63 0 2 2 r 2 0, 63, 0, fopOf 2, 4, 2⟩,
   ⟨.atxXchg32 63 62 2 r 3 0, 63, 62, .xchg, 4, 3⟩, ⟨.atxCas32 60 62 2 r 1 0, 60, 62, .cas, 4, 1⟩,
   ⟨.atxXchg64 60 62 2 r 1 0, 60, 62, .xchg, 8, 1⟩, ⟨.atxCas64 60 0 2 r 2 0, 60, 0, .cas, 8, 2⟩] ++
  (if r.getLsbD 1 then [] else [⟨.atxLd32 63 62 2 r 4 0, 63, 62, .ld, 4, 4⟩, ⟨.atxLd64 60 62 2 r 3 0, 60, 62, .ld, 8, 3⟩])
def reductions (r : BitVec 2) : List Atomic :=
  [⟨.red 63 62 2 7 r 1, 63, 62, aopOf 7, 4, 1⟩, ⟨.atxSt32 63 62 2 r 1, 63, 62, .st, 4, 1⟩, ⟨.atxSt64 60 62 2 r 1, 60, 62, .st, 8, 1⟩]

/-- Lanes at the ends of two lines, for words of four and of eight bytes. -/
def mem2 (f : Team → Team) : State := mem1 (fun t => f (withR (fun r => r.writeA 2 0x10078 8) t))

/-- Whether an atomic word passes its checks, and its lanes theirs, and opens. -/
def lanesB (s : State) (r : BitVec 2) (x : Atomic) : Bool :=
  passesB x.i s && okAnd (s.begin_.checkLanes (dieOf s.cur) s.team.place.ctx (s.whoOf s.cur).race x.op.acc false (x.reqs s)) (fun l =>
    opensB s (releasing r x.c (seen s (x.reqs s) s.begin_)) (atomicWord s x.op r x.c (wordOf x.i s)) (gatherLines l))

theorem atomics_of {s : State} {r : BitVec 2} {l : List Atomic} (h : l.all (lanesB s r) = true) : ∀ x ∈ l, Passes x.i s ∧
    ∃ l, LanesOk s (s.whoOf s.cur).race x.op.acc false (x.reqs s) l ∧
      Opens s (releasing r x.c (seen s (x.reqs s) s.begin_)) (atomicWord s x.op r x.c (wordOf x.i s)) (gatherLines l) := by
  intro x hx
  have h := List.all_eq_true.1 h x hx
  simp only [lanesB, Bool.and_eq_true] at h
  exact ⟨passes_of h.1, loads_of h.2⟩

theorem witness_AtomicWords :
    (∀ r ∈ ([0, 1, 2, 3] : List (BitVec 2)), ∀ x ∈ atomics r, Passes x.i (mem2 id) ∧
      ∃ l, LanesOk (mem2 id) ((mem2 id).whoOf (mem2 id).cur).race x.op.acc false (x.reqs (mem2 id)) l ∧
        Opens (mem2 id) (releasing r x.c (seen (mem2 id) (x.reqs (mem2 id)) (mem2 id).begin_)) (atomicWord (mem2 id) x.op r x.c (wordOf x.i (mem2 id)))
          (gatherLines l)) ∧ (mem2 id).team.wait = .none ∧ (mem2 id).team.fail = none ∧
    (∀ v ∈ [held0, held1], ∀ i ∈ (atomics 0 ++ atomics 3).map (·.i), Passes i (mem2 (waits v))) ∧
    (GoesOn (mem2 (waits held0)) held0 none ∧ GoesOn (mem2 (waits held1)) held1 (some 1)) := by
  refine ⟨fun r hr => ?_, rfl, rfl, fun v hv => ?_, goesOn_of (by decide +kernel)⟩
  · simp only [List.mem_cons, List.not_mem_nil, or_false] at hr
    obtain rfl | rfl | rfl | rfl := hr <;> exact atomics_of (by decide +kernel)
  · simp only [List.mem_cons, List.not_mem_nil, or_false] at hv
    obtain rfl | rfl := hv <;> exact all_pass (by decide +kernel)

/-- Whether a reduction passes its checks, and its lanes theirs in a state `y`, and is accepted in the one that has seen their pages. -/
def redB (s y : State) (x : Atomic) : Bool :=
  passesB x.i s && okAnd (y.checkLanes (dieOf s.cur) s.team.place.ctx (s.whoOf s.cur).race x.op.acc false (x.reqs s)) (fun l =>
    opensStoresB s (seen s (x.reqs s) y) (gatherLines l))

theorem reductions_of {s y : State} {l : List Atomic} (h : l.all (redB s y) = true) : ∀ x ∈ l, Passes x.i s ∧
    ∃ l, y.checkLanes (dieOf s.cur) s.team.place.ctx (s.whoOf s.cur).race x.op.acc false (x.reqs s) = .ok l ∧
      OpensStores s (seen s (x.reqs s) y) (gatherLines l) := by
  intro x hx
  have h := List.all_eq_true.1 h x hx
  simp only [redB, Bool.and_eq_true] at h
  obtain ⟨l, h1, h2⟩ := ok_of h.2
  exact ⟨passes_of h.1, l, h1, opensStores_of h2⟩

theorem witness_ReductionWords :
    (∀ x ∈ reductions 0, Passes x.i (mem2 id) ∧
      ∃ l, (mem2 id).begin_.checkLanes (dieOf (mem2 id).cur) (mem2 id).team.place.ctx ((mem2 id).whoOf (mem2 id).cur).race x.op.acc false
        (x.reqs (mem2 id)) = .ok l ∧ OpensStores (mem2 id) (seen (mem2 id) (x.reqs (mem2 id)) (mem2 id).begin_) (gatherLines l)) ∧
    (mem2 id).team.wait = .none ∧
    (∀ l ∈ [[stored0], [stored0, stored1]], ∀ i ∈ (reductions 0 ++ reductions 2).map (·.i), Passes i (tracks l (mem2 (waits held0)))) ∧
    (StoresGoOn (tracks [stored0] (mem2 (waits held0))) none ∧ StoresGoOn (tracks [stored0, stored1] (mem2 (waits held0))) (some 1)) ∧
    (let s := mem2 (fun t => { t with wait := .wave 3 })
     let s1 := s.begin_.setTeam { s.team with wait := .none }
     s.team.wait = .wave 3 ∧ s.begin_.releaseDone 1 3 = true ∧ ∀ x ∈ reductions 2, Passes x.i s ∧
       ∃ l, s1.checkLanes (dieOf s.cur) s.team.place.ctx (s.whoOf s.cur).race x.op.acc false (x.reqs s) = .ok l ∧
         OpensStores s (seen s (x.reqs s) s1) (gatherLines l)) := by
  refine ⟨reductions_of (by decide +kernel), rfl, fun l hl => ?_, ⟨storesGoOn_of (l := [stored0]) (by decide +kernel) rfl rfl (by decide +kernel),
    storesGoOn_of (l := [stored0, stored1]) (by decide +kernel) rfl rfl (by decide +kernel)⟩, rfl, by decide +kernel,
    reductions_of (by decide +kernel)⟩
  simp only [List.mem_cons, List.not_mem_nil, or_false] at hl
  obtain rfl | rfl := hl <;> exact all_pass (by decide +kernel)

theorem witness_FenceWord :
    (∀ p ∈ ([1, 4] : List (BitVec 3)), ∀ i ∈ ([.fence 0 p 0, .fence 0 p 1, .fence 1 p 1, .fence 1 p 2, .fence 0 p 3] : List Instr), Passes i (st id)) ∧
    (st id).team.wait = .none ∧ (st id).team.loadsFixed (st id).team.nextSeq = true ∧ (∀ o ∈ ([0, 1, 2, 3] : List (BitVec 2)), (st id).smpReady o = true) ∧
    (let s := st (fun t => { t with wait := .wave 3 })
     Passes (.fence 0 4 3) s ∧ Passes (.fence 1 1 3) s ∧ s.team.wait = .wave 3 ∧ s.begin_.releaseDone 4 3 = true ∧ s.begin_.releaseDone 1 3 = true ∧
       s.smpReady 3 = true) ∧
    (let s := st (fun t => { t with wait := .invalidation 3 5 })
     Passes (.fence 1 4 3) s ∧ s.team.wait = .invalidation 3 5 ∧ s.waving 3 = false) := by
  refine ⟨fun p hp => ?_, rfl, by decide +kernel, by decide +kernel, ⟨passes_of (by decide +kernel), passes_of (by decide +kernel), rfl,
    by decide +kernel, by decide +kernel, by decide +kernel⟩, passes_of (by decide +kernel), rfl, by decide +kernel⟩
  simp only [List.mem_cons, List.not_mem_nil, or_false] at hp
  obtain rfl | rfl := hp <;> exact all_pass (by decide +kernel)

/-! ### Witnesses: copies, queues, launches, collectives -/

theorem witness_CopyWords :
    (let s := stash (withR (fun r => (r.writeS 2 0x3FFFFFFC).writeS 4 0x1000000000)) .empty
     Passes (.cpy 2 4 0) s ∧ (s.copiesOf s.team).length < 256 ∧
       CopyOk s { dir := 0, dst := 0x3FFFFFFC, src := 0, rows := 1, rowBytes := 2 ^ 36 } (some (2 ^ 36))) ∧
    (let s := stash (withR (fun r => (r.writeS 2 0x80).writeS 4 0x17FF80)) .empty
     Passes (.cpy 2 4 3) s ∧ CopyOk s { dir := 3, dst := 0x80, src := 0, rows := 1, rowBytes := 0x17FF80 } (some 0x17FF80)) ∧
    (let s := stash (withR (fun r => (r.writeS 2 0x17FFFC).writeS 4 0x100000004)) .empty
     Passes (.cpy2d 2 4 1) s ∧ (s.copiesOf s.team).length < 256 ∧
       CopyOk s { dir := 1, dst := 0x17FFFC, src := 0, rows := 1, rowBytes := 4 } none) ∧
    (let s := st (fun t => { withR (fun r => r.writeS 2 1) t with copy := { last := 2 ^ 32 - 1, batches := [⟨1, [4]⟩, ⟨2 ^ 32 - 1, []⟩] } })
     Passes (.cpyb 63) s ∧ (s.batchesOpen s.team).length < 64 ∧ Passes (.cpyw 2) s ∧
       (∀ b ∈ s.team.copy.batches, ∀ c ∈ b.copies, (s.copies.get c).active = false ∧ (s.copies.get c).failed = none)) := by
  refine ⟨⟨passes_of (by decide +kernel), by decide +kernel, ⟨by decide +kernel, by decide +kernel, by decide +kernel, ?_, by decide +kernel,
    by decide +kernel⟩⟩, ⟨passes_of (by decide +kernel), ⟨by decide +kernel, by decide +kernel, by decide +kernel, ?_, by decide +kernel,
    by decide +kernel⟩⟩, ⟨passes_of (by decide +kernel), by decide +kernel, ⟨by decide +kernel, by decide +kernel, by decide +kernel, ?_,
    by decide +kernel, by decide +kernel⟩⟩, passes_of (by decide +kernel), by decide +kernel, passes_of (by decide +kernel), by decide +kernel⟩ <;>
    intro n hn <;> cases hn <;> decide

/-- A value that an engine reads, with a property. -/
def engAnd {α : Type} (x : Eng α) (p : α → State → Bool) : Bool := match x with | .ok a z => p a z | _ => false

theorem eng_of {α : Type} {x : Eng α} {p : α → State → Bool} (h : engAnd x p = true) : ∃ a z, x = .ok a z ∧ p a z = true := by
  unfold engAnd at h
  split at h
  · exact ⟨_, _, rfl, h⟩
  · cases h

theorem engineRead_of {s : State} {va : W64} {n : Nat} {p : List Byte → State → Bool}
    (h : (okAnd (s.begin_.translate (dieOf s.cur) s.team.place.ctx .engRead va) (fun _ => true) &&
      engAnd (s.begin_.engRead { s.whoOf s.cur with engine := true } (dieOf s.cur) (some (coreOf s.cur)) va n) p) = true) :
    ∃ l z, EngineRead s va n l z ∧ p l z = true := by
  simp only [Bool.and_eq_true] at h
  obtain ⟨x, hx, -⟩ := ok_of h.1
  obtain ⟨l, z, h1, h2⟩ := eng_of h.2
  exact ⟨l, z, ⟨⟨x, hx⟩, h1⟩, h2⟩

/-- A valid stream program of one element: with no stages but the first, or with decryption and a dictionary. -/
def prog0 (dict : Bool) : List Byte :=
  [0, 0, 2, 0, 0, 0, 0, 0] ++ List.replicate 8 0 ++ [1, 0, 0, 0, 1, 0, 0, 0, 1, 0, 0, 0, 1, 0, 0, 0] ++ List.replicate 32 0 ++
  [1, 0, 0, 0, if dict then 7 else 1, 0, 0, 1, 0, 3, 0, 0, 63, 0, 0, 0] ++ List.replicate 16 0 ++ [0, 0, 3, 0, 0, 0, 0, 0] ++
  List.replicate 24 0

/-- A team that names that program, with a key of its context in slot 63. -/
def streams (dict : Bool) : State :=
  let s := (withC (fun c => { c with fmt := ⟨[(3, 3)]⟩ }) (mem1 (withR (fun r => r.writeS 4 0x12000)))).setBytes 0x12000 (prog0 dict)
  { s with mod := { s.mod with keys := if dict then ⟨[(63, (0, 5))]⟩ else .empty } }


/-- What STREAM asks of a state in which nothing stops its word. -/
def streamB (s : State) : Bool :=
  engAnd (s.begin_.engRead { s.whoOf s.cur with engine := true } (dieOf s.cur) (some (coreOf s.cur)) 0x12000 128) (fun l z =>
    let p := streamProg l
    let k := z.mod.keys.entries.find? (fun k => k.1 == p.keyslot && k.2.1 == 0)
    let more (z1 : State) : Bool := ((List.range 8).find? (fun k => !(z1.queue (coreOf s.cur) k).bound)).isSome
    decide (l.length = 128) && p.valid (s.ctxOf s.team).fmt (z.feature 5) && (k.isSome || !p.on 1) &&
    (if p.dictMode then engAnd (z.engRead { s.whoOf s.cur with engine := true } (dieOf z.cur) (some (coreOf z.cur)) p.dict (32 * 32))
        (fun _ z1 => decide (z1.mod.keys = z.mod.keys) && more z1)
      else more z))

theorem witness_QueueWords :
    (∀ b ∈ [false, true], Passes (.stream 7 4) (streams b) ∧ (wordOf (.stream 7 4) (streams b)).r.readS 4 = 0x12000 ∧
      (streams b).portOf (streams b).team 7 = none ∧ (streams b).teamQuiet (streams b).cur = true ∧ streamB (streams b) = true ∧
      okAnd ((streams b).begin_.translate 0 0 .engRead 0x12000) (fun _ => true) = true) ∧
    (let q : Queue := { bound := true, entries := List.replicate 64 [1, 2, 3], ended := true }
     let s : State := { mem1 id with cores := ⟨[(0, { queues := ⟨[(7, q)]⟩ })]⟩, wgs := ⟨[(0, { bound := true, slots := [0], ports := ⟨[(7, 8)]⟩ })]⟩ }
     s.portOf s.team 7 = some 7 ∧ s.queue 0 7 = q ∧ Passes (.qpop 63 7 0) s ∧
       (passesOf (wordOf (.qpop 63 7 0) s).mask).length ≤ 64 ∧ Passes (.qstat 63 7) s ∧ Passes (.qclose 7) s ∧ q.over = true ∧
       s.portOf s.team 0 = none ∧ Passes (.qstat 63 0) s ∧ Passes (.qclose 0) s) := by
  refine ⟨fun b hb => ?_, by decide +kernel, by decide +kernel, passes_of (by decide +kernel), by decide +kernel,
    passes_of (by decide +kernel), passes_of (by decide +kernel), by decide +kernel, by decide +kernel, passes_of (by decide +kernel),
    passes_of (by decide +kernel)⟩
  simp only [List.mem_cons, List.not_mem_nil, or_false] at hb
  obtain rfl | rfl := hb <;>
    exact ⟨passes_of (by decide +kernel), by decide +kernel, by decide +kernel, by decide +kernel, by decide +kernel, by decide +kernel⟩

theorem witness_LaunchWord :
    let s := mem1 (fun t => { withR (fun r => r.writeS 4 0x12000) t with wait := .wave 3 })
    Passes (.lnch 63 4) s ∧ ((wordOf (.lnch 63 4) s).r.readS 4) = 0x12000 ∧ (∃ p, s.begin_.translate (dieOf s.cur) s.team.place.ctx .load 0x12000 = .ok p) ∧
      s.team.wait = .wave 3 ∧ s.begin_.releaseDone 3 3 = true ∧ (s.ctxOf s.team).launchQ.length < 4096 ∧
      ∃ l z, s.begin_.engRead { s.whoOf s.cur with engine := true } (dieOf s.cur) (some (coreOf s.cur)) 0x12000 256 = .ok l z := by
  intro s
  refine ⟨passes_of (by decide +kernel), by decide +kernel, ?_, rfl, by decide +kernel, by decide +kernel, ?_⟩
  · obtain ⟨p, h, -⟩ := ok_of (x := s.begin_.translate (dieOf s.cur) s.team.place.ctx .load 0x12000) (p := fun _ => true) (by decide +kernel)
    exact ⟨p, h⟩
  · obtain ⟨l, z, h, -⟩ := eng_of (x := s.begin_.engRead { s.whoOf s.cur with engine := true } (dieOf s.cur) (some (coreOf s.cur)) 0x12000 256)
      (p := fun _ _ => true) (by decide +kernel)
    exact ⟨l, z, h⟩

theorem witness_RegroupWord :
    (let s := mem1 (fun t => { t with flow := { t.flow with active := fullMask 32 } })
     s.team.wait = .none ∧ s.team.flow.dstack = [] ∧ s.team.flow.active = fullMask s.team.place.width ∧
       (s.rgMembers s.team false).contains s.team.place.idx = true ∧ s.rgRetired s.team.wgKey (s.rgMembers s.team false) = false ∧
       Passes (.regroup 48 63 7 15 0) s) ∧
    (let s := st (fun t => { t with wait := .regroup 48 63 7 30 })
     let mine := (s.rgWaiting 0).filter (fun x => (1 : Nat).testBit (s.teams.get x.uid).place.idx)
     let named := (List.range 16).filter (fun k => (1 : Nat).testBit k)
     mine ≠ [] ∧ mine.length = named.length ∧ ∀ x ∈ mine, x.ops = (48, 63, 7, 30) ∧ x.members = named) :=
  ⟨⟨rfl, rfl, by decide +kernel, by decide +kernel, by decide +kernel, passes_of (by decide +kernel)⟩, by decide +kernel⟩

/-- A team that names the descriptor of a collective of the greatest count, with its module in the group 0. -/
def collective : State :=
  (withC (fun c => { c with groups := ⟨[(0, [1, 0])]⟩ }) (mem1 (withR (fun r => r.writeS 4 0x12000)))).setBytes 0x12000
    (List.replicate 27 0 ++ [64] ++ List.replicate 100 0)

theorem witness_CollectiveWords :
    (let s := collective
     Passes (.coll 63 4) s ∧ ((wordOf (.coll 63 4) s).r.readS 4) = 0x12000 ∧ s.teamQuiet s.cur = true ∧
     ∃ l z, EngineRead s 0x12000 128 l z ∧ (descOk l (s.ctxOf s.team).fmt &&
       decide (((z.ctxOf s.team).groups.get (fieldAt l 28 2)).idxOf? z.hub.modid = some 1 ∧ z.collsOpen s.team.place.ctx < 64)) = true) ∧
    (let s := stw
     s.colls.entries.find? (fun c => c.2.owner == s.team.key && c.2.num == 0) = none ∧ Passes (.collw 63 2 0) s) ∧
    (let c : Coll := { owner := 0, num := 5, status := 4 }
     let d : Coll := { owner := 0, num := 2 ^ 32 - 1 }
     let s : State := { st (withR (fun r => (r.writeS 2 5).writeS 3 0xFFFFFFFF)) with colls := ⟨[(8, c), (9, d)]⟩ }
     s.colls.entries.find? (fun c => c.2.owner == s.team.key && c.2.num == ((wordOf (.collw 63 2 0) s).r.readS 2).toNat % 2 ^ 32) = some (8, c) ∧
       s.colls.entries.find? (fun c => c.2.owner == s.team.key && c.2.num == ((wordOf (.collw 63 3 1) s).r.readS 3).toNat % 2 ^ 32) = some (9, d) ∧
       Passes (.collw 63 2 0) s ∧ Passes (.collw 63 3 1) s) :=
  ⟨⟨passes_of (by decide +kernel), by decide +kernel, by decide +kernel, engineRead_of (by decide +kernel)⟩,
   ⟨by decide +kernel, passes_of (by decide +kernel)⟩, by decide +kernel, by decide +kernel, passes_of (by decide +kernel), passes_of (by decide +kernel)⟩

/-! ### Witnesses: matrix and light-field words -/

/-- A team of a workgroup of six, with slices of its core. -/
def gang (f : Team → Team) (slices : SMap ({} : Slice)) : State :=
  { stash f .empty with
    cores := ⟨[(0, { slices := slices })]⟩,
    grids := ⟨[(0, { phase := .running, launch := { gx := 1, gy := 1, gz := 1, vregs := 64, teams := 6, stash := 1572864 } })]⟩ }

theorem witness_MatrixWords :
    (let f := withR (fun r => r.writeS 4 0x3F)
     let ok (s : State) : Prop := ((wordOf (.mgang 4) s).r.readS 4).extractLsb' 0 16 = 0x3F ∧ (gangBits 0x3F).length = 6 ∧
       (∀ i ∈ gangBits 0x3F, i < (s.gridOf s.team).launch.teams) ∧ s.team.place.idx = 0
     Passes (.mgang 4) (gang f .empty) ∧ ok (gang f .empty) ∧ (gang f .empty).sliceOf 0 = none ∧
       (List.range 6).find? (fun k => ((gang f .empty).slice 0 k).owner.isNone) = some 0 ∧
       Passes (.mgang 4) (gang f ⟨[(5, { owner := some 0 })]⟩) ∧ ok (gang f ⟨[(5, { owner := some 0 })]⟩) ∧
       (gang f ⟨[(5, { owner := some 0 })]⟩).sliceOf 0 = some 5) ∧
    (let s := gang id .empty
     Passes (.mgang 0) s ∧ ((wordOf (.mgang 0) s).r.readS 0).extractLsb' 0 16 = 0 ∧ s.accBusy s.cur s.team.nextSeq = false ∧ s.sliceOf s.cur = none ∧
       Passes (.mqry 63 1) s) ∧
    (let s := gang (withR (fun r => (r.writeS 4 0x20000).writeS 6 0x100000200)) ⟨[(5, { owner := some 0 })]⟩
     Passes (.mgang 0) s ∧ s.accBusy s.cur s.team.nextSeq = false ∧ (s.slice 0 5).op0.stop = none ∧ (s.slice 0 5).op1.stop = none ∧
       HoldsSlice s 5 ∧ (∀ n ∈ ([0, 1] : List (BitVec 1)), Passes (.mzero n) s ∧ s.accHeld (s.slice 0 5) n false = false ∧
         Passes (.maccwr 63 4 n) s ∧ Passes (.maccrd 63 4 0 n) s ∧ Passes (.mqry 63 n) s) ∧
       Passes (.mdrain 4 6 0 1 0 0 1) s ∧ s.begin_.drainCheck s.team (dieOf s.cur) ⟨1, 0, false, true, 0x20000, 0x100000200, 0, 0, 0⟩ = none ∧
       Passes (.mdrain 4 6 0 1 1 1 0) s ∧ s.begin_.drainCheck s.team (dieOf s.cur) ⟨1, 1, true, false, 0x20000, 0x100000200, 0, 0, 0⟩ = none ∧
       s.begin_.drainCheck s.team (dieOf s.cur) ⟨1, 2, false, false, 0, 0x8000000000, 0, 0, 0⟩ = none) := by
  refine ⟨⟨passes_of (by decide +kernel), by decide +kernel, by decide +kernel, by decide +kernel, passes_of (by decide +kernel),
    by decide +kernel, by decide +kernel⟩, ⟨passes_of (by decide +kernel), by decide +kernel, by decide +kernel, by decide +kernel,
    passes_of (by decide +kernel)⟩, passes_of (by decide +kernel), by decide +kernel, by decide +kernel, by decide +kernel,
    ⟨by decide +kernel, by decide +kernel⟩, fun n hn => ?_, passes_of (by decide +kernel), by decide +kernel, passes_of (by decide +kernel),
    by decide +kernel, by decide +kernel⟩
  simp only [List.mem_cons, List.not_mem_nil, or_false] at hn
  obtain rfl | rfl := hn <;> exact ⟨passes_of (by decide +kernel), by decide +kernel, passes_of (by decide +kernel),
    passes_of (by decide +kernel), passes_of (by decide +kernel)⟩

/-- Two teams of a workgroup in the latch, with the same constants as operands. -/
def latch0 : State :=
  let t (i : Nat) : Team := { (st id).team with wait := .latch 0 3 [0, 0x100000000, 0, 0x400000000, 7], place := { (st id).team.place with idx := i } }
  { st id with teams := ⟨[(0, t 0), (1, t 1)]⟩, wgs := ⟨[(0, { bound := true, slots := [0, 1] })]⟩,
               cores := ⟨[(0, { slices := ⟨[(0, { owner := some 0 }), (5, { owner := some 1 })]⟩ })]⟩ }

theorem witness_MmaWord :
    (let s := gang id ⟨[(5, { owner := some 0 })]⟩
     Passes (.mma 2 62 1) s ∧ s.team.wait = .none ∧ HoldsSlice s 5 ∧ s.accHeld (s.slice 0 5) 1 false = false) ∧
    (let y := latch0
     let l := y.latched 0
     let idx (x : Nat × Nat × Nat × List W64) : Nat := (y.teams.get x.1).place.idx
     let me := (1, 0, 3, [(0 : W64), 0x100000000, 0, 0x400000000, 7])
     let mine := l.filter (fun x => me.2.2.1.testBit (idx x) || x.2.2.1.testBit (idx me))
     l.find? (fun x => x.1 == 1) = some me ∧ mine.length = 2 ∧ (∀ x ∈ mine, x.2 = me.2) ∧
       (∀ i ∈ gangBits (BitVec.ofNat 16 3), (∃ x ∈ mine, idx x = i) ∧ ∀ u ∈ (y.wgs.get 0).retired, (y.teams.get u).place.idx = i → (y.teams.get u).wgKey ≠ 0) ∧
       matCheck (me.2.2.2.getD 0 0, me.2.2.2.getD 1 0) (me.2.2.2.getD 2 0, me.2.2.2.getD 3 0) false = none) :=
  ⟨⟨passes_of (by decide +kernel), rfl, ⟨by decide +kernel, by decide +kernel⟩, by decide +kernel⟩, by decide +kernel⟩

/-- A word that reads the stash at once, and what holds of the bytes that it reads and of the state after it. -/
theorem readsStash_of {i : Instr} {s : State} {reqs : List LaneReq} {p : List (List Byte) → State → Bool}
    (h : okAnd (s.begin_.checkStash s.team (dieOf s.cur) .load reqs) (fun l =>
      let z0 := (stashParts l).foldl (fun z p => z.mendStash p.line z.cur s.team.place.ctx) s.begin_
      let x := (z0.fillLines s.team.wgKey (linesOf l)).stashTrap (wordOf i s) s.team.wgKey (stashParts l) (z0.whoOf z0.cur) false
      z0.stashReady s.team.wgKey (linesOf l) (l.map (fun a => a.req.va.toNat)) && x.2.isNone &&
      (stashParts l).all (fun p => (x.1.badStash s.team.wgKey p).isNone) &&
      p (reqs.map (fun r => (x.1.wgs.get s.team.wgKey).stashBytes r.va.toNat r.size))
        (x.1.stashNoted s.team.wgKey (stashParts l) (z0.whoOf z0.cur))) = true) :
    ∃ bytes z, ReadsStash i s reqs bytes z ∧ p bytes z = true := by
  obtain ⟨l, h1, h2⟩ := ok_of h
  simp only [Bool.and_eq_true, Option.isNone_iff_eq_none, List.all_eq_true] at h2
  exact ⟨_, _, ⟨l, _, h1, h2.1.1.1, Prod.ext rfl h2.1.1.2, h2.1.2, rfl, rfl⟩, h2.2⟩

/-- Three records of vertices of a triangle of 4 by 4 pixels, w being 1, 2 and 1. -/
def verts0 : List Byte :=
  [0, 0, 0, 0, 0, 0, 0, 0, 0, 0, 128, 63, 0, 0, 0, 0, 0, 4, 0, 0, 0, 0, 0, 0, 0, 0, 0, 64, 0, 0, 0, 0,
   0, 0, 0, 0, 0, 4, 0, 0, 0, 0, 128, 63, 0, 0, 0, 0]

/-- A team with those records at the start of its stash, and a descriptor of four views. -/
def lit (f : Team → Team) : State :=
  let s := stash (fun t => f (withR (fun r => ((r.writeS 4 0x201000000).writeS 6 0x3F8000003F800000).writeS 7 4) t)) .empty
  { s with wgs := ⟨[(0, ({ bound := true, slots := [0] } : Wg).setStash 0 verts0)]⟩ }

/-- The setup of that triangle. -/
def setup0 : Option LfSetup := (buildSetup (0x3F8000003F800000, 4) [verts0.take 16, (verts0.drop 16).take 16, verts0.drop 32] [0, 1, 2] false).1


theorem witness_SpanWords :
    (let s := lit id
     let i : Instr := .lfset 4 6 1
     Passes i s ∧ (((wordOf i s).r.readS 4).extractLsb' 0 16).toNat % 16 = 0 ∧
       ∃ bytes z, ReadsStash i s (recordReqs ((wordOf i s).r.readS 4)).2 bytes z ∧
         decide (bytes = [verts0.take 16, (verts0.drop 16).take 16, verts0.drop 32]) = true) ∧
    (let s := lit (fun t => { t with lf := setup0 })
     Passes (.lfspan 3 4 1) s ∧ SpanTakes (.lfspan 3 4 1) s) ∧ (Passes (.lfspan 0 4 1) (lit id) ∧ SpanTakes (.lfspan 0 4 1) (lit id)) ∧
    (∀ q ∈ ([0, 1, 2, 3, 4, 5, 6, 7] : List (BitVec 3)), Passes (.lfqry 63 3 q) (lit id)) := by
  refine ⟨⟨passes_of (by decide +kernel), by decide +kernel, readsStash_of (by decide +kernel)⟩,
    ⟨passes_of (by decide +kernel), .inr (by decide +kernel)⟩, ⟨passes_of (by decide +kernel), .inr (by decide +kernel)⟩, fun q hq => ?_⟩
  have h : ([0, 1, 2, 3, 4, 5, 6, 7] : List (BitVec 3)).all (fun q => passesB (.lfqry 63 3 q) (lit id)) = true := by decide +kernel
  exact passes_of (List.all_eq_true.1 h q hq)

/-- A team whose first lane's first i-register holds two views, and which has that setup. -/
def spanned (f : Team → Team) : State :=
  lit (fun t => f (withR (fun r => r.writeI 0 0 { mask := 3, px := 0, py := 0 }) { t with lf := setup0 }))

theorem witness_ViewWords :
    (Passes (.lfint 63 0 0 1 0) (lit id) ∧ SpanTakes (.lfint 63 0 0 1 0) (lit id) ∧ (lit id).team.lf = none) ∧
    (let s := spanned id
     let li : Instr := .lfint 63 0 8 0 1
     ∃ u, s.team.lf = some u ∧ Passes (.lfint 63 0 0 1 0) s ∧ SpanTakes (.lfint 63 0 0 1 0) s ∧ Passes li s ∧ SpanTakes li s ∧
       let off := (((wordOf li s).r.readS 8).extractLsb' 0 16).toNat
       ∃ bytes z, ReadsStash li s (u.idx.map (fun k => { lane := 0xFFFF, va := BitVec.ofNat 64 (off + 4 * k), size := 4 })) bytes z ∧
         decide (z.team.lf = some u) = true) ∧
    (let s := lit id
     Passes (.lfz 3 1 1) s ∧ s.team.wait = .none ∧ ∀ l ∈ (wordOf (.lfz 3 1 1) s).lanes, lfzViews s.team.lf ((wordOf (.lfz 3 1 1) s).r.readI 3 l) = []) ∧
    (let s := spanned (waits { id := 3, kind := .gather })
     Passes (.lfz 0 1 0) s ∧ (∃ v, Gathered s v) ∧ lfzViews s.team.lf ((wordOf (.lfz 0 1 0) s).r.readI 0 0) ≠ []) ∧
    (∀ s ∈ [lit id, tracks [stored0] (spanned (waits held0)), tracks [stored0, stored1] (spanned (waits held0))], Passes (.lfout 63 0 1 0 2) s) ∧
    (∀ j ∈ (wordOf (.lfout 63 0 1 0 2) (lit id)).lanes, (runOf ((wordOf (.lfout 63 0 1 0 2) (lit id)).r.readI 0 j).mask 0).2 = 0) ∧
    StoresGoOn (tracks [stored0] (spanned (waits held0))) none ∧ StoresGoOn (tracks [stored0, stored1] (spanned (waits held0))) (some 1) := by
  refine ⟨⟨passes_of (by decide +kernel), .inr (by decide +kernel), rfl⟩, ⟨setup0.getD default, by decide +kernel, passes_of (by decide +kernel),
    .inr (by decide +kernel), passes_of (by decide +kernel), .inr (by decide +kernel), readsStash_of (by decide +kernel)⟩,
    ⟨passes_of (by decide +kernel), rfl, by decide +kernel⟩,
    ⟨passes_of (by decide +kernel), ⟨_, 3, rfl, rfl, rfl, rfl, rfl, rfl⟩, by decide +kernel⟩, fun s hs => ?_, by decide +kernel,
    storesGoOn_of (l := [stored0]) (by decide +kernel) rfl rfl (by decide +kernel),
    storesGoOn_of (l := [stored0, stored1]) (by decide +kernel) rfl rfl (by decide +kernel)⟩
  simp only [List.mem_cons, List.not_mem_nil, or_false] at hs
  obtain rfl | rfl | rfl := hs <;> exact passes_of (by decide +kernel)

/-- Whether the other triangle's gradient is near that of a setup. -/
def nearB (s : State) (t o : LfSetup) : Bool :=
  within (s.team.sys.lfqtol.extractLsb' 32 32) t.gradient.1 o.gradient.1 && within (s.team.sys.lfqtol.extractLsb' 32 32) t.gradient.2 o.gradient.2

theorem witness_QuadAndMeshWords :
    (∀ x ∈ [(none, none), (setup0, setup0), (setup0.map (fun u => { u with desc := [0, 0] }), none),
        (setup0.map (fun u => { u with w := [0x3F800000, 0x3F800000, 0x3F800000] }), setup0)],
      let s := lit (fun t => { t with lf := x.1 })
      let i : Instr := .qmerge 0 3 4
      Passes i s ∧ SpanTakes i s ∧ (((wordOf i s).r.readS 4).extractLsb' 0 16).toNat % 16 = 0 ∧
      ∃ bytes z, ReadsStash i s (recordReqs ((wordOf i s).r.readS 4)).2 bytes z ∧ decide (z.team.lf = x.1 ∧ z.team.sys = s.team.sys ∧
        x.1.bind (fun t => (buildSetup (t.desc.getD 0 0, t.desc.getD 1 0) bytes [0, 1, 2] false).1) = x.2) = true) ∧
    nearB (lit id) (setup0.getD default) (setup0.getD default) = true ∧
    nearB (lit id) { setup0.getD default with w := [0x3F800000, 0x3F800000, 0x3F800000] } (setup0.getD default) = false ∧
    (let v : LongWord := { id := 3, kind := .gather, args := [0x1000, 0, 0x02100100, 0, 0, 0] }
     let s := lit (waits v)
     let read := ((v.args ++ [0, 0]).drop 2).flatMap (fun (x : W64) => leBytes 8 x.toNat)
     let y := dropped v s.begin_
     let cuts := stashCuts 0 (meshVertBytes read [[0, 0, 0]]) ++ stashCuts 4096 (meshTriBytes [[0, 0, 0]])
     Passes (.mshdec 63 1 2) s ∧ Gathered s v ∧ meshDecode read = .done [[0, 0, 0]] [[0, 0, 0]] 283 ∧
       (cuts.filterMap (fun x => (s.wgs.get s.team.wgKey).mappedAt x.1)) = [] ∧ y.stashReady s.team.wgKey [] (cuts.map (·.1)) = true ∧
       engAnd (y.stashTakeAll (y.whoOf y.cur) s.cur s.team.wgKey cuts) (fun parts y1 =>
         (y1.stashTrap (wordOf (.mshdec 63 1 2) s) s.team.wgKey parts (y.whoOf y.cur) true).2.isNone) = true) := by
  refine ⟨fun x hx => ?_, by decide +kernel, by decide +kernel, passes_of (by decide +kernel), ⟨3, rfl, rfl, rfl, rfl, rfl, rfl⟩,
    by decide +kernel, by decide +kernel, by decide +kernel, by decide +kernel⟩
  simp only [List.mem_cons, List.not_mem_nil, or_false] at hx
  obtain rfl | rfl | rfl | rfl := hx <;>
    exact ⟨passes_of (by decide +kernel), .inr (by decide +kernel), by decide +kernel, readsStash_of (by decide +kernel)⟩

/-! ### Witnesses: traversal words -/

/-- A lane stopped at a procedural entry, with four payload registers from 56 on and five positions on its stack. -/
def lane0 : TrLane :=
  { ray := [0, 0, 0, 0, 0, 0x3F800000, 0, 0x7F800000], node := 1, pend := 0, nkind := 3, nprim := 2, cursor := 1, p := 4, pbase := 56,
    hit := false, level := 1, status := 3, scount := 5, stack := [1, 2, 3, 4] }

/-- A team that traverses, whose lane 0 stands so, with spill areas of 64 bytes. -/
def tracing (f : Team → Team) : State :=
  { mem1 (fun t => f (withR (fun r => ((r.writeS 4 0x10080).writeS 5 0x104).writeA 2 0x10000 64) { t with
      sys := { t.sys with trroot := 0x10080, trspill := 0x30000, trcfg := 64 }, trav := { t.trav with lanes := ⟨[(0, lane0.pack)]⟩ } })) with
    grids := ⟨[(0, { phase := .running, launch := { gx := 1, gy := 1, gz := 1, vregs := 64, payload := 4, depth := 1 } })]⟩ }

/-- Areas whose positions can be read, and written to others that have been checked. -/
theorem areas_of {z : State} {ks : List (Walk × Nat × Nat)} {f : Nat → Walk}
    (h : engAnd (z.readAreas ks) (fun words z1 => okAnd words (fun words => engAnd (z1.checkAreas f words) (fun r z2 => r.isNone &&
      engAnd (z2.writeAreas f words) (fun _ _ => true)))) = true) :
    ∃ words z1 z2 z3, z.readAreas ks = .ok (.ok words) z1 ∧ z1.checkAreas f words = .ok none z2 ∧ z2.writeAreas f words = .ok () z3 := by
  obtain ⟨x, z1, h1, h2⟩ := eng_of h
  obtain ⟨words, rfl, h3⟩ := ok_of h2
  obtain ⟨r, z2, h4, h5⟩ := eng_of h3
  simp only [Bool.and_eq_true, Option.isNone_iff_eq_none] at h5
  obtain ⟨rfl, h6⟩ := h5
  obtain ⟨_, z3, h7, -⟩ := eng_of h6
  exact ⟨words, z1, z2, z3, h1, h4, h7⟩

/-- The word that has read those records, with the areas that they were saved from. -/
def loaded : LongWord :=
  { id := 3, kind := .gather, lines := [0, 0, 0x31000, 0x32000],
    args := (List.range 8).map (fun k => lane0.pack.extractLsb' (64 * k) 64) ++ List.replicate 8 0 }

theorem witness_TraversalWords :
    (let s := tracing id
     let root := (wordOf (.trace 56 48 4 0) s).r.readS 4
     let ctl := (wordOf (.trace 56 48 4 0) s).r.readS 5
     s.team.tracing = false ∧ s.team.wait = .none ∧
     (Passes (.trace 56 48 4 0) s ∧ root.toNat % 128 = 0 ∧ canonical root = true ∧ ctl.extractLsb' 6 2 = 0 ∧ ctl.extractLsb' 14 50 = 0 ∧
       (ctl.extractLsb' 0 6).toNat = 4 ∧ (s.gridOf s.team).launch.payload = 4 ∧ s.team.place.vregs = 64 ∧ s.walking (coreOf s.cur) = 0) ∧
     (Passes (.trres 56 0) s ∧ s.begin_.stillParked s.team (dieOf s.cur) [(0, trLane (s.team.trav.lanes.get 0))] = none) ∧
     (∀ k ∈ ([0, 1, 2] : List (BitVec 2)), Passes (.trget 62 0 k) s) ∧ (trLane (s.team.trav.lanes.get 0)).status = 3 ∧
     okAnd ((forgetWalk s s.begin_).checkLanes (dieOf s.cur) s.team.place.ctx (s.whoOf s.cur).race .engRead false
       [{ lane := 0, va := 0x10080 + BitVec.ofInt 64 16 + 8, size := 8 }]) (fun _ => true) = true ∧
     Passes (.trhit 60 0) s ∧ (trLane (s.team.trav.lanes.get 31)).status = 0 ∧ Passes (.trsave 2 0 1 0) s ∧
     (let extra := payloadSet 64 [trLane (s.team.trav.lanes.get 0), trLane (s.team.trav.lanes.get 31)]
      extra &&& s.team.pendingRegs = 0) ∧
     (let recs := (wordOf (.trsave 2 0 1 0) s).lanes.map (fun j =>
        let x := trLane (s.team.trav.lanes.get j)
        let va := (wordOf (.trsave 2 0 1 0) s).recordVa 2 0 0 j
        (j, va, storeWords j va ((List.range 16).map (trWord x.pack)) ++
          storeWords j (va + 64) ((x.payload s.team.place.vregs).map (fun r => (wordOf (.trsave 2 0 1 0) s).r.readV r j))))
      okAnd ((forgetWalk s s.begin_).checkRecords (dieOf s.cur) s.team.place.ctx (s.whoOf s.cur).race .store recs) (fun l =>
        opensStoresB s ((forgetWalk s s.begin_).fillCaches (coreOf s.cur) s.team.place.ctx (some s.cur) (recs.map (fun r => r.2.1)))
          (gather l)) = true)) ∧
    (let s := tracing (fun t => { t with trav := {} })
     Passes (.trres 56 0) s ∧ ((wordOf (.trres 56 0) s).lanes.map (fun j => (j, trLane (s.team.trav.lanes.get j)))).filter (fun x =>
       x.2.status = 3 ∨ x.2.status = 4) = [] ∧ s.begin_.stillParked s.team (dieOf s.cur) [] = none) ∧
    (∀ l ∈ [[stored0], [stored0, stored1]], Passes (.trsave 2 63 0 1) (tracks l (tracing (waits held0))) ∧
      (tracks l (tracing (waits held0))).team.tracing = false) ∧
    StoresGoOn (tracks [stored0] (tracing (waits held0))) none ∧ StoresGoOn (tracks [stored0, stored1] (tracing (waits held0))) (some 1) ∧
    (let s := tracing (fun t => { t with flow := { t.flow with active := 0 } })
     Passes (.trload 4 2 63 1 1 1) s ∧ s.team.tracing = false ∧ s.team.wait = .none ∧ (wordOf (.trload 4 2 63 1 1 1) s).lanes = []) ∧
    (let s := tracing (fun t => waits loaded { t with wr := 0 })
     let i : Instr := .trload 4 2 63 1 1 1
     let z := dropped loaded s.begin_
     Passes i s ∧ s.team.tracing = false ∧ Gathered s loaded ∧ loaded.args ≠ [] ∧ (wordOf i s).lanes = [0, 31] ∧
       (let set := payloadSet z.team.place.vregs [trLane lane0.pack, trLane 0]
        set &&& (z.team.rbw ||| (readSet (info i) s.team.hints &&& ~~~z.team.wr)) = 0 ∧ set &&& z.team.pendingRegs = 0) ∧
       (let stride := (s.team.sys.trcfg.extractLsb' 0 11).toNat
        let launch := (s.gridOf s.team).launch
        recordOk lane0.pack stride launch.payload s.team.place.vregs = true ∧ recordOk 0 stride launch.payload s.team.place.vregs = true) ∧
       z.teamQuiet s.cur = true ∧
       ∃ words z1 z2 z3, z.readAreas (z.spillsOf [(0, lane0.pack), (31, 0)] (fun j => if j = 0 then 0x31000 else 0x32000)) = .ok (.ok words) z1 ∧
         z1.checkAreas (fun lane => z.laneWalk (z.ownArea lane) lane) words = .ok none z2 ∧
         z2.writeAreas (fun lane => z.laneWalk (z.ownArea lane) lane) words = .ok () z3) ∧
    (let v : LongWord := { id := 3, kind := .gather }
     let s := tracing (waits v)
     Passes (.trload 0 2 0 0 0 0) s ∧ s.team.tracing = false ∧ Gathered s v ∧ v.args = [] ∧
       (∀ j ∈ (wordOf (.trload 0 2 0 0 0 0) s).lanes, recordOk (recordOf v j) (s.team.sys.trcfg.extractLsb' 0 11).toNat
         (s.gridOf s.team).launch.payload s.team.place.vregs = true) ∧
       ∃ words z1 z2 z3, (dropped v s.begin_).readAreas [] = .ok (.ok words) z1 ∧
         z1.checkAreas (fun lane => (dropped v s.begin_).laneWalk ((dropped v s.begin_).ownArea lane) lane) words = .ok none z2 ∧
         z2.writeAreas (fun lane => (dropped v s.begin_).laneWalk ((dropped v s.begin_).ownArea lane) lane) words = .ok () z3) := by
  refine ⟨⟨rfl, rfl, ⟨passes_of (by decide +kernel), by decide +kernel⟩, ⟨passes_of (by decide +kernel), by decide +kernel⟩, fun k hk => ?_,
    by decide +kernel, by decide +kernel, passes_of (by decide +kernel), by decide +kernel, passes_of (by decide +kernel), by decide +kernel,
    by decide +kernel⟩, ⟨passes_of (by decide +kernel), by decide +kernel, by decide +kernel⟩, fun l hl => ?_,
    storesGoOn_of (l := [stored0]) (by decide +kernel) rfl rfl (by decide +kernel),
    storesGoOn_of (l := [stored0, stored1]) (by decide +kernel) rfl rfl (by decide +kernel),
    ⟨passes_of (by decide +kernel), rfl, rfl, by decide +kernel⟩,
    ⟨passes_of (by decide +kernel), by decide +kernel, ⟨3, by decide +kernel, by decide +kernel, by decide +kernel, rfl, rfl, rfl⟩, by decide +kernel,
      by decide +kernel, by decide +kernel, by decide +kernel, by decide +kernel, areas_of (by decide +kernel)⟩,
    passes_of (by decide +kernel), rfl, ⟨3, rfl, rfl, rfl, rfl, rfl, rfl⟩, rfl, by decide +kernel, areas_of (by decide +kernel)⟩
  · simp only [List.mem_cons, List.not_mem_nil, or_false] at hk
    obtain rfl | rfl | rfl := hk <;> exact passes_of (by decide +kernel)
  · simp only [List.mem_cons, List.not_mem_nil, or_false] at hl
    obtain rfl | rfl := hl <;> exact ⟨passes_of (by decide +kernel), rfl⟩

/-! ### Witnesses: events -/

/-- A core's tracker with that store, or an atomic of its element. -/
def storing2 (op : Option AtomicOp) : State := { st id with cores := ⟨[(0, { tracker := [{ store1 with op := op }] })]⟩ }

/-- A copy of the line 0x20000 to the line 0x10000. -/
def copy1 : Copy := { active := true, dst := 0x10000, src := 0x20000, rows := 1, rowBytes := 128, srcPitch := 128, dstPitch := 128 }

/-- A part of a word that has not been performed. -/
def load1 : Part := { line := 0x2000, va := 0x2000, elems := [{ lane := 31, off := 124, size := 4 }] }

theorem witness_RequestsAtHome :
    (∀ op ∈ [none, some .add], let z := (storing2 op).begin_
      (z.cores.get 0).tracker.find? (fun r => r.id == 5) = some { store1 with op := op } ∧ z.storeMay 0 { store1 with op := op } = true ∧
        store1.elems ≠ [] ∧ z.badFill store1.line store1.elems = none ∧ z.badElem store1.line store1.elems = none) ∧
    (let z := ({ stm id with copies := ⟨[(4, copy1)]⟩ } : State).begin_
     let c := z.copies.get 4
     c.active = true ∧ c.abandoned = false ∧ c.pieces 512 ≠ [] ∧ 512 ∉ c.doneLines ∧ c.held = none ∧ c.toStash = false ∧
       (∀ e ∈ z.copies.entries, e.1 < 4 → e.2.active = true → e.2.owner = c.owner → e.2.toStash = false → e.2.pieces 512 = [] ∨ 512 ∈ e.2.doneLines) ∧
       z.copyReady c = true ∧
       engAnd ((z.copySource c (c.pieces 512)).bind (fun l x => x.engWriteLine c.who (dieOf c.uid) (BitVec.ofNat 64 (128 * 512)) l)) (fun _ _ => true) = true) ∧
    (∀ w ∈ [({ id := 3, kind := .load, width := 2, parts := [load1] } : LongWord), { id := 3, kind := .atomic, op := some .add, ord := 2, parts := [load1] }],
      let z := (st (fun t => { t with words := [w] })).begin_
      (z.teams.get 0).word? 3 = some w ∧ w.parts[0]? = some load1 ∧ z.partMay 0 w load1 = true ∧ load1.fixed = false ∧ w.who.race = 0 ∧
        z.bad.entries = [] ∧ load1.kv = false) := by decide +kernel

theorem witness_WaveEvents :
    (let w : Wave := { id := 7, uid := 0, core := 0, upto := 9, ack := [8] }
     let z := ({ st id with waves := [w] } : State).begin_
     z.waves.find? (fun w => w.id == 7) = some w ∧ 8 ∉ w.deliver ∧ z.trackerDone w.core w.upto [8] = true) ∧
    (∀ r ∈ [none, some ((0x10000 : W64), (3 : Nat))], let w : Wave := { id := 7, cores := [95], range := r }
     ({ st id with waves := [w] } : State).begin_.waves.find? (fun w => w.id == 7) = some w ∧ 95 ∈ w.cores ∧ w.range = r) ∧
    (let z := (stash id ⟨[(7, { range0 with state := ⟨[(0, 3)]⟩, pas := ⟨[(0, 0x30000)]⟩ })]⟩).begin_
     z.stashOwner 0x30000 = some (0, 7, 0) ∧ (z.wgs.get 0).core = 0 ∧ z.stashBusy 0x30000 = false) ∧
    (let f : WatchNote := ⟨0, 0, { cause := cWATCH }⟩
     let z := ({ st id with watches := ⟨[(7, some f)]⟩ } : State).begin_
     z.watches.get 7 = some f ∧ (z.teams.get f.uid).place.gen = f.gen ∧ (z.teams.get f.uid).phase = .running ∧
       (z.teams.get f.uid).trap.watch = none) := by decide +kernel

/-- A matrix operation with constants as operands, whose operand B has been read. -/
def matOp1 : MatOp := { busy := true, gang := 4, b := some [], row := 0, opA := (0, 0x100000000), opB := (0, 0x400000000) }

/-- A queue with that many elements emitted and those bits of an entry. -/
def queue1 (next bits : Nat) : Queue := { bound := true, ebits := 32, prog := prog0 false, next := next, bits := List.replicate bits true }

theorem witness_Completions :
    (∀ k ∈ [LongKind.load, .stash, .scalar, .sampler, .atomic], let w : LongWord := { id := 3, kind := k }
      let z := (st (fun t => { t with words := [w] })).begin_
      (z.teams.get 0).word? 3 = some w ∧ (z.teams.get 0).phase = .running ∧ w.parts.all (fun p => p.fixed) = true ∧ w.err = none) ∧
    (let z := ({ st id with copies := ⟨[(4, { copy1 with doneLines := [512] })]⟩ } : State).begin_
     let c := z.copies.get 4
     c.active = true ∧ c.abandoned = false ∧ c.finished = true ∧ z.copyReady c = true) ∧
    (let z := ({ st id with cores := ⟨[(0, { slices := ⟨[(5, { owner := some 0, op1 := matOp1 })]⟩ })]⟩ } : State).begin_
     let x := z.slice 0 5
     z.sliceOf 0 = some 5 ∧ x.op 1 = matOp1 ∧ matOp1.held = none ∧ z.matReady 0 matOp1 = true ∧ z.badAcc 0 5 1 [matOp1.row] = none ∧
       okAnd (z.matFmtOf matOp1 0 matOp1.idxA matOp1.opA) Option.isNone = true ∧ engAnd (z.matRowA matOp1 x 0 0 none) (fun _ _ => true) = true) ∧
    (∀ e ∈ [queue1 1 8, queue1 0 1024, queue1 1 0, queue1 0 0],
      let z := ({ st id with cores := ⟨[(0, { queues := ⟨[(7, e)]⟩ })]⟩ } : State).begin_
      z.queue 0 7 = e ∧ e.bound = true ∧ e.abandoned = false ∧ e.over = false ∧ e.held = none ∧ z.streamReady 0 e = true ∧ e.stop = none ∧
        (streamProg e.prog).on 7 = false ∧ z.stageHeld 0 7 = false) ∧
    ((queue1 1 8).entryDone (streamProg (prog0 false)) = true ∧ (queue1 0 1024).entryDone (streamProg (prog0 false)) = true ∧
      (queue1 1 0).entryDone (streamProg (prog0 false)) = false ∧ (streamProg (prog0 false)).n = 1 ∧
      (queue1 0 0).entryDone (streamProg (prog0 false)) = false) ∧
    (let t := ((st (fun t => { t with eligible := 896 })).begin_).teams.get 0
     t.phase = .running ∧ t.promoted = none ∧ 896 ≤ t.eligible) ∧
    (let s := st (fun t => { t with phase := .running, eligible := 896, line := some 512, prefetch := ⟨[(512, [0, 0, 0x40, 0x20])]⟩ })
     s.begin_.reasonOf 0 = none) ∧
    (let q : Queue := { bound := true, entries := List.replicate 64 [] }
     let s : State := { st (fun t => { t with wait := .queue 1 1 }) with
       wgs := ⟨[(0, { bound := true, slots := [0], ports := ⟨[(1, 4)]⟩ })]⟩, dies := ⟨[(0, { clk := 4096 })]⟩,
       cores := ⟨[(0, { probes := [{ origin := 0, since := 1 }], queues := ⟨[(3, queue1 0 0), (5, { q with blocked := 1 })]⟩ })]⟩ }
     let z := s.begin_
     let told := z.modCore 0 (fun c => { c with probes := c.probes.set 0 { origin := 0, since := 1, returned := [[0, 67, 69]] } })
     z.tideSince 0 0 = 1 ∧ z.tideSince 0 69 = 1 ∧ 1 - 1 + 4096 ≤ (z.dies.get (dieOfCore 0)).clk ∧
       (z.cores.get 0).probed.get 0 - 1 + 4096 ≤ (z.dies.get (dieOfCore 0)).clk ∧
       (z.cores.get 0).probes[0]? = some { origin := 0, since := 1 } ∧
       (z.tidePaths 0 0 72 0 []).find? (fun l => !([] : List (List TideNode)).contains l) = some [0, 67, 69] ∧
       [0, 67, 69].find? (fun m => decide (64 ≤ m) && (told.queue 0 (m - 64)).full) = some 69 ∧ (told.queue 0 (69 - 64)).darn = false) := by
  refine ⟨by decide +kernel, by decide +kernel, by decide +kernel, by decide +kernel, by decide +kernel, by decide +kernel, by decide +kernel, by decide +kernel⟩

theorem witness_CollectiveEvents :
    let d : List Byte := List.replicate 24 0 ++ [1] ++ List.replicate 103 0
    let e (c : Coll) (x : Ctx) : State := { stm id with colls := ⟨[(4, c)]⟩, ctxs := ⟨[(0, x)]⟩, dies := ⟨[(0, { time := 2 ^ 40 }), (8, { time := 2 ^ 40 })]⟩ }
    let run : Ctx := { state := 1, cfg := { root := 0x1000 } }
    let halted : Ctx := { run with state := 2 }
    let c : Coll := { desc := d, members := 2 }
    (let z := (e c run).begin_
     (z.colls.get 4).status = 1 ∧ (z.colls.get 4).stop = none ∧ (z.colls.get 4).abandoned = false ∧ (z.colls.get 4).desc ≠ [] ∧
       (z.colls.get 4).held = none ∧ (z.colls.get 4).frozen = false ∧ z.collReady c = true ∧ [[(5 : W32)]].length + 1 = c.members ∧
       (∀ b ∈ [[(5 : W32)]], b.length = c.count) ∧ (z.colls.get 4).todo = none ∧
       engAnd (z.engRead c.who (dieOf c.uid) none c.src (srcElems c.op c.count c.members * etypeSize c.etype)) (fun _ _ => decide (c.wire = 0)) = true ∧
       c.start + 4000 * (if c.tmo = 0 then (z.ctxs.get c.ctx).cfg.collTmo else c.tmo) ≤ z.stampTime (dieOf c.uid)) ∧
    (∀ l ∈ [[((0x10040 : Nat), [(5 : Byte)])], []], let z := (e { c with todo := some l } run).begin_
     (z.colls.get 4).todo = some l ∧ (z.colls.get 4).resNew = [] ∧ (z.colls.get 4).frozen = false ∧ z.collReady (z.colls.get 4) = true ∧
       engAnd (z.engWriteLine c.who (dieOf c.uid) 0x10040 [(0x10040 % 128, [5])]) (fun _ _ => true) = true) ∧
    (∀ k : Nat, [((0x10040 : Nat), [(5 : Byte)])][k % [((0x10040 : Nat), [(5 : Byte)])].length]? = some (0x10040, [5])) ∧
    (let z := (e { c with frozen := true } run).begin_
     (z.colls.get 4).frozen = true ∧ (z.ctxs.get 0).state ≠ 2) ∧
    (let z := (e { c with frozen := true } halted).begin_
     (z.colls.get 4).frozen = true ∧ (z.ctxs.get 0).state = 2 ∧ (z.ctxs.get 0).haltedAt + 4000000 * (z.ctxs.get 0).cfg.hlimit ≤ z.stampTime hubDie) := by
  refine ⟨by decide +kernel, by decide +kernel, fun k => ?_, by decide +kernel, by decide +kernel⟩
  simp [Nat.mod_one]

/-- A grid in that phase, with those of its fields. -/
def grid1 (p : GridPhase) (f : Grid → Grid) : State :=
  { (stm id).setNum 0x8000 8 5 with
    grids := ⟨[(0, f { phase := p, launch := { gx := 1, gy := 1, gz := 1, vregs := 64, param := 0x8000, ndep := 1, deps := [(0x8000, 5)] } })]⟩ }

theorem witness_LaunchEvents :
    (let s := withC (fun c => { c with queues := ⟨[(15, { registered := true, base := 0x8000, cap := 2, head := 2 ^ 32 - 1 })]⟩ }) (stm id)
     let z := s.begin_
     let c := z.ctxs.get 0
     let q := c.queues.get 15
     c.state = 1 ∧ q.registered = true ∧ (0 + 2 ^ 32 - q.head) % 2 ^ 32 = 1 ∧ 1 ≤ q.cap) ∧
    (let z := (grid1 .queued id).begin_
     (z.grids.get 0).phase = .queued ∧ z.refuses (z.grids.get 0) = false) ∧
    (let z := (grid1 .queued (fun g => { g with launch := { g.launch with vregs := 2 } })).begin_
     (z.grids.get 0).phase = .queued ∧ z.refuses (z.grids.get 0) = false) ∧
    (let z := (grid1 .queued (fun g => { g with launch := { g.launch with wellFormed := false } })).begin_
     (z.grids.get 0).phase = .queued ∧ z.refuses (z.grids.get 0) = true) ∧
    (let z := (grid1 .waiting id).begin_
     (z.grids.get 0).phase = .waiting ∧ (z.pollDeps 0 [(0x8000, 5)]).2 = (true, false)) ∧
    (let z := ((grid1 .waiting id).setNum 0x8000 8 (2 ^ 63)).begin_
     (z.grids.get 0).phase = .waiting ∧ (z.pollDeps 0 [(0x8000, 5)]).2.2 = true) ∧
    (let z := (grid1 .ready id).begin_
     let g := z.grids.get 0
     g.phase = .ready ∧ g.status = 0 ∧ g.launch.count ≠ 0 ∧ g.loading = false ∧ okAnd (z.readParams g) (fun _ => true) = true ∧ okAnd (z.readTable g) (fun _ => true) = true) ∧
    (let z := (grid1 .ready (fun g => { g with loading := true, table := [(3, 5)] })).begin_
     let g := z.grids.get 0
     g.phase = .ready ∧ g.status = 0 ∧ g.launch.count ≠ 0 ∧ g.loading = true) ∧
    (let b : BindRec := { lnum := 0, ctx := 0, teams := 1, succ := false, restore := false, hold := false, wg := 0, ways := 0, slots := [63] }
     let z := ({ grid1 .running (fun g => { g with launch := { g.launch with footwg := 1 } }) with wgs := .empty } : State).begin_
     z.bindAllowed 95 b = true ∧ (z.wgs.get (wgKey (gridKey 0 0) 0)).bound = false ∧ (z.wgs.get (wgKey (gridKey 0 0) 0)).saved = false ∧
       0 ∉ (z.grids.get (gridKey 0 0)).retired ∧ (z.grids.get (gridKey 0 0)).heldWgs = [] ∧ z.bindFits 95 b [] = true ∧
       (match z.bindTeams (gridKey 0 0) 0 false 0 [95 * 64 + 63] with
        | none => false
        | some y => z.keepsRoom (((y.takeWays 95 0).putWg (wgKey (gridKey 0 0) 0)
            { bound := true, grid := gridKey 0 0, index := 0, core := 95, slots := [95 * 64 + 63], ways := 0, succ := false, hold := false }).modGrid
              (gridKey 0 0) (fun g => { g with bound := g.bound ++ [0], heldWgs := g.heldWgs.filter (fun w => some w ≠ none) })) (gridKey 0 0) false) = true) ∧
    (let z := (st (fun t => { t with phase := .held })).begin_
     (∀ i ∈ ((z.grids.get 0).gang 0).filter (fun i => !(z.grids.get 0).retired.contains i), (z.wgs.get (wgKey 0 i)).bound = true) ∧
       ((z.grids.get 0).gang 0).filter (fun i => !(z.grids.get 0).retired.contains i) = [0] ∧ (z.teams.get 0).phase = .held ∧ z.preempted 0 = false) ∧
    (let z := (grid1 .running (fun g => { g with retired := [0] })).begin_
     let g := z.grids.get 0
     g.phase = .running ∧ g.status = 0 ∧ g.retired.length = g.launch.count ∧ g.bound = [] ∧ z.enginesDone 0 = true ∧ z.streamsSaved 0 = false ∧ z.gridStoresDone g = true) ∧
    (st id).begin_.noRaceGrid = true := by
  refine ⟨by decide +kernel, by decide +kernel, by decide +kernel, by decide +kernel, by decide +kernel, by decide +kernel, by decide +kernel,
    by decide +kernel, by decide +kernel, by decide +kernel, by decide +kernel, by decide +kernel⟩

/-- A context whose pre-emption has come so far, with a save area or without, at a time of its die. -/
def preempting (l : Ladder) (area time : Nat) (f : State → State) : State :=
  f { withC (fun c => { c with ladder := l, cfg := { c.cfg with saveArea := area } }) (st id) with dies := ⟨[(0, { time := time })]⟩ }

/-- A die whose stashes are full, with a cluster of the highest class, of another context, of which one workgroup is bound. -/
def needing : State :=
  { st id with
    ctxs := ⟨[(0, { state := 1 }), (1, { state := 1 })]⟩,
    cores := ⟨(List.range 12).map (fun k => (k, { ways := 32 }))⟩,
    wgs := ⟨[(0, { bound := true, slots := [0], ways := 32 }),
             (wgKey (gridKey 1 0) 0, { bound := true, grid := gridKey 1 0, core := 1, slots := [64], ways := 32 })]⟩,
    grids := ⟨[(0, { phase := .running, bound := [0], launch := { gx := 1, gy := 1, gz := 1, vregs := 64, kind := 2, stash := 1572864 } }),
               (gridKey 1 0, { phase := .running, ctx := 1, bound := [0],
                               launch := { kind := 1, gx := 2, gy := 1, gz := 1, cluster := 2, vregs := 64, footwg := 2, stash := 1572864 } })]⟩ }

/-- The record that restores the workgroup 0 of the first grid in slot 63 of core 0. -/
def restore0 : BindRec := { lnum := 0, ctx := 0, teams := 1, succ := false, restore := true, hold := false, wg := 0, ways := 0, slots := [63] }

/-- A context of which that workgroup is saved, or which has saved the slots that it keeps. -/
def saved0 (held : List Nat) (w : Wg) : State :=
  preempting (.saved [0]) 0x40000 0 (fun s => { s with
    teams := .empty, savedTeams := ⟨[(savedKey 0 63, some s.team)]⟩, wgs := ⟨[(0, { w with slots := [63] })]⟩,
    grids := ⟨s.grids.entries.map (fun g => (g.1, { g.2 with heldWgs := held }))⟩ })

theorem witness_PreemptionEvents :
    (let z := needing.begin_
     (z.ctxs.get 0).state = 1 ∧ (z.ctxs.get 0).ladder = .none ∧ (∀ k ∈ [0], k < 96) ∧ z.needs 0 [0] = true) ∧
    (let z := (preempting (.drain [1] (List.replicate 8 0)) 0 0 id).begin_
     (z.ctxs.get 0).ladder = .drain [1] (List.replicate 8 0) ∧ z.drained 0 [1] = true) ∧
    (∀ area ∈ [0, 0x40000], let z := (preempting (.drain [0] (List.replicate 8 0)) area (2 ^ 40) id).begin_
     let c := z.ctxs.get 0
     c.ladder = .drain [0] (List.replicate 8 0) ∧ z.drained 0 [0] = false ∧ [0].filter (fun k => dieOfCore k == 0) ≠ [] ∧
       ((List.replicate 8 0).map (fun a => a + 4000 * c.cfg.drain)).getD 0 0 ≤ z.stampTime 0 ∧ c.cfg.saveArea = area) ∧
    (∀ cores ∈ [[0], [0, 95]], let z := (preempting (.save cores [] (List.replicate 8 0)) 0x40000 0 id).begin_
     let c := z.ctxs.get 0
     c.ladder = .save cores [] (List.replicate 8 0) ∧ cores.filter (fun k => dieOfCore k == 0) = [0] ∧ (z.saveCores 0 [0]).isSome = true ∧
       z.stampTime 0 ≤ ((List.replicate 8 0).map (fun a => a + 4000 * c.cfg.save)).getD 0 0) ∧
    (let z := (preempting (.save [0] [] (List.replicate 8 0)) 0x40000 (2 ^ 40) id).begin_
     let c := z.ctxs.get 0
     c.ladder = .save [0] [] (List.replicate 8 0) ∧ [0].filter (fun k => dieOfCore k == 0) ≠ [] ∧
       ((List.replicate 8 0).map (fun a => a + 4000 * c.cfg.save)).getD 0 0 < z.stampTime 0) ∧
    (let z := (saved0 [] { saved := true }).begin_
     let x := z.streamsBack 0 0
     let w := x.wgs.get (wgKey (gridKey 0 0) 0)
     (z.ctxs.get 0).ladder = .saved [0] ∧ w.core = 0 ∧ w.slots = [63] ∧ 0 ∉ (x.grids.get (gridKey 0 0)).heldWgs ∧ w.saved = true ∧
       x.bindAllowed 0 restore0 = true ∧ x.slotsFit 0 0 ([63].filter (fun u => !w.gone.contains u)) = true ∧ (x.cores.get 0).ways + w.ways ≤ 32 ∧
       x.enginesFree 0 0 (wgKey (gridKey 0 0) 0) [63] = true ∧
       x.keepsRoom (x.wgBack 0 0 (wgKey (gridKey 0 0) 0) [63] false) (gridKey 0 0) true = true) ∧
    (let z := (saved0 [0] {}).begin_
     let x := z.streamsBack 0 0
     let w := x.wgs.get (wgKey (gridKey 0 0) 0)
     (z.ctxs.get 0).ladder = .saved [0] ∧ w.core = 0 ∧ w.slots = [63] ∧ 0 ∈ (x.grids.get (gridKey 0 0)).heldWgs ∧ x.slotsFit 0 0 [63] = true) := by
  refine ⟨by decide +kernel, by decide +kernel, by decide +kernel, by decide +kernel, by decide +kernel, by decide +kernel, by decide +kernel⟩

theorem witness_ModuleEvents :
    (let z := (withC (fun c => { c with dbgctl := 4 }) (st (fun t => { t with phase := .halted }))).begin_
     z.oldest (z.residents 0 0) = some 0 ∧ (z.ctxOf (z.teams.get 0)).dbgctl.getLsbD 2 = true ∧
       (z.residents 0 0).filter (fun u => (z.reasonOf u).isNone) ≠ []) ∧
    (st id).begin_.residents 95 7 = [] ∧
    (let z := (((({ st id with dies := ⟨[(7, { trace := [{ kind := 2 }], sink := 0x50000 })]⟩ } : State).setNum 0x50000 4 (2 ^ 32 - 1)).setNum 0x50004 4 0).setNum
       0x5000C 4 2).begin_
     let d := z.dies.get 7
     d.trace ≠ [] ∧ d.sink ≠ 0 ∧ d.drops = 0 ∧ d.sinkStopped = false ∧
       (z.loadNum (d.sink + 4) 4 + 2 ^ 32 - z.loadNum d.sink 4) % 2 ^ 32 ≠ z.loadNum (d.sink + 12) 4) ∧
    (let z := ({ st id with now := 100, dies := ⟨[(7, { time := 100 })]⟩ } : State).begin_
     z.stampTime 7 ≤ 112 + 12 ∧ 112 ≤ z.stampTime 7 + 12 ∧ z.stampTime 7 ≤ z.now + 12) ∧
    ({ st id with hub := { timeLock := true } } : State).begin_.hub.timeLock = true ∧
    (let z := (st id).begin_
     paReserved 0x10040 = false ∧ 0x10040 < 2 ^ 52 ∧ 0x10040 % 128 + (List.replicate 64 (5 : Byte)).length ≤ 128 ∧
       linkOf 7 0 ∉ z.mod.linksDown ∧ 511 ≠ z.hub.modid ∧ 511 ∉ z.mod.routesDown ∧ 800 < (z.dies.get 7).mhz) := by
  refine ⟨by decide +kernel, by decide +kernel, by decide +kernel, by decide +kernel, by decide +kernel, by decide +kernel⟩

/-- The host's ring of two commands at 0x60000, with this command at its head, on the first context. -/
def commands (op : Nat) (args : List Nat) (f : State → State) : State :=
  let s := f (st id)
  { s.setBytes 0x60000 (leBytes 2 op ++ List.replicate 6 0 ++ args.flatMap (leBytes 8) ++ List.replicate (56 - 8 * args.length) 0) with
    hub := { s.hub with cmdBase := 0x60000, cmdCap := 2, cmdTail := 1 } }

/-- What the command at the head of the ring must be. -/
def headB (s : State) (op : Nat) : Bool :=
  powerOfTwo 2 4096 s.hub.cmdCap && decide (s.hub.cmdHead ≠ s.hub.cmdTail) &&
  decide (fieldAt (s.loadBytes s.hub.cmdAddr 64) 0 2 = op) && (s.hub.started || decide (op = 1 ∨ op = 0x0B))

theorem head_of {s : State} {op : Nat} (h : headB s op = true) : HeadCommand s op (s.loadBytes s.hub.cmdAddr 64) := by
  simp only [headB, Bool.and_eq_true, Bool.or_eq_true, decide_eq_true_eq] at h
  exact ⟨⟨h.1.1.1, h.1.1.2⟩, rfl, h.1.2, h.2⟩

theorem on_of {s : State} {op : Nat} (h : (headB s op && decide (cmdCtx (s.loadBytes s.hub.cmdAddr 64) = 0 ∧ (s.ctxs.get 0).state ≠ 0)) = true) :
    OnContext s op (s.loadBytes s.hub.cmdAddr 64) 0 (s.ctxs.get 0) := by
  simp only [Bool.and_eq_true, decide_eq_true_eq] at h
  exact ⟨head_of h.1, ⟨h.2.1, by decide⟩, rfl, h.2.2⟩

/-- Memory of these bytes from 0x70000 on. -/
def bytesHere (l : List Byte) (s : State) : State := { s with mem := ⟨l.zipIdx.map (fun x => (0x70000 + x.2, x.1))⟩ }

/-- The block of START with the feature that is always on, and that of CTXNEW, with the least limits. -/
def startBlock (s : State) : State :=
  bytesHere ([1] ++ List.replicate 43 0 ++ leBytes 4 1000 ++ List.replicate 272 0) { s with hub := { s.hub with started := false } }
def ctxBlock (s : State) : State := bytesHere (List.replicate 92 0 ++ [1, 0, 0, 0, 1] ++ List.replicate 159 0) s

/-- The contexts that are free. -/
def freeCtxs (s : State) : List Nat := (List.range 256).filter (fun n => (s.begin_.ctxs.get n).state == 0)

theorem free_ctx {s : State} (h : (freeCtxs s).isEmpty = false) :
    let free := (List.range 256).filter (fun n => (s.begin_.ctxs.get n).state == 0)
    ∃ n, free[Config.freeNat s.begin_.freeCtr 9 % free.length]? = some n := by
  have hl : 0 < (freeCtxs s).length := by cases hl : freeCtxs s <;> simp_all
  exact ⟨_, List.getElem?_eq_getElem (Nat.mod_lt _ hl)⟩

theorem witness_HostCommands :
    (let s := commands 1 [0x70000] startBlock
     HeadCommand s 1 (s.loadBytes s.hub.cmdAddr 64) ∧ s.hub.started = false ∧ s.begin_.startOk (s.begin_.loadBytes 0x70000 320) = true ∧
       s.begin_.hub.bootstat / 256 % 512 = 0) ∧
    (let s := commands 2 [0x70000] ctxBlock
     let free := (List.range 256).filter (fun n => (s.begin_.ctxs.get n).state == 0)
     HeadCommand s 2 (s.loadBytes s.hub.cmdAddr 64) ∧ s.begin_.ctxOk (s.begin_.loadBytes 0x70000 256) = true ∧
       ∃ n, free[Config.freeNat s.begin_.freeCtr 9 % free.length]? = some n) ∧
    (let s := commands 9 [255, 0x70000, 2] (fun s => s.setBytes 0x70000 [0, 0, 255, 1])
     OnContext s 9 (s.loadBytes s.hub.cmdAddr 64) 0 (s.ctxs.get 0) ∧ ∀ m ∈ (List.range 2).map (fun k => s.loadNum (0x70000 + 2 * k) 2), m ≤ 511) ∧
    (let s := commands 10 [63, 0x70000, 0] id
     HeadCommand s 10 (s.loadBytes s.hub.cmdAddr 64) ∧ (s.begin_.ctxs.get 0).state ≠ 0) ∧
    HeadCommand (commands 11 [0x70000, 0x71000] id) 11 ((commands 11 [0x70000, 0x71000] id).loadBytes 0x60000 64) ∧
    HeadCommand (commands 12 [7] id) 12 ((commands 12 [7] id).loadBytes 0x60000 64) :=
  ⟨⟨head_of (by decide +kernel), rfl, by decide +kernel, by decide +kernel⟩,
    ⟨head_of (by decide +kernel), by decide +kernel, free_ctx (by decide +kernel)⟩, ⟨on_of (by decide +kernel), by decide +kernel⟩,
    ⟨head_of (by decide +kernel), by decide +kernel⟩, head_of (s := commands 11 [0x70000, 0x71000] id) (by decide +kernel),
    head_of (s := commands 12 [7] id) (by decide +kernel)⟩

/-- The same, for the commands on a context. -/
theorem witness_HostCommands_of_a_context :
    (let s := commands 3 [0] (fun s => { s with grids := .empty })
     OnContext s 3 (s.loadBytes s.hub.cmdAddr 64) 0 (s.ctxs.get 0) ∧ s.begin_.liveGrids 0 = []) ∧
    (let s := commands 3 [1] id
     OnContext s 3 (s.loadBytes s.hub.cmdAddr 64) 0 (s.ctxs.get 0) ∧ s.begin_.liveGrids 0 ≠ [] ∧ (s.ctxs.get 0).state ≠ 3) ∧
    (let s := commands 4 [15, 0x8000, 65536] id
     OnContext s 4 (s.loadBytes s.hub.cmdAddr 64) 0 (s.ctxs.get 0) ∧ powerOfTwo 2 65536 65536 = true) ∧
    (let s := commands 5 [0x10000, 4096] id
     OnContext s 5 (s.loadBytes s.hub.cmdAddr 64) 0 (s.ctxs.get 0) ∧ s.begin_.rangeBusy 0 0x10000 4096 = false) ∧
    (let s := commands 6 [0x10000, 4096] id
     OnContext s 6 (s.loadBytes s.hub.cmdAddr 64) 0 (s.ctxs.get 0)) ∧
    (let s := commands 7 [] (fun s => s.setTeam { s.team with phase := .held })
     OnContext s 7 (s.loadBytes s.hub.cmdAddr 64) 0 (s.ctxs.get 0) ∧ (s.ctxs.get 0).state ≠ 2 ∧ s.teams.entries.any (fun t => t.2.moves 0) = false) ∧
    (let s := commands 7 [] id
     OnContext s 7 (s.loadBytes s.hub.cmdAddr 64) 0 (s.ctxs.get 0) ∧ (s.ctxs.get 0).state ≠ 2 ∧ s.teams.entries.any (fun t => t.2.moves 0) = true) ∧
    (let s := commands 8 [] (withC (fun c => { c with state := 2 }))
     OnContext s 8 (s.loadBytes s.hub.cmdAddr 64) 0 (s.ctxs.get 0) ∧ (s.ctxs.get 0).state = 2) :=
  ⟨⟨on_of (by decide +kernel), by decide +kernel⟩, ⟨on_of (by decide +kernel), by decide +kernel⟩, ⟨on_of (by decide +kernel), by decide +kernel⟩,
    ⟨on_of (by decide +kernel), by decide +kernel⟩, on_of (by decide +kernel), ⟨on_of (by decide +kernel), by decide +kernel⟩,
    ⟨on_of (by decide +kernel), by decide +kernel⟩, ⟨on_of (by decide +kernel), by decide +kernel⟩⟩

/-! ### Words of the engines (R157, R227 to R232, R298, R318, R341, R417) -/

theorem test_decode_engines : decodeWord 0xD8008000 = .ok (.lfset 2 0 0) ∧ decodeWord 0xC4010600 = .ok (.cpy 4 6 0) ∧
    decodeWord 0xC4120A01 = .ok (.cpy2d 8 10 1) ∧ decodeWord 0xC420C000 = .ok (.cpyb 3) ∧ decodeWord 0xD001C000 = .ok (.mgang 7) ∧
    decodeWord 0xD0020A41 = .ok (.mma 8 10 1) ∧ decodeWord 0xCC110000 = .ok (.stream 1 4) ∧
    decodeWord 0xE1020400 = .ok (.trace 16 8 4 0) ∧ decodeWord 0xE8810000 = .ok (.coll 8 4) ∧
    decodeWord 0xE8920001 = .ok (.collw 9 8 0) ∧ decodeWord 0x90410108 = .ok (.regroup 4 4 1 1 0) := by decide +kernel

end Sys2Proof.Tests
end

section
/-! PROOFS. How a word ends that passes its checks and then traps, and one whose target fails its check: the state is that before
the word, but for the trap (R36, R67, R68). -/

namespace Sys2Proof.Machine

open Sys2Proof.Safety

/-- The state before a word, but for a trap of the rollback class that the word asks for. -/
def trapped (i : Instr) (s : State) (cause : Nat) (detail : Nat := 0) (addr : W64 := 0) : State :=
  (s.begin_.takeTrap s.cur ((wordOf i s).trap s cause detail addr)).tick (dieOf s.cur)

/-- The state before a transfer whose target fails its fetch, but for the record of the failure and the trap. -/
def unfetched (i : Instr) (s : State) (dest : W64) (g : EFault) : State :=
  ((s.begin_.fetchFailed s.cur dest g).takeTrap s.cur ((wordOf i s).trap s g.cause g.detail dest)).tick (dieOf s.cur)

variable {i : Instr} {s : State} {eff : Wd → State → Eff} {target : W64} {a : Except TrapReq State}

/-- A word that stands where it may, and whose target is refused, traps before every later check. -/
theorem State.runWord_targetFault {f : EFault} {r : TrapReq} (hd : s.details i = [])
    (ht : s.begin_.targetFault (wordOf i s) (eff (wordOf i s) s.begin_) = some (f, r)) :
    s.runWord i eff = .next (((s.begin_.fetchFailed s.cur r.addr f).takeTrap s.cur r).tick (dieOf s.cur)) := by
  have hl : lowest (s.begin_.details i) = none := (lowest_nil_iff _).2 hd
  have ht' : s.begin_.targetFault (s.begin_.wd i) (eff (s.begin_.wd i) s.begin_) = some (f, r) := ht
  simp only [State.runWord, hl, ht']
  rfl

/-- A word whose effect is a trap, of a cause that no check of a target gives. -/
theorem State.runWord_trap {cause detail : Nat} {addr : W64} (h : Passes i s) (hc : cause ≠ cILLEGAL)
    (he : eff (wordOf i s) s.begin_ = .trap s.begin_ ((wordOf i s).trap s.begin_ cause detail addr)) :
    s.runWord i eff = .next (trapped i s cause detail addr) := by
  have ht : s.begin_.targetFault (wordOf i s) (eff (wordOf i s) s.begin_) = none := by
    simp [he, State.targetFault, Wd.trap, hc]
  rw [State.runWord_passes h _ ht, he]
  rfl

/-- A transfer to a clause header that traps in place of its effect. -/
theorem State.runWord_go_trap {cause detail : Nat} {addr : W64} (h : Passes i s)
    (he : eff (wordOf i s) s.begin_ = .go target (.error ((wordOf i s).trap s.begin_ cause detail addr))) (ht : headerAt s target) :
    s.runWord i eff = .next (trapped i s cause detail addr) := by
  rw [State.runWord_passes h _ (by rw [he]; exact State.targetFault_header ht), he]
  rfl

/-- A transfer whose target fails its fetch takes the fault of the fetch. -/
theorem State.runWord_go_unfetched {g : EFault} (hd : s.details i = []) (hl : (info i).last = true)
    (he : eff (wordOf i s) s.begin_ = .go target a) (hx : s.begin_.fetchWord s.cur target = .error g) :
    s.runWord i eff = .next (unfetched i s target g) := by
  have hx' : s.begin_.fetchWord s.begin_.cur target = .error g := hx
  have hl' : (wordOf i s).f.last = true := hl
  rw [State.runWord_targetFault (f := g) (r := (wordOf i s).trap s g.cause g.detail target) hd]
  · rfl
  · simp only [he, State.targetFault, hl', hx']
    rfl

/-- A transfer to a word that is no clause header traps with ILLEGAL, detail 0x09. -/
theorem State.runWord_go_notHeader {x : W32} (hd : s.details i = []) (hl : (info i).last = true)
    (he : eff (wordOf i s) s.begin_ = .go target a) (hx : s.begin_.fetchWord s.cur target = .ok x) (hh : isHeader x = false) :
    s.runWord i eff = .next (trapped i s cILLEGAL 0x09 target) := by
  have hx' : s.begin_.fetchWord s.begin_.cur target = .ok x := hx
  have hl' : (wordOf i s).f.last = true := hl
  rw [State.runWord_targetFault (f := ⟨cILLEGAL, 0x09, target⟩) (r := (wordOf i s).trap s cILLEGAL 0x09 target) hd]
  · rfl
  · simp only [he, State.targetFault, hl', hx', hh]
    rfl

end Sys2Proof.Machine
end

section
/-! PROOFS. MARKJ, BRD and JOIN, a lemma for each case of each (R85 to R87). -/

namespace Sys2Proof.Machine

open Sys2Proof.Safety

section
variable {s : State} {o : BitVec 26} {m : BitVec 3} {p : BitVec 1} {q : BitVec 22} {w : Wd} {g : EFault} {x : W32}

/-! ### MARKJ -/

/-- MARKJ on a stack with room pushes its entry; nothing is asked of its target. -/
theorem exec_markj_pushes (h : Passes (.markj o) s) (hn : s.team.flow.dstack.length < 32) :
    exec (.markj o) s = .next (after (.markj o) s (fun x => x.withFlow (fun f =>
      { f with dstack := ⟨true, offTarget s.team.flow.pos.pc o, f.active⟩ :: f.dstack }))) := by
  rw [exec_markj]
  exact State.runWord_next h (if_neg (Nat.not_le.2 hn))

theorem exec_markj_full (h : Passes (.markj o) s) (hn : 32 ≤ s.team.flow.dstack.length) :
    exec (.markj o) s = .next (trapped (.markj o) s cSTACK) := by
  rw [exec_markj]
  exact State.runWord_trap h (by decide) (if_pos hn)

/-! ### BRD -/

/-- The lanes that take the branch: those of the active lanes that the mask register selects. -/
def brdTaken (m : BitVec 3) (p : BitVec 1) (w : Wd) : Mask :=
  w.active &&& (if p = 0 then w.r.readM m.toNat else ~~~(w.r.readM m.toNat))

/-- The active lanes that do not take it. -/
def brdRest (m : BitVec 3) (p : BitVec 1) (w : Wd) : Mask := w.active &&& ~~~(brdTaken m p w)

/-- What a BRD whose lanes split leads to, once its target has been checked. -/
def brdSplit (m : BitVec 3) (p : BitVec 1) (w : Wd) (s : State) : Except TrapReq State :=
  if 32 ≤ s.team.flow.dstack.length then .error (w.trap s cSTACK)
  else .ok (s.withFlow (fun f => { f with active := brdTaken m p w, dstack := ⟨false, w.pc + 4, brdRest m p w⟩ :: f.dstack }))

/-- The effect of BRD, by which lanes take the branch. -/
def brdEff (m : BitVec 3) (p : BitVec 1) (q : BitVec 22) (w : Wd) (s : State) : Eff :=
  if brdTaken m p w = 0 then .next s
  else if brdRest m p w = 0 then .go (offTarget w.pc q) (.ok s)
  else .go (offTarget w.pc q) (brdSplit m p w s)

theorem exec_brd_runs : exec (.brd m p q) s = s.runWord (.brd m p q) (brdEff m p q) := rfl

theorem brdEff_none (ht : brdTaken m p w = 0) : brdEff m p q w s = .next s := if_pos ht

theorem brdEff_all (ht : brdTaken m p w ≠ 0) (hr : brdRest m p w = 0) : brdEff m p q w s = .go (offTarget w.pc q) (.ok s) :=
  (if_neg ht).trans (if_pos hr)

theorem brdEff_some (ht : brdTaken m p w ≠ 0) (hr : brdRest m p w ≠ 0) :
    brdEff m p q w s = .go (offTarget w.pc q) (brdSplit m p w s) :=
  (if_neg ht).trans (if_neg hr)

theorem brdEff_room (ht : brdTaken m p w ≠ 0) (hr : brdRest m p w ≠ 0) (hn : s.team.flow.dstack.length < 32) :
    brdEff m p q w s = .go (offTarget w.pc q) (.ok (s.withFlow (fun f =>
      { f with active := brdTaken m p w, dstack := ⟨false, w.pc + 4, brdRest m p w⟩ :: f.dstack }))) := by
  rw [brdEff_some ht hr, brdSplit, if_neg (Nat.not_le.2 hn)]

theorem brdEff_full (ht : brdTaken m p w ≠ 0) (hr : brdRest m p w ≠ 0) (hn : 32 ≤ s.team.flow.dstack.length) :
    brdEff m p q w s = .go (offTarget w.pc q) (.error (w.trap s cSTACK)) := by
  rw [brdEff_some ht hr, brdSplit, if_pos hn]

/-- A BRD that some lane takes is a transfer, whether the others follow or are pushed. -/
theorem brdEff_goes (ht : brdTaken m p w ≠ 0) : ∃ a, brdEff m p q w s = .go (offTarget w.pc q) a := by
  by_cases hr : brdRest m p w = 0
  · exact ⟨_, brdEff_all ht hr⟩
  · exact ⟨_, brdEff_some ht hr⟩

section
variable (h : Passes (.brd m p q) s)
include h

theorem exec_brd_none (ht : brdTaken m p (wordOf (.brd m p q) s) = 0) :
    exec (.brd m p q) s = .next (after (.brd m p q) s id) := by
  rw [exec_brd_runs]
  exact State.runWord_next h (brdEff_none ht)

theorem exec_brd_all (ht : brdTaken m p (wordOf (.brd m p q) s) ≠ 0) (hr : brdRest m p (wordOf (.brd m p q) s) = 0)
    (hh : headerAt s (offTarget s.team.flow.pos.pc q)) :
    exec (.brd m p q) s = .next (afterJump (.brd m p q) s id (offTarget s.team.flow.pos.pc q)) := by
  rw [exec_brd_runs]
  exact State.runWord_go h (brdEff_all ht hr) hh

/-- A BRD that splits the active lanes goes on with those that branch, and pushes the rest. -/
theorem exec_brd_splits (ht : brdTaken m p (wordOf (.brd m p q) s) ≠ 0) (hr : brdRest m p (wordOf (.brd m p q) s) ≠ 0)
    (hh : headerAt s (offTarget s.team.flow.pos.pc q)) (hn : s.team.flow.dstack.length < 32) :
    exec (.brd m p q) s = .next (afterJump (.brd m p q) s (fun x => x.withFlow (fun f =>
      { f with active := brdTaken m p (wordOf (.brd m p q) s),
               dstack := ⟨false, s.team.flow.pos.pc + 4, brdRest m p (wordOf (.brd m p q) s)⟩ :: f.dstack }))
      (offTarget s.team.flow.pos.pc q)) := by
  rw [exec_brd_runs]
  exact State.runWord_go h (brdEff_room (s := s.begin_) ht hr hn) hh

theorem exec_brd_full (ht : brdTaken m p (wordOf (.brd m p q) s) ≠ 0) (hr : brdRest m p (wordOf (.brd m p q) s) ≠ 0)
    (hh : headerAt s (offTarget s.team.flow.pos.pc q)) (hn : 32 ≤ s.team.flow.dstack.length) :
    exec (.brd m p q) s = .next (trapped (.brd m p q) s cSTACK) := by
  rw [exec_brd_runs]
  exact State.runWord_go_trap h (brdEff_full (s := s.begin_) ht hr hn) hh

/-- The fetch of the target comes before the test for a full stack. -/
theorem exec_brd_unfetched (ht : brdTaken m p (wordOf (.brd m p q) s) ≠ 0)
    (hx : s.begin_.fetchWord s.cur (offTarget s.team.flow.pos.pc q) = .error g) :
    exec (.brd m p q) s = .next (unfetched (.brd m p q) s (offTarget s.team.flow.pos.pc q) g) := by
  obtain ⟨a, ha⟩ := brdEff_goes (q := q) (s := s.begin_) ht
  rw [exec_brd_runs]
  exact State.runWord_go_unfetched h.details rfl ha hx

/-- So does the test whether it is a clause header. -/
theorem exec_brd_notHeader (ht : brdTaken m p (wordOf (.brd m p q) s) ≠ 0)
    (hx : s.begin_.fetchWord s.cur (offTarget s.team.flow.pos.pc q) = .ok x) (hh : isHeader x = false) :
    exec (.brd m p q) s = .next (trapped (.brd m p q) s cILLEGAL 0x09 (offTarget s.team.flow.pos.pc q)) := by
  obtain ⟨a, ha⟩ := brdEff_goes (q := q) (s := s.begin_) ht
  rw [exec_brd_runs]
  exact State.runWord_go_notHeader h.details rfl ha hx hh

end

/-! ### JOIN -/

theorem joinTop_nil (hs : s.team.flow.dstack = []) : joinTop w s = .trap s (w.trap s cSTACK) := by
  simp only [joinTop, hs]

theorem joinTop_cons {e : DivEntry} {rest : List DivEntry} (hs : s.team.flow.dstack = e :: rest) :
    joinTop w s = .go e.target (.ok (s.withFlow (fun f => { f with active := e.mask, dstack := rest }))) := by
  simp only [joinTop, hs]

theorem exec_join_empty (h : Passes .join s) (hs : s.team.flow.dstack = []) :
    exec .join s = .next (trapped .join s cSTACK) := by
  rw [exec_join]
  exact State.runWord_trap h (by decide) (joinTop_nil (s := s.begin_) hs)

section
variable {e : DivEntry} {rest : List DivEntry} (h : Passes .join s) (hs : s.team.flow.dstack = e :: rest)
include h hs

/-- JOIN pops the top entry, whatever its kind, and goes on with its lanes at its target. -/
theorem exec_join_pops (hh : headerAt s e.target) :
    exec .join s = .next (afterJump .join s (fun x => x.withFlow (fun f => { f with active := e.mask, dstack := rest })) e.target) := by
  rw [exec_join]
  exact State.runWord_go h (joinTop_cons (s := s.begin_) hs) hh

theorem exec_join_unfetched (hx : s.begin_.fetchWord s.cur e.target = .error g) :
    exec .join s = .next (unfetched .join s e.target g) := by
  rw [exec_join]
  exact State.runWord_go_unfetched h.details rfl (joinTop_cons (s := s.begin_) hs) hx

theorem exec_join_notHeader (hx : s.begin_.fetchWord s.cur e.target = .ok x) (hh : isHeader x = false) :
    exec .join s = .next (trapped .join s cILLEGAL 0x09 e.target) := by
  rw [exec_join]
  exact State.runWord_go_notHeader h.details rfl (joinTop_cons (s := s.begin_) hs) hx hh

end

end

/-- Settles O23: each clause is a case of MARKJ, BRD or JOIN. -/
theorem divergence : Obligations.Divergence := by
  unfold Obligations.Divergence
  intro s o q m p e rest g x
  exact ⟨rfl, rfl, rfl, exec_markj_pushes, exec_markj_full, exec_brd_none, exec_brd_all, exec_brd_splits, exec_brd_full,
    exec_brd_unfetched, exec_brd_notHeader, exec_join_empty, exec_join_pops, exec_join_unfetched, exec_join_notHeader⟩

end Sys2Proof.Machine
end

section
/-! PROOFS. The immediate of a word under its HINT.IMM words (R51), and ASET (R78). -/

namespace Sys2Proof.Machine

open Sys2Proof.Safety

/-! ### Immediates -/

/-- Two parts joined, as a number: the high part stands above the low one. -/
theorem toNat_append_eq_add {n k : Nat} (a : BitVec n) (b : BitVec k) : (a ++ b).toNat = a.toNat * 2 ^ k + b.toNat := by
  rw [BitVec.toNat_append, ← Nat.shiftLeft_add_eq_or_of_lt b.isLt, Nat.shiftLeft_eq]

/-- A signed immediate is the sign extension of the bits that its own field and its hints make together. -/
theorem immValue_eq_signExtend {n own k : Nat} {l : List (BitVec 22)} (v : BitVec k) (hk : n + 22 * l.length = k) (h0 : 0 < k)
    (hv : l.foldl (fun x p => x * 2 ^ 22 + p.toNat) 0 * 2 ^ n + own = v.toNat) :
    immValue n true own l = v.signExtend 64 := by
  have hw : 2 ^ k = 2 * 2 ^ (k - 1) := by rw [← Nat.pow_succ', Nat.succ_eq_add_one, Nat.sub_add_cancel h0]
  simp only [immValue, hv, hk, Bool.true_and, decide_eq_true_eq]
  rw [BitVec.signExtend, BitVec.toInt_eq_toNat_cond]
  by_cases hs : 2 ^ (k - 1) ≤ v.toNat
  · rw [if_pos hs, if_neg (by omega)]
    push_cast
    rfl
  · rw [if_neg hs, if_pos (by omega), BitVec.ofInt_natCast]

section
variable {n : Nat} (v : BitVec n) (hn : 0 < n)
include hn

theorem immValue_nil : immValue n true v.toNat [] = v.signExtend 64 :=
  immValue_eq_signExtend v rfl hn (by simp)

theorem immValue_one (p : BitVec 22) : immValue n true v.toNat [p] = (p ++ v).signExtend 64 :=
  immValue_eq_signExtend (p ++ v) (Nat.add_comm ..) (by omega)
    (by simp only [List.foldl, toNat_append_eq_add, Nat.zero_mul, Nat.zero_add])

/-- The first of two hints gives the highest bits. -/
theorem immValue_two (p q : BitVec 22) : immValue n true v.toNat [p, q] = (p ++ q ++ v).signExtend 64 :=
  immValue_eq_signExtend (p ++ q ++ v) (Nat.add_comm ..) (by omega)
    (by simp only [List.foldl, toNat_append_eq_add, Nat.zero_mul, Nat.zero_add])

end

/-! ### ASET -/

section
variable {d a : BitVec 6} {n : BitVec 14} {s : State}

/-- ASET writes a base and the low bits of its immediate. -/
theorem exec_aset_writes : writesA (.aset d a n) s d (fun w => (w.r.readS a.toNat, w.imm.extractLsb' 0 32)) := by
  intro h
  rw [exec_aset]
  exact State.runWord_next h rfl

/-- The immediate of ASET is its own 14 bits under the hints before it. -/
theorem wordOf_aset_imm : (wordOf (.aset d a n) s).imm = immValue 14 true n.toNat s.team.hints.imms := rfl

theorem exec_aset_writes_of_imm {imm : W64} (hi : immValue 14 true n.toNat s.team.hints.imms = imm) :
    writesA (.aset d a n) s d (fun w => (w.r.readS a.toNat, imm.extractLsb' 0 32)) := by
  rw [← hi, ← wordOf_aset_imm (d := d) (a := a)]
  exact exec_aset_writes

end

/-- Settles O11: the three cases are those of the hints before the word. -/
theorem affineSet : Obligations.AffineSet := by
  unfold Obligations.AffineSet
  intro d a n s
  refine ⟨rfl, fun h => ?_, fun p h => ?_, fun p q h => ?_⟩
  · exact exec_aset_writes_of_imm (by rw [h]; exact immValue_nil n (by decide))
  · exact exec_aset_writes_of_imm (by rw [h]; exact immValue_one n (by decide) p)
  · exact exec_aset_writes_of_imm (by rw [h]; exact immValue_two n (by decide) p q)

end Sys2Proof.Machine
end

section
/-! PROOFS. The mask words, a lemma for each of what it writes (R126), and the limit on the word number of MTOS and STOM. -/

namespace Sys2Proof.Machine

open Sys2Proof.Safety

/-- A word whose whole effect is to write registers, and which the next word follows. -/
theorem writesRegs_of_runWord {i : Instr} {s : State} {eff : Wd → State → Eff} {f : Wd → Regs → Regs}
    (hx : exec i s = s.runWord i eff)
    (he : eff (wordOf i s) s.begin_ = .next (s.begin_.withRegs (f (wordOf i s)))) : writesRegs i s f :=
  fun h => hx.trans (State.runWord_next h he)

/-- A field outside its range gives detail 0x04 (R66). -/
theorem Info.mem_details_of_bad4 {f : Info} (h : f.bad4 = true) (vregs : Nat) : 0x04 ∈ f.details vregs := by
  simp [Info.details, h]

/-- The lowest lane that a mask sets below a width is the first that a search finds. -/
theorem head?_lanesOf (width : Nat) (m : Mask) :
    (lanesOf width m).head? = (List.range width).find? (fun l => m.getLsbD l) :=
  List.head?_filter ..

section
variable {d a b k : BitVec 6} {s : State}

/-! ### The word number -/

theorem mtos_details_of_big (h : 16 ≤ k.toNat) : 0x04 ∈ s.details (.mtos d a k) :=
  List.mem_append_left _ (Info.mem_details_of_bad4 (f := info (.mtos d a k)) (decide_eq_true h) _)

theorem stom_details_of_big (h : 16 ≤ k.toNat) : 0x04 ∈ s.details (.stom d a k) :=
  List.mem_append_left _ (Info.mem_details_of_bad4 (f := info (.stom d a k)) (decide_eq_true h) _)

/-! ### What each word writes -/

theorem exec_mand_writes : writesM (.mand d a b) s d.toNat (fun w => w.r.readM a.toNat &&& w.r.readM b.toNat) :=
  writesRegs_of_runWord exec_mand rfl

theorem exec_mor_writes : writesM (.mor d a b) s d.toNat (fun w => w.r.readM a.toNat ||| w.r.readM b.toNat) :=
  writesRegs_of_runWord exec_mor rfl

theorem exec_mxor_writes : writesM (.mxor d a b) s d.toNat (fun w => w.r.readM a.toNat ^^^ w.r.readM b.toNat) :=
  writesRegs_of_runWord exec_mxor rfl

theorem exec_mnot_writes : writesM (.mnot d a) s d.toNat (fun w => ~~~w.r.readM a.toNat) :=
  writesRegs_of_runWord exec_mnot rfl

theorem exec_mpop_writes :
    writesS (.mpop d a) s d (fun w => BitVec.ofNat 64 (lanesOf w.width (w.r.readM a.toNat)).length) :=
  writesRegs_of_runWord exec_mpop rfl

/-- MFIRST takes the head of the list of set lanes, which a search from lane 0 finds. -/
theorem exec_mfirst_writes : writesS (.mfirst d a) s d (fun w =>
    match (List.range w.width).find? (fun l => (w.r.readM a.toNat).getLsbD l) with
    | none => BitVec.allOnes 64
    | some l => BitVec.ofNat 64 l) := by
  refine writesRegs_of_runWord exec_mfirst ?_
  simp only [← head?_lanesOf]
  cases lanesOf (wordOf (.mfirst d a) s).width ((wordOf (.mfirst d a) s).r.readM a.toNat) with
  | nil => rfl
  | cons l _ => rfl

theorem exec_mtos_writes :
    writesS (.mtos d a k) s d (fun w => (w.r.readM a.toNat).extractLsb' (64 * k.toNat) 64) :=
  writesRegs_of_runWord exec_mtos rfl

/-- STOM clears word k of the mask and puts the scalar in its place. -/
theorem exec_stom_writes : writesM (.stom d a k) s d.toNat (fun w =>
    (w.r.readM d.toNat &&& ~~~((BitVec.allOnes 64).setWidth 1024 <<< (64 * k.toNat))) |||
      ((w.r.readS a.toNat).setWidth 1024 <<< (64 * k.toNat))) :=
  writesRegs_of_runWord exec_stom rfl

end

/-- Settles O19: the encodings are the rows of the encoder, a word number past 15 is a field out of range, and each word's effect
writes one register. -/
theorem maskWords : Obligations.MaskWords := by
  unfold Obligations.MaskWords
  intro d a b k s
  exact ⟨⟨rfl, rfl, rfl, rfl, rfl, rfl, rfl, rfl⟩, fun h => ⟨mtos_details_of_big h, stom_details_of_big h⟩,
    exec_mand_writes, exec_mor_writes, exec_mxor_writes, exec_mnot_writes, exec_mpop_writes, exec_mfirst_writes,
    exec_mtos_writes, exec_stom_writes⟩

end Sys2Proof.Machine
end

section
/-! PROOFS. The decoder and the encoder agree, both ways (R38 to R41, R62 to R66). -/

namespace Sys2Proof

open Sys2Proof.Machine

/-! ### Fields of a word -/

theorem fld_toNat (w : W32) (lo n : Nat) : (fld w lo n).toNat = w.toNat / 2 ^ lo % 2 ^ n := by
  simp [BitVec.extractLsb'_toNat, Nat.shiftRight_eq_div_pow]

theorem fld_eq_iff {w : W32} {lo n : Nat} {c : BitVec n} : fld w lo n = c ↔ w.toNat / 2 ^ lo % 2 ^ n = c.toNat := by
  rw [← BitVec.toNat_inj, fld_toNat]

/-- A value of two parts joined is a field of a word where each part is. -/
theorem append_eq_fld {w : W32} {lo n k : Nat} {a : BitVec n} {b : BitVec k} (ha : a = w.extractLsb' (lo + k) n)
    (hb : b = w.extractLsb' lo k) : a ++ b = w.extractLsb' lo (n + k) := by
  rw [ha, hb]
  exact BitVec.extractLsb'_append_extractLsb'_eq_extractLsb' rfl

/-! ### Rows -/

/-- Every row that a look-up gives is that of its instruction's word, where no fixed field of it differs. -/
def Faithful (w : W32) (o : Option Row) : Prop := ∀ r, o = some r → r.bad4 = false → r.bad7 = false → encode r.ins = some w

theorem Faithful.none {w : W32} : Faithful w none := nofun

theorem Faithful.some {w : W32} {r : Row} (h : r.bad4 = false → r.bad7 = false → encode r.ins = some w) : Faithful w (some r) := by
  rintro _ ⟨⟩; exact h

theorem Faithful.ite {w : W32} {c : Prop} [Decidable c] {a b : Option Row} (ha : c → Faithful w a) (hb : ¬c → Faithful w b) :
    Faithful w (if c then a else b) := by
  split
  · exact ha ‹_›
  · exact hb ‹_›

theorem eq_fld_iff {w : W32} {lo n : Nat} {c : BitVec n} : c = w.extractLsb' lo n ↔ w.toNat / 2 ^ lo % 2 ^ n = c.toNat := by
  rw [← fld_eq_iff, eq_comm]

theorem encodes_of_eq_fld {w x : W32} (h : x = w.extractLsb' 0 32) : some x = some w := by
  rw [h]; simp


/-- Down to its row, a word is cut into fields; each part of the encoding is one of them, or fixed by the tests on the way and by the
fields that must not differ. So it is in every group of majors. -/
theorem lookupControl_faithful (w : W32) : Faithful w (lookupControl w) := by
  unfold lookupControl
  repeat' refine Faithful.ite (fun _ => ?_) (fun _ => ?_)
  any_goals exact Faithful.none
  all_goals
    refine Faithful.some fun h4 h7 => encodes_of_eq_fld ?_
    repeat' refine append_eq_fld ?_ ?_
  any_goals rfl
  all_goals
    simp only [bne_eq_false_iff_eq, fld_eq_iff, eq_fld_iff, BitVec.toNat_ofNat] at *
    omega

theorem lookupScalar_faithful (w : W32) : Faithful w (lookupScalar w) := by
  unfold lookupScalar
  repeat' refine Faithful.ite (fun _ => ?_) (fun _ => ?_)
  any_goals exact Faithful.none
  all_goals
    refine Faithful.some fun h4 h7 => encodes_of_eq_fld ?_
    repeat' refine append_eq_fld ?_ ?_
  any_goals rfl
  all_goals
    simp only [bne_eq_false_iff_eq, Bool.or_eq_false_iff, fld_eq_iff, eq_fld_iff, BitVec.toNat_ofNat] at *
    omega

theorem lookupVector_faithful (w : W32) : Faithful w (lookupVector w) := by
  unfold lookupVector
  repeat' refine Faithful.ite (fun _ => ?_) (fun _ => ?_)
  any_goals exact Faithful.none
  all_goals
    refine Faithful.some fun h4 h7 => encodes_of_eq_fld ?_
    repeat' refine append_eq_fld ?_ ?_
  any_goals rfl
  all_goals
    simp only [bne_eq_false_iff_eq, Bool.or_eq_false_iff, fld_eq_iff, eq_fld_iff, BitVec.toNat_ofNat] at *
    omega

theorem lookupFloat_faithful (w : W32) : Faithful w (lookupFloat w) := by
  unfold lookupFloat
  repeat' refine Faithful.ite (fun _ => ?_) (fun _ => ?_)
  any_goals exact Faithful.none
  all_goals
    refine Faithful.some fun h4 h7 => encodes_of_eq_fld ?_
    repeat' refine append_eq_fld ?_ ?_
  any_goals rfl
  all_goals
    simp only [bne_eq_false_iff_eq, Bool.or_eq_false_iff, fld_eq_iff, eq_fld_iff, BitVec.toNat_ofNat] at *
    omega

theorem lookupMemory_faithful (w : W32) : Faithful w (lookupMemory w) := by
  unfold lookupMemory
  repeat' refine Faithful.ite (fun _ => ?_) (fun _ => ?_)
  any_goals exact Faithful.none
  all_goals
    refine Faithful.some fun h4 h7 => encodes_of_eq_fld ?_
    repeat' refine append_eq_fld ?_ ?_
  any_goals rfl
  all_goals
    simp only [bne_eq_false_iff_eq, Bool.or_eq_false_iff, fld_eq_iff, eq_fld_iff, BitVec.toNat_ofNat] at *
    omega

theorem lookupEngine_faithful (w : W32) : Faithful w (lookupEngine w) := by
  unfold lookupEngine
  repeat' refine Faithful.ite (fun _ => ?_) (fun _ => ?_)
  any_goals exact Faithful.none
  all_goals
    refine Faithful.some fun h4 h7 => encodes_of_eq_fld ?_
    repeat' refine append_eq_fld ?_ ?_
  any_goals rfl
  all_goals
    simp only [bne_eq_false_iff_eq, Bool.or_eq_false_iff, fld_eq_iff, eq_fld_iff, BitVec.toNat_ofNat] at *
    omega

theorem lookupHome_faithful (w : W32) : Faithful w (lookupHome w) := by
  unfold lookupHome
  repeat' refine Faithful.ite (fun _ => ?_) (fun _ => ?_)
  any_goals exact Faithful.none
  all_goals
    refine Faithful.some fun h4 h7 => encodes_of_eq_fld ?_
    repeat' refine append_eq_fld ?_ ?_
  any_goals rfl
  all_goals
    simp only [bne_eq_false_iff_eq, fld_eq_iff, eq_fld_iff, BitVec.toNat_ofNat] at *
    omega

theorem lookup_faithful (w : W32) : Faithful w (lookup w) :=
  .ite (fun _ => lookupControl_faithful w) fun _ => .ite (fun _ => lookupScalar_faithful w) fun _ =>
  .ite (fun _ => lookupVector_faithful w) fun _ => .ite (fun _ => lookupFloat_faithful w) fun _ =>
  .ite (fun _ => lookupMemory_faithful w) fun _ => .ite (fun _ => lookupEngine_faithful w) fun _ => lookupHome_faithful w

/-! ### Decoding and encoding -/

/-- A word that decodes has a row, whose fields that must be zero or fixed are so. -/
theorem exists_row_of_decodeWord {w : W32} {i : Instr} (h : decodeWord w = .ok i) :
    ∃ r, lookup w = some r ∧ r.bad4 = false ∧ r.bad7 = false ∧ r.ins = i := by
  unfold decodeWord at h
  split_ifs at h
  cases hl : lookup w with
  | none => rw [hl] at h; cases h
  | some r =>
    simp only [hl] at h
    split_ifs at h with h4 h7
    exact ⟨r, rfl, Bool.eq_false_of_not_eq_true h4, Bool.eq_false_of_not_eq_true h7, Except.ok.inj h⟩

theorem encode_of_decodeWord {w : W32} {i : Instr} (h : decodeWord w = .ok i) : encode i = some w := by
  obtain ⟨r, hr, h4, h7, rfl⟩ := exists_row_of_decodeWord h
  exact lookup_faithful w r hr h4 h7

open Laws.Encoding in
theorem decodeWord_of_encode {w : W32} {i : Instr} (h : encode i = some w) : decodeWord w = .ok i := by
  revert w
  show Statement i
  cases i with
  | clause => exact clause
  | hintImm => exact hintImm
  | hintSched => exact hintSched
  | hintMod => exact hintMod
  | hintSrc3 => exact hintSrc3
  | hintGuard => exact hintGuard
  | bra => exact bra
  | brc => exact brc
  | brd => exact brd
  | markj => exact markj
  | call => exact call
  | join => exact join
  | ret => exact ret
  | callr => exact callr
  | exit => exact exit
  | nop => exact nop
  | yield => exact yield
  | seam => exact seam
  | enter => exact enter
  | leave => exact leave
  | bkpt => exact bkpt
  | trap => exact trap
  | isync => exact isync
  | srd => exact srd
  | swr => exact swr
  | time => exact time
  | clk => exact clk
  | trec => exact trec
  | icinv => exact icinv
  | rclr => exact rclr
  | lnch => exact lnch
  | contset => exact contset
  | cresume => exact cresume
  | sadd => exact sadd
  | ssub => exact ssub
  | smul => exact smul
  | smulh => exact smulh
  | sand => exact sand
  | sor => exact sor
  | sxor => exact sxor
  | ssel => exact ssel
  | sshl => exact sshl
  | sshr => exact sshr
  | ssar => exact ssar
  | scmp => exact scmp
  | smin => exact smin
  | smax => exact smax
  | smov => exact smov
  | sdiv => exact sdiv
  | smovi => exact smovi
  | saddi => exact saddi
  | aadd => exact aadd
  | asub => exact asub
  | ashl => exact ashl
  | amov => exact amov
  | amovA => exact amovA
  | aset => exact aset
  | avec => exact avec
  | abase => exact abase
  | astr => exact astr
  | aoff => exact aoff
  | vadd => exact vadd
  | vsub => exact vsub
  | vmul => exact vmul
  | vmulh => exact vmulh
  | vmad => exact vmad
  | vsadd => exact vsadd
  | vssub => exact vssub
  | vabsd => exact vabsd
  | vand => exact vand
  | vor => exact vor
  | vxor => exact vxor
  | vandn => exact vandn
  | vshl => exact vshl
  | vshr => exact vshr
  | vsar => exact vsar
  | vrot => exact vrot
  | vmin => exact vmin
  | vmax => exact vmax
  | vsel => exact vsel
  | vmov => exact vmov
  | vclz => exact vclz
  | vpop => exact vpop
  | vbrev => exact vbrev
  | vbfe => exact vbfe
  | vbfi => exact vbfi
  | vcvti => exact vcvti
  | vlane => exact vlane
  | vdiv => exact vdiv
  | vcmp => exact vcmp
  | fadd => exact fadd
  | fsub => exact fsub
  | fmul => exact fmul
  | ffma => exact ffma
  | fmin => exact fmin
  | fmax => exact fmax
  | fcpsgn => exact fcpsgn
  | frnd => exact frnd
  | frcp => exact frcp
  | frsq => exact frsq
  | fsqrt => exact fsqrt
  | fdiv => exact fdiv
  | fexp2 => exact fexp2
  | flog2 => exact flog2
  | fsin => exact fsin
  | fcos => exact fcos
  | fcmp => exact fcmp
  | fcvt => exact fcvt
  | cvti => exact cvti
  | cvtf => exact cvtf
  | fclass => exact fclass
  | vshuf => exact vshuf
  | vbcast => exact vbcast
  | vscan => exact vscan
  | vred => exact vred
  | mand => exact mand
  | mor => exact mor
  | mxor => exact mxor
  | mnot => exact mnot
  | mpop => exact mpop
  | mfirst => exact mfirst
  | mtos => exact mtos
  | stom => exact stom
  | regroup => exact regroup
  | vvote => exact vvote
  | vldg => exact vldg
  | vstg => exact vstg
  | vlds => exact vlds
  | vsts => exact vsts
  | sld => exact sld
  | sst => exact sst
  | atom => exact atom
  | atom64 => exact atom64
  | atomf => exact atomf
  | fence => exact fence
  | waitl => exact waitl
  | pref => exact pref
  | tld => exact tld
  | tex => exact tex
  | texg => exact texg
  | tqry => exact tqry
  | stmap => exact stmap
  | stflush => exact stflush
  | stunmap => exact stunmap
  | stqry => exact stqry
  | cpy => exact cpy
  | cpy2d => exact cpy2d
  | cpyb => exact cpyb
  | cpyw => exact cpyw
  | bar => exact bar
  | bara => exact bara
  | barw => exact barw
  | barq => exact barq
  | stream => exact stream
  | qpop => exact qpop
  | qstat => exact qstat
  | qclose => exact qclose
  | mgang => exact mgang
  | mma => exact mma
  | mdrain => exact mdrain
  | mzero => exact mzero
  | maccrd => exact maccrd
  | maccwr => exact maccwr
  | mfmt => exact mfmt
  | mqry => exact mqry
  | lfset => exact lfset
  | lfspan => exact lfspan
  | lfint => exact lfint
  | lfz => exact lfz
  | lfout => exact lfout
  | mshdec => exact mshdec
  | qmerge => exact qmerge
  | lfqry => exact lfqry
  | trace => exact trace
  | trres => exact trres
  | trget => exact trget
  | trhit => exact trhit
  | trsave => exact trsave
  | trload => exact trload
  | coll => exact coll
  | collw => exact collw
  | kvfork => exact kvfork
  | kvfree => exact kvfree
  | red => exact red
  | atxXchg32 => exact atxXchg32
  | atxCas32 => exact atxCas32
  | atxLd32 => exact atxLd32
  | atxSt32 => exact atxSt32
  | atxXchg64 => exact atxXchg64
  | atxCas64 => exact atxCas64
  | atxLd64 => exact atxLd64
  | atxSt64 => exact atxSt64
  | longLatencyCompletion => exact longLatencyCompletion
  | storeAtHome => exact storeAtHome
  | loadAtHome => exact loadAtHome
  | atomicAtHome => exact atomicAtHome
  | fenceToken => exact fenceToken
  | fenceTokenAck => exact fenceTokenAck
  | l1Invalidate => exact l1Invalidate
  | stashRecall => exact stashRecall
  | waitlTimeout => exact waitlTimeout
  | teamPromotion => exact teamPromotion
  | tideProbe => exact tideProbe
  | tideProbeReturn => exact tideProbeReturn
  | barrierPhaseCompletion => exact barrierPhaseCompletion
  | barrierToken => exact barrierToken
  | regroupExchange => exact regroupExchange
  | mmaCompletion => exact mmaCompletion
  | streamEntryPush => exact streamEntryPush
  | copyCompletion => exact copyCompletion
  | collectiveCompletion => exact collectiveCompletion
  | collectiveTimeout => exact collectiveTimeout
  | collectiveHalt => exact collectiveHalt
  | collectiveResume => exact collectiveResume
  | haltLimitExpiry => exact haltLimitExpiry
  | notificationWrite => exact notificationWrite
  | launchValidation => exact launchValidation
  | dependencePoll => exact dependencePoll
  | gridStart => exact gridStart
  | bindRecord => exact bindRecord
  | groupStart => exact groupStart
  | teamStart => exact teamStart
  | gridCompletion => exact gridCompletion
  | preemptionDecision => exact preemptionDecision
  | drainDeadline => exact drainDeadline
  | saveComplete => exact saveComplete
  | saveDeadline => exact saveDeadline
  | contextRestore => exact contextRestore
  | raceEpochAdvance => exact raceEpochAdvance
  | traceSample => exact traceSample
  | wringerFrame => exact wringerFrame
  | timeSyncExchange => exact timeSyncExchange
  | domainTimeExchange => exact domainTimeExchange
  | hostAccess => exact hostAccess
  | shorelineLinkFailure => exact shorelineLinkFailure
  | fabricRouteLoss => exact fabricRouteLoss
  | thermalThrottle => exact thermalThrottle
  | thermalShutdown => exact thermalShutdown
  | moduleReset => exact moduleReset
  | registerWrite => exact registerWrite
  | resync => exact resync
  | start => exact start
  | ctxnew => exact ctxnew
  | ctxfree => exact ctxfree
  | qreg => exact qreg
  | inval => exact inval
  | resident => exact resident
  | halt => exact halt
  | release => exact release
  | group => exact group
  | keyload => exact keyload
  | attest => exact attest
  | sinkrst => exact sinkrst
  | wordNotAnInstruction => exact wordNotAnInstruction
  | samplerInvalidation => exact samplerInvalidation
  | instructionCacheInvalidation => exact instructionCacheInvalidation
  | storeAcknowledgement => exact storeAcknowledgement
  | watchReport => exact watchReport
  | wakeWithoutNotice => exact wakeWithoutNotice
  | stallAccountClock => exact stallAccountClock
  | dvfsClockChange => exact dvfsClockChange

theorem wordOfBytes_fld (w : W32) : wordOfBytes (fld w 0 8) (fld w 8 8) (fld w 16 8) (fld w 24 8) = w :=
  Option.some.inj (encodes_of_eq_fld (append_eq_fld (append_eq_fld (append_eq_fld rfl rfl) rfl) rfl))

/-- The four bytes of a word that decodes, whatever follows them. -/
theorem decode_bytesOfWord {w : W32} {i : Instr} (h : decodeWord w = .ok i) (rest : List Byte) :
    decode (bytesOfWord w ++ rest) = .ok (i, rest) := by
  show (match decodeWord (wordOfBytes (fld w 0 8) (fld w 8 8) (fld w 16 8) (fld w 24 8)) with
    | .ok i => Except.ok (i, rest)
    | .error e => .error e) = _
  rw [wordOfBytes_fld, h]

/-- Settles O4: every row of the look-up is faithful to its instruction's word, and the word of each instruction decodes to it. -/
theorem decodeEncode : Obligations.DecodeEncode := by
  unfold Obligations.DecodeEncode
  intro i w rest
  exact ⟨⟨decodeWord_of_encode, encode_of_decodeWord⟩, fun h => decode_bytesOfWord (decodeWord_of_encode h) rest⟩

end Sys2Proof
end

section
/-! PROOFS. What scalar, affine, vector, float and cross-lane words write (R71 to R79, R107 to R130): where the words of a statement are
not those of the effect, a lemma says that they mean the same. -/

namespace Sys2Proof.Machine

open Sys2Proof.Safety

/-! ### Scalar words -/

/-- The two exceptions of a division, and its rule (R72). -/
theorem divRules_eq (sg : Bool) (wd x y : Nat) : divRules sg wd x y =
    if y = 0 then (2 ^ wd - 1, x)
    else if sg = true ∧ x = 2 ^ (wd - 1) ∧ y = 2 ^ wd - 1 then (x, 0)
    else (wrap wd (Int.tdiv (ordered sg wd x) (ordered sg wd y)), wrap wd (Int.tmod (ordered sg wd x) (ordered sg wd y))) := by
  simp only [divRules, Bool.and_eq_true, decide_eq_true_eq, and_assoc]

theorem exec_sdiv_writes {d a b : BitVec 6} {k : BitVec 2} {t : BitVec 3} {s : State} :
    writesRegs (.sdiv d a b k t) s (fun w r =>
      let q := divRules (tySigned t) (tyWidth t) ((w.r.readS a.toNat).toNat % 2 ^ tyWidth t) ((w.scalarB b k).toNat % 2 ^ tyWidth t)
      (r.writeS d.toNat (scalarExt t q.1)).writeS (d.toNat + 1) (scalarExt t q.2)) :=
  writesRegs_of_runWord exec_sdiv rfl

/-- Settles O8: each word writes what its effect computes; SDIV by its rule and the two exceptions. -/
theorem scalarArithmetic : Obligations.ScalarArithmetic := by
  unfold Obligations.ScalarArithmetic
  intro d a b k t s
  have hdiv := exec_sdiv_writes (d := d) (a := a) (b := b) (k := k) (t := t) (s := s)
  simp only [divRules_eq] at hdiv
  exact ⟨writesRegs_of_runWord exec_sadd rfl, writesRegs_of_runWord exec_ssub rfl, writesRegs_of_runWord exec_smul rfl,
    writesRegs_of_runWord exec_smulh rfl, writesRegs_of_runWord exec_smin rfl, writesRegs_of_runWord exec_smax rfl,
    writesRegs_of_runWord exec_scmp rfl, hdiv⟩

/-- Settles O9: the effect of each word is the write that is stated. -/
theorem scalarLogic : Obligations.ScalarLogic := by
  unfold Obligations.ScalarLogic
  intro d a b k t n s
  exact ⟨writesRegs_of_runWord exec_sand rfl, writesRegs_of_runWord exec_sor rfl, writesRegs_of_runWord exec_sxor rfl,
    writesRegs_of_runWord exec_ssel rfl, writesRegs_of_runWord exec_sshl rfl, writesRegs_of_runWord exec_sshr rfl,
    writesRegs_of_runWord exec_ssar rfl, writesRegs_of_runWord exec_smov rfl, writesRegs_of_runWord exec_smovi rfl,
    writesRegs_of_runWord exec_saddi rfl⟩

/-! ### Affine words -/

/-- One of two writes of an a-register is the write of one of two values. -/
theorem writeA_ite {r : Regs} {n : Nat} {p : Prop} [Decidable p] (x y : W64 × W32) :
    r.writeA n (if p then x else y).1 (if p then x else y).2 = if p then r.writeA n x.1 x.2 else r.writeA n y.1 y.2 := by
  split <;> rfl

/-- Settles O10: AADD and ASUB choose what they write by BK, the other words write one value. -/
theorem affineWords : Obligations.AffineWords := by
  unfold Obligations.AffineWords
  intro d a b k t s
  refine ⟨writesRegs_of_runWord exec_aadd ?_, writesRegs_of_runWord exec_asub ?_, writesRegs_of_runWord exec_ashl rfl,
    writesRegs_of_runWord exec_amov ?_, writesRegs_of_runWord exec_amovA rfl, writesRegs_of_runWord exec_aoff rfl,
    writesRegs_of_runWord exec_abase rfl, writesRegs_of_runWord exec_astr rfl, writesRegs_of_runWord exec_avec rfl⟩
  · simp only [writeA_ite]
    rfl
  · simp only [writeA_ite]
    rfl
  · simp only [BitVec.setWidth_eq_extractLsb' (show 32 ≤ 64 by decide)]

/-! ### Integer vector words -/

/-- Settles O12: the effect of each word is the write that is stated, lane by lane. -/
theorem vectorArithmetic : Obligations.VectorArithmetic := by
  unfold Obligations.VectorArithmetic
  intro d a b k g t s
  exact ⟨writesRegs_of_runWord exec_vadd rfl, writesRegs_of_runWord exec_vsub rfl, writesRegs_of_runWord exec_vmul rfl,
    writesRegs_of_runWord exec_vmulh rfl, writesRegs_of_runWord exec_vmad rfl, writesRegs_of_runWord exec_vsadd rfl,
    writesRegs_of_runWord exec_vssub rfl, writesRegs_of_runWord exec_vabsd rfl, writesRegs_of_runWord exec_vmin rfl,
    writesRegs_of_runWord exec_vmax rfl⟩

/-- The length of a bit field is at most the width (R109). -/
theorem fieldLen_eq_min (wd y : Nat) : fieldLen wd y = min (y / 256 % 128) wd := by
  unfold fieldLen
  split <;> omega

/-- Settles O13: only the length of a bit field is said in another way. -/
theorem vectorLogic : Obligations.VectorLogic := by
  unfold Obligations.VectorLogic
  intro d a b k g t s
  refine ⟨writesRegs_of_runWord exec_vand rfl, writesRegs_of_runWord exec_vor rfl, writesRegs_of_runWord exec_vxor rfl,
    writesRegs_of_runWord exec_vandn rfl, writesRegs_of_runWord exec_vshl rfl, writesRegs_of_runWord exec_vshr rfl,
    writesRegs_of_runWord exec_vsar rfl, writesRegs_of_runWord exec_vrot rfl, writesRegs_of_runWord exec_vsel rfl,
    writesRegs_of_runWord exec_vmov rfl, writesRegs_of_runWord exec_vbfe ?_, writesRegs_of_runWord exec_vbfi ?_⟩
  · simp only [← fieldLen_eq_min]
    rfl
  · simp only [← fieldLen_eq_min]
    rfl

/-- Settles O14: the effect of each word is the write that is stated. -/
theorem vectorUnary : Obligations.VectorUnary := by
  unfold Obligations.VectorUnary
  intro d a u g t s
  exact ⟨writesRegs_of_runWord exec_vclz rfl, writesRegs_of_runWord exec_vpop rfl, writesRegs_of_runWord exec_vbrev rfl,
    writesRegs_of_runWord exec_vcvti rfl, writesRegs_of_runWord exec_vlane rfl⟩

/-- Settles O15: VDIV writes both rows of registers, VCMP one mask register. -/
theorem vectorDivideCompare : Obligations.VectorDivideCompare := by
  unfold Obligations.VectorDivideCompare
  intro d a b c m k g t s
  exact ⟨writesRegs_of_runWord exec_vdiv rfl, writesRegs_of_runWord exec_vcmp rfl⟩

/-! ### Float words -/

/-- A word whose whole effect is to write float results and set the flags that they raise. -/
theorem writesFloats_of_runWord {i : Instr} {s : State} {eff : Wd → State → Eff} {d : BitVec 6} {cnt : Nat}
    {v : Wd → Nat → W64 × FFlags} (hx : exec i s = s.runWord i eff)
    (he : eff (wordOf i s) s.begin_ = .next ((wordOf i s).putFlt s.begin_ d cnt (v (wordOf i s)))) : writesFloats i s d.toNat cnt v :=
  fun h => hx.trans (State.runWord_next h (f := fun z => (wordOf i s).putFlt z d cnt (v (wordOf i s))) he)

/-- Settles O16: the effect of each word is the write that is stated, with its flags. -/
theorem floatArithmetic : Obligations.FloatArithmetic := by
  unfold Obligations.FloatArithmetic
  intro d a b k g t s
  exact ⟨writesFloats_of_runWord exec_fadd rfl, writesFloats_of_runWord exec_fsub rfl, writesFloats_of_runWord exec_fmul rfl,
    writesFloats_of_runWord exec_ffma rfl, writesFloats_of_runWord exec_fdiv rfl, writesFloats_of_runWord exec_fmin rfl,
    writesFloats_of_runWord exec_fmax rfl, writesFloats_of_runWord exec_fcpsgn rfl⟩

/-- Settles O17: so it is whatever the part's own functions give. -/
theorem floatUnary : Obligations.FloatUnary := by
  unfold Obligations.FloatUnary
  intro d a g t s
  exact ⟨writesFloats_of_runWord exec_frnd rfl, writesFloats_of_runWord exec_fsqrt rfl, writesFloats_of_runWord exec_frcp rfl,
    writesFloats_of_runWord exec_frsq rfl, writesFloats_of_runWord exec_fexp2 rfl, writesFloats_of_runWord exec_flog2 rfl,
    writesFloats_of_runWord exec_fsin rfl, writesFloats_of_runWord exec_fcos rfl⟩

/-- Settles O18: FCMP writes a mask register and raises its lanes' flags, FCLASS raises none, the conversions write as float words do. -/
theorem floatConvert : Obligations.FloatConvert := by
  unfold Obligations.FloatConvert
  intro d a b c m u k g t s
  exact ⟨fun h => exec_fcmp.trans (State.runWord_next h rfl), writesFloats_of_runWord exec_fcvt rfl,
    writesFloats_of_runWord exec_cvti rfl, writesFloats_of_runWord exec_cvtf rfl, writesRegs_of_runWord exec_fclass rfl⟩

/-! ### Cross-lane words -/

section
variable {s : State} {d a : BitVec 6} {k : BitVec 2} {e f g : BitVec 1} {o ty : BitVec 3}

theorem exec_vscan_after (hp : Passes (.vscan d a e f o g ty) s) :
    let w := wordOf (.vscan d a e f o g ty) s
    let scan (lanes : List Nat) := scanLanes w s.begin_ f o ty (fun l => w.vec a.toNat (scanCnt f ty) l) lanes none 0
    exec (.vscan d a e f o g ty) s = .next (after (.vscan d a e f o g ty) s (fun x =>
      (x.withRegs (fun r => (scan w.lanes).1.foldl (fun r (y : Nat × W64 × W64) =>
        r.writeVec d.toNat (scanCnt f ty) y.1 (if e = 1 then y.2.1 else y.2.2)) r)).raiseFlags
          (scan (if e = 1 then w.lanes.dropLast else w.lanes)).2)) := by
  intro w scan
  refine exec_vscan.trans (State.runWord_next hp ?_)
  by_cases he : e = 1
  · simp only [if_pos he, scan, w]
  · simp only [if_neg he, scan, w]

/-- What the votes that write an s-register write (R130). -/
def voteBit (a : BitVec 6) (k : BitVec 2) (w : Wd) : W64 :=
  if k = 0 then (if w.lanes.any (fun l => w.r.readV a.toNat l ≠ 0) then 1 else 0)
  else if k = 1 then (if w.lanes.all (fun l => w.r.readV a.toNat l ≠ 0) then 1 else 0)
  else if w.lanes.all (fun l => w.r.readV a.toNat l == w.r.readV a.toNat (w.lanes.headD 0)) then 1 else 0

/-- Every vote but a mask's writes one s-register. -/
theorem exec_vvote_writesS (h : k ≠ 2) : writesS (.vvote d a k) s d (voteBit a k) := by
  refine writesRegs_of_runWord exec_vvote ?_
  unfold voteBit
  dsimp only
  split_ifs <;> rfl

theorem exec_vvote_writesM : writesM (.vvote d a 2) s d.toNat (fun w =>
    maskOf w.width (fun l => w.mask.getLsbD l && w.r.readV a.toNat l ≠ 0)) :=
  writesRegs_of_runWord exec_vvote rfl

end

/-- Settles O20: VSCAN by whether it is exclusive, VVOTE by its kind. -/
theorem crossLaneWords : Obligations.CrossLaneWords := by
  unfold Obligations.CrossLaneWords
  intro d a b k e f o g t s
  refine ⟨writesRegs_of_runWord exec_vshuf rfl, writesRegs_of_runWord exec_vbcast rfl, exec_vscan_after,
    fun h => exec_vred.trans (State.runWord_next h rfl), ?_, ?_, ?_, ?_⟩
  · rintro rfl
    exact exec_vvote_writesS (by decide)
  · rintro rfl
    exact exec_vvote_writesS (by decide)
  · rintro rfl
    exact exec_vvote_writesM
  · rintro rfl
    exact exec_vvote_writesS (by decide)

end Sys2Proof.Machine
end

section
/-! PROOFS. The frame of the words whose effect is on registers and flags alone (R47, R105, R116, R352): a lemma for each shape of
write, and which word has which. -/

namespace Sys2Proof.Machine

open Sys2Proof.Safety

/-! ### Shapes of writes -/

section
variable {i : Instr} {s t : State} {eff : Wd → State → Eff} {g : Regs → Regs}

/-- A word whose effect is to write registers has the frame of its writes. -/
theorem framed_of_withRegs (hx : exec i s = s.runWord i eff) (he : eff (wordOf i s) s.begin_ = .next (s.begin_.withRegs g))
    (hk : RegsKept (useSet (info i).writes) (wordOf i s).lanes s.team.regs (g s.team.regs))
    (hp : Passes i s) (ht : exec i s = .next t) : Framed i s t :=
  framed_of_writes g hk (hx.trans (State.runWord_next hp he)) ht

/-- The same where it raises flags. -/
theorem framed_of_raiseFlags {f : FFlags} (hx : exec i s = s.runWord i eff)
    (he : eff (wordOf i s) s.begin_ = .next ((s.begin_.withRegs g).raiseFlags f)) (hf : setsFlags i = true)
    (hk : RegsKept (useSet (info i).writes) (wordOf i s).lanes s.team.regs (g s.team.regs))
    (hp : Passes i s) (ht : exec i s = .next t) : Framed i s t :=
  framed_of_after g f (fun h => absurd (hf.symm.trans h) (by decide)) hk (hx.trans (State.runWord_next hp (f := fun x => (x.withRegs g).raiseFlags f) he)) ht

theorem useSet_one_of_lt {c : RC} {d k n : Nat} (hc : c ≠ .q) (hk : c.base = k) (hb : k + n ≤ 172) (hd : d < n) :
    (useSet [⟨c, d, 1⟩]).getLsbD (k + d) = true := by
  subst hk
  exact useSet_one hc (by omega)

theorem framed_of_writesS {d : BitVec 6} {v : W64} (hw : (info i).writes = [⟨.s, d.toNat, 1⟩]) (hx : exec i s = s.runWord i eff)
    (he : eff (wordOf i s) s.begin_ = .next (s.begin_.withRegs (fun r => r.writeS d.toNat v)))
    (hp : Passes i s) (ht : exec i s = .next t) : Framed i s t :=
  framed_of_withRegs hx he
    (regsKept_writeS (regsKept_refl ..) v (fun h => hw ▸ useSet_one_of_lt (n := 64) (by decide) rfl (by decide) h)) hp ht

theorem framed_of_writesA {d : BitVec 6} {x : W64} {y : W32} (hw : (info i).writes = [⟨.a, d.toNat, 1⟩]) (hx : exec i s = s.runWord i eff)
    (he : eff (wordOf i s) s.begin_ = .next (s.begin_.withRegs (fun r => r.writeA d.toNat x y)))
    (hp : Passes i s) (ht : exec i s = .next t) : Framed i s t :=
  framed_of_withRegs hx he
    (regsKept_writeA (regsKept_refl ..) x y (fun h => hw ▸ useSet_one_of_lt (n := 32) (by decide) rfl (by decide) h)) hp ht

theorem framed_of_writesA_or {d : BitVec 6} {p : Prop} [Decidable p] {x x' : W64} {y y' : W32}
    (hw : (info i).writes = [⟨.a, d.toNat, 1⟩]) (hx : exec i s = s.runWord i eff)
    (he : eff (wordOf i s) s.begin_ = .next (s.begin_.withRegs (fun r => if p then r.writeA d.toNat x y else r.writeA d.toNat x' y')))
    (hp : Passes i s) (ht : exec i s = .next t) : Framed i s t := by
  have hd (h : d.toNat < 32) : (useSet (info i).writes).getLsbD (128 + d.toNat) = true :=
    hw ▸ useSet_one_of_lt (n := 32) (by decide) rfl (by decide) h
  refine framed_of_withRegs hx he ?_ hp ht
  split
  · exact regsKept_writeA (regsKept_refl ..) x y hd
  · exact regsKept_writeA (regsKept_refl ..) x' y' hd

theorem framed_of_writesM {d width : Nat} {v : Mask} (hw : (info i).writes = [⟨.m, d, 1⟩]) (hx : exec i s = s.runWord i eff)
    (he : eff (wordOf i s) s.begin_ = .next (s.begin_.withRegs (fun r => r.writeM width d v)))
    (hp : Passes i s) (ht : exec i s = .next t) : Framed i s t :=
  framed_of_withRegs hx he
    (regsKept_writeM (regsKept_refl ..) v (fun h => hw ▸ useSet_one_of_lt (n := 8) (by decide) rfl (by decide) h)) hp ht

/-- A word that writes elements to the lanes of its mask keeps every other register and lane. -/
theorem regsKept_lanes {d n cnt : Nat} (v : Nat → W64) (hw : (info i).writes = [⟨.v, d, n⟩]) (hn : max cnt 1 ≤ n) :
    RegsKept (useSet (info i).writes) (wordOf i s).lanes s.team.regs (s.team.regs.writeLanes d cnt v (wordOf i s).lanes) :=
  regsKept_writeLanes v (fun _ hj hd => hw ▸ useSet_row hd (Nat.lt_of_lt_of_le hj hn)) _ (lanes_lt _) (regsKept_refl ..)

theorem intCnt_pos (t : BitVec 3) : 1 ≤ intCnt t := by unfold intCnt; split <;> decide
theorem fltCnt_pos (t : BitVec 3) : 1 ≤ fltCnt t := by unfold fltCnt; split <;> decide
theorem scanCnt_pos (f : BitVec 1) (t : BitVec 3) : 1 ≤ scanCnt f t := by
  unfold scanCnt; split
  · exact fltCnt_pos t
  · exact intCnt_pos t
theorem fcvtCnt_pos (t u : BitVec 3) : 1 ≤ (fcvtCnt t u).1 := by
  unfold fcvtCnt; split_ifs
  · decide
  · decide
  · exact fltCnt_pos t

theorem framed_of_writesLanes {d : BitVec 6} {cnt : Nat} {v : Nat → W64} (hw : (info i).writes = [⟨.v, d.toNat, cnt⟩]) (hn : 1 ≤ cnt)
    (hx : exec i s = s.runWord i eff) (he : eff (wordOf i s) s.begin_ = .next ((wordOf i s).putVec s.begin_ d cnt v))
    (hp : Passes i s) (ht : exec i s = .next t) : Framed i s t :=
  framed_of_withRegs hx he (regsKept_lanes v hw (by omega)) hp ht

theorem framed_of_writesFloats {d : BitVec 6} {cnt : Nat} {v : Nat → W64 × FFlags} (hw : (info i).writes = [⟨.v, d.toNat, cnt⟩])
    (hn : 1 ≤ cnt) (hf : setsFlags i = true)
    (hx : exec i s = s.runWord i eff) (he : eff (wordOf i s) s.begin_ = .next ((wordOf i s).putFlt s.begin_ d cnt v))
    (hp : Passes i s) (ht : exec i s = .next t) : Framed i s t :=
  framed_of_raiseFlags (g := fun r => r.writeLanes d.toNat cnt (fun l => (v l).1) (wordOf i s).lanes) hx he hf
    (regsKept_lanes _ hw (by omega)) hp ht

end

/-! ### Words of a shape of their own -/

section
variable {s t : State} {d a b : BitVec 6} {k : BitVec 2} {e f g : BitVec 1} {c m o ty : BitVec 3}

/-- Two s-registers in a row. -/
theorem regsKept_writeS_pair {i : Instr} (hw : (info i).writes = [⟨.s, d.toNat, 2⟩]) (x y : W64) :
    RegsKept (useSet (info i).writes) (wordOf i s).lanes s.team.regs ((s.team.regs.writeS d.toNat x).writeS (d.toNat + 1) y) := by
  have hu : ∀ j, j < 2 → d.toNat + j < 64 → (useSet (info i).writes).getLsbD (64 + (d.toNat + j)) = true := by
    intro j hj hd
    rw [hw, useSet_cons, useSet_nil, show ∀ x : RegSet, x ||| 0 = x from fun _ => BitVec.or_zero, Use.getLsbD_set (by simp)]
    simp only [Bool.and_eq_true, decide_eq_true_eq]
    show (64 + (d.toNat + j) < 172 ∧ 64 + d.toNat ≤ 64 + (d.toNat + j)) ∧ 64 + (d.toNat + j) < 64 + d.toNat + 2
    omega
  exact regsKept_writeS (regsKept_writeS (regsKept_refl ..) x (hu 0 (by decide))) y (hu 1 (by decide))

theorem sdiv_framed (hp : Passes (.sdiv d a b k ty) s) (ht : exec (.sdiv d a b k ty) s = .next t) : Framed (.sdiv d a b k ty) s t :=
  framed_of_withRegs exec_sdiv rfl (regsKept_writeS_pair rfl _ _) hp ht

theorem time_framed (hp : Passes (.time d) s) (ht : exec (.time d) s = .next t) : Framed (.time d) s t :=
  framed_of_withRegs exec_time rfl (regsKept_writeS_pair rfl _ _) hp ht

/-- AVEC takes only the types whose elements are as wide as the registers that it writes. -/
theorem avec_type (hp : Passes (.avec d a ty) s) : intCnt ty = if ty = 7 then 2 else 1 := by
  have h := hp.details
  by_cases hb : (info (.avec d a ty)).bad7 = true
  · have hm : 0x07 ∈ s.details (.avec d a ty) :=
      List.mem_append_left _ (show 0x07 ∈ (info (.avec d a ty)).details _ by simp [Info.details, hb])
    rw [h] at hm
    cases hm
  · have hb' : ¬ (ty ≠ 0 ∧ ty ≠ 7) := by simpa [info] using hb
    by_cases h7 : ty = 7
    · subst h7; rfl
    · have : ty = 0 := by by_contra h0; exact hb' ⟨h0, h7⟩
      subst this; rfl

theorem avec_framed (hp : Passes (.avec d a ty) s) (ht : exec (.avec d a ty) s = .next t) : Framed (.avec d a ty) s t :=
  framed_of_writesLanes (cnt := intCnt ty) (by rw [avec_type hp]; rfl) (intCnt_pos ty) exec_avec rfl hp ht

theorem vdiv_framed (hp : Passes (.vdiv d a b k g ty) s) (ht : exec (.vdiv d a b k g ty) s = .next t) :
    Framed (.vdiv d a b k g ty) s t := by
  have hn := intCnt_pos ty
  have hw : ∀ j, j < 2 * intCnt ty → d.toNat + j < 64 → (useSet (info (.vdiv d a b k g ty)).writes).getLsbD (d.toNat + j) = true :=
    fun j hj hd => useSet_row hd hj
  refine framed_of_withRegs exec_vdiv rfl (regsKept_writeLanes _ (fun j hj hd => ?_) _ (lanes_lt _)
    (regsKept_writeLanes _ (fun j hj hd => hw j (by omega) hd) _ (lanes_lt _) (regsKept_refl ..))) hp ht
  rw [Nat.add_assoc] at hd ⊢
  exact hw _ (by omega) hd

theorem fcmp_framed (hp : Passes (.fcmp c m a b k g ty) s) (ht : exec (.fcmp c m a b k g ty) s = .next t) :
    Framed (.fcmp c m a b k g ty) s t :=
  framed_of_raiseFlags exec_fcmp rfl rfl
    (regsKept_writeM (regsKept_refl ..) _ (fun h => useSet_one_of_lt (n := 8) (by decide) rfl (by decide) h)) hp ht

theorem vred_framed (hp : Passes (.vred d a f o g ty) s) (ht : exec (.vred d a f o g ty) s = .next t) :
    Framed (.vred d a f o g ty) s t :=
  framed_of_raiseFlags exec_vred rfl rfl
    (regsKept_writeS (regsKept_refl ..) _ (fun h => useSet_one_of_lt (n := 64) (by decide) rfl (by decide) h)) hp ht

theorem vvote_framed (hp : Passes (.vvote d a k) s) (ht : exec (.vvote d a k) s = .next t) : Framed (.vvote d a k) s t := by
  by_cases h : k = 2
  · subst h
    refine framed_of_writes _ ?_ (exec_vvote_writesM hp) ht
    exact regsKept_writeM (regsKept_refl ..) _ (fun h => useSet_one_of_lt (n := 8) (by decide) rfl (by decide) h)
  · have hw : (info (.vvote d a k)).writes = [⟨.s, d.toNat, 1⟩] := congrArg (fun u => [u]) (if_neg h)
    refine framed_of_writes _ ?_ (exec_vvote_writesS h hp) ht
    exact regsKept_writeS (regsKept_refl ..) _ (fun h => hw ▸ useSet_one_of_lt (n := 64) (by decide) rfl (by decide) h)

/-- The lanes of a scan are those that it is given. -/
theorem scanLanes_lanes (w : Wd) (z : State) (x : Nat → W64) (l : List Nat) (v : Option W64) (fl : FFlags) :
    (scanLanes w z f o ty x l v fl).1.map Prod.fst = l := by
  induction l generalizing v fl with
  | nil => rfl
  | cons j l ih => exact congrArg (j :: ·) (ih _ _)

theorem regsKept_foldl_writeVec {w : RegSet} {ls : List Nat} {r : Regs} {n cnt : Nat} {α : Type} (x : Nat × α → W64)
    (hn : ∀ j, j < max cnt 1 → n + j < 64 → w.getLsbD (n + j) = true) (l : List (Nat × α)) (hl : ∀ y ∈ l, y.1 < 1024 ∧ y.1 ∈ ls)
    {r' : Regs} (h : RegsKept w ls r r') : RegsKept w ls r (l.foldl (fun r y => r.writeVec n cnt y.1 (x y)) r') := by
  induction l generalizing r' with
  | nil => exact h
  | cons y l ih =>
    obtain ⟨hy, hm⟩ := hl y (List.mem_cons_self ..)
    exact ih (fun z hz => hl z (List.mem_cons_of_mem _ hz)) (regsKept_writeVec h _ hy hm hn)

theorem vscan_framed (hp : Passes (.vscan d a e f o g ty) s) (ht : exec (.vscan d a e f o g ty) s = .next t) :
    Framed (.vscan d a e f o g ty) s t := by
  have hn := scanCnt_pos f ty
  refine framed_of_after _ _ (fun h => by cases h) ?_ (exec_vscan_after hp) ht
  refine regsKept_foldl_writeVec (fun y : Nat × W64 × W64 => if e = 1 then y.2.1 else y.2.2)
    (fun j hj hd => useSet_row hd (by omega)) _ (fun y hy => lanes_lt _ _ ?_) (regsKept_refl ..)
  have hl := scanLanes_lanes (f := f) (o := o) (ty := ty) (wordOf (.vscan d a e f o g ty) s) s.begin_
    (fun l => (wordOf (.vscan d a e f o g ty) s).vec a.toNat (scanCnt f ty) l) (wordOf (.vscan d a e f o g ty) s).lanes none 0
  exact hl ▸ List.mem_map_of_mem hy

end

/-! ### All words -/

/-- Settles O6: by the shape of what each word writes. -/
theorem registerWordsFrame : Obligations.RegisterWordsFrame := by
  unfold Obligations.RegisterWordsFrame
  intro i s t hr hp ht
  cases i with
  | sadd => exact framed_of_writesS rfl exec_sadd rfl hp ht
  | ssub => exact framed_of_writesS rfl exec_ssub rfl hp ht
  | smul => exact framed_of_writesS rfl exec_smul rfl hp ht
  | smulh => exact framed_of_writesS rfl exec_smulh rfl hp ht
  | sand => exact framed_of_writesS rfl exec_sand rfl hp ht
  | sor => exact framed_of_writesS rfl exec_sor rfl hp ht
  | sxor => exact framed_of_writesS rfl exec_sxor rfl hp ht
  | ssel => exact framed_of_writesS rfl exec_ssel rfl hp ht
  | sshl => exact framed_of_writesS rfl exec_sshl rfl hp ht
  | sshr => exact framed_of_writesS rfl exec_sshr rfl hp ht
  | ssar => exact framed_of_writesS rfl exec_ssar rfl hp ht
  | scmp => exact framed_of_writesS rfl exec_scmp rfl hp ht
  | smin => exact framed_of_writesS rfl exec_smin rfl hp ht
  | smax => exact framed_of_writesS rfl exec_smax rfl hp ht
  | smov => exact framed_of_writesS rfl exec_smov rfl hp ht
  | sdiv => exact sdiv_framed hp ht
  | smovi => exact framed_of_writesS rfl exec_smovi rfl hp ht
  | saddi => exact framed_of_writesS rfl exec_saddi rfl hp ht
  | aadd => exact framed_of_writesA_or rfl exec_aadd rfl hp ht
  | asub => exact framed_of_writesA_or rfl exec_asub rfl hp ht
  | ashl => exact framed_of_writesA rfl exec_ashl rfl hp ht
  | amov => exact framed_of_writesA rfl exec_amov rfl hp ht
  | amovA => exact framed_of_writesA rfl exec_amovA rfl hp ht
  | aset => exact framed_of_writesA rfl exec_aset rfl hp ht
  | avec => exact avec_framed hp ht
  | abase => exact framed_of_writesS rfl exec_abase rfl hp ht
  | astr => exact framed_of_writesS rfl exec_astr rfl hp ht
  | aoff => exact framed_of_writesA rfl exec_aoff rfl hp ht
  | vadd => exact framed_of_writesLanes rfl (intCnt_pos _) exec_vadd rfl hp ht
  | vsub => exact framed_of_writesLanes rfl (intCnt_pos _) exec_vsub rfl hp ht
  | vmul => exact framed_of_writesLanes rfl (intCnt_pos _) exec_vmul rfl hp ht
  | vmulh => exact framed_of_writesLanes rfl (intCnt_pos _) exec_vmulh rfl hp ht
  | vmad => exact framed_of_writesLanes rfl (intCnt_pos _) exec_vmad rfl hp ht
  | vsadd => exact framed_of_writesLanes rfl (intCnt_pos _) exec_vsadd rfl hp ht
  | vssub => exact framed_of_writesLanes rfl (intCnt_pos _) exec_vssub rfl hp ht
  | vabsd => exact framed_of_writesLanes rfl (intCnt_pos _) exec_vabsd rfl hp ht
  | vand => exact framed_of_writesLanes rfl (intCnt_pos _) exec_vand rfl hp ht
  | vor => exact framed_of_writesLanes rfl (intCnt_pos _) exec_vor rfl hp ht
  | vxor => exact framed_of_writesLanes rfl (intCnt_pos _) exec_vxor rfl hp ht
  | vandn => exact framed_of_writesLanes rfl (intCnt_pos _) exec_vandn rfl hp ht
  | vshl => exact framed_of_writesLanes rfl (intCnt_pos _) exec_vshl rfl hp ht
  | vshr => exact framed_of_writesLanes rfl (intCnt_pos _) exec_vshr rfl hp ht
  | vsar => exact framed_of_writesLanes rfl (intCnt_pos _) exec_vsar rfl hp ht
  | vrot => exact framed_of_writesLanes rfl (intCnt_pos _) exec_vrot rfl hp ht
  | vmin => exact framed_of_writesLanes rfl (intCnt_pos _) exec_vmin rfl hp ht
  | vmax => exact framed_of_writesLanes rfl (intCnt_pos _) exec_vmax rfl hp ht
  | vsel => exact framed_of_writesLanes rfl (intCnt_pos _) exec_vsel rfl hp ht
  | vmov => exact framed_of_writesLanes rfl (intCnt_pos _) exec_vmov rfl hp ht
  | vclz => exact framed_of_writesLanes rfl (intCnt_pos _) exec_vclz rfl hp ht
  | vpop => exact framed_of_writesLanes rfl (intCnt_pos _) exec_vpop rfl hp ht
  | vbrev => exact framed_of_writesLanes rfl (intCnt_pos _) exec_vbrev rfl hp ht
  | vbfe => exact framed_of_writesLanes rfl (intCnt_pos _) exec_vbfe rfl hp ht
  | vbfi => exact framed_of_writesLanes rfl (intCnt_pos _) exec_vbfi rfl hp ht
  | vcvti => exact framed_of_writesLanes rfl (intCnt_pos _) exec_vcvti rfl hp ht
  | vlane => exact framed_of_writesLanes rfl (by decide) exec_vlane rfl hp ht
  | vdiv => exact vdiv_framed hp ht
  | vcmp => exact framed_of_writesM rfl exec_vcmp rfl hp ht
  | fadd => exact framed_of_writesFloats rfl (fltCnt_pos _) rfl exec_fadd rfl hp ht
  | fsub => exact framed_of_writesFloats rfl (fltCnt_pos _) rfl exec_fsub rfl hp ht
  | fmul => exact framed_of_writesFloats rfl (fltCnt_pos _) rfl exec_fmul rfl hp ht
  | ffma => exact framed_of_writesFloats rfl (fltCnt_pos _) rfl exec_ffma rfl hp ht
  | fmin => exact framed_of_writesFloats rfl (fltCnt_pos _) rfl exec_fmin rfl hp ht
  | fmax => exact framed_of_writesFloats rfl (fltCnt_pos _) rfl exec_fmax rfl hp ht
  | fcpsgn => exact framed_of_writesFloats rfl (fltCnt_pos _) rfl exec_fcpsgn rfl hp ht
  | frnd => exact framed_of_writesFloats rfl (fltCnt_pos _) rfl exec_frnd rfl hp ht
  | frcp => exact framed_of_writesFloats rfl (fltCnt_pos _) rfl exec_frcp rfl hp ht
  | frsq => exact framed_of_writesFloats rfl (fltCnt_pos _) rfl exec_frsq rfl hp ht
  | fsqrt => exact framed_of_writesFloats rfl (fltCnt_pos _) rfl exec_fsqrt rfl hp ht
  | fdiv => exact framed_of_writesFloats rfl (fltCnt_pos _) rfl exec_fdiv rfl hp ht
  | fexp2 => exact framed_of_writesFloats rfl (fltCnt_pos _) rfl exec_fexp2 rfl hp ht
  | flog2 => exact framed_of_writesFloats rfl (fltCnt_pos _) rfl exec_flog2 rfl hp ht
  | fsin => exact framed_of_writesFloats rfl (fltCnt_pos _) rfl exec_fsin rfl hp ht
  | fcos => exact framed_of_writesFloats rfl (fltCnt_pos _) rfl exec_fcos rfl hp ht
  | fcmp => exact fcmp_framed hp ht
  | fcvt => exact framed_of_writesFloats rfl (fcvtCnt_pos _ _) rfl exec_fcvt rfl hp ht
  | cvti => exact framed_of_writesFloats rfl (intCnt_pos _) rfl exec_cvti rfl hp ht
  | cvtf => exact framed_of_writesFloats rfl (fltCnt_pos _) rfl exec_cvtf rfl hp ht
  | fclass => exact framed_of_writesLanes rfl (by decide) exec_fclass rfl hp ht
  | vshuf => exact framed_of_writesLanes rfl (intCnt_pos _) exec_vshuf rfl hp ht
  | vbcast => exact framed_of_writesLanes rfl (intCnt_pos _) exec_vbcast rfl hp ht
  | vscan => exact vscan_framed hp ht
  | vred => exact vred_framed hp ht
  | mand => exact framed_of_writesM rfl exec_mand rfl hp ht
  | mor => exact framed_of_writesM rfl exec_mor rfl hp ht
  | mxor => exact framed_of_writesM rfl exec_mxor rfl hp ht
  | mnot => exact framed_of_writesM rfl exec_mnot rfl hp ht
  | mpop => exact framed_of_writesS rfl exec_mpop rfl hp ht
  | mfirst => exact framed_of_writesS rfl exec_mfirst rfl hp ht
  | mtos => exact framed_of_writesS rfl exec_mtos rfl hp ht
  | stom => exact framed_of_writesM rfl exec_stom rfl hp ht
  | vvote => exact vvote_framed hp ht
  | srd => exact framed_of_writesS rfl exec_srd rfl hp ht
  | time => exact time_framed hp ht
  | clk => exact framed_of_writesS rfl exec_clk rfl hp ht
  | _ => cases hr

end Sys2Proof.Machine
end

section
/-! PROOFS. Clause headers, hints, transfers, seams, the end of a team, and traps: one lemma for each way that a word ends. -/

namespace Sys2Proof.Machine

open Sys2Proof.Safety

/-- A hint joins those before the next word, and the team goes on to that. -/
theorem exec_of_addHint {i : Instr} {s : State} {f : Hints → Hints}
    (hx : exec i s = s.runWord i (fun _ z => .placed (z.addHint f))) (h : Passes i s) :
    exec i s = .next (((s.begin_.setTeam { s.team with
      hints := f s.team.hints, flow := { s.team.flow with pos := s.team.flow.pos.next }, stall := none }).issued s.cur 1).tick (dieOf s.cur)) :=
  hx.trans (State.runWord_placed h (f := fun z => z.addHint f) rfl)

/-- The place of a team whose clause has been opened by the header where it stands. -/
def State.openClause (s : State) (a b : BitVec 4) (l : BitVec 6) : State :=
  s.setTeam { s.team with
    hints := {}, stall := none,
    flow := { s.team.flow with pos := { pc := s.team.flow.pos.pc + 4, left := l.toNat + 1, hdr := s.team.flow.pos.pc,
                                        setA := a, setB := b } } }

theorem exec_clause_opens {s : State} {wait : BitVec 12} {a b : BitVec 4} {l : BitVec 6} (h : Passes (.clause wait a b l) s)
    (hz : s.team.flagsZero wait = true) :
    exec (.clause wait a b l) s = .next ((s.begin_.openClause a b l).tick (dieOf s.cur)) := by
  rw [exec_clause]
  exact State.runWord_placed h (f := fun z => z.openClause a b l) (if_pos hz)

theorem exec_clause_waits {s : State} {wait : BitVec 12} {a b : BitVec 4} {l : BitVec 6} (h : Passes (.clause wait a b l) s)
    (hz : s.team.flagsZero wait = false) :
    exec (.clause wait a b l) s = .next ((s.begin_.stalled 4).tick (dieOf s.cur)) := by
  rw [exec_clause]
  exact State.runWord_hold h (f := id) (if_neg (by simp [hz])) rfl

/-- Settles O21: a header waits or opens its clause, and each hint is one case of `exec_of_addHint`. -/
theorem clauseAndHints : Obligations.ClauseAndHints := by
  unfold Obligations.ClauseAndHints
  intro s wait a b l p b1 b2 b3 b4 c m r g
  exact ⟨exec_clause_opens, exec_clause_waits,
    exec_of_addHint (f := fun h => { h with imms := h.imms ++ [p] }) exec_hintImm,
    exec_of_addHint (f := fun h => { h with sched := some (b1 ++ b2 ++ b3 ++ b4) }) exec_hintSched,
    exec_of_addHint (f := fun h => { h with modh := some ⟨c, b1, b2, b3, m⟩ }) exec_hintMod,
    exec_of_addHint (f := fun h => { h with src3 := some (c, r) }) exec_hintSrc3,
    exec_of_addHint (f := fun h => { h with guard := some (b1, g) }) exec_hintGuard⟩

/-! ### Transfers -/
section
variable {s : State} {i : Instr} {target : W64}

theorem regTransfer_aligned {w : Wd} {z : State} {x : State} (ha : target.extractLsb' 0 2 = 0 ∧ canonical target = true) :
    regTransfer w z target x = .go target (.ok x) :=
  if_neg (by simp [ha.1, ha.2])

theorem regTransfer_refused {w : Wd} {z : State} {x : State} (ha : ¬ (target.extractLsb' 0 2 = 0 ∧ canonical target = true)) :
    regTransfer w z target x = .trap z (w.trap z cILLEGAL 0x09 target) :=
  if_pos (by simpa [imp_iff_not_or] using ha)

/-- The failure of a target that has not been fetched changes nothing. -/
theorem State.fetchFailed_of_cause {z : State} {u : Nat} {va : W64} {g : EFault} (hc : g.cause ≠ cMEMERR) : z.fetchFailed u va g = z :=
  if_neg hc

section
variable {reg : Wd → W64} {f : Wd → State → State} (hx : exec i s = s.runWord i (fun w z => regTransfer w z (reg w) (f w z))) (h : Passes i s)
include hx h

/-- A transfer to what a register holds. -/
theorem exec_regTransfer (ha : (reg (wordOf i s)).extractLsb' 0 2 = 0 ∧ canonical (reg (wordOf i s)) = true)
    (ht : headerAt s (reg (wordOf i s))) : exec i s = .next (afterJump i s (f (wordOf i s)) (reg (wordOf i s))) :=
  hx.trans (State.runWord_go h (regTransfer_aligned ha) ht)

/-- A register that holds no address of a word is refused before the later checks. -/
theorem exec_regTransfer_refused (hl : (info i).last = true)
    (ha : ¬ ((reg (wordOf i s)).extractLsb' 0 2 = 0 ∧ canonical (reg (wordOf i s)) = true)) :
    exec i s = .next (trapped i s cILLEGAL 0x09 (reg (wordOf i s))) := by
  have ht : s.begin_.targetFault (wordOf i s) (regTransfer (wordOf i s) s.begin_ (reg (wordOf i s)) (f (wordOf i s) s.begin_)) =
      some (⟨cILLEGAL, 0x09, reg (wordOf i s)⟩, (wordOf i s).trap s.begin_ cILLEGAL 0x09 (reg (wordOf i s))) := by
    rw [regTransfer_refused ha]
    exact if_pos (by simp [show (wordOf i s).f.last = true from hl, Wd.trap])
  refine hx.trans ((State.runWord_targetFault h.details ht).trans ?_)
  rw [State.fetchFailed_of_cause (show cILLEGAL ≠ cMEMERR by decide)]
  rfl

end

variable {o : BitVec 26} {a : BitVec 6} {c : BitVec 3} {q : BitVec 17}

theorem exec_bra_goes (h : Passes (.bra o) s) (ht : headerAt s (offTarget s.team.flow.pos.pc o)) :
    exec (.bra o) s = .next (afterJump (.bra o) s id (offTarget s.team.flow.pos.pc o)) := by
  rw [exec_bra]
  exact State.runWord_go h rfl ht

theorem exec_call_goes (h : Passes (.call o) s) (ht : headerAt s (offTarget s.team.flow.pos.pc o)) :
    exec (.call o) s = .next (afterJump (.call o) s (fun z => z.withRegs (fun r => r.writeS 63 (s.team.flow.pos.pc + 4)))
      (offTarget s.team.flow.pos.pc o)) := by
  rw [exec_call]
  exact State.runWord_go h rfl ht

theorem exec_brc_taken (h : Passes (.brc a c q) s) (hc : brcHolds c ((wordOf (.brc a c q) s).r.readS a.toNat) = true)
    (ht : headerAt s (offTarget s.team.flow.pos.pc q)) :
    exec (.brc a c q) s = .next (afterJump (.brc a c q) s id (offTarget s.team.flow.pos.pc q)) := by
  rw [exec_brc]
  exact State.runWord_go h (if_pos hc) ht

theorem exec_brc_not_taken (h : Passes (.brc a c q) s) (hc : brcHolds c ((wordOf (.brc a c q) s).r.readS a.toNat) = false) :
    exec (.brc a c q) s = .next (after (.brc a c q) s id) := by
  rw [exec_brc]
  exact State.runWord_next h (if_neg (by simp [hc]))

theorem exec_ret_runs : exec .ret s = s.runWord .ret (fun w z => regTransfer w z (w.r.readS 63) z) := rfl

theorem exec_callr_runs : exec (.callr a) s = s.runWord (.callr a) (fun w z =>
    regTransfer w z (w.r.readS a.toNat) (z.withRegs (fun r => r.writeS 63 (w.pc + 4)))) := rfl

end

/-- Settles O22: a transfer goes to the header at its target, or its register is refused. -/
theorem branches : Obligations.Branches := by
  unfold Obligations.Branches
  intro s o q a c
  exact ⟨exec_bra_goes, exec_call_goes, exec_regTransfer exec_ret_runs, exec_regTransfer exec_callr_runs, exec_brc_taken,
    exec_brc_not_taken, fun h => exec_regTransfer_refused exec_callr_runs h rfl, fun h => exec_regTransfer_refused exec_ret_runs h rfl⟩

/-! ### Seams and the end of a team -/

section
variable {s : State} {n : BitVec 8}

theorem exec_exit_joins {e : DivEntry} {more : List DivEntry} (h : Passes .exit s)
    (he : exitStack s.team.flow.active s.team.flow.dstack = e :: more) (ht : headerAt s e.target) :
    exec .exit s = .next (afterJump .exit s (fun x => x.withFlow (fun f => { f with active := e.mask, dstack := more })) e.target) := by
  have he' : exitStack (wordOf .exit s).active s.begin_.team.flow.dstack = e :: more := he
  rw [exec_exit]
  refine State.runWord_go h ?_ ht
  simp only [he']

section
variable (h : Passes .exit s) (he : exitStack s.team.flow.active s.team.flow.dstack = [])
  (hf : s.team.flagsZero (BitVec.allOnes 12) = true) (hb : s.sliceBusy s.cur = false) (hm : s.matStop s.cur = none)
include h he hf hb hm

theorem exec_exit_retires (hl : s.lastTeam s.cur = false) :
    exec .exit s = .next (((s.begin_.issued s.cur 1).retire s.cur).tick (dieOf s.cur)) := by
  rw [exec_exit]
  refine State.runWord_placed h (f := fun z => (z.issued z.cur 1).retire z.cur) ?_
  simp only [show exitStack (wordOf .exit s).active s.begin_.team.flow.dstack = [] from he,
    show s.begin_.team.flagsZero (BitVec.allOnes 12) = true from hf, show s.begin_.sliceBusy s.begin_.cur = false from hb,
    show s.begin_.matStop s.begin_.cur = none from hm, show s.begin_.lastTeam s.begin_.cur = false from hl]
  rfl

/-- The last team of a workgroup writes its mapped ranges back first. -/
theorem exec_exit_last {z : State} (hl : s.lastTeam s.cur = true) (hr : ∀ a, s.team.wait ≠ .resident a)
    (hz : s.begin_.flushRanges s.team (s.wgOf s.team).ranges.keys = (z, none)) :
    exec .exit s = .next (((z.issued z.cur 1).retire z.cur).tick (dieOf s.cur)) := by
  rw [exec_exit]
  refine State.runWord_placed h (f := fun _ => (z.issued z.cur 1).retire z.cur) ?_
  simp only [show exitStack (wordOf .exit s).active s.begin_.team.flow.dstack = [] from he,
    show s.begin_.team.flagsZero (BitVec.allOnes 12) = true from hf, show s.begin_.sliceBusy s.begin_.cur = false from hb,
    show s.begin_.matStop s.begin_.cur = none from hm, show s.begin_.lastTeam s.begin_.cur = true from hl,
    show s.begin_.flushRanges s.begin_.team (s.begin_.wgOf s.begin_.team).ranges.keys = (z, none) from hz]
  rw [if_neg (by simp), if_pos trivial]
  split
  · next hw => exact absurd hw (hr _)
  · rfl

end

theorem exec_enter_next {f : Flow → Flow} (h : Passes (.enter n) s) (hd : (s.ctxOf s.team).dbgctl.getLsbD 47 = false)
    (hf : s.team.flow.enter ((wordOf (.enter n) s).imm.extractLsb' 0 16) = f s.team.flow) :
    exec (.enter n) s = .next (Safety.afterSeam (.enter n) s (fun x => x.withFlow f) 0) := by
  rw [exec_enter]
  exact State.runWord_seam h ((if_neg fun hb => Bool.false_ne_true (hd.symm.trans hb.1)).trans
    (congrArg (fun g => Eff.seam (s.begin_.setTeam { s.team with flow := g }) 0) hf))

/-- ENTER on a stack with room, and on a full one. -/
theorem Flow.enter_room {f : Flow} {x : BitVec 16} (hn : f.rstack.length < 16) : f.enter x = { f with rstack := x :: f.rstack } :=
  if_neg (Nat.not_le.2 hn)

theorem Flow.enter_full {f : Flow} {x : BitVec 16} (hn : 16 ≤ f.rstack.length) : f.enter x =
    { f with rstack := x :: f.rstack.take 15, rovf := if f.rovf < 255 then f.rovf + 1 else 255 } :=
  if_pos hn

theorem exec_leave_pops {top : BitVec 16} {rest : List (BitVec 16)} (h : Passes .leave s) (hr : s.team.flow.rstack = top :: rest) :
    exec .leave s = .next (Safety.afterSeam .leave s (fun x => x.withFlow (fun f => { f with rstack := rest })) 0) := by
  rw [exec_leave]
  refine State.runWord_seam h ?_
  simp only [show s.begin_.team.flow.rstack = top :: rest from hr]

theorem exec_leave_overflown (h : Passes .leave s) (hr : s.team.flow.rstack = []) (ho : s.team.flow.rovf ≠ 0) :
    exec .leave s = .next (Safety.afterSeam .leave s (fun x => x.withFlow (fun f => { f with rovf := f.rovf - 1 })) 0) := by
  rw [exec_leave]
  refine State.runWord_seam h ?_
  simp only [show s.begin_.team.flow.rstack = [] from hr]
  exact if_neg ho

theorem exec_leave_empty (h : Passes .leave s) (hr : s.team.flow.rstack = []) (ho : s.team.flow.rovf = 0) :
    exec .leave s = .next (trapped .leave s cSTACK) := by
  rw [exec_leave]
  refine State.runWord_trap h (by decide) ?_
  simp only [show s.begin_.team.flow.rstack = [] from hr]
  exact if_pos ho

end

/-- Settles O24, a lemma for each end of EXIT, ENTER and LEAVE. -/
theorem flowWords : Obligations.FlowWords := by
  unfold Obligations.FlowWords
  intro s z n top rest e more
  refine ⟨exec_exit_joins, exec_exit_retires, fun h he hf hb hm => exec_exit_last h he hf hb hm, fun h => ?_, fun h => ?_, fun h => ?_, fun h => ?_, fun h hd hn => ?_,
    fun h hd hn => ?_, exec_leave_pops, exec_leave_overflown, exec_leave_empty⟩
  · rw [exec_nop]
    exact State.runWord_next h rfl
  · rw [exec_yield]
    exact State.runWord_next h rfl
  · rw [exec_isync]
    exact State.runWord_next h rfl
  · rw [exec_seam]
    exact State.runWord_seam h rfl
  · rw [BitVec.setWidth_eq_extractLsb' (by decide)]
    exact exec_enter_next h hd (Flow.enter_room hn)
  · rw [BitVec.setWidth_eq_extractLsb' (by decide)]
    exact exec_enter_next h hd (Flow.enter_full hn)

section
variable {i : Instr} {s : State} {eff : Wd → State → Eff} {r : TrapReq}

/-- A word that asks for a trap in place has issued: the trap is taken where the next word follows. -/
theorem State.runWord_trap_inPlace (h : Passes i s) (hl : (info i).last = false) (hr : r.cls = 1)
    (he : eff (wordOf i s) s.begin_ = .trap s.begin_ r) :
    s.runWord i eff = .next (((s.begin_.finish (setsOf i s)).takeTrap s.cur r).tick (dieOf s.cur)) := by
  rw [State.runWord_passes h _ (State.targetFault_not_last hl _), he]
  simp only [State.settle, hr, if_true]
  rfl

/-- A word whose effect places the team at a seam. -/
theorem State.runWord_placedSeam {f : State → State} (h : Passes i s)
    (he : eff (wordOf i s) s.begin_ = .placedSeam (f s.begin_)) :
    s.runWord i eff = .next (((f s.begin_).seamHere 0).tick (dieOf s.cur)) := by
  rw [State.runWord_passes h _ (by rw [he]; rfl), he]
  rfl

/-- A word whose checks find a detail traps with the lowest. -/
theorem State.runWord_illegal {d : Nat} (hd : lowest (s.details i) = some d) : s.runWord i eff = .next (trapped i s cILLEGAL d) := by
  have hd' : lowest (s.begin_.details i) = some d := hd
  simp only [State.runWord, hd']
  rfl

/-- A word with no refused target that writes what its region has read before. -/
theorem State.runWord_contract (hd : s.details i = []) (ht : s.begin_.targetFault (wordOf i s) (eff (wordOf i s) s.begin_) = none)
    (hc : useSet (info i).writes &&& readBefore i s ≠ 0) :
    s.runWord i eff = .next ((s.begin_.takeTrap s.cur ((wordOf i s).trap s cCONTRACT 0 0 0xFFFF
      (auxOf (useSet (info i).writes &&& readBefore i s)))).tick (dieOf s.cur)) := by
  have hl : lowest (s.begin_.details i) = none := (lowest_nil_iff _).2 hd
  have ht' : s.begin_.targetFault (s.begin_.wd i) (eff (s.begin_.wd i) s.begin_) = none := ht
  simp only [State.runWord, hl, ht']
  exact if_pos hc

/-- Settles O25: both words ask for a trap in place. -/
theorem softwareTraps : Obligations.SoftwareTraps := by
  unfold Obligations.SoftwareTraps
  intro s c
  refine ⟨fun h => ?_, fun h => ?_⟩
  · rw [exec_bkpt]
    exact State.runWord_trap_inPlace h rfl rfl rfl
  · rw [exec_trap]
    exact State.runWord_trap_inPlace h rfl rfl rfl

/-- The team of a state is the one that its slot holds. -/
theorem State.team_eq (s : State) : s.team = s.teams.get s.cur := rfl

theorem State.traceTrap_cur (s : State) (uid : Nat) (r : TrapReq) : (s.traceTrap uid r).cur = s.cur := by
  unfold State.traceTrap
  dsimp only
  split <;> rfl

/-- A trap in place of the current team, with no word outstanding, whose grid's handler can be entered. -/
theorem State.takeTrap_handler {x : W32} (hc : r.cls = 1) (hn : r.cause ≠ cNOTPRESENT) (hw : s.team.words = [])
    (hh : BitVec.ofNat 64 (s.gridOf s.team).launch.traph ≠ 0) (hf : s.team.trap.handler = none) (hs : (s.ctxOf s.team).state ≠ 2)
    (hx : s.fetchWord s.cur (BitVec.ofNat 64 (s.gridOf s.team).launch.traph) = .ok x) (hi : isHeader x = true) :
    (s.takeTrap s.cur r).team = s.team.noPending.enterAt (s.trapRecord s.cur r s.team.flow.pos.pc false) r.cause
      (BitVec.ofNat 64 (s.gridOf s.team).launch.traph) true := by
  have hz : (s.modTeam s.cur Team.noPending).teams.get s.cur = s.team.noPending := SMap.get_put_same ..
  have hx' : (s.modTeam s.cur Team.noPending).fetchWord s.cur (BitVec.ofNat 64 (s.gridOf s.team).launch.traph) = .ok x :=
    (State.fetchWord_teams s _ s.cur (congrArg (·.place.ctx) hz) (congrArg (·.prefetch) hz) (congrArg (·.line) hz) _).trans hx
  have hr : (s.modTeam s.cur Team.noPending).trapRecord s.cur r s.team.flow.pos.pc false = s.trapRecord s.cur r s.team.flow.pos.pc false := by
    unfold State.trapRecord
    rw [hz]
    rfl
  rw [State.takeTrap_inPlace s s.cur r hc hw, State.enterTrap_handler _ s.cur r (x := x) hn (by rw [hz]; exact hh) (by rw [hz]; exact hf)
    (by rw [hz]; exact hx') hi, hz, State.haltAtSeam_running]
  · rw [State.team_eq, State.traceTrap_teams, State.traceTrap_cur]
    refine (SMap.get_put_same ..).trans ?_
    exact congrArg (fun b => s.team.noPending.enterAt b r.cause _ true) hr
  · rw [State.traceTrap_teams, State.traceTrap_ctxs]
    show (s.ctxs.get (((s.modTeam s.cur Team.noPending).teams.put s.cur _).get s.cur).place.ctx).state ≠ 2
    rw [SMap.get_put_same]
    exact hs

/-- Settles O26: the team is the one that `Team.enterAt` makes. -/
theorem handlerEntry : Obligations.HandlerEntry := by
  unfold Obligations.HandlerEntry
  intro s r x t h hc hn hw hh hf hs hx hi u
  have hu : u = t.noPending.enterAt (s.trapRecord s.cur r t.flow.pos.pc false) r.cause h true :=
    State.takeTrap_handler hc hn hw hh hf hs hx hi
  rw [hu]
  exact ⟨rfl, rfl, rfl, rfl, rfl, rfl, rfl, rfl, rfl, rfl, rfl, rfl, rfl⟩

theorem Team.returnFromTrap_handler {t : Team} {f : Frame} (hf : t.trap.handler = some f) :
    t.returnFromTrap = some ({ t with trap := { t.trap with handler := none } }.restoreFrame f) := by
  simp only [Team.returnFromTrap, hf]

theorem exec_cresume_returns {t' : Team} (h : Passes .cresume s) (hz : s.team.flagsZero (BitVec.allOnes 12) = true)
    (ht : s.team.returnFromTrap = some t') :
    exec .cresume s = .next ((((s.begin_.setTeam t').issued s.cur 1).seamHere 0).tick (dieOf s.cur)) := by
  rw [exec_cresume]
  refine State.runWord_placedSeam (f := fun z => (z.setTeam t').issued z.cur 1) h ?_
  simp only [show s.begin_.team.flagsZero (BitVec.allOnes 12) = true from hz, show s.begin_.team.returnFromTrap = some t' from ht]
  exact if_neg (by simp)

/-- Settles O27. -/
theorem resumeWord : Obligations.ResumeWord := by
  unfold Obligations.ResumeWord
  intro s t' h hz ht
  refine ⟨exec_cresume_returns h hz ht, fun f hf => ?_⟩
  obtain rfl := Option.some.inj ((Team.returnFromTrap_handler hf).symm.trans ht)
  exact ⟨rfl, rfl, rfl, rfl, rfl⟩

/-- A word that no row names, or whose bits alone fail a check, fails one where it stands. -/
theorem State.details_notAnInstruction {x : W32} (hx : lookup x = none ∨ wordDetails s.team.place.vregs x ≠ []) :
    s.details (.wordNotAnInstruction x) ≠ [] := by
  rcases hx with hx | hx
  · simp [State.details, hx]
  · exact List.append_ne_nil_of_left_ne_nil hx _

theorem exists_lowest {l : List Nat} (h : l ≠ []) : ∃ d, lowest l = some d :=
  Option.ne_none_iff_exists'.1 fun hn => h ((lowest_nil_iff l).1 hn)

/-- Settles O28: every word runs through `State.runWord`, whose first check this is. -/
theorem illegalFirst : Obligations.IllegalFirst := by
  unfold Obligations.IllegalFirst
  intro s x
  refine ⟨fun i d hi hd => ?_, fun hx => ?_⟩
  · obtain ⟨eff, he⟩ := exec_word i (.inl hi)
    exact (he s).trans (State.runWord_illegal hd)
  · obtain ⟨d, hd⟩ := exists_lowest (State.details_notAnInstruction hx)
    exact ⟨d, hd, exec_wordNotAnInstruction.trans (State.runWord_illegal hd)⟩

/-- Of the transfers only the calls write a register. -/
theorem writes_of_last {i : Instr} (hl : (info i).last = true) (hw : useSet (info i).writes ≠ 0) :
    (∃ o, i = .call o) ∨ ∃ a, i = .callr a := by
  cases i with
  | call o => exact .inl ⟨o, rfl⟩
  | callr a => exact .inr ⟨a, rfl⟩
  | bra | brc | brd | join | ret | exit | isync | cresume => exact absurd rfl hw
  | _ => exact Bool.noConfusion hl

/-- Settles O29: of the words that check a target first, only the calls write a register. -/
theorem contractHolds : Obligations.ContractHolds := by
  unfold Obligations.ContractHolds
  intro s i hi hd hc ho ha
  cases hl : (info i).last with
  | false =>
    obtain ⟨eff, he⟩ := exec_word i (.inl hi)
    exact (he s).trans (State.runWord_contract hd (State.targetFault_not_last hl _) hc)
  | true =>
    have hw : useSet (info i).writes ≠ 0 := fun hw => hc (by rw [hw]; exact BitVec.zero_and)
    obtain ⟨o, rfl⟩ | ⟨a, rfl⟩ := writes_of_last hl hw
    · rw [exec_call]
      exact State.runWord_contract hd (State.targetFault_header (ho o rfl)) hc
    · obtain ⟨h4, hcan, hh⟩ := ha a rfl
      refine exec_callr_runs.trans (State.runWord_contract hd ?_ hc)
      rw [regTransfer_aligned ⟨h4, hcan⟩]
      exact State.targetFault_header hh
end

end Sys2Proof.Machine
end

section
/-! PROOFS. System registers, clocks, the trace, invalidations and key-value sequences (R95 to R102, R236, R238, R391, R393, R400). -/

namespace Sys2Proof.Machine

open Sys2Proof.Safety

section
variable {s : State} {d a b : BitVec 6} {n : BitVec 14} {k : BitVec 8}

theorem exec_trec_off (h : Passes (.trec a k) s) (hc : (s.ctxOf s.team).dbgctl.getLsbD 0 = false) :
    exec (.trec a k) s = .next (after (.trec a k) s id) := by
  rw [exec_trec]
  exact State.runWord_next h (if_neg (fun q => Bool.false_ne_true (hc.symm.trans q)))

theorem exec_trec_on (h : Passes (.trec a k) s) (hc : (s.ctxOf s.team).dbgctl.getLsbD 0 = true) :
    exec (.trec a k) s = .next (after (.trec a k) s (fun z => z.trace (dieOf s.cur) ⟨1, 0, whereOf s.cur,
      (s.team.seamCnt <<< 8) ||| k.setWidth 32, s.team.flow.pos.pc, regionsOf s.team.flow,
      (wordOf (.trec a k) s).r.readS a.toNat, 0, 0⟩)) := by
  rw [exec_trec]
  exact State.runWord_next h (if_pos hc)

section
variable (h : Passes (.contset a) s) (h4 : ((wordOf (.contset a) s).r.readS a.toNat).extractLsb' 0 2 = 0)
  (hc : canonical ((wordOf (.contset a) s).r.readS a.toNat) = true)
include h h4 hc

theorem exec_contset_sets (hl : (s.gridOf s.team).launch.cont = 1) :
    exec (.contset a) s = .next (after (.contset a) s (fun z => z.setTeam { z.team with
      trap := { z.team.trap with contpc := (wordOf (.contset a) s).r.readS a.toNat } })) := by
  rw [exec_contset]
  exact State.runWord_next h (((if_neg (by simp [h4])).trans (if_neg (by simp [hc]))).trans (if_pos hl))

theorem exec_contset_passes_over (hl : (s.gridOf s.team).launch.cont ≠ 1) :
    exec (.contset a) s = .next (after (.contset a) s id) := by
  rw [exec_contset]
  exact State.runWord_next h (((if_neg (by simp [h4])).trans (if_neg (by simp [hc]))).trans (if_neg hl))

end

theorem exec_mfmt_writes (h : Passes (.mfmt a b) s) (hi : (((wordOf (.mfmt a b) s).r.readS a.toNat).extractLsb' 0 6).toNat ≠ 0)
    (hv : (wordOf (.mfmt a b) s).r.readS b.toNat = 0 ∨ fmtValid ((wordOf (.mfmt a b) s).r.readS b.toNat) = true)
    (hg : s.begin_.genHeld s.team.place.ctx (((wordOf (.mfmt a b) s).r.readS a.toNat).extractLsb' 0 6).toNat
      (((wordOf (.mfmt a b) s).r.readS b.toNat).getLsbD 25) = false) :
    exec (.mfmt a b) s = .next (after (.mfmt a b) s (fun z => z.modCtx s.team.place.ctx (fun c => c.writeFmt
      (((wordOf (.mfmt a b) s).r.readS a.toNat).extractLsb' 0 6).toNat ((wordOf (.mfmt a b) s).r.readS b.toNat)))) := by
  have hv' : ¬ ((((wordOf (.mfmt a b) s).r.readS a.toNat).extractLsb' 0 6).toNat = 0 ∨
      ((wordOf (.mfmt a b) s).r.readS b.toNat ≠ 0 ∧ fmtValid ((wordOf (.mfmt a b) s).r.readS b.toNat) = false)) := by
    rintro (q | ⟨q, q'⟩)
    · exact hi q
    · exact hv.elim q (fun v => Bool.false_ne_true (q'.symm.trans v))
  rw [exec_mfmt]
  exact State.runWord_next h ((if_neg hv').trans (if_neg (fun q => Bool.false_ne_true (hg.symm.trans q))))

/-- Settles O30, a lemma for each word that has more than one case. -/
theorem systemWords : Obligations.SystemWords := by
  unfold Obligations.SystemWords
  intro s d a b n k
  refine ⟨writesRegs_of_runWord exec_srd rfl, fun h => ?_, writesRegs_of_runWord exec_clk rfl, writesRegs_of_runWord exec_time rfl,
    exec_trec_off, exec_trec_on, exec_contset_sets, exec_contset_passes_over, exec_mfmt_writes⟩
  rw [exec_swr]
  exact State.runWord_next h rfl

theorem exec_icinv_goes {p : BitVec 3} {id_ clk : Nat} (h : Passes (.icinv a b p) s) (hw : s.team.wait = .invalidation id_ clk)
    (hv : s.waving id_ = false) : exec (.icinv a b p) s = .next (after (.icinv a b p) s id) := by
  rw [exec_icinv]
  refine State.runWord_next h ?_
  simp only [show s.begin_.team.wait = .invalidation id_ clk from hw]
  exact if_neg (fun q => Bool.false_ne_true (hv.symm.trans q))

theorem exec_rclr_clears (h : Passes (.rclr a b) s) (hc : canonical ((wordOf (.rclr a b) s).r.readS a.toNat) = true)
    (ht : passesTop ((wordOf (.rclr a b) s).r.readS a.toNat) ((wordOf (.rclr a b) s).r.readS b.toNat).toNat = false)
    (hp : (s.begin_.checkedLines (dieOf s.cur) s.team.place.ctx ((wordOf (.rclr a b) s).r.readS a.toNat)
      ((wordOf (.rclr a b) s).r.readS b.toNat).toNat).any (s.begin_.ownPending s.cur) = false) :
    exec (.rclr a b) s = .next (after (.rclr a b) s (fun z =>
      (s.begin_.checkedLines (dieOf s.cur) s.team.place.ctx ((wordOf (.rclr a b) s).r.readS a.toNat)
      ((wordOf (.rclr a b) s).r.readS b.toNat).toNat).foldl State.clearCheck z)) := by
  rw [exec_rclr]
  exact State.runWord_next h ((if_neg (by simp [hc, ht])).trans (if_neg (fun q => Bool.false_ne_true (hp.symm.trans q))))

/-- Settles O31. -/
theorem invalidatingWords : Obligations.InvalidatingWords := by
  unfold Obligations.InvalidatingWords
  intro s a b p id_ clk
  exact ⟨exec_icinv_goes, exec_rclr_clears⟩

/-- The blocks of a key-value word, one after another, and how many of them it counts. -/
def kvBlocks (kv : KvDesc) (first n : Nat) (f : KvDesc → Nat → State → State × Bool) (z : State) : State × Nat :=
  (List.range n).foldl (fun (r : State × Nat) j =>
    let (z, hit) := f kv (first + j) r.1
    (z, if hit then r.2 + 1 else r.2)) (z, 0)

/-- A key-value word whose checks pass and which nothing holds makes its changes. -/
theorem State.kvWord_changes {z : State} {w : Wd} {seqs : List Nat} {x : W64} {f : KvDesc → Nat → State → State × Bool} {kv : KvDesc}
    (hk : z.kvDesc z.team.place.ctx = some kv) (hn : (x.extractLsb' 0 16).toNat + (x.extractLsb' 16 16).toNat ≤ 2 ^ kv.ib)
    (ha : z.kvAbsent z.team.place.ctx kv seqs (x.extractLsb' 0 16).toNat (x.extractLsb' 16 16).toNat = none)
    (hf : z.team.acquiresFixed z.team.nextSeq = true)
    (hc : z.kvCopying z.team.place.ctx kv seqs (x.extractLsb' 0 16).toNat (x.extractLsb' 16 16).toNat = none) :
    z.kvWord w d seqs x f = .next ((kvBlocks kv (x.extractLsb' 0 16).toNat (x.extractLsb' 16 16).toNat f z).1.withRegs
      (fun r => r.writeS d.toNat (BitVec.ofNat 64 (kvBlocks kv (x.extractLsb' 0 16).toNat (x.extractLsb' 16 16).toNat f z).2))) := by
  unfold State.kvWord
  simp only [hk, ha, hf, hc]
  exact (if_neg (Nat.not_lt.2 hn)).trans (if_neg (by simp))

/-- Settles O32: both words are `State.kvWord` with a change of their own. -/
theorem keyValueWords : Obligations.KeyValueWords := by
  unfold Obligations.KeyValueWords
  intro s d a b kv
  refine ⟨fun h hk hn ha hf hc => ?_, fun h hk hn ha hf hc => ?_⟩
  · rw [exec_kvfork]
    exact State.runWord_next h (State.kvWord_changes hk hn ha hf hc)
  · rw [exec_kvfree]
    exact State.runWord_next h (State.kvWord_changes hk hn ha hf hc)

end

end Sys2Proof.Machine
end

section
/-! PROOFS. Barriers and monitors (R247 to R253). -/

namespace Sys2Proof.Machine

open Sys2Proof.Safety

/-- What an event makes of the state. -/
theorem exec_of_event {i : Instr} {s z : State} {f : State → State} (hx : exec i s = s.event f) (h : f s.begin_ = z) :
    exec i s = .next z :=
  hx.trans (congrArg Host.Outcome.next h)

section
variable {s z : State} {w : Wd} {d a b : BitVec 6} {l : BitVec 2} {n : BitVec 3} {phase id_ lv num : Nat}

/-- A phase that has completed is waited for no longer. -/
theorem State.barWait_done (h : phase < (z.barOf z.team lv num).phase) : z.barWait lv num phase = z.barDone lv num := if_pos h

/-- BAR and BARA where they wait for the phase of their arrival. -/
theorem State.barArrive_waiting {waits : Bool} {lv' num' : Nat} (hm : z.barMissing z.team lv = false)
    (hw : z.team.wait = .barrier lv' num' phase) : z.barArrive w lv num waits = z.barWait lv num phase := by
  unfold State.barArrive
  simp only [hw, hm]
  exact if_neg Bool.false_ne_true

/-- BARA, its release performed, arrives and goes on. -/
theorem State.barArrive_arrives (hm : z.barMissing z.team lv = false) (hw : z.team.wait = .wave id_)
    (hr : z.releaseDone (barScope lv) id_ = true) (hh : (z.barOf z.team lv num).has z.cur = false) :
    z.barArrive w lv num false = .seam (z.arrive lv num).1 0 := by
  unfold State.barArrive
  simp only [hw, hm, hr, hh]
  rfl

theorem exec_bar_goes (hm : s.barMissing s.team l.toNat = false) (h : Passes (.bar l n) s)
    (hw : s.team.wait = .barrier l.toNat n.toNat phase) (hp : phase < (s.barOf s.team l.toNat n.toNat).phase) :
    exec (.bar l n) s = .next (Safety.afterSeam (.bar l n) s (fun z => z.setTeam { z.team with
      race := z.team.race.complete l.toNat (s.barOf s.team l.toNat n.toNat).lastMax }) 0) := by
  rw [exec_bar]
  exact State.runWord_seam h ((State.barArrive_waiting (z := s.begin_) hm hw).trans (State.barWait_done hp))

theorem exec_barw_goes (hm : s.barMissing s.team l.toNat = false) (h : Passes (.barw l n) s)
    (ha : s.team.arrivals.get (barKey l.toNat n.toNat) = phase + 1) (hp : phase < (s.barOf s.team l.toNat n.toNat).phase) :
    exec (.barw l n) s = .next (Safety.afterSeam (.barw l n) s (fun z => z.setTeam { z.team with
      race := z.team.race.complete l.toNat (s.barOf s.team l.toNat n.toNat).lastMax }) 0) := by
  rw [exec_barw]
  refine State.runWord_seam h ?_
  simp only [show s.begin_.barMissing s.begin_.team l.toNat = false from hm,
    show s.begin_.team.arrivals.get (barKey l.toNat n.toNat) = phase + 1 from ha]
  exact (if_neg Bool.false_ne_true).trans ((if_neg (Nat.succ_ne_zero _)).trans (State.barWait_done hp))

theorem exec_barw_without_arrival (hm : s.barMissing s.team l.toNat = false) (h : Passes (.barw l n) s)
    (ha : s.team.arrivals.get (barKey l.toNat n.toNat) = 0) :
    exec (.barw l n) s = .next (Safety.afterSeam (.barw l n) s id 0) := by
  rw [exec_barw]
  refine State.runWord_seam h ?_
  simp only [show s.begin_.barMissing s.begin_.team l.toNat = false from hm,
    show s.begin_.team.arrivals.get (barKey l.toNat n.toNat) = 0 from ha]
  exact (if_neg Bool.false_ne_true).trans (if_pos trivial)

theorem exec_bara_arrives (hm : s.barMissing s.team l.toNat = false) (h : Passes (.bara l n) s) (hw : s.team.wait = .wave id_)
    (hr : s.begin_.releaseDone (barScope l.toNat) id_ = true) (hh : (s.barOf s.team l.toNat n.toNat).has s.cur = false) :
    exec (.bara l n) s = .next (Safety.afterSeam (.bara l n) s (fun z => (z.arrive l.toNat n.toNat).1) 0) := by
  rw [exec_bara]
  exact State.runWord_seam (f := fun z => (z.arrive l.toNat n.toNat).1) h (State.barArrive_arrives hm hw hr hh)

/-- Settles O33, a lemma for each word. -/
theorem barrierWords : Obligations.BarrierWords := by
  unfold Obligations.BarrierWords
  intro s d l n phase id_ t b done hm
  refine ⟨exec_bar_goes hm, exec_barw_goes hm, exec_barw_without_arrival hm, exec_bara_arrives hm, writesRegs_of_runWord exec_barq ?_⟩
  exact if_neg (fun q => Bool.false_ne_true (hm.symm.trans q))

/-! ### Phases, and the monitors of WAITL -/

variable {q : BarRef} {wd : BitVec 1} {u clk line armed : Nat}

theorem exec_barrierPhaseCompletion_completes (ha : (s.barAt q).arrived ≠ []) (hl : s.allArrived q = true) :
    exec (.barrierPhaseCompletion q) s = .next (s.begin_.setBar { s.barAt q with
      phase := (s.barAt q).phase + 1, arrived := [], lastMax := (s.barAt q).max, max := 0 } q) :=
  exec_of_event exec_barrierPhaseCompletion (if_pos ⟨ha, hl⟩)

theorem exec_barrierPhaseCompletion_not_yet (hl : s.allArrived q = false) : exec (.barrierPhaseCompletion q) s = .next s.begin_ :=
  exec_of_event exec_barrierPhaseCompletion (if_neg fun h => Bool.false_ne_true (hl.symm.trans h.2))

theorem exec_barrierToken_joins (h : (s.barAt q).tokens.find? (fun x => x.1 == u) = some (u, clk)) :
    exec (.barrierToken q u) s = .next (s.begin_.setBar { s.barAt q with
      tokens := (s.barAt q).tokens.filter (fun x => x.1 ≠ u), arrived := u :: (s.barAt q).arrived,
      max := if (s.barAt q).max < clk then clk else (s.barAt q).max } q) := by
  refine exec_of_event exec_barrierToken ?_
  simp only [show (s.begin_.barAt q).tokens.find? (fun x => x.1 == u) = some (u, clk) from h]
  rfl

/-- A team whose monitor no longer watches leaves WAITL. -/
theorem exec_waitl_goes (h : Passes (.waitl a b wd) s) (hw : s.team.wait = .monitor) (hm : ∀ l c, s.team.mon ≠ some (l, c, false)) :
    exec (.waitl a b wd) s = .next (after (.waitl a b wd) s (fun z => z.setTeam { z.team with mon := none })) := by
  rw [exec_waitl]
  refine State.runWord_next h ?_
  simp only [show s.begin_.team.wait = .monitor from hw]
  split
  · next l c hl => exact absurd hl (hm l c)
  · rfl

theorem exec_waitlTimeout_wakes (hm : (s.teams.get u).mon = some (line, armed, false))
    (ht : armed + 2 ^ 20 ≤ (s.dies.get (dieOf u)).clk) : exec (.waitlTimeout u) s = .next (s.begin_.modTeam u Team.woken) := by
  refine exec_of_event exec_waitlTimeout ?_
  simp only [show (s.begin_.teams.get u).mon = some (line, armed, false) from hm]
  exact if_pos ht

end

/-- Settles O34. -/
theorem phasesAndMonitors : Obligations.PhasesAndMonitors := by
  unfold Obligations.PhasesAndMonitors
  intro s q a b wd u line armed core clk
  exact ⟨exec_barrierPhaseCompletion_completes, exec_barrierPhaseCompletion_not_yet, exec_barrierToken_joins, exec_waitl_goes,
    exec_waitlTimeout_wakes, exec_wakeWithoutNotice, exec_l1Invalidate⟩

end Sys2Proof.Machine
end

section
/-! PROOFS. Loads, stores, atomics and fences: what a word does as it issues, and how it goes on with its passes (R213 to R226, R239 to R246). -/

namespace Sys2Proof.Machine

open Sys2Proof.Safety

/-! ### Words that will write registers -/
section
variable {i : Instr} {s z : State} {eff : Wd → State → Eff} {parts : List Part} {lw : LongWord}

/-- How a long-latency word opens whose effect is that of `issueWord`, unless the miss tracker refuses it first. -/
theorem opensWord_of {idle : Instr → State → (State → State) → State} (hx : exec i s = s.runWord i eff) (h : Passes i s)
    (hw : z.team.wait = .none) (hf : z.team.fail = none) (hc : z.cur = s.cur)
    (hi : idle = if (lw.kind == .atomic) = true then atOwnSeam else after)
    (he : z.firstRefused lw parts = none → eff (wordOf i s) s.begin_ = z.issueWord (wordOf i s) parts lw .next) :
    opensWord i s z parts lw idle := by
  refine ⟨fun hp hm => ?_, fun hp hm => ?_, fun n h1 hk hr => ?_⟩
  · subst hp
    rw [hx, hi]
    have hy := (he rfl).trans (State.issueWord_empty hw)
    unfold State.outstanding at hy
    rw [if_pos hm] at hy
    split at hy
    · next ha => rw [if_pos ha]; exact State.runWord_seam (f := fun _ => idleWord (wordOf i s) lw z) h hy
    · next ha => rw [if_neg ha]; exact State.runWord_next (f := fun _ => idleWord (wordOf i s) lw z) h hy
  · subst hp
    rw [hx]
    have hy := (he rfl).trans (State.issueWord_empty hw)
    unfold State.outstanding at hy
    rw [if_neg hm] at hy
    exact State.runWord_next (f := fun _ => (z.addWord (wordOf i s) lw).1) h hy
  · have hr' : z.trackerRefuses z.cur ((lw.opened parts).passNeeds z n).length = false := by rw [hc]; exact hr
    have hn : z.firstRefused lw parts = none := by
      unfold State.firstRefused
      simp only [onePass_nextPass h1, hr']
      exact if_neg Bool.false_ne_true
    rw [hx]
    exact State.runWord_next (f := fun _ => z.openPass (wordOf i s) (lw.opened parts) n ((lw.opened parts).passNeeds z n)) h
      ((he hn).trans (State.issueWord_open hw hf h1 hk hr'))

/-- How a word goes on whose effect, where it waits for its passes, is that of `issueWord`. -/
theorem goesOn_of (hx : exec i s = s.runWord i eff)
    (he : ∀ n, s.team.wait = .access n → eff (wordOf i s) s.begin_ = s.begin_.issueWord (wordOf i s) [] lw .next) : goesOn i s := by
  intro n v h hw hv hf hc
  refine ⟨fun hp => ?_, fun k hk h1 hr => ?_⟩
  · rw [hx]
    exact State.runWord_next h ((he n hw).trans (State.issueWord_last (s := s.begin_) hw hv hp hc hf))
  · rw [hx]
    exact State.runWord_next (f := fun z => z.issuePass v k (v.passNeeds z k)) h
      ((he n hw).trans (State.issueWord_pass (s := s.begin_) hw hv hk h1 hc hf hr))

/-- Filling the translation caches leaves what the team waits for, its failure and the place of the current team. -/
theorem seen_calm (s : State) (reqs : List LaneReq) : Calm s (seen s reqs s.begin_) :=
  (Calm.of_eq rfl rfl rfl : Calm s s.begin_).trans (s.begin_.fillCaches_calm ..)

/-- A load whose lanes have passed their checks issues its requests. -/
theorem State.issueLoad_checked {w : Wd} {acc : Acc} {plain : Bool} {reqs : List LaneReq} {l : List LaneAcc} (hw : z.team.wait = .none)
    (hl : z.checkLanes (dieOf z.cur) z.team.place.ctx lw.who.race acc plain reqs = .ok l) :
    z.issueLoad w acc plain reqs lw =
      (z.fillCaches (coreOf z.cur) z.team.place.ctx (some z.cur) (reqs.map (·.va))).issueWord w (gather l) lw .next := by
  unfold State.issueLoad
  simp only [hw, hl]

/-- A load that waits for its passes goes on with its word. -/
theorem State.issueLoad_waiting {w : Wd} {acc : Acc} {plain : Bool} {reqs : List LaneReq} {n : Nat} (hw : z.team.wait = .access n) :
    z.issueLoad w acc plain reqs lw = z.issueWord w [] lw .next := by
  unfold State.issueLoad
  simp only [hw]

/-- A word with checked lanes, whose effect is `issueLoad`. -/
theorem issuesWord_of_issueLoad {acc : Acc} {reqs : Wd → List LaneReq} {lw : Wd → LongWord}
    (hx : exec i s = s.runWord i eff) (he : eff (wordOf i s) s.begin_ = s.begin_.issueLoad (wordOf i s) acc false (reqs (wordOf i s)) (lw (wordOf i s)))
    (hk : ((lw (wordOf i s)).kind == .atomic) = false) :
    issuesWord i s reqs acc gather id lw after := by
  refine ⟨fun l h hw hf hok => ?_, goesOn_of hx fun n hn => he.trans (State.issueLoad_waiting (z := s.begin_) hn)⟩
  have hc := seen_calm s (reqs (wordOf i s))
  exact opensWord_of hx h (hc.wait.trans hw) (hc.fail.trans hf) hc.cur (by rw [hk]; rfl) fun _ =>
    he.trans (State.issueLoad_checked (z := s.begin_) hw hok)

end

/-! ### Words of stores -/
section
variable {i : Instr} {s z : State} {parts : List Part} {op : Option AtomicOp} {rel fin : Bool}
  {ends : Instr → State → (State → State) → State} {done : State → Eff}

/-- How a word of stores opens whose effect is that of `issueStores`. -/
theorem opensStores_of (hw : z.team.wait = .none) (hc : z.cur = s.cur) (ho : (fin && op.isNone) = false)
    (he : ∀ y, z.issueStores (wordOf i s) parts op rel (s.whoOf s.cur) fin done = done y → exec i s = .next (ends i s (fun _ => y))) :
    opensStores i s z parts op rel fin ends := by
  refine ⟨fun hp => ?_, fun n h1 hk hv hr => ?_⟩
  · subst hp
    exact he _ (State.issueStores_empty hw)
  · exact he _ (State.issueStores_open hw h1 hk hv ho (by rw [hc]; exact hr))

/-- How a word of stores goes on whose effect, where it waits, is that of `issueStores`. -/
theorem storesGoOn_of (he : ∀ n f, Passes i s → s.team.wait = .access n →
      s.begin_.issueStores (wordOf i s) [] op rel (s.whoOf s.cur) fin done = done (f s.begin_) → exec i s = .next (ends i s f)) :
    storesGoOn i s ends := by
  intro n h hw hf hs
  refine ⟨fun hp => ?_, fun k hk h1 hr => ?_⟩
  · exact he n id h hw (State.issueStores_last (s := s.begin_) hw hf hp hs)
  · exact he n (fun z => (z.leaveWaits z.cur).acceptPass z.cur n k) h hw (State.issueStores_pass (s := s.begin_) hw hf hk hs h1 hr)

/-- Stores whose lanes have passed their checks are given to the miss tracker. -/
theorem State.issueStore_checked {w : Wd} {reqs : List LaneReq} {l : List LaneAcc} (hw : z.team.wait = .none)
    (hl : z.checkLanes (dieOf z.cur) z.team.place.ctx (z.whoOf z.cur).race .store false reqs = .ok l) :
    z.issueStore w reqs done = (z.fillCaches (coreOf z.cur) z.team.place.ctx (some z.cur) (reqs.map (·.va))).issueStores w (gather l)
      none false (z.whoOf z.cur) false done := by
  unfold State.issueStore
  simp only [hw, hl]

theorem State.issueStore_waiting {w : Wd} {reqs : List LaneReq} {n : Nat} (hw : z.team.wait = .access n) :
    z.issueStore w reqs done = z.issueStores w [] none false (z.whoOf z.cur) false done := by
  unfold State.issueStore
  simp only [hw]

/-- A word of stores whose effect is `issueStore`. -/
theorem issuesStores_of_issueStore {reqs : Wd → List LaneReq} (hx : exec i s = s.runWord i (fun w z => z.issueStore w (reqs w) .next)) :
    issuesStores i s reqs .store gather none false after := by
  refine ⟨fun l h hw hok => ?_, storesGoOn_of (op := none) (rel := false) (fin := false) (done := .next) fun n f h hn hy => ?_⟩
  · have hc := seen_calm s (reqs (wordOf i s))
    exact opensStores_of (done := .next) (hc.wait.trans hw) hc.cur rfl fun y hy =>
      hx.trans (State.runWord_next (f := fun _ => y) h ((State.issueStore_checked (z := s.begin_) hw hok).trans hy))
  · exact hx.trans (State.runWord_next h ((State.issueStore_waiting (z := s.begin_) hn).trans hy))

end

/-! ### Prefetch -/

theorem State.samplerKeep_frame (l : List Nat) (s : State) (core : Nat) :
    (l.foldl (fun s x => s.samplerKeep core x) s).teams = s.teams ∧ (l.foldl (fun s x => s.samplerKeep core x) s).mem = s.mem := by
  induction l generalizing s with
  | nil => exact ⟨rfl, rfl⟩
  | cons x r ih => exact ih (s.samplerKeep core x)

/-- A prefetch changes no team and no memory, and with target .l0 nothing at all. -/
theorem exec_pref_keeps {s : State} {a : BitVec 6} {u : BitVec 2} {m : BitVec 8} (h : Passes (.pref a u m) s) :
    ∃ z, exec (.pref a u m) s = .next (after (.pref a u m) s (fun _ => z)) ∧ z.teams = s.teams ∧ z.mem = s.mem ∧ (u = 0 → z = s.begin_) := by
  rw [exec_pref]
  by_cases h2 : u = 2
  · refine ⟨_, State.runWord_next h (congrArg Eff.next (if_pos h2)), ?_, ?_, fun h0 => absurd (h0.symm.trans h2) (by decide)⟩
    · exact (State.samplerKeep_frame _ s.begin_ _).1
    · exact (State.samplerKeep_frame _ s.begin_ _).2
  · by_cases h1 : u = 1
    · exact ⟨_, State.runWord_next h (congrArg Eff.next ((if_neg h2).trans (if_pos h1))), rfl, rfl,
        fun h0 => absurd (h0.symm.trans h1) (by decide)⟩
    · exact ⟨_, State.runWord_next (f := id) h (congrArg Eff.next ((if_neg h2).trans (if_neg h1))), rfl, rfl, fun _ => rfl⟩

/-- Settles O35: loads by `issuesWord_of_issueLoad`, stores by `issuesStores_of_issueStore`. -/
theorem globalAccesses : Obligations.GlobalAccesses := by
  unfold Obligations.GlobalAccesses
  intro v b n d a k j g f c wd o u m s
  exact ⟨issuesWord_of_issueLoad exec_vldg rfl rfl, issuesWord_of_issueLoad exec_sld rfl rfl, issuesStores_of_issueStore exec_vstg,
    issuesStores_of_issueStore exec_sst, exec_pref_keeps⟩

/-! ### Atomic words -/
section
variable {i : Instr} {s z : State} {w : Wd} {reqs : List LaneReq} {op : AtomicOp} {r : BitVec 2} {c : BitVec 3}

/-- What a release begins is numbered by the next free number, and leaves the teams alone. -/
theorem State.startRelease_id (z : State) (c : BitVec 3) : (z.startRelease c).2 = z.nextId := by
  unfold State.startRelease
  split <;> rfl

theorem State.startRelease_calm (z : State) (c : BitVec 3) : (z.startRelease c).1.cur = z.cur ∧ (z.startRelease c).1.teams = z.teams := by
  unfold State.startRelease
  split <;> exact ⟨rfl, rfl⟩

theorem State.startRelease_team (z : State) (c : BitVec 3) : (z.startRelease c).1.team = z.team := by
  rw [State.team_eq, (z.startRelease_calm c).1, (z.startRelease_calm c).2]
  rfl

theorem State.releaseClock_team (z : State) : z.releaseClock.1.team = { z.team with race := z.team.race.advance } := z.team_setTeam _

/-- What a release-class atomic begins changes of its team only the clock. -/
theorem releasing_team (z : State) (r : BitVec 2) (c : BitVec 3) :
    (releasing r c z).cur = z.cur ∧ (releasing r c z).team.wait = z.team.wait ∧ (releasing r c z).team.fail = z.team.fail := by
  unfold releasing
  split
  · refine ⟨(z.releaseClock.1.startRelease_calm c).1, ?_, ?_⟩ <;> rw [State.startRelease_team, State.releaseClock_team]
  · exact ⟨rfl, rfl, rfl⟩

/-- What an atomic word begins, and the word as it waits for that. -/
def State.beginAtomic (z : State) (r : BitVec 2) (c : BitVec 3) (lw : LongWord) : State × LongWord :=
  if r.getLsbD 1 then
    let y := z.releaseClock.1.startRelease c
    (y.1, if c = 0 then lw else if c = 1 then { lw with upto := y.2 } else { lw with wave := some y.2, upto := y.2 })
  else (z, lw)

/-- The word of an atomic before it has begun anything. -/
def relaxedWord (s : State) (op : AtomicOp) (r : BitVec 2) (w : Wd) : LongWord :=
  { id := 0, kind := .atomic, op := some op, ord := r, width := 2, dests := useSet w.f.seamWrites, who := s.whoOf s.cur }

theorem State.beginAtomic_eq (hn : z.nextId = s.nextId) :
    z.beginAtomic r c (relaxedWord s op r w) = (releasing r c z, atomicWord s op r c w) := by
  have hid : (z.releaseClock.1.startRelease c).2 = s.nextId := (State.startRelease_id _ _).trans hn
  unfold State.beginAtomic releasing atomicWord
  dsimp only
  rw [hid]
  cases r.getLsbD 1 with
  | false => rfl
  | true =>
    by_cases h0 : c = 0
    · simp only [h0]; rfl
    · simp only [h0]; rfl

/-- An atomic whose lanes have passed their checks begins what it releases, and issues its requests. -/
theorem State.issueAtomic_checked {l : List LaneAcc} (hw : s.team.wait = .none)
    (hl : s.begin_.checkLanes (dieOf s.cur) s.team.place.ctx (s.whoOf s.cur).race op.acc false reqs = .ok l)
    (hf : (releasing r c (Safety.seen s reqs s.begin_)).firstRefused (atomicWord s op r c w) (gatherLines l) = none) :
    s.begin_.issueAtomic w reqs op r c =
      (releasing r c (Safety.seen s reqs s.begin_)).issueWord w (gatherLines l) (atomicWord s op r c w) .next := by
  have hb := State.beginAtomic_eq (s := s) (w := w) (op := op) (r := r) (c := c) (seen_calm s reqs).nextId
  have h : s.begin_.issueAtomic w reqs op r c =
      let b := (Safety.seen s reqs s.begin_).beginAtomic r c (relaxedWord s op r w)
      match b.1.firstRefused b.2 (gatherLines l) with
      | some need => .hold (s.begin_.trackerWait s.cur need) noReason
      | none => b.1.issueWord w (gatherLines l) b.2 .next := by
    unfold State.issueAtomic
    simp only [show s.begin_.team.wait = .none from hw,
      show s.begin_.checkLanes (dieOf s.begin_.cur) s.begin_.team.place.ctx (s.begin_.whoOf s.begin_.cur).race op.acc false reqs = .ok l from hl]
    rfl
  rw [h, hb]
  simp only [hf]

theorem State.issueAtomic_waiting {n : Nat} (hw : s.team.wait = .access n) :
    s.begin_.issueAtomic w reqs op r c = s.begin_.issueWord w [] (relaxedWord s op r w) .next := by
  unfold State.issueAtomic
  simp only [show s.begin_.team.wait = .access n from hw]
  rfl

theorem atomicWord_kind : (atomicWord s op r c w).kind = .atomic ∧ (atomicWord s op r c w).who = s.whoOf s.cur := by
  unfold atomicWord
  dsimp only
  split
  · exact ⟨rfl, rfl⟩
  · split <;> exact ⟨rfl, rfl⟩

theorem issuesAtomic_of_issueAtomic {reqs : Wd → List LaneReq} (hx : exec i s = s.runWord i (fun w z => z.issueAtomic w (reqs w) op r c)) :
    issuesAtomic i s reqs op r c := by
  refine ⟨fun l h hw hf hok => ?_, goesOn_of hx fun n hn => State.issueAtomic_waiting hn⟩
  have hc := seen_calm s (reqs (wordOf i s))
  have hk := (atomicWord_kind (s := s) (w := wordOf i s) (op := op) (r := r) (c := c))
  obtain ⟨h1, h2, h3⟩ := releasing_team (Safety.seen s (reqs (wordOf i s)) s.begin_) r c
  refine opensWord_of hx h (h2.trans (hc.wait.trans hw)) (h3.trans (hc.fail.trans hf)) (h1.trans hc.cur) ?_ fun hr =>
    State.issueAtomic_checked hw (hk.2 ▸ hok) hr
  rw [hk.1]
  rfl

end

/-- Settles O39: every word of it is `issueAtomic`. -/
theorem atomicWords : Obligations.AtomicWords := by
  unfold Obligations.AtomicWords
  intro v o b p c r f s
  exact ⟨issuesAtomic_of_issueAtomic exec_atom, issuesAtomic_of_issueAtomic exec_atom64, issuesAtomic_of_issueAtomic exec_atomf,
    issuesAtomic_of_issueAtomic exec_atxXchg32, issuesAtomic_of_issueAtomic exec_atxCas32, issuesAtomic_of_issueAtomic exec_atxLd32,
    issuesAtomic_of_issueAtomic exec_atxXchg64, issuesAtomic_of_issueAtomic exec_atxCas64, issuesAtomic_of_issueAtomic exec_atxLd64⟩

/-! ### Words that return nothing -/
section
variable {i : Instr} {s z : State} {w : Wd} {reqs : List LaneReq} {op : AtomicOp} {r : BitVec 2} {c : BitVec 3} {l : List LaneAcc}

theorem State.issueRed_waiting {n : Nat} (hw : z.team.wait = .access n) : z.issueRed w reqs op r c =
    z.issueStores w [] (some op) (r.getLsbD 1) (z.whoOf z.cur) true (fun y => .seam y 0) := by
  unfold State.issueRed
  simp only [hw]

/-- A reduction that does not release, and whose lanes have passed their checks. -/
theorem State.issueRed_relaxed (hw : z.team.wait = .none) (hr : r.getLsbD 1 = false)
    (hl : z.checkLanes (dieOf z.cur) z.team.place.ctx (z.whoOf z.cur).race op.acc false reqs = .ok l) :
    z.issueRed w reqs op r c = (z.fillCaches (coreOf z.cur) z.team.place.ctx (some z.cur) (reqs.map (·.va))).issueStores w (gatherLines l)
      (some op) false (z.whoOf z.cur) true (fun y => .seam y 0) := by
  unfold State.issueRed
  simp only [hw, hl, hr]
  exact if_neg Bool.false_ne_true

/-- A reduction whose release has been performed, its team waiting no longer in `z1`: its clock advances when its stores are in the miss
tracker. -/
theorem State.issueRed_released {n : Nat} {z1 y : State} (hw : z.team.wait = .wave n) (hd : z.releaseDone c n = true)
    (hz : z1 = z.setTeam { z.team with wait := .none })
    (hl : z1.checkLanes (dieOf z1.cur) z.team.place.ctx (z.whoOf z.cur).race op.acc false reqs = .ok l)
    (hy : (z1.fillCaches (coreOf z1.cur) z.team.place.ctx (some z1.cur) (reqs.map (·.va))).issueStores w
      (gatherLines l) (some op) (r.getLsbD 1) (z.whoOf z.cur) true (fun y => .seam y 0) = .seam y 0) :
    z.issueRed w reqs op r c = .seam y.releaseClock.1 0 := by
  dsimp only at hz
  unfold State.issueRed
  simp only [hw, hd, ← hz, hl, hy]
  exact if_neg Bool.false_ne_true

theorem issuesReduction_of_issueRed {reqs : Wd → List LaneReq} (hx : exec i s = s.runWord i (fun w z => z.issueRed w (reqs w) op r c)) :
    issuesReduction i s reqs op r c := by
  have hgo : storesGoOn i s atSeam := storesGoOn_of (op := some op) (rel := r.getLsbD 1) (fin := true) (done := fun y => .seam y 0)
    fun n f h hn hy => hx.trans (State.runWord_seam h ((State.issueRed_waiting (z := s.begin_) hn).trans hy))
  refine ⟨fun hr => ⟨fun l h hw hok => ?_, hgo⟩, fun hr => ⟨hgo, fun n l h hw hd => ?_⟩⟩
  · have hc := seen_calm s (reqs (wordOf i s))
    exact opensStores_of (done := fun y => .seam y 0) (hc.wait.trans hw) hc.cur rfl fun y hy =>
      hx.trans (State.runWord_seam (f := fun _ => y) h ((State.issueRed_relaxed (z := s.begin_) hw hr hok).trans hy))
  · intro s1 hl
    have hc : Calm s1 (Safety.seen s (reqs (wordOf i s)) s1) := s1.fillCaches_calm ..
    refine opensStores_of (done := fun y => .seam y 0) (hc.wait.trans ?_) hc.cur rfl fun y hy =>
      hx.trans (State.runWord_seam (f := fun _ => y.releaseClock.1) h (State.issueRed_released (z := s.begin_) hw hd rfl hl ?_))
    · exact congrArg Team.wait (State.team_setTeam _ _)
    · rw [hr]
      exact hy

end

/-- Settles O40: every word of it is `issueRed`. -/
theorem reductionWords : Obligations.ReductionWords := by
  unfold Obligations.ReductionWords
  intro v o b p c r s
  exact ⟨issuesReduction_of_issueRed exec_red, issuesReduction_of_issueRed exec_atxSt32, issuesReduction_of_issueRed exec_atxSt64⟩

/-! ### FENCE -/

/-- What a fence does last. -/
def fenceLast (o : BitVec 2) (z : State) : State := if o.getLsbD 0 then (z.mergePending z.cur).observeAll z.cur else z

/-- The state in which a word has begun to wait, its reason and its clocks noted. -/
def beginsWait (i : Instr) (s z : State) (w : Wait) : State :=
  (((z.setTeam { z.team with wait := w }).stalled noReason).issued s.cur (wordOf i s).clocks).tick (dieOf s.cur)

section
variable {i : Instr} {s : State} {eff : Wd → State → Eff}

/-- A word that begins to wait for something new. -/
theorem State.runWord_beginsWait {f : State → State} {v : Wait} (h : Passes i s) (hc : (f s.begin_).cur = s.cur) (hv : v ≠ s.team.wait)
    (he : eff (wordOf i s) s.begin_ = .hold ((f s.begin_).setTeam { (f s.begin_).team with wait := v }) noReason) :
    s.runWord i eff = .next (beginsWait i s (f s.begin_) v) := by
  refine (State.runWord_waits (f := fun z => (f z).setTeam { (f z).team with wait := v }) h he ?_).trans ?_
  · rw [State.team_setTeam]
    exact hv
  · show _ = Host.Outcome.next ((State.issued _ s.cur _).tick _)
    rw [← hc]
    rfl

end

section
variable {m : BitVec 1} {p : BitVec 3} {o : BitVec 2} {n clk : Nat} {s : State} (h : Passes (.fence m p o) s)

/-- The start of the sampler part of a fence. -/
def fenceSweeps (m : BitVec 1) (p : BitVec 3) (o : BitVec 2) (s : State) : State :=
  beginsWait (.fence m p o) s (s.begin_.startWave [] (s.begin_.scopeCores p) none).1
    (.invalidation s.nextId ((s.dies.get (dieOf s.cur)).clk + 32))

/-- The wait for the sampler part of a fence, once the stores that it covers are acknowledged. -/
theorem State.fenceSmp_sweeps {z : State} (hs : z.smpReady o = true) : z.fenceSmp p o =
    .hold ((z.startWave [] (z.scopeCores p) none).1.setTeam { (z.startWave [] (z.scopeCores p) none).1.team with
      wait := .invalidation z.nextId ((z.dies.get (dieOf z.cur)).clk + 32) }) noReason := if_pos hs

/-- A fence that waits for no earlier load. -/
theorem fence_ready (hr : o = 0 ∨ s.team.loadsFixed s.team.nextSeq = true) :
    ¬ (o ≠ 0 ∧ (!s.begin_.team.loadsFixed s.begin_.team.nextSeq) = true) := by
  rintro ⟨h0, hl⟩
  rcases hr with hr | hr
  · exact h0 hr
  · rw [show s.begin_.team.loadsFixed s.begin_.team.nextSeq = true from hr] at hl
    exact Bool.false_ne_true hl

section
variable (hw : s.team.wait = .none) (ho : o.getLsbD 1 = false) (hr : o = 0 ∨ s.team.loadsFixed s.team.nextSeq = true)
include h hw ho hr

theorem exec_fence_ends (hm : m = 0) : exec (.fence m p o) s = .next (after (.fence m p o) s (fenceLast o)) := by
  subst hm
  rw [exec_fence]
  refine State.runWord_next h ?_
  simp only [show s.begin_.team.wait = .none from hw, ho]
  exact (if_neg (fence_ready hr)).trans ((if_neg Bool.false_ne_true).trans (if_neg (by decide)))

theorem exec_fence_sweeps (hm : m = 1) (hs : s.smpReady o = true) : exec (.fence m p o) s = .next (fenceSweeps m p o s) := by
  subst hm
  rw [exec_fence]
  refine State.runWord_beginsWait (f := fun z => (z.startWave [] (z.scopeCores p) none).1) h rfl (by rw [hw]; exact Wait.noConfusion) ?_
  simp only [show s.begin_.team.wait = .none from hw, ho]
  exact (if_neg (fence_ready hr)).trans ((if_neg Bool.false_ne_true).trans ((if_pos trivial).trans (State.fenceSmp_sweeps (z := s.begin_) hs)))

end

section
variable (hw : s.team.wait = .wave n) (hd : s.begin_.releaseDone p n = true)
include h hw hd

theorem exec_fence_released_ends (hm : m = 0) : exec (.fence m p o) s = .next (after (.fence m p o) s (fenceLast o)) := by
  subst hm
  rw [exec_fence]
  refine State.runWord_next h ?_
  simp only [show s.begin_.team.wait = .wave n from hw, hd]
  exact (if_neg Bool.false_ne_true).trans (if_neg (by decide))

theorem exec_fence_released_sweeps (hm : m = 1) (hs : s.smpReady o = true) : exec (.fence m p o) s = .next (fenceSweeps m p o s) := by
  subst hm
  rw [exec_fence]
  refine State.runWord_beginsWait (f := fun z => (z.startWave [] (z.scopeCores p) none).1) h rfl (by rw [hw]; exact Wait.noConfusion) ?_
  simp only [show s.begin_.team.wait = .wave n from hw, hd]
  exact (if_neg Bool.false_ne_true).trans ((if_pos trivial).trans (State.fenceSmp_sweeps (z := s.begin_) hs))

end

include h in
theorem exec_fence_swept (hw : s.team.wait = .invalidation n clk) (hv : s.waving n = false) :
    exec (.fence m p o) s = .next (after (.fence m p o) s (fun z => fenceLast o (z.untilClock clk))) := by
  rw [exec_fence]
  refine State.runWord_next (f := fun z => fenceLast o (z.untilClock clk)) h ?_
  simp only [show s.begin_.team.wait = .invalidation n clk from hw, show s.begin_.waving n = false from hv]
  exact if_neg Bool.false_ne_true

/-- The state in which a fence has given its clock to its wave. -/
def fenceBegins (p : BitVec 3) (s : State) : State :=
  let z := (s.begin_.releaseClock.1.startRelease p).1
  z.setTeam { z.team with race := { z.team.race with fence := some s.team.race.clock } }

include h in
theorem exec_fence_releases (hw : s.team.wait = .none) (ho : o.getLsbD 1 = true) (hr : s.team.loadsFixed s.team.nextSeq = true) :
    exec (.fence m p o) s = .next (beginsWait (.fence m p o) s (fenceBegins p s) (.wave s.nextId)) := by
  rw [exec_fence]
  refine State.runWord_beginsWait (f := fun _ => fenceBegins p s) h ((State.startRelease_calm _ p).1) (by rw [hw]; exact Wait.noConfusion) ?_
  simp only [show s.begin_.team.wait = .none from hw, ho]
  refine (if_neg (fence_ready (.inr hr))).trans ((if_pos trivial).trans ?_)
  rw [State.startRelease_id]
  refine congrArg (Eff.hold · noReason) ?_
  unfold fenceBegins
  simp only [State.setTeam_setTeam, State.team_setTeam]
  rfl

end

/-- Settles O41, a lemma for each state in which a fence may be found. -/
theorem fenceWord : Obligations.FenceWord := by
  unfold Obligations.FenceWord
  intro m p o n clk s
  exact ⟨fun h hw hm ho hr => exec_fence_ends h hw ho hr hm, fun h hw hm ho hr hs => exec_fence_sweeps h hw ho hr hm hs,
    fun h hw hm hd => exec_fence_released_ends h hw hd hm, fun h hw hm hd hs => exec_fence_released_sweeps h hw hd hm hs,
    exec_fence_swept, exec_fence_releases⟩

end Sys2Proof.Machine
end

section
/-! PROOFS. Stash accesses, stash ranges and sampler words -/

namespace Sys2Proof.Machine

open Sys2Proof.Safety

/-! ### Stash accesses -/
section
variable {s z y : State} {w : Wd} {l : List StashAcc} {reqs : List LaneReq}

/-- A checked lane of a stash word is the lane of one of its requests. -/
theorem State.checkStash1_req {t : Team} {die : Nat} {acc : Acc} {r : LaneReq} {a : StashAcc} (h : s.checkStash1 t die acc r = .ok a) :
    a.req = r := by
  unfold State.checkStash1 at h
  dsimp only at h
  split at h
  · cases h
  split at h
  · cases h
  split at h
  · cases h; rfl
  split at h
  · split at h <;> cases h; rfl
  · split at h <;> cases h; rfl

theorem State.checkStash_reqs {t : Team} {die : Nat} {acc : Acc} (h : s.checkStash t die acc reqs = .ok l) : l.map (·.req) = reqs := by
  induction reqs generalizing l with
  | nil => cases h; rfl
  | cons r rest ih =>
    unfold State.checkStash at h
    split at h
    · cases h
    next a ha =>
      split at h
      · cases h
      next l' hl =>
        cases h
        simp [State.checkStash1_req ha, ih hl]

/-- The lanes of one pass are the first pass, and no later one is left. -/
theorem firstPass_one {m : Nat} (h : ∀ r ∈ reqs, r.lane / 32 = m) : firstPass reqs = (reqs, []) := by
  cases reqs with
  | nil => rfl
  | cons r rest =>
    have hn : nextPass ((r :: rest).map (fun r => r.lane / 32)) = some m := nextPass_const (by simp) (by simpa using h)
    simp only [firstPass, hn]
    congr 1
    · exact List.filter_eq_self.2 (fun q hq => by simpa using h q hq)
    · exact List.filter_eq_nil_iff.2 (fun q hq => by simpa using h q hq)

/-- Every lane that was checked belongs to the pass of all requests. -/
theorem filter_lanes_all (h : l.map (·.req) = reqs) : l.filter (fun a => reqs.any (fun r => r.lane == a.req.lane)) = l := by
  refine List.filter_eq_self.2 fun a ha => List.any_eq_true.2 ⟨a.req, ?_, by simp⟩
  rw [← h]
  exact List.mem_map_of_mem ha

/-- A pass that can be performed is performed. -/
theorem State.stashPass_done {who : Who} {done : State → Eff} (h : StorePass z l who y) : z.stashPass w l who done = done y := by
  obtain ⟨z0, hp, ha, hr, he, hb, rfl⟩ := h
  unfold State.stashPass
  simp only [hp, ha, hr, he, hb]
  exact if_neg (by simp)

/-- A stash store of one pass is performed as it issues. -/
theorem State.stashStores_once {m : Nat} {y0 z : State} (hw : s.team.wait = .none)
    (hl : s.checkStash s.team (dieOf s.cur) .store reqs = .ok l) (hm : ∀ r ∈ reqs, r.lane / 32 = m)
    (h0 : StorePass s l (s.whoOf s.cur) y0)
    (ht : s.stashTrap w s.team.wgKey (stashParts l) (s.whoOf s.cur) true = (z, none)) (hy : StorePass z l (s.whoOf s.cur) y) :
    s.stashStores w reqs = .next y := by
  have ht' : s.stashTrap w s.team.wgKey (l.foldl (fun ps a => insertStash a ps) []) (s.whoOf s.cur) true = (z, none) := ht
  unfold State.stashStores
  simp only [hw, hl, firstPass_one hm, filter_lanes_all (State.checkStash_reqs hl), State.stashPass_done h0, ht', State.stashPass_done hy]
  rfl

/-- The last pass of a stash store closes its word. -/
theorem State.stashStores_last {m n : Nat} {x : LongWord} (hw : s.team.wait = .access n) (hx : s.team.word? n = some x)
    (hm : ∀ r ∈ x.lanesLeft, r.lane / 32 = m) (hl : s.checkStash s.team (dieOf s.cur) .store x.lanesLeft = .ok l)
    (hy : StorePass s l x.who y) : s.stashStores w reqs = .next (y.setTeam (y.team.dropWord x)) := by
  unfold State.stashStores
  simp only [hw, hx, firstPass_one hm, hl, State.stashPass_done hy]
  rfl

/-- A stash load whose lines are filled is outstanding, or, with no lane, complete. -/
theorem State.stashLoad_issues {lw : LongWord} (hl : s.checkStash s.team (dieOf s.cur) .load reqs = .ok l)
    (hr : s.linesReady s.cur s.team.wgKey (linesOf l) = true) (he : l.any (fun a => s.engineOwnsStash s.cur a.req.va.toNat) = false)
    (ht : (s.fillLines s.team.wgKey (linesOf l)).stashTrap w s.team.wgKey (stashParts l) lw.who false = (z, none)) :
    s.stashLoad w reqs lw = z.outstanding w { lw with parts := stashParts l } false := by
  have ht' : (s.fillLines s.team.wgKey (linesOf l)).stashTrap w s.team.wgKey (l.foldl (fun ps a => insertStash a ps) []) lw.who false = (z, none) := ht
  unfold State.stashLoad
  simp only [hl, hr, he, ht']
  exact if_neg (by simp)

/-- An outstanding word that is no atomic goes on, with or without a lane. -/
theorem State.outstanding_next {lw : LongWord} :
    z.outstanding w lw false = .next (if w.mask = 0 then idleWord w lw z else (z.addWord w lw).1) := by
  unfold State.outstanding
  split <;> rfl

end

/-- Settles O36: a load by `State.stashLoad_issues`, a store by its first or its last pass. -/
theorem stashAccesses : Obligations.StashAccesses := by
  unfold Obligations.StashAccesses
  intro v b n k j g f c wd l m id_ x s y0 y z
  refine ⟨fun h ⟨hl, hr, he⟩ ht => ?_, fun h hw hl hm h0 ht hy => ?_, fun h hw hx hm hl hy => ?_⟩
  · rw [exec_vlds]
    exact State.runWord_next (f := fun _ => _) h ((State.stashLoad_issues (s := s.begin_)
      (w := wordOf (.vlds v b n k j g wd f c) s) (lw := (wordOf _ s).loadWord .stash wd (s.whoOf s.cur)) hl hr he ht).trans State.outstanding_next)
  · rw [exec_vsts]
    exact State.runWord_next (f := fun _ => y) h
      (State.stashStores_once (s := s.begin_) hw hl hm h0 ht hy)
  · rw [exec_vsts]
    exact State.runWord_next (f := fun _ => y.setTeam (y.team.dropWord x)) h (State.stashStores_last (s := s.begin_) hw hx hm hl hy)

/-! ### Stash ranges -/

/-- An issue changes nothing of what its team waits for. -/
theorem State.issued_wait (z : State) (u n : Nat) : (z.issued u n).team.wait = z.team.wait := by
  rw [State.team_eq, State.team_eq, State.issued_teams, State.issued_cur]
  by_cases h : z.cur = u
  · rw [h, SMap.get_put_same]
  · rw [SMap.get_put_ne _ _ h]

section
variable {a b : BitVec 6} {n : BitVec 8} {s z : State}

/-- The operands of an STMAP break none of the rules of R228: `base` is where the range lies in memory, `x` its offset and lines. -/
structure MapFits (s : State) (n : Nat) (base x : W64) : Prop where
  aligned : base.toNat % 128 = 0
  canonical : canonical base = true
  reserved : x.toNat / 2 ^ 48 = 0
  offset : x.toNat % 2 ^ 32 % 128 = 0
  lines : 1 ≤ x.toNat / 2 ^ 32 % 65536 ∧ x.toNat / 2 ^ 32 % 65536 ≤ 12288
  bound : x.toNat % 2 ^ 32 + 128 * (x.toNat / 2 ^ 32 % 65536) ≤ s.stashSize s.team
  apart : ∀ r ∈ (s.wgOf s.team).ranges.entries, r.2.mapped = true → r.1 ≠ n →
    overlap r.2.soff (128 * r.2.lines) (x.toNat % 2 ^ 32) (128 * (x.toNat / 2 ^ 32 % 65536)) = false ∧
    overlap r.2.gbase.toNat (128 * r.2.lines) base.toNat (128 * (x.toNat / 2 ^ 32 % 65536)) = false

/-- The range that an STMAP maps. -/
def mapRange (base x : W64) : StRange := { mapped := true, gbase := base, soff := x.toNat % 2 ^ 32, lines := x.toNat / 2 ^ 32 % 65536 }

/-- No rule of R228 refuses an STMAP that fits and whose range, if it is mapped, is the same. -/
theorem MapFits.allowed {base x : W64} (h : MapFits s n.toNat base x)
    (hm : ((s.wgOf s.team).ranges.get n.toNat).mapped = true → ((s.wgOf s.team).ranges.get n.toNat).gbase = base ∧
      ((s.wgOf s.team).ranges.get n.toNat).soff = x.toNat % 2 ^ 32 ∧ ((s.wgOf s.team).ranges.get n.toNat).lines = x.toNat / 2 ^ 32 % 65536) :
    ¬ (x.toNat / 2 ^ 48 ≠ 0 ∨ x.toNat % 2 ^ 32 % 128 ≠ 0 ∨ x.toNat / 2 ^ 32 % 65536 = 0 ∨ 12288 < x.toNat / 2 ^ 32 % 65536
      ∨ s.stashSize s.team < x.toNat % 2 ^ 32 + 128 * (x.toNat / 2 ^ 32 % 65536)
      ∨ ((s.wgOf s.team).ranges.entries.filter (fun r => r.2.mapped && r.1 ≠ n.toNat)).any (fun r =>
          overlap r.2.soff (128 * r.2.lines) (x.toNat % 2 ^ 32) (128 * (x.toNat / 2 ^ 32 % 65536))
          || overlap r.2.gbase.toNat (128 * r.2.lines) base.toNat (128 * (x.toNat / 2 ^ 32 % 65536))) = true
      ∨ (((s.wgOf s.team).ranges.get n.toNat).mapped = true ∧
          (!(((s.wgOf s.team).ranges.get n.toNat).gbase == base && ((s.wgOf s.team).ranges.get n.toNat).soff == x.toNat % 2 ^ 32
            && ((s.wgOf s.team).ranges.get n.toNat).lines == x.toNat / 2 ^ 32 % 65536)) = true)) := by
  rintro (q | q | q | q | q | q | ⟨q, q'⟩)
  · exact q h.reserved
  · exact q h.offset
  · exact absurd h.lines.1 (by rw [q]; decide)
  · exact absurd h.lines.2 (Nat.not_le.2 q)
  · exact absurd h.bound (Nat.not_le.2 q)
  · obtain ⟨r, hr, ho⟩ := List.any_eq_true.1 q
    obtain ⟨hr, hf⟩ := List.mem_filter.1 hr
    simp only [Bool.and_eq_true, decide_eq_true_eq] at hf
    obtain ⟨h1, h2⟩ := h.apart r hr hf.1 hf.2
    rw [h1, h2] at ho
    exact Bool.false_ne_true ho
  · obtain ⟨h1, h2, h3⟩ := hm q
    rw [h1, h2, h3] at q'
    simp at q'

section
variable (hu : s.unmapping = false) (h : Passes (.stmap a b n) s)
  (hf : MapFits s n.toNat ((wordOf (.stmap a b n) s).r.readS a.toNat) ((wordOf (.stmap a b n) s).r.readS b.toNat))
include hu h hf

theorem exec_stmap_maps (hm : ((s.wgOf s.team).ranges.get n.toNat).mapped = false) :
    exec (.stmap a b n) s = .next (after (.stmap a b n) s (fun z => z.modWg s.team.wgKey (fun g =>
      let r := mapRange ((wordOf (.stmap a b n) s).r.readS a.toNat) ((wordOf (.stmap a b n) s).r.readS b.toNat)
      { g with ranges := g.ranges.put n.toNat r }))) := by
  rw [exec_stmap]
  refine State.runWord_next h ?_
  refine (if_neg (fun q => Bool.false_ne_true (hu.symm.trans q))).trans ((if_neg (fun q => q hf.aligned)).trans
    ((if_neg (fun q => Bool.false_ne_true (q.symm.trans hf.canonical))).trans ((if_neg ?_).trans (if_neg ?_))))
  · exact hf.allowed (fun q => absurd (hm.symm.trans q) Bool.false_ne_true)
  · exact fun q => Bool.false_ne_true (hm.symm.trans q)

theorem exec_stmap_again (hm : ((s.wgOf s.team).ranges.get n.toNat).mapped = true)
    (hg : ((s.wgOf s.team).ranges.get n.toNat).gbase = (wordOf (.stmap a b n) s).r.readS a.toNat)
    (ho : ((s.wgOf s.team).ranges.get n.toNat).soff = ((wordOf (.stmap a b n) s).r.readS b.toNat).toNat % 2 ^ 32)
    (hl : ((s.wgOf s.team).ranges.get n.toNat).lines = ((wordOf (.stmap a b n) s).r.readS b.toNat).toNat / 2 ^ 32 % 65536) :
    exec (.stmap a b n) s = .next (after (.stmap a b n) s id) := by
  rw [exec_stmap]
  refine State.runWord_next h ?_
  exact (if_neg (fun q => Bool.false_ne_true (hu.symm.trans q))).trans ((if_neg (fun q => q hf.aligned)).trans
    ((if_neg (fun q => Bool.false_ne_true (q.symm.trans hf.canonical))).trans ((if_neg (hf.allowed (fun _ => ⟨hg, ho, hl⟩))).trans (if_pos hm))))

end

section
variable (hu : s.unmapping = false) (hr : ∀ va, s.team.wait ≠ .resident va)
include hu hr

theorem exec_stflush_flushes (h : Passes (.stflush n) s) (hz : s.begin_.flushRanges s.team ((s.wgOf s.team).named n) = (z, none)) :
    exec (.stflush n) s = .next (after (.stflush n) s (fun _ => z)) := by
  have hz' : s.begin_.flushRanges s.begin_.team ((s.begin_.wgOf s.begin_.team).named n) = (z, none) := hz
  rw [exec_stflush]
  refine State.runWord_next (f := fun _ => z) h ?_
  simp only [show s.begin_.unmapping = false from hu, hz']
  split
  · next hw => exact absurd hw (hr _)
  · exact if_neg Bool.false_ne_true

section
variable (h : Passes (.stunmap n) s)
include h

omit hu in
theorem exec_stunmap_nothing (hn : (s.wgOf s.team).nextUnmap ((s.wgOf s.team).named n) = none) :
    exec (.stunmap n) s = .next (after (.stunmap n) s id) := by
  rw [exec_stunmap]
  refine State.runWord_next h ?_
  simp only [show (s.begin_.wgOf s.begin_.team).nextUnmap ((s.begin_.wgOf s.begin_.team).named n) = none from hn]
  split
  · next hw => exact absurd hw (hr _)
  · rfl
  · next hq _ => cases hq

variable {q k : Nat} (hs : s.team.stashQuiet = true) (hz : s.begin_.flushRanges s.team [q] = (z, none))
include hs hz

theorem exec_stunmap_ends (hn : (s.wgOf s.team).nextUnmap ((s.wgOf s.team).named n) = some (q, k, true)) :
    exec (.stunmap n) s = .next (after (.stunmap n) s (fun _ => z.modWg s.team.wgKey (fun y => y.endLine q k))) := by
  have hz' : s.begin_.flushRanges s.begin_.team [q] = (z, none) := hz
  rw [exec_stunmap]
  refine State.runWord_next (f := fun _ => z.modWg s.team.wgKey (fun y => y.endLine q k)) h ?_
  simp only [show (s.begin_.wgOf s.begin_.team).nextUnmap ((s.begin_.wgOf s.begin_.team).named n) = some (q, k, true) from hn,
    show s.begin_.team.stashQuiet = true from hs, show s.begin_.unmapping = false from hu]
  split
  · next hw => exact absurd hw (hr _)
  · next hq _ => cases hq
  · next hq _ =>
    cases hq
    rw [hz']
    rfl

omit hr in
theorem exec_stunmap_goes_on (hw : s.team.wait = .unmap) (hn : (s.wgOf s.team).nextUnmap ((s.wgOf s.team).named n) = some (q, k, false)) :
    let y := z.modWg s.team.wgKey (fun y => y.endLine q k)
    exec (.stunmap n) s = .next ((((y.setTeam { y.team with wait := .unmap }).issued s.cur 1).stalled noReason).tick (dieOf s.cur)) := by
  intro y
  have hz' : s.begin_.flushRanges s.begin_.team [q] = (z, none) := hz
  rw [exec_stunmap]
  refine State.runWord_hold (f := fun _ => (y.setTeam { y.team with wait := .unmap }).issued s.cur 1) h ?_ ?_
  · simp only [show (s.begin_.wgOf s.begin_.team).nextUnmap ((s.begin_.wgOf s.begin_.team).named n) = some (q, k, false) from hn,
      show s.begin_.team.stashQuiet = true from hs, show s.begin_.unmapping = false from hu, show s.begin_.team.wait = .unmap from hw, hz']
    rfl
  · rw [State.issued_wait, State.team_setTeam]
    exact hw.symm

end
end
end

/-- Settles O37. -/
theorem stashRanges : Obligations.StashRanges := by
  unfold Obligations.StashRanges
  intro a b d n s z
  extract_lets t g i base x off lines fits r m free un
  rintro ⟨hu, hr⟩
  have hfits (q : fits) : MapFits s n.toNat base x := by
    obtain ⟨h1, h2, h3, h4, h5, h6, h7, h8⟩ := q
    exact ⟨h1, h2, h3, h4, ⟨h5, h6⟩, h7, h8⟩
  refine ⟨fun h hf hm => exec_stmap_maps hu h (hfits hf) hm, fun h hf hm hg ho hl => exec_stmap_again hu h (hfits hf) hm hg ho hl,
    exec_stflush_flushes hu hr, exec_stunmap_nothing hr, fun q k h hn hs hz => exec_stunmap_ends hu hr h hs hz hn,
    fun q k h hw hn hs hz => exec_stunmap_goes_on hu h hs hz hw hn, writesRegs_of_runWord exec_stqry ?_⟩
  exact if_neg (fun q => Bool.false_ne_true (hu.symm.trans q))

/-! ### Words of the sampler path -/
section
variable {i : Instr} {s z : State} {eff : Wd → State → Eff} {w : Wd} {reqs : List LaneReq} {lw lw' : LongWord} {va : W64} {img : Image} {go : Image → Eff}

/-- The word of a sampler word whose lanes have passed their checks: with no element to read its results are known. -/
def samplerWord (z : State) (w : Wd) (lw : LongWord) (l : List LaneAcc) : LongWord :=
  let v := { lw with upto := z.samplerFrom, word := wordBits w.ins, mask := w.mask }
  if l.isEmpty then { v with results := v.texResults w.width } else v

theorem samplerWord_kind (z : State) (w : Wd) (lw : LongWord) (l : List LaneAcc) : (samplerWord z w lw l).kind = lw.kind := by
  unfold samplerWord
  dsimp only
  split <;> rfl

theorem State.issueSampler_checked {l : List LaneAcc} (hw : z.team.wait = .none)
    (hl : z.checkLanes (dieOf z.cur) z.team.place.ctx 0 .sampler true reqs = .ok l) :
    z.issueSampler w reqs lw = (z.fillCaches (coreOf z.cur) z.team.place.ctx (some z.cur) (reqs.map (·.va))).issueWord w (gather l)
      (samplerWord z w lw l) .next := by
  unfold State.issueSampler
  simp only [hw, hl]
  rfl

theorem State.issueSampler_waiting {n : Nat} (hw : z.team.wait = .access n) : z.issueSampler w reqs lw = z.issueWord w [] lw .next := by
  unfold State.issueSampler
  simp only [hw]

/-- A word whose effect is `issueSampler`, and, where it waits for its passes, that of `issueWord`. -/
theorem samples_of_issueSampler (hx : exec i s = s.runWord i eff) (hk : lw.kind = .sampler)
    (h0 : s.team.wait = .none → eff (wordOf i s) s.begin_ = s.begin_.issueSampler (wordOf i s) reqs lw)
    (h1 : ∀ n, s.team.wait = .access n → eff (wordOf i s) s.begin_ = s.begin_.issueWord (wordOf i s) [] lw' .next) : samples i s reqs lw := by
  refine ⟨fun l h hw hf hl => ?_, goesOn_of hx h1⟩
  have hc := seen_calm s reqs
  refine opensWord_of (lw := samplerWord s.begin_ (wordOf i s) lw l) hx h (hc.wait.trans hw) (hc.fail.trans hf) hc.cur ?_ fun _ =>
    (h0 hw).trans (State.issueSampler_checked (z := s.begin_) hw hl)
  rw [samplerWord_kind, hk]
  rfl

/-- A word whose descriptor can be read goes on with the image. -/
theorem State.withImage_described (hw : ∀ n, s.team.wait ≠ .access n) (hd : Described s va img) :
    s.begin_.withImage w va go = go img := by
  obtain ⟨p, ha, hc, hb, hi⟩ := hd
  have hc' : s.begin_.checkElem (dieOf s.begin_.cur) s.begin_.team.place.ctx 0 .sampler false 32 va = .ok p := hc
  unfold State.withImage
  simp only [hc', hb, hi]
  split
  · next hn => exact absurd hn (hw _)
  · exact (if_neg (fun q => q ha)).trans (if_neg Bool.false_ne_true)

theorem State.withImage_waiting {n : Nat} (hw : z.team.wait = .access n) : z.withImage w va go = z.issueWord w [] { id := 0 } .next := by
  unfold State.withImage
  simp only [hw]

/-- A word of the sampler path that reads its descriptor first. -/
theorem samples_of_withImage {f : Wd → W64} {word : Wd → Image → LongWord} {texels : Wd → Image → List LaneReq}
    (hx : exec i s = s.runWord i (fun w z => z.withImage w (f w) (fun img => z.issueSampler w (texels w img) { word w img with who := z.samplerWho })))
    (hk : (word (wordOf i s) img).kind = .sampler) (hd : Described s (f (wordOf i s)) img) :
    samples i s (texels (wordOf i s) img) { word (wordOf i s) img with who := { s.whoOf s.cur with race := 0 } } :=
  samples_of_issueSampler hx hk
    (fun hw => State.withImage_described (fun _ hn => Wait.noConfusion (hw.symm.trans hn)) hd)
    (fun _ hn => State.withImage_waiting (z := s.begin_) hn)

end

/-- Settles O38: each reading word is `issueSampler`, after its descriptor where it has one. -/
theorem samplerWords : Obligations.SamplerWords := by
  unfold Obligations.SamplerWords
  intro d a b f p k wd n img s
  refine ⟨?_, fun hd => ?_, fun hd => ?_, fun h hw hd => ?_⟩
  · exact samples_of_issueSampler exec_tld rfl (fun _ => rfl) (fun n hn => State.issueSampler_waiting (z := s.begin_) hn)
  · exact samples_of_withImage (f := fun w => w.r.readS b.toNat) (texels := fun w img => w.texReqs ⟨d.toNat, p = 1, none⟩ img a)
      (word := fun w img => { w.loadWord .sampler 2 {} with args := w.texArgs img a }) exec_tex rfl hd
  · exact samples_of_withImage (f := fun w => w.r.readS b.toNat) (texels := fun w img => w.texReqs ⟨d.toNat, false, some n.toNat⟩ img a)
      (word := fun w img => { w.loadWord .sampler 2 {} with args := w.texArgs img a }) exec_texg rfl hd
  · rw [exec_tqry]
    exact State.runWord_next h ((State.withImage_described hw hd).trans State.outstanding_next)

end Sys2Proof.Machine
end

section
/-! PROOFS. Copies, queues, launches, regrouping and collectives -/

namespace Sys2Proof.Machine

open Sys2Proof.Safety

/-! ### Copies -/
section
variable {i : Instr} {s : State} {w : Wd} {c : Copy} {len : Option Nat} {a b d : BitVec 6} {k : BitVec 2}

/-- A number that 4 divides has no remainder to refuse. -/
theorem mod_bne_zero {n m : Nat} (h : n % m = 0) : (n % m != 0) = false := by simp [h]

/-- No check of R232 refuses operands that pass them. -/
theorem State.copyCheck_none (h : CopyOk s c len) : s.begin_.copyCheck w c len = none := by
  obtain ⟨⟨h1, h2, h3, h4, h5⟩, hd, hs, hl, hdf, hsf⟩ := h
  have hdst : (!c.toStash && !canonical c.dst) = false := by
    cases ht : c.toStash with
    | true => rfl
    | false => rw [hd ht]; rfl
  have hsrc : (!c.fromStash && !canonical c.src) = false := by
    cases ht : c.fromStash with
    | true => rfl
    | false => rw [hs ht]; rfl
  have hdl : (c.toStash && decide (s.begin_.stashSize s.begin_.team < c.dst.toNat + c.extent c.dstPitch)) = false := by
    cases ht : c.toStash with
    | false => rfl
    | true => exact decide_eq_false (Nat.not_lt.2 (hdf ht))
  have hsl : (c.fromStash && decide (s.begin_.stashSize s.begin_.team < c.src.toNat + c.extent c.srcPitch)) = false := by
    cases ht : c.fromStash with
    | false => rfl
    | true => exact decide_eq_false (Nat.not_lt.2 (hsf ht))
  unfold State.copyCheck
  simp only [mod_bne_zero h1, mod_bne_zero h2, mod_bne_zero h3, mod_bne_zero h4, mod_bne_zero h5, hdst, hsrc, hdl, hsl]
  cases len with
  | none => rfl
  | some n =>
    simp only [decide_eq_false (Nat.not_lt.2 (hl n rfl))]
    rfl

/-- A word whose effect is `startCopy` starts its copy. -/
theorem startsCopy_of_startCopy {copy : Wd → Copy} {len : Wd → Option Nat} (hx : exec i s = s.runWord i (fun w z => z.startCopy w (copy w) (len w))) :
    startsCopy i s (copy (wordOf i s)) (len (wordOf i s)) := by
  intro h hc hn
  refine hx.trans (State.runWord_next h ?_)
  unfold State.startCopy
  simp only [State.copyCheck_none hc]
  exact if_neg (Nat.not_le.2 hn)

/-- CPYB closes the pending copies into a batch. -/
theorem exec_cpyb_closes (h : Passes (.cpyb d) s) (hn : (s.batchesOpen s.team).length < 64) :
    exec (.cpyb d) s = .next (atSeam (.cpyb d) s (fun z =>
      (z.releaseClock.1.setTeam { z.releaseClock.1.team with copy := { s.team.copy with
        last := (s.team.copy.last + 1) % 2 ^ 32, open_ := [],
        batches := s.team.copy.batches.filter (fun b => !s.batchDone b || b.copies.any (fun c => (s.copies.get c).failed.isSome)) ++
          [⟨(s.team.copy.last + 1) % 2 ^ 32, s.team.copy.open_⟩] } }).withRegs
        (fun r => r.writeS d.toNat (BitVec.ofNat 64 ((s.team.copy.last + 1) % 2 ^ 32))))) := by
  rw [exec_cpyb]
  exact State.runWord_seam h (if_neg (Nat.not_le.2 hn))

/-- CPYW goes on when the copies that it covers have finished, none of them with a failure. -/
theorem exec_cpyw_goes (h : Passes (.cpyw a) s)
    (hb : ∀ b ∈ s.team.copy.batches, covered (lastCovered s.team.copy.last ((wordOf (.cpyw a) s).r.readS a.toNat)) b.num = true →
      ∀ c ∈ b.copies, (s.copies.get c).active = false ∧ (s.copies.get c).failed = none) :
    exec (.cpyw a) s = .next (after (.cpyw a) s (fun z => z.setTeam { s.team with copy := { s.team.copy with
      batches := s.team.copy.batches.filter (fun b => !covered (lastCovered s.team.copy.last ((wordOf (.cpyw a) s).r.readS a.toNat)) b.num) } })) := by
  have hb' : ∀ b ∈ s.begin_.team.copy.batches.filter (fun b =>
      covered (lastCovered s.begin_.team.copy.last ((wordOf (.cpyw a) s).r.readS a.toNat)) b.num),
      ∀ c ∈ b.copies, (s.begin_.copies.get c).active = false ∧ (s.begin_.copies.get c).failed = none := fun b hm =>
    hb b (List.mem_filter.1 hm).1 (List.mem_filter.1 hm).2
  have hdone : (s.begin_.team.copy.batches.filter (fun b =>
      covered (lastCovered s.begin_.team.copy.last ((wordOf (.cpyw a) s).r.readS a.toNat)) b.num)).any (fun b => !s.begin_.batchDone b) = false := by
    rw [List.any_eq_false]
    intro b hm
    have : s.begin_.batchDone b = true := List.all_eq_true.2 fun c hc => by rw [(hb' b hm c hc).1]; rfl
    rw [this]
    exact Bool.false_ne_true
  have hhit : (s.begin_.team.copy.batches.filter (fun b =>
      covered (lastCovered s.begin_.team.copy.last ((wordOf (.cpyw a) s).r.readS a.toNat)) b.num)).findSome? (fun b =>
        b.copies.findSome? (fun c => (s.begin_.copies.get c).failed.map (fun f => (b.num, c, f)))) = none := by
    rw [List.findSome?_eq_none_iff]
    intro b hm
    rw [List.findSome?_eq_none_iff]
    intro c hc
    rw [(hb' b hm c hc).2]
    rfl
  rw [exec_cpyw]
  refine State.runWord_next h ?_
  simp only [hdone, hhit]
  exact if_neg Bool.false_ne_true

end

/-- The copies that CPY and CPY2D describe. -/
def cpyCopy (k : BitVec 2) (a b : BitVec 6) (w : Wd) : Copy :=
  { dir := k.toNat, dst := w.r.readS a.toNat, src := w.r.readS (a.toNat + 1), rows := 1, rowBytes := (w.r.readS b.toNat).toNat }

def cpy2dCopy (k : BitVec 2) (a b : BitVec 6) (w : Wd) : Copy :=
  { dir := k.toNat, dst := w.r.readS a.toNat, src := w.r.readS (a.toNat + 1), rows := (w.r.readS b.toNat).toNat / 2 ^ 32,
    rowBytes := (w.r.readS b.toNat).toNat % 2 ^ 32, srcPitch := (w.r.readS (b.toNat + 1)).toNat / 2 ^ 32,
    dstPitch := (w.r.readS (b.toNat + 1)).toNat % 2 ^ 32 }

/-- Settles O42. -/
theorem copyWords : Obligations.CopyWords := by
  unfold Obligations.CopyWords
  intro a b d k s
  exact ⟨startsCopy_of_startCopy (copy := cpyCopy k a b) (len := fun w => some (w.r.readS b.toNat).toNat) exec_cpy,
    startsCopy_of_startCopy (copy := cpy2dCopy k a b) (len := fun _ => none) exec_cpy2d, exec_cpyb_closes, exec_cpyw_goes⟩

/-! ### Streams and queues -/
section
variable {s z z1 : State} {w : Wd} {d a : BitVec 6} {f : BitVec 1} {k : Nat} {p : StreamProg} {table : SMap (0#64)} {who : Who} {va : W64}
  {key : BitVec 256} {l dl : List Byte}

/-- The queue that STREAM binds: its program, what it has read, and whether there is nothing to do. -/
def boundQueue (s z1 : State) (l : List Byte) (dict : List W64) (key : BitVec 256) : Queue :=
  let p := streamProg l
  let table := (s.ctxOf s.team).fmt
  { bound := true, wg := s.team.wgKey, uid := z1.cur, owner := s.team.key, seq := s.team.nextSeq, upto := z1.nextId,
    ebits := p.outBits table, prog := l, table := table, dict := dict, key := key, who := { s.whoOf s.cur with engine := true },
    ended := p.n = 0 ∧ (!p.on 6 ∨ p.crcaddr = 0) }

/-- What STREAM reads beside its program: its dictionary, if it has one, and its key, if it is loaded or not asked for. -/
theorem State.streamExtras_read {go : State → List W64 → BitVec 256 → Eff}
    (hd : if p.dictMode = true then z.engRead who (dieOf z.cur) (some (coreOf z.cur)) p.dict (32 * (nfmtOf (table.get p.dictfmt)).width) = .ok dl z1
      else z1 = z)
    (hk : ((z1.mod.keys.entries.find? (fun k => k.1 == p.keyslot && k.2.1 == who.ctx)).map (fun k => BitVec.ofNat 256 k.2.2) = some key ∨
      (p.on 1 = false ∧ key = 0 ∧ z1.mod.keys.entries.find? (fun k => k.1 == p.keyslot && k.2.1 == who.ctx) = none))) :
    z.streamExtras w p table who va go = go z1 (if p.dictMode = true then dictOf (nfmtOf (table.get p.dictfmt)).width dl else []) key := by
  have hkey (l : List W64) : (if p.on 1 = true ∧ ((z1.mod.keys.entries.find? (fun k => k.1 == p.keyslot && k.2.1 == who.ctx)).map
      (fun k => BitVec.ofNat 256 k.2.2)) = none then Eff.trap z1 (w.trap z1 cPROTECT (Acc.engRead.code * 16 + Config.noWalkLevel.toNat) va)
      else go z1 l (((z1.mod.keys.entries.find? (fun k => k.1 == p.keyslot && k.2.1 == who.ctx)).map (fun k => BitVec.ofNat 256 k.2.2)).getD 0)) =
      go z1 l key := by
    rcases hk with hk | ⟨h1, h2, h3⟩
    · rw [hk]
      exact if_neg (fun q => nomatch q.2)
    · rw [h3, h2, if_neg (fun q => Bool.false_ne_true (h1.symm.trans q.1))]
      rfl
  unfold State.streamExtras
  cases hm : p.dictMode with
  | true =>
    simp only [hm, if_true] at hd
    simp only [hd, if_true]
    exact hkey _
  | false =>
    rw [hm, if_neg Bool.false_ne_true] at hd
    subst hd
    exact hkey []

/-- STREAM binds its port to the first free queue. -/
theorem exec_stream_binds (h : Passes (.stream d a) s) (ha : ((wordOf (.stream d a) s).r.readS a.toNat).toNat % 128 = 0)
    (hp : s.portOf s.team d.toNat = none) (hq : s.teamQuiet s.cur = true) (hr : EngineRead s ((wordOf (.stream d a) s).r.readS a.toNat) 128 l z)
    (hv : (streamProg l).valid (s.ctxOf s.team).fmt (z.feature 5) = true) {dict : List W64}
    (hx : ∀ va go, z.streamExtras (wordOf (.stream d a) s) (streamProg l) (s.ctxOf s.team).fmt { s.whoOf s.cur with engine := true } va go = go z1 dict key)
    (hf : (List.range 8).find? (fun k => !(z1.queue (coreOf s.cur) k).bound) = some k) :
    let z2 := ((z1.fresh.2.putQueue (coreOf s.cur) k (boundQueue s z1 l dict key)).releaseClock.1).modWg s.team.wgKey
      (fun g => { g with ports := g.ports.put d.toNat (k + 1) })
    exec (.stream d a) s = .next (atSeam (.stream d a) s (fun _ => z2.setTeam { z2.team with nextSeq := s.team.nextSeq + 1 })) := by
  intro z2
  obtain ⟨⟨pl, ht⟩, hr⟩ := hr
  have ht' : s.begin_.translate (dieOf s.begin_.cur) s.begin_.team.place.ctx .engRead ((wordOf (.stream d a) s).r.readS a.toNat) = .ok pl := ht
  have hr' : s.begin_.engRead (s.begin_.engWho s.begin_.cur) (dieOf s.begin_.cur) (some (coreOf s.begin_.cur))
    ((wordOf (.stream d a) s).r.readS a.toNat) 128 = .ok l z := hr
  have hp' : s.begin_.portOf s.begin_.team d.toNat = none := hp
  have hq' : s.begin_.teamQuiet s.begin_.cur = true := hq
  have hv' : (streamProg l).valid (s.begin_.ctxOf s.begin_.team).fmt (z.feature 5) = true := hv
  rw [exec_stream]
  refine State.runWord_seam (f := fun _ => z2.setTeam { z2.team with nextSeq := s.team.nextSeq + 1 }) h ?_
  simp only [ht', hr', hp', hq', hv']
  refine (if_neg (fun q => q ha)).trans ((if_neg Bool.false_ne_true).trans ((if_neg (by simp)).trans ((if_neg (by simp)).trans ((hx _ _).trans ?_))))
  have hf' : (List.range 8).find? (fun k => !(z1.queue (coreOf s.begin_.cur) k).bound) = some k := hf
  simp only [hf']
  rfl

/-- A word that is outstanding, or, without a lane, at its seam at once. -/
theorem State.runWord_outstanding {i : Instr} {eff : Wd → State → Eff} {g : State → State} {lw : LongWord} (h : Passes i s)
    (he : eff (wordOf i s) s.begin_ = (g s.begin_).outstanding (wordOf i s) lw true) :
    s.runWord i eff = .next (if (wordOf i s).mask = 0 then atOwnSeam i s (fun z => idleWord (wordOf i s) lw (g z))
      else after i s (fun z => ((g z).addWord (wordOf i s) lw).1)) := by
  unfold State.outstanding at he
  by_cases hm : (wordOf i s).mask = 0
  · rw [if_pos hm] at he ⊢
    exact State.runWord_seam (f := fun z => idleWord (wordOf i s) lw (g z)) h he
  · rw [if_neg hm] at he ⊢
    exact State.runWord_next (f := fun z => ((g z).addWord (wordOf i s) lw).1) h he

/-- QPOP takes an entry for each pass of its mask. -/
theorem exec_qpop_pops (h : Passes (.qpop d a f) s) (hp : s.portOf s.team a.toNat = some k)
    (hn : (passesOf (wordOf (.qpop d a f) s).mask).length ≤ (s.queue (coreOf s.cur) k).entries.length) :
    let w := wordOf (.qpop d a f) s
    let q := s.queue (coreOf s.cur) k
    let pop (z : State) : State := z.putQueue (coreOf s.cur) k { q with entries := q.entries.drop (passesOf w.mask).length }
    let lw : LongWord := { id := 0, kind := .qpop, dests := useSet w.f.seamWrites, reg := d.toNat, who := s.engWho s.cur, results :=
      ((passesOf w.mask).zip q.entries).flatMap (fun x => popLanes d.toNat w.lanes x.1 x.2) }
    exec (.qpop d a f) s = .next (if w.mask = 0 then atOwnSeam (.qpop d a f) s (fun z => idleWord w lw (pop z))
      else after (.qpop d a f) s (fun z => ((pop z).addWord w lw).1)) := by
  intro w q pop lw
  rw [exec_qpop]
  refine State.runWord_outstanding (g := pop) (lw := lw) h ?_
  simp only [show s.begin_.portOf s.begin_.team a.toNat = some k from hp]
  exact if_pos hn

/-- QSTAT of a port. -/
theorem qstat_unbound (hp : s.portOf s.team a.toNat = none) : writesS (.qstat d a) s d (fun _ => 0) := by
  refine writesRegs_of_runWord exec_qstat ?_
  simp only [show s.begin_.portOf s.begin_.team a.toNat = none from hp]
  rfl

theorem exec_qclose_unbound (h : Passes (.qclose a) s) (hp : s.portOf s.team a.toNat = none) :
    exec (.qclose a) s = .next (after (.qclose a) s id) := by
  rw [exec_qclose]
  refine State.runWord_next h ?_
  simp only [show s.begin_.portOf s.begin_.team a.toNat = none from hp]
  rfl

theorem exec_qclose_frees (h : Passes (.qclose a) s) (hp : s.portOf s.team a.toNat = some k) (ho : (s.queue (coreOf s.cur) k).over = true)
    (hs : (s.queue (coreOf s.cur) k).stop = none ∨ (s.queue (coreOf s.cur) k).reported = true) :
    exec (.qclose a) s = .next (after (.qclose a) s (fun z => z.unbindQueue (coreOf s.cur) k)) := by
  rw [exec_qclose]
  refine State.runWord_next h ?_
  simp only [show s.begin_.portOf s.begin_.team a.toNat = some k from hp, show (s.begin_.queue (coreOf s.begin_.cur) k).over = true from ho]
  refine (if_pos trivial).trans ?_
  rcases hs with hs | hs
  · simp only [show (s.begin_.queue (coreOf s.begin_.cur) k).stop = none from hs]
    rfl
  · simp only [show (s.begin_.queue (coreOf s.begin_.cur) k).reported = true from hs]
    split
    · exact if_pos trivial
    · rfl
end

/-- Settles O43. -/
theorem queueWords : Obligations.QueueWords := by
  unfold Obligations.QueueWords
  intro d a f k l dl key z z1 s
  refine ⟨fun h ha hp hq hr hv hd hk hf => ?_, exec_qpop_pops, qstat_unbound, fun hp => writesRegs_of_runWord exec_qstat ?_,
    exec_qclose_unbound, exec_qclose_frees⟩
  · exact exec_stream_binds h ha hp hq hr hv (fun va go => State.streamExtras_read hd hk) hf
  · simp only [show s.begin_.portOf s.begin_.team a.toNat = some k from hp]
    rfl

/-! ### Launches -/

/-- A launch record is queued under the context's next number. -/
theorem State.accept_number (z : State) (ctx va : Nat) (host : Bool) (l : List Byte) : (z.accept ctx va host l).2 = (z.ctxs.get ctx).nextLnum := rfl

/-- LNCH, its release performed, queues the record that it has read. -/
theorem exec_lnch_queues {s z : State} {d a : BitVec 6} {n : Nat} {l : List Byte} {p : Place1} (h : Passes (.lnch d a) s)
    (ha : ((wordOf (.lnch d a) s).r.readS a.toNat).toNat % 256 = 0)
    (hp : s.begin_.translate (dieOf s.cur) s.team.place.ctx .load ((wordOf (.lnch d a) s).r.readS a.toNat) = .ok p)
    (hw : s.team.wait = .wave n) (hr : s.begin_.releaseDone 3 n = true) (hq : (s.ctxOf s.team).launchQ.length < 4096)
    (he : s.begin_.engRead { s.whoOf s.cur with engine := true } (dieOf s.cur) (some (coreOf s.cur))
      ((wordOf (.lnch d a) s).r.readS a.toNat) 256 = .ok l z) :
    exec (.lnch d a) s = .next (atSeam (.lnch d a) s (fun _ =>
      ((z.accept s.team.place.ctx ((wordOf (.lnch d a) s).r.readS a.toNat).toNat false l).1.releaseClock.1).withRegs
        (fun r => r.writeS d.toNat (BitVec.ofNat 64 (z.ctxs.get s.team.place.ctx).nextLnum)))) := by
  have hp' : s.begin_.translate (dieOf s.begin_.cur) s.begin_.team.place.ctx .load ((wordOf (.lnch d a) s).r.readS a.toNat) = .ok p := hp
  have he' : s.begin_.engRead (s.begin_.engWho s.begin_.cur) (dieOf s.begin_.cur) (some (coreOf s.begin_.cur))
    ((wordOf (.lnch d a) s).r.readS a.toNat) 256 = .ok l z := he
  rw [exec_lnch, ← State.accept_number z s.team.place.ctx ((wordOf (.lnch d a) s).r.readS a.toNat).toNat false l]
  refine State.runWord_seam (f := fun _ =>
      ((z.accept s.team.place.ctx ((wordOf (.lnch d a) s).r.readS a.toNat).toNat false l).1.releaseClock.1).withRegs
        (fun r => r.writeS d.toNat (BitVec.ofNat 64 (z.accept s.team.place.ctx _ false l).2))) h ?_
  simp only [hp', show s.begin_.team.wait = .wave n from hw, hr, he']
  exact (if_neg (fun q => q ha)).trans ((if_neg Bool.false_ne_true).trans (if_neg (Nat.not_le.2 hq)))

/-- Settles O44. -/
theorem launchWord : Obligations.LaunchWord := by
  unfold Obligations.LaunchWord
  intro d a n l p z s
  exact exec_lnch_queues

/-! ### REGROUP -/
section
variable {s : State} {d a b : BitVec 6} {n : BitVec 4} {g : BitVec 1} {wg mask : Nat}

/-- A team that may waits for the other members of its REGROUP. -/
theorem exec_regroup_waits (h : Passes (.regroup d a b n g) s) (hw : s.team.wait = .none) (hd : s.team.flow.dstack = [])
    (ha : s.team.flow.active = fullMask s.team.place.width) (hm : (s.rgMembers s.team (g = 1)).contains s.team.place.idx = true)
    (hr : s.rgRetired s.team.wgKey (s.rgMembers s.team (g = 1)) = false) :
    exec (.regroup d a b n g) s = .next ((((s.begin_.setTeam { s.team with
      wait := .regroup d.toNat a.toNat b.toNat (2 * n.toNat + g.toNat) }).stalled 6).issued s.cur (wordOf (.regroup d a b n g) s).clocks).tick
        (dieOf s.cur)) := by
  rw [exec_regroup]
  refine State.runWord_waits (f := fun z => z.setTeam { z.team with wait := .regroup d.toNat a.toNat b.toNat (2 * n.toNat + g.toNat) }) h ?_ ?_
  · simp only [show s.begin_.team.wait = .none from hw]
    refine if_neg ?_
    rintro (q | q | q | q)
    · exact q hd
    · exact q ha
    · rw [show (s.begin_.rgMembers s.begin_.team (g = 1)).contains s.begin_.team.place.idx = true from hm] at q
      exact Bool.false_ne_true q
    · exact Bool.false_ne_true (hr.symm.trans q)
  · rw [State.team_setTeam, hw]
    exact Wait.noConfusion

/-- When every member waits with the same operands, each takes its share. -/
theorem exec_regroupExchange_exchanges
    (h0 : (s.rgWaiting wg).filter (fun x => mask.testBit (s.teams.get x.uid).place.idx) ≠ [])
    (hl : ((s.rgWaiting wg).filter (fun x => mask.testBit (s.teams.get x.uid).place.idx)).length =
      ((List.range 16).filter (fun k => mask.testBit k)).length)
    (hm : ∀ x ∈ (s.rgWaiting wg).filter (fun x => mask.testBit (s.teams.get x.uid).place.idx),
      x.ops = (d.toNat, a.toNat, b.toNat, 2 * n.toNat + g.toNat) ∧ x.members = (List.range 16).filter (fun k => mask.testBit k)) :
    let us := ((List.range 16).filter (fun k => mask.testBit k)).filterMap (s.slotOfIndex wg)
    let list := sortKeys (us.flatMap (s.begin_.rgGive d.toNat a.toNat b.toNat (n.toNat + 1)))
    exec (.regroupExchange wg mask) s = .next ((List.range us.length).foldl (fun z k =>
      z.rgRelease d.toNat b.toNat (n.toNat + 1) k list (us.getD k 0)) s.begin_) := by
  intro us list
  refine exec_of_event exec_regroupExchange ?_
  have hb : (s.begin_.rgWaiting wg).filter (fun x => mask.testBit (s.begin_.teams.get x.uid).place.idx) =
    (s.rgWaiting wg).filter (fun x => mask.testBit (s.teams.get x.uid).place.idx) := rfl
  dsimp only
  rw [hb]
  generalize (s.rgWaiting wg).filter (fun x => mask.testBit (s.teams.get x.uid).place.idx) = mine at h0 hl hm
  cases mine with
  | nil => exact absurd rfl h0
  | cons m0 rest =>
    obtain ⟨u, ops, members⟩ := m0
    obtain ⟨rfl, rfl⟩ : ops = _ ∧ members = _ := hm _ (List.mem_cons_self ..)
    have hany : (⟨u, (d.toNat, a.toNat, b.toNat, 2 * n.toNat + g.toNat), (List.range 16).filter (fun k => mask.testBit k)⟩ :: rest : List RgMember).any (fun x => x.members == (List.range 16).filter (fun i => mask.testBit i)) = true :=
      List.any_eq_true.2 ⟨_, List.mem_cons_self .., by simp⟩
    have hdiff : (⟨u, (d.toNat, a.toNat, b.toNat, 2 * n.toNat + g.toNat), (List.range 16).filter (fun k => mask.testBit k)⟩ :: rest : List RgMember).any (fun x =>
      decide (x.ops ≠ (d.toNat, a.toNat, b.toNat, 2 * n.toNat + g.toNat)) || decide (x.members ≠ (List.range 16).filter (fun i => mask.testBit i))) = false := by
      rw [List.any_eq_false]
      intro x hx
      obtain ⟨h1, h2⟩ := hm x hx
      simp [h1, h2]
    have hg : (2 * n.toNat + g.toNat) / 2 + 1 = n.toNat + 1 := by
      have := g.isLt
      omega
    simp only [hany, hdiff]
    rw [if_neg (by simp [hl]), if_neg Bool.false_ne_true, hg]
    rfl

end

/-- Settles O45: the wait, and the exchange. -/
theorem regroupWord : Obligations.RegroupWord := by
  unfold Obligations.RegroupWord
  intro d a b n g wg mask s
  exact ⟨exec_regroup_waits, exec_regroupExchange_exchanges⟩

/-! ### Collectives -/
section
variable {s z : State} {d a : BitVec 6} {tst : BitVec 1} {l : List Byte} {rank key : Nat} {c : Coll}

/-- The collective that COLL starts. -/
def newColl (s z : State) (l : List Byte) (rank : Nat) : Coll :=
  let group := (z.ctxOf s.team).groups.get (fieldAt l 28 2)
  let wire := (s.ctxOf s.team).fmt.get (fieldAt l 33 1)
  { uid := z.cur, owner := s.team.key, gid := s.team.place.grid, ctx := s.team.place.ctx, num := (s.team.copy.colls + 1) % 2 ^ 32, desc := l,
    rank := rank, members := group.length, seq := s.team.nextSeq, upto := z.nextId, wire := wire,
    start := z.stampTime (dieOf z.cur), who := { s.whoOf s.cur with engine := true },
    dstLen := dstElems (fieldAt l 30 1) (fieldAt l 24 4) group.length * etypeSize (fieldAt l 32 1),
    resLen := if wire = 0 then 0 else 4 * srcElems (fieldAt l 30 1) (fieldAt l 24 4) group.length }

theorem exec_coll_starts (h : Passes (.coll d a) s) (ha : ((wordOf (.coll d a) s).r.readS a.toNat).toNat % 128 = 0)
    (hq : s.teamQuiet s.cur = true) (hr : EngineRead s ((wordOf (.coll d a) s).r.readS a.toNat) 128 l z)
    (hd : descOk l (s.ctxOf s.team).fmt = true) (hk : ((z.ctxOf s.team).groups.get (fieldAt l 28 2)).idxOf? z.hub.modid = some rank)
    (ho : z.collsOpen s.team.place.ctx < 64) :
    exec (.coll d a) s = .next (atSeam (.coll d a) s (fun _ => ((z.fresh.2.putColl z.nextId (newColl s z l rank)).setTeam { z.team with
      nextSeq := s.team.nextSeq + 1, copy := { z.team.copy with colls := (s.team.copy.colls + 1) % 2 ^ 32 } }).withRegs
        (fun r => r.writeS d.toNat (BitVec.ofNat 64 ((s.team.copy.colls + 1) % 2 ^ 32))))) := by
  obtain ⟨⟨pl, ht⟩, hr⟩ := hr
  have ht' : s.begin_.translate (dieOf s.begin_.cur) s.begin_.team.place.ctx .engRead ((wordOf (.coll d a) s).r.readS a.toNat) = .ok pl := ht
  have hr' : s.begin_.engRead (s.begin_.engWho s.begin_.cur) (dieOf s.begin_.cur) (some (coreOf s.begin_.cur))
    ((wordOf (.coll d a) s).r.readS a.toNat) 128 = .ok l z := hr
  have hq' : s.begin_.teamQuiet s.begin_.cur = true := hq
  have hd' : descOk l (s.begin_.ctxOf s.begin_.team).fmt = true := hd
  have hk' : ((z.ctxOf s.begin_.team).groups.get (fieldAt l 28 2)).idxOf? z.hub.modid = some rank := hk
  rw [exec_coll]
  refine State.runWord_seam (f := fun _ => ((z.fresh.2.putColl z.nextId (newColl s z l rank)).setTeam { z.team with
      nextSeq := s.team.nextSeq + 1, copy := { z.team.copy with colls := (s.team.copy.colls + 1) % 2 ^ 32 } }).withRegs
        (fun r => r.writeS d.toNat (BitVec.ofNat 64 ((s.team.copy.colls + 1) % 2 ^ 32)))) h ?_
  refine (if_neg (fun q => q ha)).trans ?_
  simp only [ht', hr', hq', hd', hk']
  exact (if_neg (by simp)).trans ((if_neg (by simp)).trans (if_neg (Nat.not_le.2 ho)))

theorem collw_unknown (hi : s.colls.entries.find? (fun c => c.2.owner == s.team.key &&
      c.2.num == (((wordOf (.collw d a tst) s).r.readS a.toNat).extractLsb' 0 32).toNat) = none) : writesS (.collw d a tst) s d (fun _ => 7) := by
  refine writesRegs_of_runWord exec_collw ?_
  have hi' : s.begin_.colls.entries.find? (fun c => c.2.owner == s.begin_.team.key &&
    c.2.num == (((wordOf (.collw d a tst) s).r.readS a.toNat).extractLsb' 0 32).toNat) = none := hi
  simp only [hi']
  rfl

theorem collw_reads (hi : s.colls.entries.find? (fun c => c.2.owner == s.team.key &&
      c.2.num == (((wordOf (.collw d a tst) s).r.readS a.toNat).extractLsb' 0 32).toNat) = some (key, c)) (hs : c.stop = none)
    (ht : c.status ≠ 1 ∨ tst = 1) : writesS (.collw d a tst) s d (fun _ => BitVec.ofNat 64 c.status) := by
  refine writesRegs_of_runWord exec_collw ?_
  have hi' : s.begin_.colls.entries.find? (fun c => c.2.owner == s.begin_.team.key &&
    c.2.num == (((wordOf (.collw d a tst) s).r.readS a.toNat).extractLsb' 0 32).toNat) = some (key, c) := hi
  simp only [hi', hs]
  refine if_neg ?_
  rintro ⟨q1, q0⟩
  rcases ht with ht | ht
  · exact ht q1
  · exact absurd (q0.symm.trans ht) (by decide)

end

/-- Settles O46. -/
theorem collectiveWords : Obligations.CollectiveWords := by
  unfold Obligations.CollectiveWords
  intro d a tst l rank key c z s
  exact ⟨exec_coll_starts, collw_unknown, collw_reads⟩

end Sys2Proof.Machine
end

section
/-! PROOFS. Matrix, light-field and traversal words -/

namespace Sys2Proof.Machine

open Sys2Proof.Safety

/-! ### Gangs and slices -/
section
variable {s : State} {w : Wd} {a b d : BitVec 6} {f n z r : BitVec 1} {form : BitVec 2} {k : Nat}

/-- The operand of an MGANG names a gang (R298). -/
structure GangOk (s : State) (m : BitVec 16) : Prop where
  atLeast : 2 ≤ (gangBits m).length
  atMost : (gangBits m).length ≤ 6
  mine : m.getLsbD s.team.place.idx = true
  bound : ∀ i ∈ gangBits m, i < (s.gridOf s.team).launch.teams

theorem gangOk_of {m : BitVec 16} (h : 2 ≤ (gangBits m).length ∧ (gangBits m).length ≤ 6 ∧ m.getLsbD s.team.place.idx = true ∧
    (∀ i ∈ gangBits m, i < (s.gridOf s.team).launch.teams)) : GangOk s m := by
  obtain ⟨atLeast, atMost, mine, bound⟩ := h
  exact ⟨atLeast, atMost, mine, bound⟩

theorem GangOk.ne_zero {m : BitVec 16} (h : GangOk s m) : m ≠ 0 := by
  rintro rfl
  exact absurd h.atLeast (by decide)

theorem GangOk.allowed {m : BitVec 16} (h : GangOk s m) : ¬ ((gangBits m).length < 2 ∨ 6 < (gangBits m).length ∨ m.getLsbD s.team.place.idx = false ∨
    (gangBits m).any (fun i => decide ((s.gridOf s.team).launch.teams ≤ i)) = true) := by
  rintro (q | q | q | q)
  · exact absurd h.atLeast (Nat.not_le.2 q)
  · exact absurd h.atMost (Nat.not_le.2 q)
  · exact Bool.false_ne_true (q.symm.trans h.mine)
  · obtain ⟨i, hi, hq⟩ := List.any_eq_true.1 q
    exact absurd (h.bound i hi) (Nat.not_lt.2 (of_decide_eq_true hq))

/-- A team of a place in its workgroup with the gang of a mask. -/
def State.inGang (y : State) (idx : Nat) (m : BitVec 16) : State := y.setTeam { y.team with sys := { y.team.sys with
  gangmask := m, gangidx := BitVec.ofNat 3 ((gangBits m).filter (fun i => decide (i < idx))).length } }

/-- A team of no gang. -/
def Team.gangless (t : Team) : Team := { t with sys := { t.sys with gangmask := 0, gangidx := 0 } }

section
variable (h : Passes (.mgang a) s)
include h

section
variable (ho : GangOk s (((wordOf (.mgang a) s).r.readS a.toNat).extractLsb' 0 16))
include ho

theorem exec_mgang_names (hs : s.sliceOf s.cur = some k) : exec (.mgang a) s = .next (after (.mgang a) s (fun y =>
    y.inGang s.team.place.idx (((wordOf (.mgang a) s).r.readS a.toNat).extractLsb' 0 16))) := by
  rw [exec_mgang]
  refine State.runWord_next h ?_
  refine (if_neg ho.ne_zero).trans ((if_neg ho.allowed).trans ?_)
  simp only [show s.begin_.sliceOf s.begin_.cur = some k from hs]
  rfl

theorem exec_mgang_takes (hs : s.sliceOf s.cur = none)
    (hf : (List.range 6).find? (fun k => (s.slice (coreOf s.cur) k).owner.isNone) = some k) :
    exec (.mgang a) s = .next (after (.mgang a) s (fun y => (y.putSlice (coreOf s.cur) k { owner := some s.cur }).inGang s.team.place.idx
      (((wordOf (.mgang a) s).r.readS a.toNat).extractLsb' 0 16))) := by
  have hf' : (List.range 6).find? (fun k => (s.begin_.slice (coreOf s.begin_.cur) k).owner.isNone) = some k := hf
  rw [exec_mgang]
  refine State.runWord_next (f := fun y => (y.putSlice (coreOf s.cur) k { owner := some s.cur }).inGang s.team.place.idx
      (((wordOf (.mgang a) s).r.readS a.toNat).extractLsb' 0 16)) h ?_
  refine (if_neg ho.ne_zero).trans ((if_neg ho.allowed).trans ?_)
  simp only [show s.begin_.sliceOf s.begin_.cur = none from hs, hf']
  rfl

end

section
variable (hm : ((wordOf (.mgang a) s).r.readS a.toNat).extractLsb' 0 16 = 0) (hb : s.accBusy s.cur s.team.nextSeq = false)
include hm hb

theorem exec_mgang_gives_back (hs : s.sliceOf s.cur = some k) (h0 : (s.slice (coreOf s.cur) k).op0.stop = none)
    (h1 : (s.slice (coreOf s.cur) k).op1.stop = none) :
    exec (.mgang a) s = .next (after (.mgang a) s (fun y => (y.putSlice (coreOf s.cur) k {}).setTeam s.team.gangless)) := by
  rw [exec_mgang]
  refine State.runWord_next (f := fun y => (y.putSlice (coreOf s.cur) k {}).setTeam s.team.gangless) h ?_
  refine (if_pos hm).trans ((if_neg (fun q => Bool.false_ne_true (hb.symm.trans q))).trans ?_)
  simp only [show s.begin_.sliceOf s.begin_.cur = some k from hs, show (s.begin_.slice (coreOf s.begin_.cur) k).op0.stop = none from h0,
    show (s.begin_.slice (coreOf s.begin_.cur) k).op1.stop = none from h1, State.setTeam_setTeam, State.team_setTeam]
  rfl

theorem exec_mgang_leaves (hs : s.sliceOf s.cur = none) :
    exec (.mgang a) s = .next (after (.mgang a) s (fun y => y.setTeam s.team.gangless)) := by
  rw [exec_mgang]
  refine State.runWord_next h ?_
  refine (if_pos hm).trans ((if_neg (fun q => Bool.false_ne_true (hb.symm.trans q))).trans ?_)
  simp only [show s.begin_.sliceOf s.begin_.cur = none from hs]
  rfl

end
end

/-- An accumulator word of a team that holds a slice goes on with it. -/
theorem State.withSlice_holds {go : Nat → Slice → Eff} (h : HoldsSlice s k) : s.begin_.withSlice w go = go k (s.slice (coreOf s.cur) k) := by
  unfold State.withSlice
  simp only [show s.begin_.matStop s.begin_.cur = none from h.noStop, show s.begin_.sliceOf s.begin_.cur = some k from h.slice]
  rfl

theorem exec_mzero_clears (h : Passes (.mzero n) s) (hs : HoldsSlice s k) (ha : s.accHeld (s.slice (coreOf s.cur) k) n false = false) :
    exec (.mzero n) s = .next (after (.mzero n) s (fun y => y.putSlice (coreOf s.cur) k ((s.slice (coreOf s.cur) k).setAcc n .empty))) := by
  rw [exec_mzero]
  exact State.runWord_next h ((State.withSlice_holds hs).trans (if_neg (fun q => Bool.false_ne_true (ha.symm.trans q))))

theorem exec_maccwr_writes (h : Passes (.maccwr d a n) s) (hs : HoldsSlice s k) (ha : s.accHeld (s.slice (coreOf s.cur) k) n false = false) :
    exec (.maccwr d a n) s = .next (after (.maccwr d a n) s (fun y => y.putSlice (coreOf s.cur) k ((s.slice (coreOf s.cur) k).setAcc n
      ((wordOf (.maccwr d a n) s).lanes.foldl (fun (acc : SMap (0#32)) l =>
        acc.set ((((wordOf (.maccwr d a n) s).r.readS a.toNat).toNat + l) % 16384) ((wordOf (.maccwr d a n) s).r.readV d.toNat l))
        ((s.slice (coreOf s.cur) k).accOf n))))) := by
  rw [exec_maccwr]
  exact State.runWord_next h ((State.withSlice_holds hs).trans (if_neg (fun q => Bool.false_ne_true (ha.symm.trans q))))

/-- The outstanding word of a MACCRD. -/
def accRead (s : State) (d a : BitVec 6) (f n : BitVec 1) : LongWord :=
  { id := 0, kind := .maccrd, dests := useSet (info (.maccrd d a f n)).writes, reg := d.toNat,
    args := [(wordOf (.maccrd d a f n) s).r.readS a.toNat], who := { s.whoOf s.cur with engine := true } }

theorem exec_maccrd_issues (h : Passes (.maccrd d a f n) s) (hs : HoldsSlice s k) :
    exec (.maccrd d a f n) s = .next (after (.maccrd d a f n) s (fun y =>
      if (wordOf (.maccrd d a f n) s).mask = 0 then idleWord (wordOf (.maccrd d a f n) s) (accRead s d a f n) y
      else (y.addWord (wordOf (.maccrd d a f n) s) (accRead s d a f n)).1)) := by
  rw [exec_maccrd]
  exact State.runWord_next h ((State.withSlice_holds hs).trans State.outstanding_next)

/-- The drain that an MDRAIN describes, the format that its destination names, and the lines that it writes. -/
def drainOf (s : State) (a b : BitVec 6) (f n : BitVec 1) (form : BitVec 2) (z r : BitVec 1) : Drain :=
  ⟨n, form, z = 1, r = 1, if form = 2 then 0 else (wordOf (.mdrain a b f n form z r) s).r.readS a.toNat,
    (wordOf (.mdrain a b f n form z r) s).r.readS b.toNat, s.team.sys.mseed.extractLsb' 0 32, 0, 0⟩

def drainIdxOf (s : State) (d : Drain) : Nat :=
  match s.begin_.drainIdx (dieOf s.cur) s.team.place.ctx d with | .ok i => i | .error _ => 0

def drainLinesOf (d : Drain) (out : NFmt) : List Nat :=
  if d.form = 2 then []
  else (drainLines d.base (drainRows d.ctl) (drainStride d.ctl) (rowBytes out) ++
    scaleLines out d.base (drainRows d.ctl) (drainStride d.ctl)).eraseDups

/-- The outstanding word of a drain. -/
def drainWord (s : State) (d : Drain) : LongWord :=
  let entry := (s.ctxOf s.team).fmt.get (drainIdxOf s d)
  let lines := drainLinesOf d (drainOut entry (drainIdxOf s d) (d.form = 2))
  { id := 0, kind := .mdrain, args := [d.base, d.ctl, d.seed.setWidth 64, BitVec.ofNat 64 (drainIdxOf s d), entry], upto := s.nextId,
    lines := if d.form = 1 then lines.map (2 ^ 60 + ·) else lines, who := { s.whoOf s.cur with engine := true } }

theorem exec_mdrain_issues (h : Passes (.mdrain a b f n form z r) s) (hs : HoldsSlice s k)
    (hc : s.begin_.drainCheck s.team (dieOf s.cur) (drainOf s a b f n form z r) = none) :
    exec (.mdrain a b f n form z r) s = .next (after (.mdrain a b f n form z r) s (fun y =>
      (y.fresh.2.addWord (wordOf (.mdrain a b f n form z r) s) (drainWord s (drainOf s a b f n form z r))).1)) := by
  rw [exec_mdrain]
  refine State.runWord_next (f := fun y => (y.fresh.2.addWord (wordOf (.mdrain a b f n form z r) s)
    (drainWord s (drainOf s a b f n form z r))).1) h ((State.withSlice_holds hs).trans ?_)
  have hc' : s.begin_.drainCheck s.begin_.team (dieOf s.begin_.cur) ⟨n, form, z = 1, r = 1,
    if form = 2 then 0 else (wordOf (.mdrain a b f n form z r) s).r.readS a.toNat,
    (wordOf (.mdrain a b f n form z r) s).r.readS b.toNat, s.begin_.team.sys.mseed.extractLsb' 0 32, 0, 0⟩ = none := hc
  simp only [hc']
  rfl

/-- What MQRY reads of a slice. -/
def mqryWord (s : State) (k : Nat) (n : BitVec 1) : Nat :=
  let x := s.slice (coreOf s.cur) k
  let bit (b : Bool) (k : Nat) : Nat := if b then 2 ^ k else 0
  x.pfmt.toNat * 2 ^ 20 + bit x.pvalid 19 + k * 65536 + bit (x.op n).stop.isSome 10 + bit (x.op n).held.isSome 9
      + bit ((x.op n).busy || s.team.words.any (fun w => match w.drain with | some d => d.n == n | none => false)) 8 + (x.op n).row

/-- MQRY of a team without a slice, and of one with it. -/
theorem mqry_none (hs : s.sliceOf s.cur = none) : writesS (.mqry d n) s d (fun _ => BitVec.ofNat 64 (7 * 65536)) := by
  refine writesRegs_of_runWord exec_mqry ?_
  simp only [show s.begin_.sliceOf s.begin_.cur = none from hs]

theorem mqry_some (hs : s.sliceOf s.cur = some k) : writesS (.mqry d n) s d (fun _ => BitVec.ofNat 64 (mqryWord s k n)) := by
  refine writesRegs_of_runWord exec_mqry ?_
  simp only [show s.begin_.sliceOf s.begin_.cur = some k from hs]
  rfl

end

/-- Settles O47, one lemma for each case of each word. -/
theorem matrixWords : Obligations.MatrixWords := by
  intro a b d f n z r form k s
  refine ⟨fun h ok hs => exec_mgang_names h (gangOk_of ok) hs,
    fun h ok hs hf => exec_mgang_takes h (gangOk_of ok) hs hf,
    exec_mgang_gives_back, exec_mgang_leaves, exec_mzero_clears, exec_maccwr_writes, exec_maccrd_issues,
    exec_mdrain_issues, mqry_none, mqry_some⟩

/-! ### The gang's latch -/

/-- The operands that an MMA brings to the latch. -/
def mmaOps (a b : BitVec 6) (n : BitVec 1) (s : State) : List W64 :=
  let x (r : BitVec 6) (j : Nat) : W64 := (wordOf (.mma a b n) s).r.readS (r.toNat + j)
  [x a 0, x a 1, x b 0, x b 1, (wordBits (.mma a b n)).setWidth 64]

/-- The state in which the team of an MMA has entered the latch. -/
def entersLatch (a b : BitVec 6) (n : BitVec 1) (s : State) : State :=
  (s.begin_.setTeam { (s.team.markSeam 0) with
    wait := .latch n.toNat s.team.sys.gangmask.toNat (mmaOps a b n s), stall := some 6 }).issued s.cur (wordOf (.mma a b n) s).clocks

theorem exec_mma_enters {a b : BitVec 6} {n : BitVec 1} {k : Nat} {s : State} (h : Passes (.mma a b n) s) (hw : s.team.wait = .none)
    (hs : HoldsSlice s k)
    (ha : s.accHeld (s.slice (coreOf s.cur) k) n (matConst ((wordOf (.mma a b n) s).r.readS (a.toNat + 0),
      (wordOf (.mma a b n) s).r.readS (a.toNat + 1)) = 5) = false) :
    exec (.mma a b n) s =
      .next ((((entersLatch a b n s).afterSeam s.cur).latchMeet s.team.wgKey s.cur).tick (dieOf s.cur)) := by
  rw [exec_mma]
  refine State.runWord_placed (f := fun y => ((entersLatch a b n s).afterSeam s.cur).latchMeet s.team.wgKey s.cur) h ?_
  simp only [show s.begin_.team.wait = .none from hw]
  exact (State.withSlice_holds hs).trans (if_neg (fun q => Bool.false_ne_true (ha.symm.trans q)))

/-- A gang that has met in the latch, with the same operands and checks passed, is released. -/
theorem State.latchMeet_releases {y : State} {wg u : Nat} {me : Nat × Nat × Nat × List W64} {mine : List (Nat × Nat × Nat × List W64)}
    (hm : mine = (y.latched wg).filter (fun x => me.2.2.1.testBit (y.teams.get x.1).place.idx ||
      x.2.2.1.testBit (y.teams.get me.1).place.idx))
    (hu : (y.latched wg).find? (fun x => x.1 == u) = some me) (same : ∀ x ∈ mine, x.2 = me.2)
    (there : ∀ i ∈ gangBits (BitVec.ofNat 16 me.2.2.1), ∃ x ∈ mine, (y.teams.get x.1).place.idx = i)
    (kept : ∀ i ∈ gangBits (BitVec.ofNat 16 me.2.2.1), ∀ u ∈ (y.wgs.get wg).retired,
      (y.teams.get u).place.idx = i → (y.teams.get u).wgKey ≠ wg)
    (hc : matCheck (me.2.2.2.getD 0 0, me.2.2.2.getD 1 0) (me.2.2.2.getD 2 0, me.2.2.2.getD 3 0)
      (mine.all (fun x => match y.sliceOf x.1 with | some k => (y.slice (coreOf x.1) k).pvalid | none => false)) = none) :
    y.latchMeet wg u = mine.foldl (fun z x => z.latchGo y.nextId y.nextId (mine.map (fun x => (x.1, (y.teams.get x.1).nextSeq))) x)
      y.fresh.2 := by
  have masks : mine.any (fun x => x.2.2.1 != me.2.2.1) = false :=
    List.any_eq_false.2 fun x hx => by simp [same x hx]
  have ops : mine.any (fun x => x.2.1 != me.2.1 || x.2.2.2.take 4 != me.2.2.2.take 4) = false :=
    List.any_eq_false.2 fun x hx => by simp [same x hx]
  have none_lost : (gangBits (BitVec.ofNat 16 me.2.2.1)).any (fun i => (y.wgs.get wg).retired.any (fun u =>
      (y.teams.get u).place.idx == i && (y.teams.get u).wgKey == wg)) = false :=
    List.any_eq_false.2 fun i hi => by
      simpa using kept i hi
  have all_there : (gangBits (BitVec.ofNat 16 me.2.2.1)).all (fun i => mine.any (fun x => (y.teams.get x.1).place.idx == i)) = true :=
    List.all_eq_true.2 fun i hi => by
      obtain ⟨x, hx, e⟩ := there i hi
      exact List.any_eq_true.2 ⟨x, hx, beq_iff_eq.2 e⟩
  subst hm
  unfold State.latchMeet
  simp only [hu, masks, ops, none_lost, all_there, Bool.false_eq_true, if_false, Bool.not_true]
  split
  next q => exact absurd (hc.symm.trans q) nofun
  next => rfl

/-- Settles O48: an MMA enters the latch, and the last of its gang finds no mask or operand that differs, no member lost and every
one there. -/
theorem mmaWord : Obligations.MmaWord := by
  intro a b n k s
  refine ⟨exec_mma_enters, ?_⟩
  intro y wg u me l idx mine want press hu same there hc
  exact State.latchMeet_releases rfl hu same (fun i hi => (there i hi).1) (fun i hi => (there i hi).2) hc

/-! ### Words that read the stash at once -/

theorem not_not_true {b : Bool} (h : b = true) : ¬ (!b) = true := by simp [h]

section
variable {i : Instr} {s z : State} {reqs : List LaneReq} {bytes : List (List Byte)}

/-- A word that reads elements of the stash at once goes on with the bytes that it finds there. -/
theorem State.stashNow_reads {go : State → List (List Byte) → Eff} (h : ReadsStash i s reqs bytes z) :
    s.begin_.stashNow (wordOf i s) reqs go = go z bytes := by
  obtain ⟨l, z1, hl, hr, ht, hb, rfl, rfl⟩ := h
  have good : (stashParts l).findSome? (fun p => (z1.badStash s.team.wgKey p).map (fun e => p.va + BitVec.ofNat 64 e.off)) = none :=
    List.findSome?_eq_none_iff.2 fun p hp => by rw [hb p hp]; rfl
  unfold State.stashNow
  simp only [show s.begin_.checkStash s.begin_.team (dieOf s.begin_.cur) .load reqs = .ok l from hl]
  refine (if_neg (c := (!_) = true) (not_not_true hr)).trans ?_
  split
  next q => exact absurd (congrArg Prod.snd (ht.symm.trans q)) nofun
  next q =>
    obtain rfl : z1 = _ := congrArg Prod.fst (ht.symm.trans q)
    split
    next e => exact absurd (good.symm.trans e) nofun
    next => rfl

theorem not_refused_of (h : SpanTakes i s) : ¬ ((wordOf i s).mask ≠ 0 ∧ s.begin_.spanRefuses = true) := by
  rintro ⟨hm, hr⟩
  exact h.elim hm (fun q => Bool.false_ne_true (q.symm.trans hr))

/-- A word whose passes the span unit takes goes on, or to its seam, as without the unit. -/
theorem State.spanWord_next {go : State → Eff} {y : State} (h : SpanTakes i s) (hg : go s.begin_ = .next y) :
    s.begin_.spanWord (wordOf i s) go = .next (y.spanTake (wordOf i s)) := by
  unfold State.spanWord
  refine (if_neg (not_refused_of h)).trans ?_
  simp only [hg]

theorem State.spanWord_seam {go : State → Eff} {y : State} {d : RegSet} (h : SpanTakes i s) (hg : go s.begin_ = .seam y d) :
    s.begin_.spanWord (wordOf i s) go = .seam (y.spanTake (wordOf i s)) d := by
  unfold State.spanWord
  refine (if_neg (not_refused_of h)).trans ?_
  simp only [hg]

end

/-! ### Setups and spans -/
section
variable {d a b : BitVec 6} {c : BitVec 1} {q : BitVec 3} {bytes : List (List Byte)} {s z : State}

theorem exec_lfset_builds (h : Passes (.lfset a b c) s)
    (ha : (((wordOf (.lfset a b c) s).r.readS a.toNat).extractLsb' 0 16).toNat % 16 = 0)
    (hr : ReadsStash (.lfset a b c) s (recordReqs ((wordOf (.lfset a b c) s).r.readS a.toNat)).2 bytes z) :
    let u := buildSetup ((wordOf (.lfset a b c) s).r.readS (b.toNat + 0), (wordOf (.lfset a b c) s).r.readS (b.toNat + 1)) bytes
      (recordReqs ((wordOf (.lfset a b c) s).r.readS a.toNat)).1 (c = 1)
    exec (.lfset a b c) s = .next (after (.lfset a b c) s (fun _ => (z.setTeam { z.team with lf := u.1 }).lfFlags u.1.isNone u.2)) := by
  intro u
  rw [exec_lfset]
  refine State.runWord_next h ?_
  refine (if_neg (not_not_intro ha)).trans ?_
  exact State.stashNow_reads hr

theorem exec_lfspan_spans (h : Passes (.lfspan d a b) s) (ht : SpanTakes (.lfspan d a b) s) :
    exec (.lfspan d a b) s = .next (after (.lfspan d a b) s (fun z =>
      (z.withRegs (fun r => (wordOf (.lfspan d a b) s).lanes.foldl (fun r l =>
        let y := ((wordOf (.lfspan d a b) s).r.readS a.toNat).extractLsb' 0 32
        let x := ((wordOf (.lfspan d a b) s).r.aLane b.toNat l).extractLsb' 0 32
        r.writeI d.toNat l (match s.team.lf with
          | none => { status := 0x1000, mask := 0, px := x, py := y }
          | some u => (u.span (sampleAt x) (sampleAt y)).ireg u.views x y)) r)).spanTake (wordOf (.lfspan d a b) s))) := by
  rw [exec_lfspan]
  exact State.runWord_next h (State.spanWord_next ht rfl)

end

/-- Settles O49, through what a word that reads the stash finds there and what the span unit takes. -/
theorem spanWords : Obligations.SpanWords := by
  intro d a b c q bytes s z
  exact ⟨exec_lfset_builds, exec_lfspan_spans, writesRegs_of_runWord exec_lfqry rfl⟩

/-! ### Quads and meshlets -/

/-- A word whose values are all gathered goes on with them. -/
theorem State.gatherWord_gathered {s : State} {v lw : LongWord} {w : Wd} {parts : List Part} {done : State → LongWord → Eff}
    (h : Gathered s v) : s.begin_.gatherWord w parts lw done = done (dropped v s.begin_) v := by
  obtain ⟨n, hw, hv, hp, hf, he, hx⟩ := h
  unfold State.gatherWord
  simp only [show s.begin_.team.wait = .access n from hw, show s.begin_.team.word? n = some v from hv, hp,
    show s.begin_.team.fail = none from hf, he]
  exact if_pos hx

theorem dropped_team {v : LongWord} {z : State} : (dropped v z).team = z.team.gathered v := State.team_setTeam _ _

theorem dropped_wgKey {v : LongWord} {z : State} : (dropped v z).team.wgKey = z.team.wgKey := by rw [dropped_team]; rfl

theorem lfFlags_lfqtol {z : State} {b c : Bool} : (z.lfFlags b c).team.sys.lfqtol = z.team.sys.lfqtol := by
  rw [State.lfFlags, State.team_setTeam]

section
variable {d a b : BitVec 6} {t o : LfSetup} {bytes : List (List Byte)} {s z : State}

/-- The setup of the other triangle of a QMERGE. -/
def otherSetup (d a b : BitVec 6) (t : LfSetup) (bytes : List (List Byte)) (s : State) : Option LfSetup × Bool :=
  buildSetup (t.desc.getD 0 0, t.desc.getD 1 0) bytes (recordReqs ((wordOf (.qmerge d a b) s).r.readS b.toNat)).1 false

/-- Whether the gradients of both triangles agree. -/
def gradientsAgree (s : State) (t u : LfSetup) : Bool :=
  within (s.team.sys.lfqtol.extractLsb' 32 32) t.gradient.1 u.gradient.1 &&
    within (s.team.sys.lfqtol.extractLsb' 32 32) t.gradient.2 u.gradient.2

/-- The views that a QMERGE moves: lane and view. -/
def viewMoves (d a b : BitVec 6) (t u : LfSetup) (s : State) : List (Nat × Nat) :=
  let w := wordOf (.qmerge d a b) s
  (List.range (w.width / 4)).flatMap (fun q =>
    if (List.range 4).all (fun k => w.mask.getLsbD (4 * q + k)) then
      (quadMoves t u (s.team.sys.lfqtol.extractLsb' 0 32) (fun k => w.r.readI d.toNat (4 * q + k))
        (fun k => w.r.readI a.toNat (4 * q + k))).map (fun m => (4 * q + m.1, m.2))
    else [])

/-- One view moved from i[A] to i[D]. -/
def moveView (d a : BitVec 6) (r : Regs) (m : Nat × Nat) : Regs :=
  let bit := BitVec.ofNat 64 (2 ^ m.2)
  let r1 := r.writeI d.toNat m.1 { r.readI d.toNat m.1 with mask := (r.readI d.toNat m.1).mask ||| bit }
  r1.writeI a.toNat m.1 { r1.readI a.toNat m.1 with mask := (r1.readI a.toNat m.1).mask &&& ~~~bit }

section
variable (h : Passes (.qmerge d a b) s) (ht : SpanTakes (.qmerge d a b) s)
  (ha : (((wordOf (.qmerge d a b) s).r.readS b.toNat).extractLsb' 0 16).toNat % 16 = 0)
  (hr : ReadsStash (.qmerge d a b) s (recordReqs ((wordOf (.qmerge d a b) s).r.readS b.toNat)).2 bytes z)
include h ht ha hr

theorem exec_qmerge_null (hn : z.team.lf = none) : exec (.qmerge d a b) s = .next (Safety.afterSeam (.qmerge d a b) s
    (fun _ => z.spanTake (wordOf (.qmerge d a b) s)) (useSet (info (.qmerge d a b)).seamWrites)) := by
  rw [exec_qmerge]
  refine State.runWord_seam h (State.spanWord_seam ht ((if_neg (not_not_intro ha)).trans ((State.stashNow_reads hr).trans ?_)))
  simp only [hn]
  rfl

section
variable (hl : z.team.lf = some t)
include hl

theorem exec_qmerge_other_null (hu : (otherSetup d a b t bytes s).1 = none) :
    exec (.qmerge d a b) s = .next (Safety.afterSeam (.qmerge d a b) s
      (fun _ => (z.lfFlags false (otherSetup d a b t bytes s).2).spanTake (wordOf (.qmerge d a b) s))
      (useSet (info (.qmerge d a b)).seamWrites)) := by
  rw [exec_qmerge]
  refine State.runWord_seam h (State.spanWord_seam ht ((if_neg (not_not_intro ha)).trans ((State.stashNow_reads hr).trans ?_)))
  simp only [hl]
  split
  next => rfl
  next e => exact absurd (hu.symm.trans e) nofun

section
variable (hq : z.team.sys = s.team.sys) (hu : (otherSetup d a b t bytes s).1 = some o)
include hq hu

theorem exec_qmerge_apart (hg : gradientsAgree s t o = false) :
    exec (.qmerge d a b) s = .next (Safety.afterSeam (.qmerge d a b) s
      (fun _ => (z.lfFlags false (otherSetup d a b t bytes s).2).spanTake (wordOf (.qmerge d a b) s))
      (useSet (info (.qmerge d a b)).seamWrites)) := by
  rw [exec_qmerge]
  refine State.runWord_seam h (State.spanWord_seam ht ((if_neg (not_not_intro ha)).trans ((State.stashNow_reads hr).trans ?_)))
  simp only [hl, lfFlags_lfqtol, hq]
  split
  next => rfl
  next e =>
    obtain rfl := Option.some.inj (hu.symm.trans e)
    exact if_pos (congrArg (!·) hg)

theorem exec_qmerge_moves (hg : gradientsAgree s t o = true) :
    exec (.qmerge d a b) s = .next (Safety.afterSeam (.qmerge d a b) s
      (fun _ => ((z.lfFlags false (otherSetup d a b t bytes s).2).withRegs (fun r =>
        (viewMoves d a b t o s).foldl (moveView d a) r)).spanTake (wordOf (.qmerge d a b) s))
      (useSet (info (.qmerge d a b)).seamWrites)) := by
  rw [exec_qmerge]
  refine State.runWord_seam h (State.spanWord_seam ht ((if_neg (not_not_intro ha)).trans ((State.stashNow_reads hr).trans ?_)))
  simp only [hl, lfFlags_lfqtol, hq]
  split
  next e => exact absurd (hu.symm.trans e) nofun
  next e =>
    obtain rfl := Option.some.inj (hu.symm.trans e)
    exact if_neg (not_not_true hg)

end
end
end
end

section
variable {d a b : BitVec 6} {v : LongWord} {verts tris : List (List Nat)} {bits : Nat} {parts : List Part} {s y1 y2 : State}

/-- What an MSHDEC has read with its last piece: its operands, and then the bytes of its stream. -/
def meshArgs (v : LongWord) : List W64 :=
  let p (k : Nat) : W32 := v.piece 0xFFFF k
  v.args ++ [p 1 ++ p 0, p 3 ++ p 2]

def meshRead (v : LongWord) : List Byte := ((meshArgs v).drop 2).flatMap (fun x => leBytes 8 x.toNat)

/-- What an MSHDEC writes to the stash, and the mapped lines of it that are not clean. -/
def meshCuts (v : LongWord) (verts tris : List (List Nat)) : List (Nat × List Byte) :=
  let off := (((meshArgs v).getD 1 0).extractLsb' 0 32).toNat
  stashCuts off (meshVertBytes (meshRead v) verts) ++ stashCuts (off + 4096) (meshTriBytes tris)

def meshHeld (s : State) (cuts : List (Nat × List Byte)) : List (Nat × Nat × Nat) :=
  let wg := s.team.wgKey
  let lines := (cuts.filterMap (fun x => (s.wgs.get wg).mappedAt x.1)).eraseDups.map (fun x =>
    (x.1, x.2, ((s.wgs.get wg).ranges.get x.1).pas.get x.2))
  lines.filter (fun x => ((s.wgs.get wg).ranges.get x.1).state.get x.2.1 ≠ 0)

theorem exec_mshdec_writes (h : Passes (.mshdec d a b) s) (hg : Gathered s v) (hm : meshDecode (meshRead v) = .done verts tris bits)
    (hr : (dropped v s.begin_).stashReady s.team.wgKey (meshHeld s (meshCuts v verts tris)) ((meshCuts v verts tris).map (·.1)) = true)
    (ha : (dropped v s.begin_).stashTakeAll ((dropped v s.begin_).whoOf (dropped v s.begin_).cur) s.cur s.team.wgKey
      (meshCuts v verts tris) = .ok parts y1)
    (ht : y1.stashTrap (wordOf (.mshdec d a b) s) s.team.wgKey parts ((dropped v s.begin_).whoOf (dropped v s.begin_).cur) true = (y2, none)) :
    exec (.mshdec d a b) s = .next (after (.mshdec d a b) s (fun _ =>
      (parts.foldl (fun z p => z.stashPerform s.team.wgKey p ((dropped v s.begin_).whoOf (dropped v s.begin_).cur)) y2).withRegs (fun r =>
        r.writeS d.toNat (BitVec.ofNat 64 (verts.length + tris.length * 65536 + (bits + 7) / 8 * 2 ^ 32))))) := by
  have hk : (dropped v s.begin_).team.wgKey = s.team.wgKey := dropped_wgKey
  obtain ⟨n, hw, hg'⟩ := hg
  have writes : (dropped v s.begin_).meshWrite s.begin_ (wordOf (.mshdec d a b) s) d (((meshArgs v).getD 1 0).extractLsb' 0 32).toNat
      (meshRead v) verts tris bits = .next ((parts.foldl (fun z p =>
        z.stashPerform s.team.wgKey p ((dropped v s.begin_).whoOf (dropped v s.begin_).cur)) y2).withRegs (fun r =>
        r.writeS d.toNat (BitVec.ofNat 64 (verts.length + tris.length * 65536 + (bits + 7) / 8 * 2 ^ 32)))) := by
    unfold State.meshWrite
    rw [hk]
    refine (if_neg (c := (!_) = true) (not_not_true hr)).trans ?_
    split
    next e => exact absurd (ha.symm.trans e) nofun
    next e => exact absurd (ha.symm.trans e) nofun
    next e =>
      obtain ⟨rfl, rfl⟩ := Eng.ok.inj (ha.symm.trans e)
      split
      next e' => exact absurd (congrArg Prod.snd (ht.symm.trans e')) nofun
      next e' =>
        obtain rfl : y2 = _ := congrArg Prod.fst (ht.symm.trans e')
        rfl
  rw [exec_mshdec]
  refine State.runWord_next h ?_
  simp only [show s.begin_.team.wait = .access n from hw]
  refine (State.gatherWord_gathered ⟨n, hw, hg'⟩).trans ?_
  split
  next e => exact absurd (hm.symm.trans e) nofun
  next e => exact absurd (hm.symm.trans e) nofun
  next e =>
    obtain ⟨rfl, rfl, rfl⟩ := MeshRes.done.inj (hm.symm.trans e)
    exact writes

end

/-- Settles O51, one lemma for each way a QMERGE ends and one for an MSHDEC that has read its stream whole. -/
theorem quadAndMeshWords : Obligations.QuadAndMeshWords := by
  intro d a b t v verts tris bits bytes parts s z y1 y2
  refine ⟨?_, ?_, ?_, ?_, exec_mshdec_writes⟩
  · rintro ⟨h, ht, ha, hr⟩ hn
    exact exec_qmerge_null h ht ha hr hn
  · rintro ⟨h, ht, ha, hr⟩ hl hu
    exact exec_qmerge_other_null h ht ha hr hl hu
  · rintro o ⟨h, ht, ha, hr⟩ hl hq hu hg
    exact exec_qmerge_apart h ht ha hr hl hq hu hg
  · rintro o ⟨h, ht, ha, hr⟩ hl hq hu hg
    exact exec_qmerge_moves h ht ha hr hl hq hu hg

/-! ### Walks -/
section
variable {i : Instr} {s : State} {eff : Wd → State → Eff} {kind : LongKind} {d : BitVec 6} {root : W64} {lanes : List (Nat × TrLane)}

/-- A word whose effect is that of `issueWalk`, with room for its lanes. -/
theorem startsWalk_of (hx : exec i s = s.runWord i eff) (h : Passes i s)
    (he : eff (wordOf i s) s.begin_ = s.begin_.issueWalk (wordOf i s) kind d root lanes) : startsWalk i s kind d root lanes := by
  refine ⟨fun hk hp => ?_, fun hn hr => ?_⟩
  · rw [hx]
    exact State.runWord_seam (f := id) h (he.trans (if_pos ⟨hk, List.isEmpty_iff.2 hp⟩))
  · rw [hx]
    have hn' : ¬ (kind = .trres ∧ (walkParts i s lanes).isEmpty = true) := fun ⟨hk, hp⟩ => hn ⟨hk, List.isEmpty_iff.1 hp⟩
    exact State.runWord_outstanding h (he.trans ((if_neg hn').trans (if_neg (Nat.not_lt.2 hr))))

end

section
variable {d a b : BitVec 6} {f : BitVec 1} {s : State}

/-- The lanes with which a TRACE starts: their rays, and those that do not walk done with at once. -/
def traceLanes (d a b : BitVec 6) (f : BitVec 1) (s : State) : List (Nat × TrLane) :=
  let w := wordOf (.trace d a b f) s
  let ctl := w.r.readS (b.toNat + 1)
  let np := (ctl.extractLsb' 0 6).toNat
  let level := (ctl.extractLsb' 8 6).toNat
  w.lanes.map (fun j =>
    let ray := (List.range 8).map (fun k => w.r.readV (a.toNat + k) j)
    let x : TrLane := { ray := ray, node := 0, pend := 0, nkind := 0, nprim := 0, cursor := 0, p := np,
                        pbase := if 0 < np then d.toNat + 4 else 0, hit := false, level := level, status := 0, scount := 0,
                        stack := [] }
    (j, if (s.gridOf s.team).launch.depth < level then { x with status := 2 }
      else if rayWalks ray then { x with status := 4, nkind := 1 } else x))

theorem exec_trace_starts (h : Passes (.trace d a b f) s) (ht : s.team.tracing = false)
    (hr : ((wordOf (.trace d a b f) s).r.readS b.toNat).toNat % 128 = 0)
    (hc : canonical ((wordOf (.trace d a b f) s).r.readS b.toNat) = true)
    (h6 : ((wordOf (.trace d a b f) s).r.readS (b.toNat + 1)).extractLsb' 6 2 = 0)
    (h14 : ((wordOf (.trace d a b f) s).r.readS (b.toNat + 1)).extractLsb' 14 50 = 0)
    (hp : (((wordOf (.trace d a b f) s).r.readS (b.toNat + 1)).extractLsb' 0 6).toNat ≤ (s.gridOf s.team).launch.payload)
    (hv : 0 < (((wordOf (.trace d a b f) s).r.readS (b.toNat + 1)).extractLsb' 0 6).toNat →
      d.toNat + 4 + (((wordOf (.trace d a b f) s).r.readS (b.toNat + 1)).extractLsb' 0 6).toNat ≤ s.team.place.vregs) :
    startsWalk (.trace d a b f) s .trace d ((wordOf (.trace d a b f) s).r.readS b.toNat) (traceLanes d a b f s) := by
  refine startsWalk_of exec_trace h ?_
  refine (if_neg (fun q => Bool.false_ne_true (ht.symm.trans q))).trans ((if_neg (not_not_intro hr)).trans ((if_neg ?_).trans ((if_neg ?_).trans
    ((if_neg ?_).trans rfl))))
  · exact fun q => Bool.false_ne_true (q.symm.trans hc)
  · exact fun q => q.elim (fun q => q h6) (fun q => q h14)
  · exact fun q => q.elim (Nat.not_lt.2 hp) (fun ⟨q0, q1⟩ => absurd (hv q0) (Nat.not_le.2 q1))

/-- The lanes that a TRRES takes up. -/
def parkedLanes (d : BitVec 6) (f : BitVec 1) (s : State) : List (Nat × TrLane) :=
  ((wordOf (.trres d f) s).lanes.map (fun j => (j, trLane (s.team.trav.lanes.get j)))).filter (fun x => x.2.status = 3 ∨ x.2.status = 4)

theorem exec_trres_resumes (h : Passes (.trres d f) s) (ht : s.team.tracing = false)
    (hp : s.begin_.stillParked s.team (dieOf s.cur) (parkedLanes d f s) = none) :
    startsWalk (.trres d f) s .trres d s.team.sys.trroot ((parkedLanes d f s).map (fun x => (x.1, x.2.resume))) := by
  refine startsWalk_of exec_trres h ?_
  refine (if_neg (fun q => Bool.false_ne_true (ht.symm.trans q))).trans ?_
  split
  next e => exact absurd (hp.symm.trans e) nofun
  next => rfl

end

/-! ### What a walk has left -/
section
variable {d a : BitVec 6} {f : BitVec 1} {k : BitVec 2} {l : List LaneAcc} {s : State}

/-- The outstanding word of a TRGET. -/
def walkRead (d : BitVec 6) (f : BitVec 1) (k : BitVec 2) (s : State) : LongWord :=
  { id := 0, kind := .trget, dests := useSet (info (.trget d f k)).writes, reg := d.toNat, who := { s.whoOf s.cur with engine := true } }

/-- A TRGET goes on with its word outstanding. -/
def gets (d : BitVec 6) (f : BitVec 1) (k : BitVec 2) (s : State) (v : LongWord) (y : State) : State :=
  if (wordOf (.trget d f k) s).mask = 0 then idleWord (wordOf (.trget d f k) s) v y else (y.addWord (wordOf (.trget d f k) s) v).1

/-- What a TRGET of a kind other than 0 shows of its lanes. -/
def shownOf (d : BitVec 6) (f : BitVec 1) (k : BitVec 2) (s : State) : List (Nat × Nat × W32) :=
  (wordOf (.trget d f k) s).lanes.flatMap (fun j =>
    if k = 1 then [(j, d.toNat, (trLane (s.team.trav.lanes.get j)).flags),
      (j, d.toNat + 1, BitVec.ofNat 32 (trLane (s.team.trav.lanes.get j)).scount)]
    else [(j, d.toNat, (trLane (s.team.trav.lanes.get j)).tmin), (j, d.toNat + 1, (trLane (s.team.trav.lanes.get j)).tmax)])

theorem exec_trget_shows (h : Passes (.trget d f k) s) (ht : s.team.tracing = false) (hk : k ≠ 0) :
    exec (.trget d f k) s = .next (after (.trget d f k) s (fun y =>
      gets d f k s { walkRead d f k s with results := shownOf d f k s } (forgetWalk s y))) := by
  rw [exec_trget]
  refine State.runWord_next (f := fun y => gets d f k s { walkRead d f k s with results := shownOf d f k s } (forgetWalk s y)) h ?_
  exact (if_neg (fun q => Bool.false_ne_true (ht.symm.trans q))).trans ((if_neg hk).trans State.outstanding_next)

/-- The lanes of a TRGET that stand at a primitive, and the address of the entry that each of them reads again. -/
def primLanes (d : BitVec 6) (f : BitVec 1) (k : BitVec 2) (s : State) : List Nat :=
  (wordOf (.trget d f k) s).lanes.filter (fun j => (trLane (s.team.trav.lanes.get j)).status = 3)

def primVa (s : State) (j : Nat) : W64 :=
  s.team.sys.trroot + BitVec.ofInt 64 (16 * (trLane (s.team.trav.lanes.get j)).node) +
    BitVec.ofNat 64 (8 * (trLane (s.team.trav.lanes.get j)).cursor)

theorem exec_trget_reads (h : Passes (.trget d f k) s) (ht : s.team.tracing = false) (hk : k = 0)
    (hl : (forgetWalk s s.begin_).checkLanes (dieOf s.cur) s.team.place.ctx (s.whoOf s.cur).race .engRead false
      ((primLanes d f k s).map (fun j => { lane := j, va := primVa s j, size := 8 })) = .ok l) :
    exec (.trget d f k) s = .next (after (.trget d f k) s (fun y =>
      gets d f k s { walkRead d f k s with
        upto := s.nextId, parts := (primLanes d f k s).map (fun j => { lanePart j false with va := primVa s j }) }
        (forgetWalk s y.fresh.2))) := by
  rw [exec_trget]
  refine State.runWord_next (f := fun y => gets d f k s { walkRead d f k s with
        upto := s.nextId, parts := (primLanes d f k s).map (fun j => { lanePart j false with va := primVa s j }) }
        (forgetWalk s y.fresh.2)) h ?_
  refine (if_neg (fun q => Bool.false_ne_true (ht.symm.trans q))).trans ((if_pos hk).trans ?_)
  have hl' : (s.begin_.setTeam { s.begin_.team with trav := { s.begin_.team.trav with saved := none } }).checkLanes (dieOf s.begin_.cur)
      s.begin_.team.place.ctx (s.begin_.engWho s.begin_.cur).race .engRead false
      (((wordOf (.trget d f k) s).lanes.filter (fun j => (trLane (s.begin_.team.trav.lanes.get j)).status = 3)).map (fun j =>
        { lane := j, va := s.begin_.team.sys.trroot + BitVec.ofInt 64 (16 * (trLane (s.begin_.team.trav.lanes.get j)).node) +
            BitVec.ofNat 64 (8 * (trLane (s.begin_.team.trav.lanes.get j)).cursor), size := 8 })) = .ok l := hl
  simp only [hl']
  exact State.outstanding_next

/-- A TRHIT's hit in one lane. -/
def takesHit (d a : BitVec 6) (s : State) (y : State) (j : Nat) : State :=
  let x := trLane (y.team.trav.lanes.get j)
  let r := (wordOf (.trhit d a) s).r
  if x.status = 3 ∧ le32 x.tmin (r.readV (a.toNat + 2) j) ∧ lt32 (r.readV (a.toNat + 2) j) x.tmax then
    (y.setTeam (y.team.putLane j { x.setTmax (r.readV (a.toNat + 2) j) with hit := true })).withRegs (fun g =>
      ((g.writeV (d.toNat + 1) j (r.readV (a.toNat + 2) j)).writeV (d.toNat + 2) j (r.readV a.toNat j)).writeV (d.toNat + 3) j
        (r.readV (a.toNat + 1) j))
  else y

theorem exec_trhit_takes (h : Passes (.trhit d a) s) (ht : s.team.tracing = false) :
    exec (.trhit d a) s = .next (after (.trhit d a) s (fun y =>
      (wordOf (.trhit d a) s).lanes.foldl (takesHit d a s) (forgetWalk s y))) := by
  rw [exec_trhit]
  refine State.runWord_next h ?_
  exact (if_neg (fun q => Bool.false_ne_true (ht.symm.trans q))).trans rfl

end

/-! ### Records -/
section
variable {a b : BitVec 6} {p x : BitVec 1} {l : List LaneAcc} {s : State}

/-- The payload registers that a TRSAVE reads. -/
def savedPayload (a b : BitVec 6) (p x : BitVec 1) (s : State) : RegSet :=
  if p = 1 then payloadSet s.team.place.vregs ((wordOf (.trsave a b p x) s).lanes.map (fun j => trLane (s.team.trav.lanes.get j))) else 0

/-- The end of a word that has read registers which its fields do not name. -/
def afterReading (h : Hints) (extra : RegSet) (i : Instr) (s : State) (f : State → State) : State :=
  let u := (f s.begin_).team
  ((f s.begin_).finish ⟨u.wr, u.rbw ||| ((readSet (info i) h ||| extra) &&& ~~~u.wr), 0, 0, u.nextSeq,
    (wordOf i s).clocks⟩).tick (dieOf s.cur)

theorem State.runWord_passReading {i : Instr} {eff : Wd → State → Eff} {extra : RegSet} {f : State → State} (h : Passes i s)
    (he : eff (wordOf i s) s.begin_ = (f s.begin_).passReading (wordOf i s) extra) :
    s.runWord i eff = .next (afterReading s.team.hints extra i s f) :=
  State.runWord_placed (f := fun _ => (f s.begin_).finish ⟨(f s.begin_).team.wr, (f s.begin_).team.rbw |||
    ((readSet (info i) s.team.hints ||| extra) &&& ~~~(f s.begin_).team.wr), 0, 0, (f s.begin_).team.nextSeq, (wordOf i s).clocks⟩) h he

/-- The records that a TRSAVE stores: lane, address, and the accesses that store it. -/
def savedRecords (a b : BitVec 6) (p x : BitVec 1) (w : Wd) (t : Team) : List (Nat × W64 × List LaneReq) :=
  w.lanes.map (fun j =>
    let va := w.recordVa a b x j
    let pl := if p = 1 then ((trLane (t.trav.lanes.get j)).payload t.place.vregs).map (fun r => w.r.readV r j) else []
    (j, va, storeWords j va ((List.range 16).map (trWord (trLane (t.trav.lanes.get j)).pack)) ++ storeWords j (va + 64) pl))

theorem forgetWalk_team : (forgetWalk s s.begin_).team = { s.team with trav := { s.team.trav with saved := none } } :=
  State.team_setTeam _ _

theorem exec_trsave_opens (h : Passes (.trsave a b p x) s) (ht : s.team.tracing = false) (hw : s.team.wait = .none)
    (hh : (s.ctxOf s.team).cfg.hazard = true → savedPayload a b p x s &&& s.team.pendingRegs = 0)
    (hl : (forgetWalk s s.begin_).checkRecords (dieOf s.cur) s.team.place.ctx (s.whoOf s.cur).race .store (savedRecords a b p x (wordOf (.trsave a b p x) s) s.team) = .ok l) :
    opensStores (.trsave a b p x) s ((forgetWalk s s.begin_).fillCaches (coreOf s.cur) s.team.place.ctx (some s.cur)
      ((savedRecords a b p x (wordOf (.trsave a b p x) s) s.team).map (fun r => r.2.1))) (gather l) none false false (afterReading s.team.hints (savedPayload a b p x s)) := by
  have hc := (forgetWalk s s.begin_).fillCaches_calm (coreOf s.cur) s.team.place.ctx (some s.cur)
    ((savedRecords a b p x (wordOf (.trsave a b p x) s) s.team).map (fun r => r.2.1))
  have hw' : (forgetWalk s s.begin_).team.wait = .none := by rw [forgetWalk_team]; exact hw
  refine opensStores_of (done := fun y => y.passReading (wordOf (.trsave a b p x) s) (savedPayload a b p x s))
    (hc.wait.trans hw') hc.cur rfl fun y hy => ?_
  rw [exec_trsave]
  refine State.runWord_passReading (f := fun _ => y) h ?_
  refine (if_neg (fun q => Bool.false_ne_true (ht.symm.trans q))).trans ?_
  split
  next q => exact absurd (hw.symm.trans q) nofun
  next =>
    refine (if_neg (fun ⟨q1, q2⟩ => q2 (hh q1))).trans ?_
    have hl' : (forgetWalk s.begin_ s.begin_).checkRecords (dieOf (forgetWalk s.begin_ s.begin_).cur)
        s.begin_.team.place.ctx (s.begin_.whoOf s.begin_.cur).race .store
        (savedRecords a b p x (wordOf (.trsave a b p x) s) s.begin_.team) = .ok l := hl
    simp only [savedRecords, forgetWalk] at hl'
    simp only [hl']
    exact hy

theorem exec_trsave_goesOn (ht : s.team.tracing = false) :
    storesGoOn (.trsave a b p x) s (afterReading s.team.hints (savedPayload a b p x s)) := by
  refine storesGoOn_of (op := none) (rel := false) (fin := false)
    (done := fun y => y.passReading (wordOf (.trsave a b p x) s) (savedPayload a b p x s)) fun n f h hn hy => ?_
  rw [exec_trsave]
  refine State.runWord_passReading (f := f) h ?_
  refine (if_neg (fun q => Bool.false_ne_true (ht.symm.trans q))).trans ?_
  simp only [show s.begin_.team.wait = .access n from hn]
  exact hy

end

section
variable {i : Instr} {eff : Wd → State → Eff} {p x : BitVec 1} {recs : List (Nat × BitVec 512)} {vaOf area : Nat → W64} {pay : Nat → Nat → W32}
  {s z : State}

/-- The payload registers of records that a TRLOAD writes. -/
def loadedPayload (z : State) (p : BitVec 1) (recs : List (Nat × BitVec 512)) : RegSet :=
  if p = 1 then payloadSet z.team.place.vregs (recs.map (fun r => trLane r.2)) else 0

/-- What the region of a TRLOAD has read with it before writing it. -/
def readWith (i : Instr) (s z : State) : RegSet := z.team.rbw ||| (readSet (info i) s.team.hints &&& ~~~z.team.wr)

/-- Records that may be loaded are loaded by a word whose effect is that of `loadRecords`. -/
theorem loadsRecords_of (hx : exec i s = s.runWord i eff) (h : Passes i s)
    (ho : ∀ r ∈ recs, recordOk r.2 (z.team.sys.trcfg.extractLsb' 0 11).toNat (z.gridOf z.team).launch.payload z.team.place.vregs = true)
    (he : eff (wordOf i s) s.begin_ = z.loadRecords s.begin_ (wordOf i s) p x recs vaOf area pay) (hc : z.cur = s.cur) :
    loadsRecords i s z p x recs area pay := by
  intro hq words z1 z2 z3 h1 hs hh h2 h3 z4 z5
  have good : recs.find? (fun r => !recordOk r.2 (z.team.sys.trcfg.extractLsb' 0 11).toNat (z.gridOf z.team).launch.payload
      z.team.place.vregs) = none := List.find?_eq_none.2 fun r hr => not_not_true (ho r hr)
  have quiet : ¬ (x = 1 ∧ z.teamQuiet z.cur = false) := fun ⟨q1, q2⟩ => Bool.false_ne_true (q2.symm.trans (hc ▸ hq q1))
  have hazard : ¬ ((z1.ctxOf z.team).cfg.hazard = true ∧ loadedPayload z p recs &&& z.team.pendingRegs ≠ 0) := fun ⟨q1, q2⟩ => q2 (hh q1)
  have loads : z.loadRecords s.begin_ (wordOf i s) p x recs vaOf area pay =
      .placed (z5.finish ⟨z.team.wr ||| loadedPayload z p recs, readWith i s z, 0, 0, z.team.nextSeq, (wordOf i s).clocks⟩) := by
    unfold State.loadRecords
    simp only [good]
    refine (if_neg quiet).trans ?_
    simp only [h1]
    refine (if_neg (not_not_intro hs)).trans ((if_neg hazard).trans ?_)
    simp only [h2, h3]
    rfl
  rw [hx]
  exact State.runWord_placed (f := fun _ => z5.finish ⟨z.team.wr ||| loadedPayload z p recs, readWith i s z, 0, 0, z.team.nextSeq,
    (wordOf i s).clocks⟩) h (he.trans loads)

end

section
variable {d a b : BitVec 6} {p i x : BitVec 1} {v : LongWord} {s : State}

theorem exec_trload_idle (h : Passes (.trload d a b p i x) s) (ht : s.team.tracing = false) (hw : s.team.wait = .none)
    (hl : (wordOf (.trload d a b p i x) s).lanes = []) : exec (.trload d a b p i x) s = .next (after (.trload d a b p i x) s id) := by
  rw [exec_trload]
  refine State.runWord_next (f := id) h ((if_neg (fun q => Bool.false_ne_true (ht.symm.trans q))).trans ?_)
  simp only [show s.begin_.team.wait = .none from hw]
  exact if_pos hl

/-- The address of a lane's record, and that of its spilled positions, as a TRLOAD keeps them. -/
def keptVa (w : Wd) (v : LongWord) (j : Nat) : W64 := BitVec.ofNat 64 (v.lines.getD (w.lanes.findIdx (· == j)) 0)

def keptArea (w : Wd) (v : LongWord) (j : Nat) : W64 := BitVec.ofNat 64 (v.lines.getD (w.lanes.length + w.lanes.findIdx (· == j)) 0)

/-- The records that a TRLOAD keeps, 64 bits at a time. -/
def keptRecords (w : Wd) (args : List W64) : List (Nat × BitVec 512) :=
  (List.range w.lanes.length).map (fun k => (w.lanes.getD k 0, joinWords ((List.range 8).flatMap (fun j =>
    [(args.getD (8 * k + j) 0).extractLsb' 0 32, (args.getD (8 * k + j) 0).extractLsb' 32 32]))))

/-- The records that it has gathered. -/
def gatheredHalves (w : Wd) (v : LongWord) : List W64 :=
  w.lanes.flatMap (fun j => (List.range 8).map (fun k => (recordOf v j).extractLsb' (64 * k) 64))

/-- Whether records may be loaded by a team. -/
def recordsOk (s : State) (recs : List (Nat × BitVec 512)) : Prop :=
  ∀ r ∈ recs, recordOk r.2 (s.team.sys.trcfg.extractLsb' 0 11).toNat (s.gridOf s.team).launch.payload s.team.place.vregs = true

theorem recordsOk_dropped {recs : List (Nat × BitVec 512)} (h : recordsOk s recs) : ∀ r ∈ recs,
    recordOk r.2 ((dropped v s.begin_).team.sys.trcfg.extractLsb' 0 11).toNat
      ((dropped v s.begin_).gridOf (dropped v s.begin_).team).launch.payload (dropped v s.begin_).team.place.vregs = true := by
  rw [dropped_team]
  exact h

theorem exec_trload_loads (h : Passes (.trload d a b p i x) s) (ht : s.team.tracing = false) (hg : Gathered s v) (ha : v.args ≠ [])
    (ho : recordsOk s (keptRecords (wordOf (.trload d a b p i x) s) v.args)) :
    loadsRecords (.trload d a b p i x) s (dropped v s.begin_) p x (keptRecords (wordOf (.trload d a b p i x) s) v.args)
      (keptArea (wordOf (.trload d a b p i x) s) v) (fun j k => v.piece j k) := by
  refine loadsRecords_of (vaOf := keptVa (wordOf (.trload d a b p i x) s) v) exec_trload h (recordsOk_dropped ho) ?_ rfl
  refine (if_neg (fun q => Bool.false_ne_true (ht.symm.trans q))).trans ?_
  obtain ⟨n, hw, hg'⟩ := hg
  simp only [show s.begin_.team.wait = .access n from hw]
  exact (State.gatherWord_gathered ⟨n, hw, hg'⟩).trans (if_neg ha)

theorem exec_trload_loads_alone (h : Passes (.trload d a b p i x) s) (ht : s.team.tracing = false) (hg : Gathered s v) (ha : v.args = [])
    (hp : p = 0) (ho : recordsOk s (keptRecords (wordOf (.trload d a b p i x) s) (gatheredHalves (wordOf (.trload d a b p i x) s) v))) :
    loadsRecords (.trload d a b p i x) s (dropped v s.begin_) p x
      (keptRecords (wordOf (.trload d a b p i x) s) (gatheredHalves (wordOf (.trload d a b p i x) s) v))
      (keptArea (wordOf (.trload d a b p i x) s) v) (fun _ _ => 0) := by
  refine loadsRecords_of (vaOf := keptVa (wordOf (.trload d a b p i x) s) v) exec_trload h (recordsOk_dropped ho) ?_ rfl
  refine (if_neg (fun q => Bool.false_ne_true (ht.symm.trans q))).trans ?_
  obtain ⟨n, hw, hg'⟩ := hg
  simp only [show s.begin_.team.wait = .access n from hw]
  refine (State.gatherWord_gathered ⟨n, hw, hg'⟩).trans ((if_pos ha).trans ?_)
  subst hp
  refine (if_pos (c := ([] : List LaneReq).isEmpty = true) rfl).trans ?_
  simp only [List.flatMap_map]
  rfl

end

/-- Settles O52, one lemma for each word and each way it goes on. -/
theorem traversalWords : Obligations.TraversalWords := by
  intro d a b f p x i k l v s
  exact ⟨exec_trace_starts, exec_trres_resumes, exec_trget_shows, exec_trget_reads, exec_trhit_takes, exec_trsave_opens,
    exec_trsave_goesOn, exec_trload_idle, exec_trload_loads, exec_trload_loads_alone⟩

end Sys2Proof.Machine
end

section
/-! PROOFS. Requests at their homes, completions, collectives and launches -/

namespace Sys2Proof.Machine

open Sys2Proof.Safety

/-! ### Requests of a miss tracker at their homes -/
section
variable {core id : Nat} {r : StoreReq} {op : AtomicOp} {z : State}

/-- What the team of a store knows when its request is performed: what it knew then, and what its earlier acquires have read since. -/
def State.knownBy (z : State) (r : StoreReq) : Who :=
  if identOf r.uid (z.teams.get r.uid).place.gen = r.who.ident then (z.teams.get r.uid).knowing r.seq r.who else r.who

/-- A request of a core's miss tracker that has been performed. -/
def performedReq (core id : Nat) (x : State) : State := x.modCore core (fun c => c.setReq id (fun r => { r with performed := true }))

section
variable (hf : (z.cores.get core).tracker.find? (fun r => r.id == id) = some r) (hm : z.storeMay core r = true)
  (hh : r.held = false) (hk : r.kv = false) (he : r.elems ≠ [])
include hf hm hh hk he

theorem State.trackerHome_store (ho : r.op = none) (hb : r.fin = true → z.badFill r.line r.elems = none) :
    z.trackerHome core id = performedReq core id (z.storeHome r.line r.va r.elems (z.knownBy r) r.rc r.checked) := by
  have fill : (if r.fin = true then z.badFill r.line r.elems else none) = none := by
    split
    next q => exact hb q
    next => rfl
  unfold State.trackerHome
  simp only [hf, hm, hh, hk, ho]
  refine (if_neg (not_not_true rfl)).trans ((if_neg Bool.false_ne_true).trans ((if_neg ?_).trans ?_))
  · exact fun q => he (List.isEmpty_iff.1 q)
  · simp only [Option.isSome_none, Bool.false_eq_true, if_false, State.writeTarget, fill]
    rfl

theorem State.trackerHome_atomic (ho : r.op = some op) (hb : z.badElem r.line r.elems = none) :
    z.trackerHome core id = performedReq core id ((((z.putRelease r.line (z.releaseRec r.line)).fillSectors r.line 128).atomicHome
      r.line r.va r.elems op (z.knownBy r) r.rel r.rc r.checked).1.pendRead r (if r.rel then {} else z.releaseRec r.line)) := by
  unfold State.trackerHome
  simp only [hf, hm, hh, hk, ho, Option.isSome_some, if_true, hb]
  refine (if_neg (not_not_true rfl)).trans ((if_neg Bool.false_ne_true).trans ((if_neg ?_).trans ?_))
  · exact fun q => he (List.isEmpty_iff.1 q)
  · simp only [Option.isSome_none, Bool.false_eq_true, if_false, State.writeTarget]
    rfl

end
end

/-! ### Lines of a copy -/
section
variable {id line : Nat} {z y : State}

theorem State.copyLine_writes {c : Copy} (hc : z.copies.get id = c) (ha : c.active = true) (hb : c.abandoned = false)
    (hp : c.pieces line ≠ []) (hl : line ∉ c.doneLines) (hh : c.held = none) (ht : c.toStash = false)
    (hq : ∀ e ∈ z.copies.entries, e.1 < id → e.2.active = true → e.2.owner = c.owner → e.2.toStash = false →
      e.2.pieces line = [] ∨ line ∈ e.2.doneLines)
    (hr : z.copyReady c = true)
    (hw : (z.copySource c (c.pieces line)).bind (fun l x =>
      x.engWriteLine c.who (dieOf c.uid) (BitVec.ofNat 64 (128 * line)) l) = .ok () y) :
    z.copyLine id line = y.putCopy id { c with doneLines := line :: c.doneLines } := by
  have first : z.copies.entries.any (fun e => decide (e.1 < id) && e.2.active && e.2.owner == c.owner &&
      e.2.toStash == c.toStash && !(e.2.pieces line).isEmpty && !e.2.doneLines.contains line) = false :=
    List.any_eq_false.2 fun e he q => by
      simp only [Bool.and_eq_true, decide_eq_true_eq, beq_iff_eq, ht, Bool.not_eq_true', List.isEmpty_eq_false_iff,
        List.contains_eq_mem, decide_eq_false_iff_not] at q
      obtain ⟨⟨⟨⟨⟨q1, q2⟩, q3⟩, q4⟩, q5⟩, q6⟩ := q
      exact (hq e he q1 q2 q3 q4).elim q5 q6
  have nonempty : (c.pieces line).isEmpty = false := by simpa using hp
  have new : c.doneLines.contains line = false := by simpa using hl
  unfold State.copyLine
  simp only [hc, first]
  refine (if_neg ?_).trans ?_
  · simp [ha, hb, nonempty, hl, hh, hr]
  · simp only [ht, Bool.false_eq_true, if_false, hw]

end

/-! ### Requests of an outstanding word at their homes -/
section
variable {uid id k : Nat} {w : LongWord} {p : Part} {op : AtomicOp} {z : State}

theorem State.get_bad_of_none (h : z.bad.entries = []) (n : Nat) : z.bad.get n = false := by
  unfold SMap.get
  rw [h]
  rfl

theorem State.mendL1_of_none (h : z.bad.entries = []) (core line u ctx : Nat) : z.mendL1 core line u ctx = z := by
  unfold State.mendL1
  rw [z.get_bad_of_none h]
  exact if_neg (by simp)

theorem State.mendStash_of_none (h : z.bad.entries = []) (line u ctx : Nat) : z.mendStash line u ctx = z := by
  unfold State.mendStash
  rw [h]
  exact if_pos rfl

theorem State.badElem_of_none (h : z.bad.entries = []) (line : Nat) (es : List Elem) : z.badElem line es = none := by
  unfold State.badElem
  exact List.find?_eq_none.2 fun e _ q => by simp [State.badRange, h] at q

theorem State.loadError_of_none (h : z.bad.entries = []) (core line : Nat) (a : Bool) (es : List Elem) : z.loadError core line a es = none := by
  unfold State.loadError
  split
  next => simp [z.get_bad_of_none h]
  next => rw [z.badElem_of_none h]; split <;> rfl

/-- A load that writes v-registers keeps what it has fixed with its results. -/
theorem LongWord.fixLoad_load {line : List Byte} {m : List RelRec} (hk : w.kind = .load) :
    w.fixLoad k p line m = { w.setPart k (fun p => { p with fixed := true }) with
      results := w.results ++ readElems w.width line p.elems, merged := m, begun := w.begun || w.fin, sdest := none } := by
  unfold LongWord.fixLoad
  simp only [hk, reduceCtorEq, or_self, if_false]
  rfl

section
variable (hw : (z.teams.get uid).word? id = some w) (hp : w.parts[k]? = some p) (hm : z.partMay uid w p = true) (hr : w.who.race = 0)
  (hb : z.bad.entries = [])
include hw hp hm hr hb

theorem State.partHome_load (ho : w.op = none) (hk : w.kind = .load) :
    let y0 := z.putRelease p.line (z.releaseRec p.line)
    let y1 := if y0.hitsL1 (coreOf uid) p.line then y0 else y0.fillSectors p.line 128
    let y2 := if (y1.cores.get (coreOf uid)).ways < 32 then
      y1.modCore (coreOf uid) (fun c => if c.l1.contains p.line then c else { c with l1 := p.line :: c.l1 }) else y1
    z.partHome uid id k false = (y2.observe uid ((z.earlySeen (coreOf uid) p.line uid w.seq p.elems).filter (fun r => r.uid ≠ uid))).modTeam uid
      (fun t => t.setWord { w.setPart k (fun p => { p with fixed := true }) with
        results := w.results ++ readElems w.width (z.coreLine (coreOf uid) p.line uid w.seq) p.elems,
        merged := w.merged ++ (z.recordSeen (coreOf uid) p.line uid w.seq p.elems).some?, begun := w.begun || w.fin, sdest := none }) := by
  intro y0 y1 y2
  have unraced : ((z.teams.get uid).knowing w.seq w.who).race = 0 := hr
  unfold State.partHome
  simp only [hw, hp, hm, ho, unraced, Nat.zero_ne_one, decide_false, Bool.false_and, Bool.false_eq_true, if_false, Option.isSome_none,
    Bool.not_true, Bool.false_or, ne_eq, not_true_eq_false, z.mendL1_of_none hb, z.mendStash_of_none hb, z.loadError_of_none hb]
  unfold State.loadHome
  have unchecked : w.who.checks p.rc = false := by simp [Who.checks, hr]
  simp only [unchecked, Bool.false_eq_true, if_false, LongWord.fixLoad_load hk]
  simp only [hk, ne_eq, reduceCtorEq, not_false_eq_true, and_true]
  rfl

theorem State.partHome_atomic (ho : w.op = some op) (hk : w.kind = .atomic) (hv : p.kv = false) :
    let rr := z.releaseRec p.line
    let a := ((z.putRelease p.line rr).fillSectors p.line 128).atomicHome p.line p.va p.elems op ((z.teams.get uid).knowing w.seq w.who)
      (w.ord.getLsbD 1) p.rc false
    z.partHome uid id k true = (if w.ord.getLsbD 0 then a.1.observeAll uid else a.1).modTeam uid (fun t =>
      t.setWord { w.setPart k (fun p => { p with fixed := true }) with
        results := w.results ++ (p.elems.zip a.2).flatMap (fun x =>
          (pieces 2 x.1.size x.2.2).map (fun y => (x.1.lane, x.1.idx + y.1, y.2))),
        merged := w.merged ++ rr.some?, begun := true }) := by
  intro rr a
  have unraced : ((z.teams.get uid).knowing w.seq w.who).race = 0 := hr
  unfold State.partHome
  simp only [hw, hp, hm, ho, unraced, Nat.zero_ne_one, decide_false, Bool.false_and, Bool.false_eq_true, if_false, Option.isSome_some,
    Bool.not_true, Bool.false_or, ne_eq, not_true_eq_false, z.loadError_of_none hb, State.writeTarget, hv, hk, reduceCtorEq, if_true]
  rfl

end
end

/-- Settles O53, one lemma for each request that is performed. -/
theorem requestsAtHome : Obligations.RequestsAtHome := by
  intro core id uid k line r w p op s y
  refine ⟨?_, ?_, ?_, ?_, ?_, rfl⟩
  · rintro ⟨hf, hm, hh, hk⟩ ho he hb
    exact exec_of_event exec_storeAtHome (State.trackerHome_store hf hm hh hk he ho hb)
  · rintro ⟨hf, hm, hh, hk⟩ ho he hb
    exact exec_of_event exec_atomicAtHome (State.trackerHome_atomic hf hm hh hk he ho hb)
  · intro ha hb hp hl hh ht hq hr hw
    exact exec_of_event exec_storeAtHome (State.copyLine_writes rfl ha hb hp hl hh ht hq hr hw)
  · rintro ⟨hw, hp, hm, hr, hb⟩ ho hk
    refine exec_of_event exec_loadAtHome ?_
    simp only [show (s.begin_.teams.get uid).word? id = some w from hw, hk]
    exact State.partHome_load hw hp hm hr hb ho hk
  · rintro ⟨hw, hp, hm, hr, hb⟩ ho hk hv
    exact exec_of_event exec_atomicAtHome (State.partHome_atomic hw hp hm hr hb ho hk hv)

/-! ### Waves, recalls and reports -/
section
variable {id path core line wg r k : Nat} {w : Wave} {va : W64} {n : Nat} {f : WatchNote} {s : State}

section
variable (hf : s.begin_.waves.find? (fun w => w.id == id) = some w)
include hf

theorem exec_fenceTokenAck_acks (hp : path ∉ w.deliver) (hd : s.begin_.trackerDone w.core w.upto [path] = true) :
    exec (.fenceTokenAck id path) s = .next ({ s.begin_ with waves := s.begin_.waves.map (fun (v : Wave) =>
      if v.id = id then { v with ack := v.ack.filter (· ≠ path) } else v) }.sweepWaves) := by
  refine exec_of_event exec_fenceTokenAck ?_
  unfold State.tokenAck
  simp only [hf, hd]
  exact if_neg (by simpa using hp)

theorem exec_samplerInvalidation_empties (hc : core ∈ w.cores) (hr : w.range = none) :
    exec (.samplerInvalidation id core) s = .next ((s.begin_.modCore core (fun c =>
      { c with sampler := [], samplerAt := s.begin_.freeCtr })).invalidated id core) := by
  refine exec_of_event exec_samplerInvalidation ?_
  simp only [hf, hr]
  exact if_pos (by simpa using hc)

theorem exec_instructionCacheInvalidation_discards (hc : core ∈ w.cores) (hr : w.range = some (va, n)) :
    let lines := s.begin_.rangeLines (dieOf w.uid) (s.begin_.teams.get w.uid).place.ctx va n
    exec (.instructionCacheInvalidation id core) s = .next ((s.begin_.modCore core (fun c =>
      { c with icache := ⟨c.icache.entries.filter (fun e => !lines.contains e.1)⟩ })).invalidated id core) := by
  refine exec_of_event exec_instructionCacheInvalidation ?_
  simp only [hf, hr]
  exact if_pos (by simpa using hc)

end

theorem exec_stashRecall_gives (ho : s.begin_.stashOwner line = some (wg, r, k)) (hc : (s.begin_.wgs.get wg).core = core)
    (hb : s.begin_.stashBusy line = false) : exec (.stashRecall core line) s = .next (s.begin_.recallLine wg r k) := by
  refine exec_of_event exec_stashRecall ?_
  unfold State.recall
  simp only [ho, hb, hc]
  exact if_neg (by simp)

theorem exec_watchReport_reports (hw : s.begin_.watches.get id = some f) (hg : (s.begin_.teams.get f.uid).place.gen = f.gen)
    (hp : (s.begin_.teams.get f.uid).phase = .running) (ht : (s.begin_.teams.get f.uid).trap.watch = none) :
    exec (.watchReport id) s = .next ({ s.begin_ with watches := s.begin_.watches.drop id }.modTeam f.uid (fun t =>
      { t with trap := { t.trap with watch := some f.trap } })) := by
  refine exec_of_event exec_watchReport ?_
  simp only [hw]
  have live {q : Phase} (h : Phase.running ≠ q) : (s.begin_.teams.get f.uid).phase ≠ q := fun e => h (hp.symm.trans e)
  exact if_pos ⟨hg, live nofun, live nofun, live nofun, ht⟩

end

/-- Settles O54, one lemma for each event. -/
theorem waveEvents : Obligations.WaveEvents := by
  intro id path core line wg r k w va n f s
  exact ⟨rfl, exec_fenceTokenAck_acks, exec_samplerInvalidation_empties, exec_instructionCacheInvalidation_discards,
    exec_stashRecall_gives, exec_watchReport_reports⟩

/-! ### Outstanding words complete -/
section
variable {uid id : Nat} {w : LongWord} {z : State}

/-- An outstanding word whose values are all fixed, without an error, completes. -/
theorem State.completeLoad_completes (hp : w.parts.all (fun p => p.fixed) = true) (he : w.err = none) :
    z.completeLoad uid w = z.completeWord uid w (w.kind == .atomic) := by
  unfold State.completeLoad
  simp only [hp, he]
  exact if_neg Bool.false_ne_true

section
variable {s : State} (hw : (s.begin_.teams.get uid).word? id = some w) (hr : (s.begin_.teams.get uid).phase = .running)
  (hp : w.parts.all (fun p => p.fixed) = true) (he : w.err = none)
include hw hr hp he

theorem exec_longLatencyCompletion_writes (hk : w.kind = .load ∨ w.kind = .stash ∨ w.kind = .scalar ∨ w.kind = .sampler) :
    let y := s.begin_.mergeWord uid w
    exec (.longLatencyCompletion uid id) s = .next (y.putTeam uid ((y.writeResults (y.teams.get uid) w).dropWord w)) := by
  intro y
  have runs : ¬ (s.begin_.teams.get uid).phase = .stopped := fun q => nomatch hr.symm.trans q
  have plain : s.begin_.completeLoad uid w = y.putTeam uid ((y.writeResults (y.teams.get uid) w).dropWord w) := by
    rw [State.completeLoad_completes hp he]
    rcases hk with hk | hk | hk | hk <;> rw [hk] <;> rfl
  refine exec_of_event exec_longLatencyCompletion ?_
  simp only [hw]
  refine (if_neg runs).trans (Eq.trans ?_ plain)
  rcases hk with hk | hk | hk | hk <;> simp only [hk]

theorem exec_longLatencyCompletion_atSeam (hk : w.kind = .atomic) :
    let y := s.begin_.mergeWord uid w
    let y1 := y.putTeam uid (((y.writeResults (y.teams.get uid) w).dropWord w).completionSeam w)
    exec (.longLatencyCompletion uid id) s =
      .next (if w.seq < (y.teams.get uid).seamSeq then y1 else y1.afterCompletion uid) := by
  intro y y1
  have runs : ¬ (s.begin_.teams.get uid).phase = .stopped := fun q => nomatch hr.symm.trans q
  refine exec_of_event exec_longLatencyCompletion ?_
  simp only [hw, hk]
  refine (if_neg runs).trans ((State.completeLoad_completes hp he).trans ?_)
  rw [hk]
  rfl

end
end

/-! ### Copies, matrix operations and streams go on -/
section
variable {uid id core q k : Nat} {n : BitVec 1} {b a : List XVal} {fa : Option (Nat × NFmt)} {s z1 : State}

theorem exec_copyCompletion_completes {c : Copy} (hc : s.begin_.copies.get id = c) (ha : c.active = true) (hb : c.abandoned = false)
    (hf : c.finished = true) (hr : s.begin_.copyReady c = true) :
    exec (.copyCompletion id) s = .next (s.begin_.putCopy id { c with active := false }) := by
  refine exec_of_event exec_copyCompletion ?_
  simp only [hc, ha, hb, hf, hr]
  rfl

theorem exec_mmaCompletion_accumulates {x : Slice} {o : MatOp} (hx : s.begin_.slice (coreOf uid) k = x) (ho : x.op n = o)
    (hs : s.begin_.sliceOf uid = some k) (hb : o.busy = true) (hh : o.held = none) (hr : s.begin_.matReady (coreOf uid) o = true)
    (hob : o.b = some b) (ha : s.begin_.badAcc (coreOf uid) k n [o.row] = none)
    (hf : s.begin_.matFmtOf o (dieOf uid) o.idxA o.opA = .ok fa)
    (hm : s.begin_.matRowA o x (dieOf uid) (coreOf uid) fa = .ok a z1) :
    let press := if matConst o.opA = 5 then some (x.pressFmt o.table) else fa.map (·.2)
    let fb : Option NFmt := if matConst o.opB = 0 then some (nfmtOf (o.table.get (o.idxB.getD 0))) else none
    exec (.mmaCompletion uid n) s = .next (z1.putSlice (coreOf uid) k
      (x.row n { o with idxA := fa.map (·.1) } (groupSize (fmtBits press) (fmtBits fb)) a b)) := by
  intro press fb
  refine exec_of_event exec_mmaCompletion ?_
  simp only [hs, hx, ho]
  refine (if_neg (by simp [hb, hh, hr])).trans ?_
  simp only [hob, ha, hf, hm]
  rfl

section
variable {e : Queue} (he : s.begin_.queue core q = e) (hb : e.bound = true) (ha : e.abandoned = false) (ho : e.over = false)
  (hh : e.held = none) (hr : s.begin_.streamReady core e = true) (hs : e.stop = none) (h7 : (streamProg e.prog).on 7 = false)
include he hb ha ho hh hr hs h7

theorem exec_streamEntryPush_pushes (hd : e.entryDone (streamProg e.prog) = true) :
    exec (.streamEntryPush core q) s = .next (s.begin_.streamPush core q e) := by
  refine exec_of_event exec_streamEntryPush ?_
  simp only [he, hb, ha, ho, hh, hr, hs, h7, hd]
  rfl

theorem exec_streamEntryPush_ends (hd : e.entryDone (streamProg e.prog) = false) (hn : e.next = (streamProg e.prog).n) :
    exec (.streamEntryPush core q) s = .next (s.begin_.streamEnd core q e (streamProg e.prog)) := by
  refine exec_of_event exec_streamEntryPush ?_
  simp only [he, hb, ha, ho, hh, hr, hs, h7, hd]
  exact if_pos (beq_iff_eq.2 hn)

theorem exec_streamEntryPush_emits (hd : e.entryDone (streamProg e.prog) = false) (hn : e.next ≠ (streamProg e.prog).n)
    (hg : s.begin_.stageHeld core q = false) : exec (.streamEntryPush core q) s =
      .next (s.begin_.streamEmit core q (streamProg e.prog) (1 + Config.freeNat s.begin_.freeCtr 7)) := by
  refine exec_of_event exec_streamEntryPush ?_
  simp only [he, hb, ha, ho, hh, hr, hs, h7, hd, hg]
  exact if_neg (fun x => hn (beq_iff_eq.1 x))

end

/-! ### Promotion and probes -/

theorem exec_teamPromotion_promotes (hp : (s.begin_.teams.get uid).phase = .running) (hr : s.begin_.reasonOf uid = none)
    (hn : (s.begin_.teams.get uid).promoted = none) (he : 896 ≤ (s.begin_.teams.get uid).eligible) :
    exec (.teamPromotion uid) s = .next (s.begin_.putTeam uid { s.begin_.teams.get uid with
      promoted := some (s.begin_.dies.get (dieOf uid)).clk }) :=
  exec_of_event exec_teamPromotion (if_pos ⟨he, hn, Option.isNone_iff_eq_none.2 hr, hp⟩)

theorem exec_tideProbe_sends (h0 : s.begin_.tideSince core q ≠ 0)
    (h1 : s.begin_.tideSince core q - 1 + 4096 ≤ (s.begin_.dies.get (dieOfCore core)).clk)
    (h2 : (s.begin_.cores.get core).probed.get q - 1 + 4096 ≤ (s.begin_.dies.get (dieOfCore core)).clk) :
    exec (.tideProbe core q) s = .next (s.begin_.modCore core (fun c => { c with
      probes := c.probes ++ [{ origin := q, since := s.begin_.tideSince core q }],
      probed := c.probed.set q ((s.begin_.dies.get (dieOfCore core)).clk + 1) })) :=
  exec_of_event exec_tideProbe (if_neg fun h => h.elim h0 fun h => h.elim (Nat.not_lt.2 h1) (Nat.not_lt.2 h2))

theorem exec_tideProbeReturn_grants {path : List TideNode} {m : TideNode} {x : TideProbe} {told : State} {f : Queue}
    (ht : told = s.begin_.modCore core (fun c => { c with probes := c.probes.set id { x with returned := path :: x.returned } }))
    (hf : told.queue core (m - 64) = f)
    (hx : (s.begin_.cores.get core).probes[id]? = some x) (hs : x.since = s.begin_.tideSince core x.origin)
    (hp : (s.begin_.tidePaths core x.origin 72 x.origin []).find? (fun l => !x.returned.contains l) = some path)
    (hm : path.find? (fun m => decide (64 ≤ m) && (told.queue core (m - 64)).full) = some m) (hd : f.darn = false) :
    exec (.tideProbeReturn core id) s = .next ((told.putQueue core (m - 64) { f with darn := true, darnFree := true, blocked := 0 }).modDie
      (dieOfCore core) (fun d => { d with darns := d.darns + 1 })) := by
  refine exec_of_event exec_tideProbeReturn ?_
  simp only [hx]
  refine (if_neg (not_not_intro hs)).trans ?_
  simp only [hp, ← ht, hm, hf, hd]
  rfl

end

/-- Settles O55, one lemma for each way an event goes on. -/
theorem completions : Obligations.Completions := by
  intro uid id core q n w b a fa k path m x1 s z1
  refine ⟨?_, ?_, exec_copyCompletion_completes rfl, exec_mmaCompletion_accumulates rfl rfl, ?_, ?_, ?_, exec_teamPromotion_promotes,
    exec_tideProbe_sends, exec_tideProbeReturn_grants rfl rfl⟩
  · rintro ⟨hw, hr, hp, he⟩ hk
    exact exec_longLatencyCompletion_writes hw hr hp he hk
  · rintro ⟨hw, hr, hp, he⟩ hk
    exact exec_longLatencyCompletion_atSeam hw hr hp he hk
  · rintro ⟨hb, ha, ho, hh, hr, hs, h7⟩ hd
    exact exec_streamEntryPush_pushes rfl hb ha ho hh hr hs h7 hd
  · rintro ⟨hb, ha, ho, hh, hr, hs, h7⟩ hd hn
    exact exec_streamEntryPush_ends rfl hb ha ho hh hr hs h7 hd hn
  · rintro ⟨hb, ha, ho, hh, hr, hs, h7⟩ hd hn hg
    exact exec_streamEntryPush_emits rfl hb ha ho hh hr hs h7 hd hn hg

/-! ### Collectives -/

/-- A collective that still runs at this member. -/
theorem Coll.running_of {c : Coll} (h1 : c.status = 1) (h2 : c.stop = none) (h3 : c.abandoned = false) (h4 : c.desc ≠ []) :
    c.running = true := by
  unfold Coll.running
  simpa [h1, h2, h3] using h4

theorem stashCuts_nil (n : Nat) : stashCuts n [] = [] := rfl

section
variable {id : Nat} {c : Coll} {blocks : List (List W32)} {src res : List Byte} {l : List (Nat × List Byte)} {x : Nat × List Byte}
  {s z z1 z2 : State}

theorem State.collReduce_computes
    (hs : z.engRead c.who (dieOf c.uid) none c.src (srcElems c.op c.count c.members * etypeSize c.etype) = .ok src z1)
    (hr : if c.wire = 0 then res = [] ∧ z2 = z1
      else z1.engRead c.who (dieOf c.uid) none c.res (4 * srcElems c.op c.count c.members) = .ok res z2) :
    z.collReduce id c blocks = z2.putColl id { c with
      todo := some (stashCuts c.dst.toNat ((c.result (c.sends src res).1 blocks).flatMap (leBytes (etypeSize c.etype)))),
      resNew := (c.sends src res).2.flatMap (fun x => leBytes 4 x.toNat) } := by
  have reads : (if c.wire = 0 then Eng.ok [] z1
      else z1.engRead c.who (dieOf c.uid) none c.res (4 * srcElems c.op c.count c.members)) = .ok res z2 := by
    split at hr
    next h => rw [if_pos h, hr.1, hr.2]
    next h => rw [if_neg h, hr]
  unfold State.collReduce
  simp only [hs, Eng.bind, reads]

theorem State.collWrite_writes (hx : l[Config.freeNat z.freeCtr 11 % l.length]? = some x)
    (hw : z.engWriteLine c.who (dieOf c.uid) (BitVec.ofNat 64 x.1) [(x.1 % 128, x.2)] = .ok () z1) :
    z.collWrite id c l = z1.putColl id { c with todo := some (l.eraseIdx (Config.freeNat z.freeCtr 11 % l.length)) } := by
  unfold State.collWrite State.collPut
  simp only [hx, hw]

theorem State.collWrite_ends (hn : c.resNew = []) : z.collWrite id c [] = z.putColl id { c with status := 0 } := by
  unfold State.collWrite State.collResiduals
  simp only [hn, stashCuts_nil]
  rfl

section
variable (hc : s.begin_.colls.get id = c) (hr : c.running = true) (ha : c.abandoned = false)
include hc hr ha

/-- What an outcome makes of a collective that runs. -/
theorem exec_collectiveCompletion_fails {out : CollOutcome} {k : Nat}
    (ho : out = .peerHalted ∧ k = 2 ∨ out = .link ∧ k = 4 ∨ out = .mismatch ∧ k = 5 ∨ out = .peerFailed ∧ k = 6) :
    exec (.collectiveCompletion id out) s = .next (s.begin_.collEnd id c k) := by
  refine exec_of_event exec_collectiveCompletion ?_
  simp only [hc]
  refine (if_neg (fun q => Bool.false_ne_true (ha.symm.trans q))).trans ((if_neg (not_not_true hr)).trans ?_)
  rcases ho with ⟨rfl, rfl⟩ | ⟨rfl, rfl⟩ | ⟨rfl, rfl⟩ | ⟨rfl, rfl⟩ <;> rfl

section
variable (hh : c.held = none) (hf : c.frozen = false) (hy : s.begin_.collReady c = true)
include hh hf hy

theorem exec_collectiveCompletion_computes (ht : c.todo = none) (hb : blocks.length + 1 = c.members) (hl : ∀ b ∈ blocks, b.length = c.count) :
    exec (.collectiveCompletion id (.received blocks)) s = .next (s.begin_.collReduce id c blocks) := by
  refine exec_of_event exec_collectiveCompletion ?_
  simp only [hc]
  refine (if_neg (fun q => Bool.false_ne_true (ha.symm.trans q))).trans ((if_neg (not_not_true hr)).trans ?_)
  refine (if_neg (by simp [hh, hf, hy])).trans ?_
  simp only [ht]
  exact if_neg (by simpa [hb] using hl)

theorem exec_collectiveCompletion_writes (ht : c.todo = some l) :
    exec (.collectiveCompletion id (.received blocks)) s = .next (s.begin_.collWrite id c l) := by
  refine exec_of_event exec_collectiveCompletion ?_
  simp only [hc]
  refine (if_neg (fun q => Bool.false_ne_true (ha.symm.trans q))).trans ((if_neg (not_not_true hr)).trans ?_)
  refine (if_neg (by simp [hh, hf, hy])).trans ?_
  simp only [ht]

end
end

section
variable (hc : s.begin_.colls.get id = c) (hr : c.running = true)
include hc hr

theorem exec_collectiveTimeout_ends (hf : c.frozen = false) (ht : c.start + 4000 *
    (if c.tmo = 0 then (s.begin_.ctxs.get c.ctx).cfg.collTmo else c.tmo) ≤ s.begin_.stampTime (dieOf c.uid)) :
    exec (.collectiveTimeout id) s = .next (s.begin_.collEnd id c 3) := by
  subst hc
  exact exec_of_event exec_collectiveTimeout (if_pos ⟨hr, by simpa using hf, ht⟩)

theorem exec_collectiveHalt_freezes (hf : c.frozen = false) : exec (.collectiveHalt id) s =
    .next (s.begin_.putColl id { c with frozen := true, start := s.begin_.stampTime (dieOf c.uid) - c.start }) := by
  subst hc
  exact exec_of_event exec_collectiveHalt (if_pos ⟨hr, by simpa using hf⟩)

theorem exec_collectiveResume_thaws (hf : c.frozen = true) (hx : (s.begin_.ctxs.get c.ctx).state ≠ 2) : exec (.collectiveResume id) s =
    .next (s.begin_.putColl id { c with frozen := false, start := s.begin_.stampTime (dieOf c.uid) - c.start }) := by
  subst hc
  exact exec_of_event exec_collectiveResume ((if_neg hx).trans (if_pos ⟨hr, hf⟩))

theorem exec_haltLimitExpiry_ends (hf : c.frozen = true) (hl : (s.begin_.ctxs.get c.ctx).haltedAt +
    4000000 * (s.begin_.ctxs.get c.ctx).cfg.hlimit ≤ s.begin_.stampTime hubDie) :
    exec (.haltLimitExpiry id) s = .next ((s.begin_.collEnd id c 2).tick hubDie) := by
  subst hc
  rw [exec_haltLimitExpiry]
  exact congrArg (fun y : State => Host.Outcome.next (y.tick hubDie)) (if_pos ⟨hr, hf, Bool.or_eq_true_iff.2 (.inr (decide_eq_true hl))⟩)

end
end

/-- Settles O56, one lemma for each event and each way a collective goes on. -/
theorem collectiveEvents : Obligations.CollectiveEvents := by
  intro id blocks src res l x s z1 z2 z c die n turn goes ends us count h1 h2 h3 h4
  have hr : c.running = true := Coll.running_of h1 h2 h3 h4
  refine ⟨?_, ?_, ?_, exec_collectiveCompletion_fails rfl hr h3 (.inl ⟨rfl, rfl⟩),
    exec_collectiveCompletion_fails rfl hr h3 (.inr (.inl ⟨rfl, rfl⟩)), exec_collectiveCompletion_fails rfl hr h3 (.inr (.inr (.inl ⟨rfl, rfl⟩))),
    exec_collectiveCompletion_fails rfl hr h3 (.inr (.inr (.inr ⟨rfl, rfl⟩))), exec_collectiveTimeout_ends rfl hr,
    exec_collectiveHalt_freezes rfl hr, exec_collectiveResume_thaws rfl hr, fun hf _ => exec_haltLimitExpiry_ends rfl hr hf⟩
  · rintro ⟨hh, hf, hy⟩ ht hb hl hs he
    exact (exec_collectiveCompletion_computes rfl hr h3 hh hf hy ht hb hl).trans
      (congrArg Host.Outcome.next (State.collReduce_computes hs he))
  · rintro ⟨hh, hf, hy⟩ ht hx hw
    exact (exec_collectiveCompletion_writes rfl hr h3 hh hf hy ht).trans (congrArg Host.Outcome.next (State.collWrite_writes hx hw))
  · rintro ⟨hh, hf, hy⟩ ht hn
    exact (exec_collectiveCompletion_writes rfl hr h3 hh hf hy ht).trans (congrArg Host.Outcome.next (State.collWrite_ends hn))

/-! ### From a notification to a grid's start -/

/-- What an event of the firmware makes of the state. -/
theorem exec_of_fwEvent {i : Instr} {s z : State} {f : State → State} (hx : exec i s = s.fwEvent f) (h : f s.begin_ = z) :
    exec i s = .next (z.tick hubDie) :=
  hx.trans (congrArg (fun y : State => Host.Outcome.next (y.tick hubDie)) h)

section
variable {key n : Nat} {x : W64} {g : Grid} {c : Ctx} {ps : List W64} {es : List (Nat × W64)} {s : State}

/-- How far a notification's tail lies ahead of the head of its queue. -/
def recordsAhead (c : Ctx) (x : W64) : Nat :=
  ((x.extractLsb' 16 32).toNat + 2 ^ 32 - (c.queues.get (x.extractLsb' 0 16).toNat).head) % 2 ^ 32

theorem exec_notificationWrite_queues (hc : s.begin_.ctxs.get n = c) (hs : c.state ≠ 0)
    (hr : (c.queues.get (x.extractLsb' 0 16).toNat).registered = true) (h0 : recordsAhead c x ≠ 0)
    (hm : recordsAhead c x ≤ (c.queues.get (x.extractLsb' 0 16).toNat).cap) : exec (.notificationWrite n x) s =
      .next (((s.begin_.takeRecords n (x.extractLsb' 0 16).toNat (recordsAhead c x)).pollCtx n).tick hubDie) := by
  subst hc
  refine exec_of_fwEvent exec_notificationWrite ((if_neg hs).trans (congrArg (State.pollCtx · n) (if_neg ?_)))
  rintro (q | q | q)
  · exact Bool.false_ne_true (q.symm.trans hr)
  · exact h0 q
  · exact absurd hm (Nat.not_le.2 q)

/-- A grid that may start. -/
theorem Grid.starts (hp : g.phase = .ready) (hs : g.status = 0) (hn : g.launch.count ≠ 0) :
    ¬ (g.phase ≠ .ready ∨ g.status ≠ 0 ∨ g.launch.count = 0) := by
  rintro (q | q | q)
  · exact q hp
  · exact q hs
  · exact hn q

section
variable (hg : s.begin_.grids.get key = g)
include hg

theorem exec_launchValidation_waits (hp : g.phase = .queued) (hr : s.begin_.refuses g = false) : exec (.launchValidation key) s =
    .next (((s.begin_.modCtx g.ctx (fun c => { c with launchQ := c.launchQ.filter (· ≠ g.lnum) })).putGrid key
      { g with phase := .waiting }).tick hubDie) := by
  subst hg
  refine exec_of_fwEvent exec_launchValidation ((if_neg (not_not_intro hp)).trans (congrArg (State.putGrid _ key) (if_neg ?_)))
  exact fun q => Bool.false_ne_true (hr.symm.trans q)

theorem exec_launchValidation_refuses (hp : g.phase = .queued) (hr : s.begin_.refuses g = true) : exec (.launchValidation key) s =
    .next (((s.begin_.modCtx g.ctx (fun c => { c with launchQ := c.launchQ.filter (· ≠ g.lnum) })).putGrid key
      { g with phase := .ready, status := 1, cause := cLAUNCH }).tick hubDie) := by
  subst hg
  exact exec_of_fwEvent exec_launchValidation ((if_neg (not_not_intro hp)).trans (congrArg (State.putGrid _ key) (if_pos hr)))

theorem exec_dependencePoll_polls {deps : State × Bool × Bool} (hp : g.phase = .waiting)
    (hd : s.begin_.pollDeps g.ctx (g.launch.deps.take g.launch.ndep) = deps) : exec (.dependencePoll key) s =
    .next ((if deps.2.2 then deps.1.putGrid key { g with phase := .ready, status := 5 }
      else if deps.2.1 then deps.1.putGrid key { g with phase := .ready, started := s.begin_.freeCtr } else deps.1).tick hubDie) := by
  subst hg hd
  exact exec_of_fwEvent exec_dependencePoll (if_neg (not_not_intro hp))

section
variable (hp : g.phase = .ready) (hs : g.status = 0) (hn : g.launch.count ≠ 0)
include hp hs hn

theorem exec_gridStart_reads (hl : g.loading = false) (h1 : s.begin_.readParams g = .ok ps) (h2 : s.begin_.readTable g = .ok es) :
    exec (.gridStart key) s =
      .next (((s.begin_.putGrid key { g with params := ps, table := es, loading := true }).writeTable key es).tick hubDie) := by
  refine exec_of_fwEvent exec_gridStart ?_
  simp only [hg]
  refine (if_neg (Grid.starts hp hs hn)).trans ((if_neg (fun q => Bool.false_ne_true (hl.symm.trans q))).trans ?_)
  simp only [h1, h2]

theorem exec_gridStart_goesOn (hl : g.loading = true) :
    exec (.gridStart key) s = .next ((s.begin_.writeTable key g.table).tick hubDie) := by
  refine exec_of_fwEvent exec_gridStart ?_
  simp only [hg]
  exact (if_neg (Grid.starts hp hs hn)).trans (if_pos hl)

end

theorem exec_groupStart_starts {group : Nat}
    (hb : ∀ i ∈ (g.gang group).filter (fun i => !g.retired.contains i), (s.begin_.wgs.get (wgKey key i)).bound = true) :
    exec (.groupStart key group) s = .next ((((g.gang group).filter (fun i => !g.retired.contains i)).foldl (fun s i =>
      s.modWg (wgKey key i) (fun w => { w with hold := false, restored := false })) s.begin_).tick hubDie) := by
  subst hg
  exact exec_of_fwEvent exec_groupStart (if_pos (List.all_eq_true.2 hb))

theorem exec_gridCompletion_completes (hp : g.phase = .running) (hs : g.status = 0) (hr : g.retired.length = g.launch.count)
    (hb : g.bound = []) (he : s.begin_.enginesDone key = true) (hq : s.begin_.streamsSaved key = false)
    (hd : s.begin_.gridStoresDone g = true) : exec (.gridCompletion key) s = .next ((s.begin_.complete key).tick hubDie) := by
  refine exec_of_fwEvent exec_gridCompletion ?_
  simp only [hg, hp, hs]
  exact (if_neg (by decide)).trans ((if_pos trivial).trans (if_pos (by simp [hr, hb, he, hq, hd])))

end
end

/-! ### Binding, and the start of teams -/
section
variable {core u : Nat} {b : BindRec} {s y bound : State}

theorem exec_bindRecord_binds
    (hn : bound = ((y.takeWays core b.ways).putWg (wgKey (gridKey b.ctx b.lnum) b.wg)
      { bound := true, grid := gridKey b.ctx b.lnum, index := b.wg, core := core, slots := b.slots.map (fun n => core * 64 + n),
        ways := b.ways, succ := false, hold := b.hold }).modGrid (gridKey b.ctx b.lnum) (fun g =>
          { g with bound := g.bound ++ [b.wg], heldWgs := g.heldWgs.filter (fun w => some w ≠ none) }))
    (ha : s.begin_.bindAllowed core b = true) (hr : b.restore = false) (hs : b.succ = false)
    (hb : (s.begin_.wgs.get (wgKey (gridKey b.ctx b.lnum) b.wg)).bound = false)
    (hv : (s.begin_.wgs.get (wgKey (gridKey b.ctx b.lnum) b.wg)).saved = false)
    (ht : b.wg ∉ (s.begin_.grids.get (gridKey b.ctx b.lnum)).retired) (hh : (s.begin_.grids.get (gridKey b.ctx b.lnum)).heldWgs = [])
    (hf : s.begin_.bindFits core b [] = true)
    (hy : s.begin_.bindTeams (gridKey b.ctx b.lnum) b.wg false 0 (b.slots.map (fun n => core * 64 + n)) = some y)
    (hk : s.begin_.keepsRoom bound (gridKey b.ctx b.lnum) false = true) : exec (.bindRecord core b) s =
      .next ((if (bound.grids.get (gridKey b.ctx b.lnum)).moreToBind then bound else bound.releaseHeld (gridKey b.ctx b.lnum)).tick hubDie) := by
  have binds : s.begin_.bindWg core b none = some bound := by
    unfold State.bindWg
    simp only [hs, hy, hn]
  have taken : (s.begin_.grids.get (gridKey b.ctx b.lnum)).retired.contains b.wg = false := by simpa using ht
  refine exec_of_fwEvent exec_bindRecord ?_
  simp only [hs, Bool.false_eq_true, if_false]
  refine (if_neg ?_).trans ((if_neg ?_).trans ?_)
  · simp only [ha, hr, hb, hv, taken, hh]
    decide
  · simp [hf]
  · simp only [binds]
    exact if_neg (not_not_true hk)

theorem exec_teamStart_starts (hp : (s.begin_.teams.get u).phase = .held) (hq : s.begin_.preempted u = false) :
    exec (.teamStart u) s = .next ((s.begin_.putTeam u { startTeam (s.begin_.gridOf (s.begin_.teams.get u)) (s.begin_.ctxOf (s.begin_.teams.get u))
      (s.begin_.dies.get (dieOf u)).clk (s.begin_.teams.get u) with lastIssue := s.begin_.freeCtr }).haltAtSeam u) :=
  exec_of_event exec_teamStart (if_neg fun q => q.elim (fun q => q hp) (fun q => Bool.false_ne_true (hq.symm.trans q)))

theorem exec_raceEpochAdvance_advances (hn : s.begin_.noRaceGrid = true) :
    exec .raceEpochAdvance s = .next (((s.begin_.nextEpoch).getD s.begin_).tick hubDie) :=
  exec_of_fwEvent exec_raceEpochAdvance (if_pos hn)

end

/-- Settles O57, one lemma for each event and each way it ends. -/
theorem launchEvents : Obligations.LaunchEvents := by
  intro key core u group n x b ps es s y deps1
  exact ⟨exec_notificationWrite_queues rfl, exec_launchValidation_waits rfl, exec_launchValidation_refuses rfl,
    exec_dependencePoll_polls rfl, exec_gridStart_reads rfl, exec_gridStart_goesOn rfl, exec_bindRecord_binds rfl,
    exec_groupStart_starts rfl, exec_teamStart_starts, exec_gridCompletion_completes rfl, exec_raceEpochAdvance_advances⟩

end Sys2Proof.Machine
end

section
/-! PROOFS. Pre-emption, the module's events and the host's commands -/

namespace Sys2Proof.Machine

open Sys2Proof.Safety

/-! ### Draining and saving a context -/
section
variable {n die : Nat} {cores done since : List Nat} {c : Ctx} {s y : State}

theorem onDie_of_filter (h : cores.filter (fun k => dieOfCore k == die) ≠ []) : onDie cores die = true := by
  obtain ⟨k, hk⟩ := List.exists_mem_of_ne_nil _ h
  obtain ⟨hm, hd⟩ := List.mem_filter.1 hk
  exact List.any_eq_true.2 ⟨k, hm, hd⟩

theorem exec_preemptionDecision_drains (hc : s.begin_.ctxs.get n = c) (hs : c.state = 1 ∨ c.state = 2) (hl : c.ladder = .none)
    (hk : ∀ k ∈ cores, k < 96) (hn : s.begin_.needs n cores = true) : exec (.preemptionDecision n cores) s =
      .next ((s.begin_.putCtx n { c with
        ladder := .drain (s.begin_.widen n 96 cores.eraseDups) ((List.range 8).map s.begin_.stampTime) }).tick hubDie) := by
  subst hc
  exact exec_of_fwEvent exec_preemptionDecision (if_pos ⟨hs, hl, List.all_eq_true.2 fun k m => decide_eq_true (hk k m), hn⟩)

section
variable (hc : s.begin_.ctxs.get n = c) (hl : c.ladder = .drain cores since)
include hc hl

theorem exec_drainDeadline_empty (hd : s.begin_.drained n cores = true) :
    exec (.drainDeadline n die) s = .next ((s.begin_.putCtx n { c with ladder := .none }).tick hubDie) := by
  refine exec_of_fwEvent exec_drainDeadline ?_
  simp only [hc, hl]
  exact if_pos hd

theorem exec_drainDeadline_ends (hd : s.begin_.drained n cores = false) (hm : cores.filter (fun k => dieOfCore k == die) ≠ [])
    (ht : (deadlines since c.cfg.drain).getD die 0 ≤ s.begin_.stampTime die) : exec (.drainDeadline n die) s =
      .next ((if c.cfg.saveArea = 0 then s.begin_.forceReset n
        else s.begin_.putCtx n { c with ladder := .save cores [] (deadlines since c.cfg.drain) }).tick hubDie) := by
  refine exec_of_fwEvent exec_drainDeadline ?_
  simp only [hc, hl]
  exact (if_neg (fun q => Bool.false_ne_true (hd.symm.trans q))).trans (if_pos ⟨onDie_of_filter hm, ht⟩)

end

section
variable (hc : s.begin_.ctxs.get n = c) (hl : c.ladder = .save cores done since) (hd : die ∉ done)
  (hm : cores.filter (fun k => dieOfCore k == die) ≠ [])
include hd hm

/-- The ladder of a context once a die more has saved its cores. -/
def savedBy (cores done since : List Nat) (die : Nat) : Ladder :=
  if cores.all (fun k => (die :: done).contains (dieOfCore k)) then .saved cores else .save cores (die :: done) since

/-- A die with cores of a save that it has still to make. -/
theorem die_saves : ¬ (done.contains die = true ∨ onDie cores die = false) := by
  rintro (q | q)
  · exact hd (List.contains_iff_mem.1 q)
  · exact Bool.false_ne_true (q.symm.trans (onDie_of_filter hm))

include hc hl

theorem exec_saveComplete_saves (ht : s.begin_.stampTime die ≤ (deadlines since c.cfg.save).getD die 0)
    (hy : s.begin_.saveCores n (cores.filter (fun k => dieOfCore k == die)) = some y) : exec (.saveComplete n die) s =
      .next ((y.modCtx n (fun c => { c with ladder := savedBy cores done since die })).tick hubDie) := by
  refine exec_of_fwEvent exec_saveComplete ?_
  simp only [hc, hl]
  refine (if_neg (die_saves hd hm)).trans ((if_neg (Nat.not_lt.2 ht)).trans ?_)
  simp only [hy]
  rfl

theorem exec_saveComplete_late (ht : (deadlines since c.cfg.save).getD die 0 < s.begin_.stampTime die) :
    exec (.saveComplete n die) s = .next ((s.begin_.forceReset n).tick hubDie) := by
  refine exec_of_fwEvent exec_saveComplete ?_
  simp only [hc, hl]
  exact (if_neg (die_saves hd hm)).trans (if_pos ht)

theorem exec_saveDeadline_resets (h8 : die < 8) (ht : (deadlines since c.cfg.save).getD die 0 ≤ s.begin_.stampTime die) :
    exec (.saveDeadline n) s = .next ((s.begin_.forceReset n).tick hubDie) := by
  refine exec_of_fwEvent exec_saveDeadline ?_
  simp only [hc, hl]
  exact if_pos (List.any_eq_true.2 ⟨die, List.mem_range.2 h8, Bool.and_eq_true_iff.2 ⟨Bool.and_eq_true_iff.2
    ⟨onDie_of_filter hm, by simpa using hd⟩, decide_eq_true ht⟩⟩)

end
end

/-! ### Restoring a context -/
section
variable {core : Nat} {cores uids : List Nat} {grid key : Nat} {b : BindRec} {w : Wg} {s x : State}
  (hx : s.begin_.streamsBack b.ctx core = x) (hg : gridKey b.ctx b.lnum = grid) (hk : wgKey grid b.wg = key)
  (hu : b.slots.map (fun n => core * 64 + n) = uids) (hw : x.wgs.get key = w) (hr : b.restore = true)
  (hl : (s.begin_.ctxs.get b.ctx).ladder = .saved cores) (hc : core ∈ cores) (h1 : w.core = core) (h2 : w.slots = uids)
include hx hg hk hu hw hr hl hc h1 h2

theorem exec_contextRestore_workgroup (hh : b.wg ∉ (x.grids.get grid).heldWgs) (hs : w.saved = true) (ha : x.bindAllowed core b = true)
    (hf : x.slotsFit b.ctx core (uids.filter (fun u => !w.gone.contains u)) = true) (hn : (x.cores.get core).ways + w.ways ≤ 32)
    (he : x.enginesFree b.ctx core key uids = true)
    (hq : x.keepsRoom (x.wgBack b.ctx core key uids b.hold) grid true = true) : exec (.contextRestore core b) s =
      .next (((x.wgBack b.ctx core key uids b.hold).allBack b.ctx).tick hubDie) := by
  refine exec_of_fwEvent exec_contextRestore ?_
  simp only [hg, hk, hu, hx, hw, hl]
  refine (if_neg (by simp [hr, hc])).trans ((if_neg (by simp [h1, h2])).trans ((if_neg (by simpa using hh)).trans
    ((if_neg (by simp [hs, ha])).trans ((if_neg ?_).trans (if_pos hq)))))
  simp only [hf, he, decide_eq_false (Nat.not_lt.2 hn)]
  decide

theorem exec_contextRestore_slots (hh : b.wg ∈ (x.grids.get grid).heldWgs) (hf : x.slotsFit b.ctx core uids = true) :
    exec (.contextRestore core b) s = .next (((x.teamsBack b.ctx uids).allBack b.ctx).tick hubDie) := by
  refine exec_of_fwEvent exec_contextRestore ?_
  simp only [hg, hk, hu, hx, hw, hl]
  exact (if_neg (by simp [hr, hc])).trans ((if_neg (by simp [h1, h2])).trans ((if_pos (by simpa using hh)).trans (if_pos hf)))

end

/-- Settles O58, one lemma for each way a step of the ladder ends. -/
theorem preemptionEvents : Obligations.PreemptionEvents := by
  intro n die core cores done since b s y
  refine ⟨exec_preemptionDecision_drains rfl, exec_drainDeadline_empty rfl, exec_drainDeadline_ends rfl,
    fun hl hd hm => exec_saveComplete_saves rfl hl hd hm, fun hl hd hm => exec_saveComplete_late rfl hl hd hm,
    fun hl h8 hd hm => exec_saveDeadline_resets rfl hl hd hm h8, ?_, ?_⟩
  · rintro ⟨hr, hl, hc, h1, h2⟩
    exact exec_contextRestore_workgroup rfl rfl rfl rfl rfl hr hl hc h1 h2
  · rintro ⟨hr, hl, hc, h1, h2⟩
    exact exec_contextRestore_slots rfl rfl rfl rfl rfl hr hl hc h1 h2

/-! ### Observation -/
section
variable {core port u die : Nat} {d : Die} {s : State}

theorem exec_traceSample_samples (ho : s.begin_.oldest (s.begin_.residents core port) = some u)
    (h2 : (s.begin_.ctxOf (s.begin_.teams.get u)).dbgctl.getLsbD 2 = true)
    (hd : s.begin_.sampleDue core port ((s.begin_.ctxOf (s.begin_.teams.get u)).dbgctl.extractLsb' 4 4).toNat = true)
    (ha : (s.begin_.residents core port).filter (fun u => (s.begin_.reasonOf u).isNone) ≠ []) :
    exec (.traceSample core port) s = .next ((s.begin_.modCore core (fun c => { c with
      sampled := c.sampled.set port ((s.begin_.dies.get (dieOfCore core)).clk + 1,
        ((s.begin_.ctxOf (s.begin_.teams.get u)).dbgctl.extractLsb' 4 4).toNat) })).trace (dieOfCore core)
      { kind := 2, loc := whereOf u, data := BitVec.ofNat 32 (0xFF * 256 +
          ((s.begin_.residents core port).filter (fun u => (s.begin_.reasonOf u).isNone)).length),
        pc := (s.begin_.teams.get u).flow.pos.pc, regions := regionsOf (s.begin_.teams.get u).flow }) := by
  have able : ((s.begin_.residents core port).filter (fun u => (s.begin_.reasonOf u).isNone)).isEmpty = false :=
    List.isEmpty_eq_false_iff.2 ha
  refine exec_of_event exec_traceSample ?_
  simp only [ho, h2, hd, able]
  rfl

theorem exec_stallAccountClock_idle (hl : s.begin_.residents core port = []) :
    let counted := (s.begin_.modCore core (fun c => c.count port 0)).modCore core (fun c => c.count port 20)
    let clocks := ((List.range 9).map (fun k => (counted.cores.get core).account.get (port * 32 + k))).sum
    exec (.stallAccountClock core port) s =
      .next (counted.modDie (dieOfCore core) (fun d => if d.clk < clocks then { d with clk := clocks } else d)) := by
  refine exec_of_event exec_stallAccountClock ?_
  simp only [hl]
  rfl

theorem exec_wringerFrame_writes (hd : s.begin_.dies.get die = d) (ht : d.trace ≠ []) (hs : d.sink ≠ 0) (h0 : d.drops = 0)
    (hp : d.sinkStopped = false) (hr : (s.begin_.loadNum (d.sink + 4) 4 + 2 ^ 32 - s.begin_.loadNum d.sink 4) % 2 ^ 32 ≠
      s.begin_.loadNum (d.sink + 12) 4) :
    let tail := s.begin_.loadNum (d.sink + 4) 4
    let frame := s.begin_.frame die false d.trace
    exec (.wringerFrame die) s = .next (((s.begin_.homeBytes (d.sink + 4096 + 4096 * (tail % s.begin_.loadNum (d.sink + 12) 4)) frame.1).homeNum
      (d.sink + 4) 4 ((tail + 1) % 2 ^ 32)).modDie die (fun d => { d with trace := frame.2, frames := d.frames + 1, drops := 0, recDrops := 0 })) := by
  refine exec_of_event exec_wringerFrame ?_
  simp only [hd, h0]
  refine (if_neg (not_or.2 ⟨ht, hs⟩)).trans ((if_neg ?_).trans rfl)
  exact not_or.2 ⟨hr, fun q => Bool.false_ne_true (hp.symm.trans q)⟩

end

/-! ### Time, the host's accesses, links and clocks -/
section
variable {die m a b x bound : Nat} {k : Bool} {bytes : List Byte} {s : State}

theorem exec_timeSyncExchange_learns (hb : bound ≤ 12) (h1 : s.begin_.stampTime die ≤ x + bound) (h2 : x ≤ s.begin_.stampTime die + bound)
    (h3 : s.begin_.stampTime die ≤ s.begin_.now + bound) : exec (.timeSyncExchange die x bound) s =
      .next (s.begin_.putDie die { s.begin_.dies.get die with time := s.begin_.stampTime die, bound := bound }) :=
  exec_of_event exec_timeSyncExchange (if_pos ⟨hb, h1, h2, h3⟩)

theorem exec_domainTimeExchange_learns (hl : s.begin_.hub.timeLock = true) : exec (.domainTimeExchange x bound k) s =
    .next { s.begin_ with mod := { s.begin_.mod with dlock := k && decide (bound ≤ 160), dbound := bound } } :=
  exec_of_event exec_domainTimeExchange (if_neg (not_not_true hl))

section
variable (hr : paReserved a = false) (ha : a < 2 ^ 52) (hn : a % 128 + bytes.length ≤ 128)
include hr ha hn

/-- An access of the host that lies in one line of memory. -/
theorem hostAccess_inLine : ¬ (paReserved a || decide (2 ^ 52 ≤ a) || decide (128 < a % 128 + bytes.length)) = true := by
  rw [hr, decide_eq_false (Nat.not_le.2 ha), decide_eq_false (Nat.not_lt.2 hn)]
  decide

theorem exec_hostAccess_writes :
    let y := (((s.begin_.handBack (lineOf a)).storeSectors a bytes.length).homeBytes a bytes).putRelease (lineOf a) {}
    exec (.hostAccess a bytes true) s = .next ((y.ringCtxs (lineOf a)).foldl State.flushFaults y) :=
  exec_of_event exec_hostAccess ((if_neg (hostAccess_inLine hr ha hn)).trans (if_neg Bool.false_ne_true))

theorem exec_hostAccess_reads :
    exec (.hostAccess a bytes false) s = .next ((s.begin_.handBack (lineOf a)).fillSectors a bytes.length) :=
  exec_of_event exec_hostAccess ((if_neg (hostAccess_inLine hr ha hn)).trans (if_pos rfl))

end

theorem exec_shorelineLinkFailure_cuts (hn : a ≠ b) (ha : a < 8) (hb : b < 8) (hl : linkOf a b ∉ s.begin_.mod.linksDown) :
    let crossed := (s.begin_.crossing a b).crossing b a
    exec (.shorelineLinkFailure a b) s = .next { crossed with
      mod := { crossed.mod with linksDown := linkOf a b :: crossed.mod.linksDown },
      grids := ⟨crossed.grids.entries.map (fun e =>
        if crossed.onBoth e.2 e.1 a b ∧ e.2.status = 0 then (e.1, { e.2 with status := 4, cause := cLINK }) else e)⟩ } := by
  refine exec_of_event exec_shorelineLinkFailure (if_neg ?_)
  rintro (q | q | q | q)
  · exact hn q
  · exact absurd ha (Nat.not_lt.2 q)
  · exact absurd hb (Nat.not_lt.2 q)
  · exact hl (List.contains_iff_mem.1 q)

theorem exec_fabricRouteLoss_cuts (hn : m ≠ s.begin_.hub.modid) (hm : m < 512) (hl : m ∉ s.begin_.mod.routesDown) :
    exec (.fabricRouteLoss m) s =
      .next { s.begin_ with mod := { s.begin_.mod with routesDown := m :: s.begin_.mod.routesDown } } := by
  refine exec_of_event exec_fabricRouteLoss (if_neg ?_)
  rintro (q | q | q)
  · exact hn q
  · exact absurd hm (Nat.not_lt.2 q)
  · exact hl (List.contains_iff_mem.1 q)

theorem exec_thermalThrottle_slows (h1 : 800 ≤ x) (h2 : x < (s.begin_.dies.get die).mhz) : exec (.thermalThrottle die x) s =
    .next (s.begin_.putDie die { s.begin_.dies.get die with mhz := x }) :=
  exec_of_event exec_thermalThrottle (congrArg (State.putDie s.begin_ die) (if_pos ⟨h1, h2⟩))

theorem exec_dvfsClockChange_changes (h1 : 800 ≤ x) (h2 : x ≤ 1900) : exec (.dvfsClockChange die x) s =
    .next (s.begin_.putDie die { s.begin_.dies.get die with mhz := x }) :=
  exec_of_event exec_dvfsClockChange (congrArg (State.putDie s.begin_ die) (if_pos ⟨h1, h2⟩))

end

/-- Settles O59, one lemma for each event; a reset and a shutdown are what they are by definition. -/
theorem moduleEvents : Obligations.ModuleEvents := by
  intro core port u die m a b x bound k bytes images s
  exact ⟨exec_traceSample_samples, exec_stallAccountClock_idle, exec_wringerFrame_writes rfl, exec_timeSyncExchange_learns,
    exec_domainTimeExchange_learns, fun hr ha hn => ⟨exec_hostAccess_writes hr ha hn, exec_hostAccess_reads hr ha hn⟩,
    exec_shorelineLinkFailure_cuts, exec_fabricRouteLoss_cuts, exec_thermalThrottle_slows, exec_dvfsClockChange_changes, rfl,
    ⟨_, rfl, rfl, rfl, rfl, rfl, rfl, rfl, rfl, rfl, rfl, rfl, rfl⟩, rfl, rfl⟩

/-! ### The command at the head of the ring -/
section
variable {i : Instr} {op : Nat} {l : List Byte} {n : Nat} {c : Ctx} {f : State → List Byte → Cmd} {g : State → Nat → Ctx → Cmd} {s y : State}

/-- The command at the head is performed as the word that names it says. -/
theorem State.command_head {z : State} (h : HeadCommand s op l) (hop : 0 < op ∧ op ≤ 0x0C)
    (hd : ∀ y st d, f s.begin_ l = .done y st d → y.cmdDone st d = z) (hp : ∀ y, f s.begin_ l = .pending y → y = z) :
    s.begin_.command op f = z := by
  obtain ⟨⟨hcap, hne⟩, rfl, hcode, hst⟩ := h
  have ring : ¬ (!powerOfTwo 2 4096 s.begin_.hub.cmdCap || s.begin_.hub.cmdHead == s.begin_.hub.cmdTail) = true := by
    rw [show powerOfTwo 2 4096 s.begin_.hub.cmdCap = true from hcap, beq_false_of_ne (show s.begin_.hub.cmdHead ≠ s.begin_.hub.cmdTail from hne)]
    decide
  have code : fieldAt (s.begin_.loadBytes s.begin_.hub.cmdAddr 64) 0 2 = op := hcode
  have may : ¬ ((!s.begin_.hub.started) = true ∧ op ≠ 0x01 ∧ op ≠ 0x0B) := by
    rintro ⟨q1, q2, q3⟩
    exact hst.elim (fun q => not_not_true (b := s.begin_.hub.started) q q1) (fun q => q.elim q2 q3)
  unfold State.command
  refine (if_neg ring).trans ?_
  simp only [code]
  refine (if_neg may).trans ((if_neg (not_or.2 ⟨Nat.ne_of_gt hop.1, Nat.not_lt.2 hop.2⟩)).trans ((if_neg (not_not_intro rfl)).trans ?_))
  split
  next e => exact hp _ e
  next e => exact hd _ _ _ e

/-- A command that is done completes. -/
theorem completes_of {st d : Nat} (hx : exec i s = s.fwEvent (fun s => s.command op f)) (h : HeadCommand s op l) (hop : 0 < op ∧ op ≤ 0x0C)
    (hf : f s.begin_ l = .done y st d) : completes i s y st d := by
  refine exec_of_fwEvent hx (State.command_head h hop (fun z st' d' e => ?_) (fun z e => ?_))
  · obtain ⟨rfl, rfl, rfl⟩ := Cmd.done.inj (hf.symm.trans e)
    rfl
  · exact absurd (hf.symm.trans e) nofun

/-- A command that goes on leaves the ring as it is. -/
theorem exec_of_pending (hx : exec i s = s.fwEvent (fun s => s.command op f)) (h : HeadCommand s op l) (hop : 0 < op ∧ op ≤ 0x0C)
    (hf : f s.begin_ l = .pending y) : exec i s = .next (y.tick hubDie) := by
  refine exec_of_fwEvent hx (State.command_head h hop (fun z st' d' e => ?_) (fun z e => ?_))
  · exact absurd (hf.symm.trans e) nofun
  · exact (Cmd.pending.inj (hf.symm.trans e)).symm

theorem State.onCtx_on (h : OnContext s op l n c) : s.begin_.onCtx l g = g s.begin_ n c := by
  obtain ⟨-, ⟨rfl, hn⟩, ⟨rfl, hc⟩⟩ := h
  exact if_neg (not_or.2 ⟨Nat.not_le.2 hn, hc⟩)

end

/-! ### The commands -/
section
variable {l : List Byte} {n : Nat} {c : Ctx} {s : State}

/-- The dies as a start block describes them. -/
def startDies (b : List Byte) (z : State) : State :=
  let f := fieldAt b
  (List.range 8).foldl (fun s d => (s.modDie d (fun x =>
    { x with shBase := f (64 + 8 * d) 8, shLen := f (128 + 8 * d) 8, sink := f (192 + 8 * d) 8, errLog := f (256 + 8 * d) 8 })).nameRing
      (f (256 + 8 * d) 8)) z

theorem start_completes {b : List Byte} (hb : s.begin_.loadBytes (cmdArg l 0) 320 = b) (h : HeadCommand s 0x01 l)
    (hs : s.hub.started = false) (ho : s.begin_.startOk b = true) (hi : s.begin_.hub.bootstat / 256 % 512 = 0) :
    completes .start s { startDies b s.begin_ with hub := { (startDies b s.begin_).hub with
      started := true, featacc := fieldAt b 0 32, modid := fieldAt b 32 2,
      timeLock := (fieldAt b 34 1).testBit 0 && (fieldAt b 0 32).testBit 8,
      c0 := (List.range 8).map (fun d => fieldAt b (36 + d) 1), cap := fieldAt b 44 4 } } 0 0 := by
  subst hb
  refine completes_of exec_start h (by decide) ?_
  exact (if_neg (fun q => Bool.false_ne_true (hs.symm.trans q))).trans ((if_neg (not_not_true ho)).trans (if_neg (not_not_intro hi)))

theorem ctxnew_completes {b : List Byte} (hb : s.begin_.loadBytes (cmdArg l 0) 256 = b) (h : HeadCommand s 0x02 l)
    (ho : s.begin_.ctxOk b = true)
    (hn : ((List.range 256).filter (fun n => (s.begin_.ctxs.get n).state == 0))[Config.freeNat s.begin_.freeCtr 9 %
      ((List.range 256).filter (fun n => (s.begin_.ctxs.get n).state == 0)).length]? = some n) :
    completes .ctxnew s (([(ctxCfg b).faultRing, (ctxCfg b).trapLog, (ctxCfg b).raceLog, (ctxCfg b).errLog, (ctxCfg b).sink].foldl
      State.nameRing s.begin_).putCtx n { state := 1, cfg := ctxCfg b, nextLnum := 1 }) 0 n := by
  subst hb
  refine completes_of exec_ctxnew h (by decide) ((if_neg (not_not_true ho)).trans ?_)
  simp only [hn]

theorem ctxfree_completes (h : OnContext s 0x03 l n c) (hg : s.begin_.liveGrids n = []) :
    completes .ctxfree s (s.begin_.dropCtx n) 0 0 :=
  completes_of exec_ctxfree h.head (by decide) ((State.onCtx_on h).trans (if_pos (List.isEmpty_iff.2 hg)))

theorem ctxfree_resets (h : OnContext s 0x03 l n c) (hg : s.begin_.liveGrids n ≠ []) (ha : cmdArg l 0 % 2 = 1) (hs : c.state ≠ 3)
    (hl : ∀ k d t, c.ladder ≠ .save k d t) : exec .ctxfree s = .next ((s.begin_.forceReset n).tick hubDie) := by
  refine exec_of_pending exec_ctxfree h.head (by decide) ((State.onCtx_on h).trans ?_)
  refine (if_neg (fun q => hg (List.isEmpty_iff.1 q))).trans ((if_neg (by omega)).trans (if_neg ?_))
  rintro (q | q)
  · exact hs q
  · split at q
    next e => exact hl _ _ _ e
    next => exact Bool.false_ne_true q

theorem qreg_completes (h : OnContext s 0x04 l n c) (hk : cmdArg l 0 ≤ 15) (hp : powerOfTwo 2 65536 (cmdArg l 2) = true) :
    completes .qreg s (s.begin_.putCtx n { c with
      queues := c.queues.put (cmdArg l 0) { registered := true, base := cmdArg l 1, cap := cmdArg l 2, head := 0 } }) 0 0 :=
  completes_of exec_qreg h.head (by decide) ((State.onCtx_on h).trans
    (if_neg (not_or.2 ⟨Nat.not_lt.2 hk, fun q => Bool.false_ne_true (q.symm.trans hp)⟩)))

/-- The state without the entries of a range in its translation caches. -/
def rangeDropped (l : List Byte) (n : Nat) (z : State) : State :=
  let bs := match z.kvDesc n with | some d => d.bs | none => 65536
  let gone (e : TlbEntry) : Bool := e.ctx == n &&
    (if e.level = kvLevel then overlap e.va bs (cmdArg l 0) (cmdArg l 1)
      else overlap e.va (2 ^ levelShift e.level) (cmdArg l 0 % 2 ^ 57) (cmdArg l 1))
  { z with
    dies := ⟨z.dies.entries.map (fun (d : Nat × Die) => (d.1, { d.2 with tlb := d.2.tlb.filter (fun e => !gone e) }))⟩
    cores := ⟨z.cores.entries.map (fun (c : Nat × Core) => (c.1, { c.2 with tlb := c.2.tlb.filter (fun e => !gone e) }))⟩ }

theorem inval_completes (h : OnContext s 0x05 l n c) (hb : (rangeDropped l n s.begin_).rangeBusy n (cmdArg l 0) (cmdArg l 1) = false) :
    completes .inval s (rangeDropped l n s.begin_) 0 0 :=
  completes_of exec_inval h.head (by decide) ((State.onCtx_on h).trans (if_neg (fun q => Bool.false_ne_true (hb.symm.trans q))))

/-- The state in which every team and engine that waits on a fault in a range has been told. -/
def residentAt (l : List Byte) (n : Nat) (z : State) : State :=
  let hit := inRange l
  let r1 := z.modCtx n (fun c => { c with
    faults := (c.faults.map (fun f => if hit f.va then { f with resolved := true } else f)).filter (fun f =>
      !(f.resolved && f.written.isSome)) })
  let r2 := (r1.engineResident n hit).flushFaults n
  { r2 with
    teams := ⟨r2.teams.entries.map (fun (e : Nat × Team) => (e.1, e.2.resident n hit))⟩
    savedTeams := ⟨r2.savedTeams.entries.map (fun (e : Nat × Option Team) => (e.1, e.2.map (fun (t : Team) => t.resident n hit)))⟩ }

theorem resident_completes (h : OnContext s 0x06 l n c) :
    completes .resident s ((residentAt l n s.begin_).teams.keys.foldl (fun s u =>
      if (s.teams.get u).place.ctx = n ∧ (s.teams.get u).flow = (s.teams.get u).seam then s.haltAtSeam u else s) (residentAt l n s.begin_)) 0 0 :=
  completes_of exec_resident h.head (by decide) (State.onCtx_on h)

/-- The state after a halt has begun: its collectives' counts stop, and what waits is rolled back and stopped. -/
def haltBegun (n : Nat) (c : Ctx) (z : State) : State :=
  let h1 := (z.collsOf n).foldl State.freezeColl (z.putCtx n { c with state := 2, haltedAt := z.stampTime hubDie })
  ((h1.teams.entries.filter (fun t => t.2.moves n)).map Prod.fst).foldl State.haltHeld h1

theorem halt_completes (h : OnContext s 0x07 l n c) (hs : c.state ≠ 2)
    (hm : (haltBegun n c s.begin_).teams.entries.any (fun t => t.2.moves n) = false) : completes .halt s (haltBegun n c s.begin_) 0 0 := by
  refine completes_of exec_halt h.head (by decide) ((State.onCtx_on h).trans ?_)
  simp only [if_neg hs]
  exact if_neg (fun q => Bool.false_ne_true (hm.symm.trans q))

theorem halt_goesOn (h : OnContext s 0x07 l n c) (hs : c.state ≠ 2)
    (hm : (haltBegun n c s.begin_).teams.entries.any (fun t => t.2.moves n) = true) :
    exec .halt s = .next ((haltBegun n c s.begin_).tick hubDie) := by
  refine exec_of_pending exec_halt h.head (by decide) ((State.onCtx_on h).trans ?_)
  simp only [if_neg hs]
  exact if_pos hm

/-- The state in which the stopped teams of a context go on. -/
def releasedAt (n : Nat) (c : Ctx) (z : State) : State :=
  { z with
    ctxs := z.ctxs.put n { c with state := 1 }
    teams := ⟨z.teams.entries.map (fun (e : Nat × Team) => (e.1, e.2.resume n))⟩
    savedTeams := ⟨z.savedTeams.entries.map (fun (e : Nat × Option Team) => (e.1, e.2.map (fun (t : Team) => t.resume n)))⟩ }

theorem release_completes (h : OnContext s 0x08 l n c) (hs : c.state = 2) :
    completes .release s (((releasedAt n c s.begin_).collsOf n).foldl State.thawColl (releasedAt n c s.begin_)) 0 0 :=
  completes_of exec_release h.head (by decide) ((State.onCtx_on h).trans (if_neg (not_not_intro hs)))

/-- The module numbers of a GROUP. -/
def moduleList (l : List Byte) (z : State) : List Nat := (List.range (cmdArg l 2)).map (fun k => z.loadNum (cmdArg l 1 + 2 * k) 2)

theorem group_completes (h : OnContext s 0x09 l n c) (hg : cmdArg l 0 ≤ 255) (h2 : 2 ≤ cmdArg l 2) (hc : cmdArg l 2 ≤ 512)
    (hm : ∀ m ∈ moduleList l s.begin_, m ≤ 511) :
    completes .group s (s.begin_.putCtx n { c with groups := c.groups.put (cmdArg l 0) (moduleList l s.begin_) }) 0 0 := by
  refine completes_of exec_group h.head (by decide) ((State.onCtx_on h).trans (if_neg ?_))
  rintro (q | q | q | q)
  · exact absurd hg (Nat.not_le.2 q)
  · exact absurd h2 (Nat.not_le.2 q)
  · exact absurd hc (Nat.not_le.2 q)
  · obtain ⟨m, hmem, hlt⟩ := List.any_eq_true.1 q
    exact absurd (hm m hmem) (Nat.not_le.2 (of_decide_eq_true hlt))

section
variable (hk : cmdArg l 0 ≤ 63) (hn : cmdArg l 2 ≤ 255) (hc : (s.begin_.ctxs.get (cmdArg l 2)).state ≠ 0)
include hk hn hc

/-- The arguments of a KEYLOAD keep their limits. -/
theorem keyload_inLimits : ¬ (63 < cmdArg l 0 ∨ 255 < cmdArg l 2 ∨ (s.begin_.ctxs.get (cmdArg l 2)).state = 0) :=
  not_or.2 ⟨Nat.not_lt.2 hk, not_or.2 ⟨Nat.not_lt.2 hn, hc⟩⟩

theorem keyload_completes (h : HeadCommand s 0x0A l) {v : BitVec 256} (hv : Config.keyBlob (s.begin_.loadBytes (cmdArg l 1) Config.keyBlobBytes) = some v) :
    completes .keyload s { s.begin_ with mod := { s.begin_.mod with
      keys := s.begin_.mod.keys.put (cmdArg l 0) (cmdArg l 2, v.toNat) } } 0 0 := by
  refine completes_of exec_keyload h (by decide) ((if_neg (keyload_inLimits hk hn hc)).trans ?_)
  simp only [hv]

theorem keyload_fails (h : HeadCommand s 0x0A l) (hv : Config.keyBlob (s.begin_.loadBytes (cmdArg l 1) Config.keyBlobBytes) = none) :
    completes .keyload s s.begin_ 5 0 := by
  refine completes_of exec_keyload h (by decide) ((if_neg (keyload_inLimits hk hn hc)).trans ?_)
  simp only [hv]

end

theorem sinkrst_completes (h : HeadCommand s 0x0C l) (hd : cmdArg l 0 ≤ 7) :
    completes .sinkrst s (s.begin_.modDie (cmdArg l 0) (fun x => { x with sinkStopped := false })) 0 0 :=
  completes_of exec_sinkrst h (by decide) (if_neg (Nat.not_lt.2 hd))

end

/-- Settles O60, one lemma for each command and each way it ends. -/
theorem hostCommands : Obligations.HostCommands := by
  intro l n c s
  refine ⟨start_completes rfl, ctxnew_completes rfl, ctxfree_completes, ctxfree_resets, qreg_completes, inval_completes, resident_completes,
    halt_completes, halt_goesOn, release_completes, group_completes, ?_, fun h => completes_of exec_attest h (by decide) rfl, sinkrst_completes⟩
  intro h hk hn hc
  split
  next hv => exact keyload_completes hk hn hc h hv
  next hv => exact keyload_fails hk hn hc h hv

end Sys2Proof.Machine
end

section
/-! PROOFS. The machine as a whole: reset, what a step runs, decoding, and a store at home -/

namespace Sys2Proof.Machine

open Sys2Proof.Safety

/-! ### What reset leaves -/

/-- No team of the reset state has taken a trap, so TRAPSTAT reads 0. -/
theorem State.sysRead_trapstat_reset (u : Nat) : State.reset.sysRead u 0x0700 = 0 := by
  have unbound : State.reset.teams.get u = {} := rfl
  simp [State.sysRead, unbound, one]

/-- Settles O1: every map of the reset state is empty, and an empty map reads as its default. -/
theorem resetState : Obligations.ResetState := by
  unfold Obligations.ResetState
  intro u n k a s
  exact ⟨⟨rfl, rfl, rfl, rfl, rfl, rfl, rfl, rfl, rfl⟩, State.sysRead_trapstat_reset u, rfl, rfl, rfl, rfl, rfl,
    State.reset_wf, rfl⟩

/-! ### What a step does -/

/-- A team that runs, and whose word can be fetched, runs that word. -/
theorem State.teamAct_runs {z : State} {x : W32} (h : Runs z) (hx : z.fetchWord z.cur z.team.flow.pos.pc = .ok x) :
    z.teamAct = .run (fetched x) (z.fetchFill z.cur z.team.flow.pos.pc) := by
  obtain ⟨running, free, linked, quiet⟩ := h
  have goes : ¬ (z.team.phase ≠ .running ∨ (z.preempted z.cur ∧ !z.midAccess z.cur)) := by
    rintro (out | ⟨held, idle⟩)
    · exact out running
    · rcases free with free | mid
      · exact Bool.false_ne_true (free.symm.trans held)
      · simp [mid] at idle
  have untrapped : (if z.midAccess z.cur then none else z.team.trap.pending) = none := by
    rcases quiet with mid | none_
    · exact if_pos mid
    · rw [none_, ite_self]
  unfold State.teamAct
  simp only [goes, linked, untrapped, hx, if_false, Bool.false_eq_true]

/-- Where the port of a team is due and the module is powered, the port acts. -/
theorem State.nextAct_portAct {s : State} {u : Nat} {rest : List Act}
    (due : (s.agenda = [] ∧ rest = [] ∧ u = s.cur) ∨ s.agenda = .issue u :: rest) (on : s.mod.powered = true) :
    s.nextAct = ({ s with agenda := rest } : State).portAct u := by
  rcases due with ⟨empty, rfl, rfl⟩ | issues
  · have same : ({ s with agenda := [] } : State) = s := by rw [← empty]
    rw [same]
    simp only [State.nextAct, empty, on, if_true]
  · simp only [State.nextAct, issues, on, if_true]

/-- A module that is powered down lets no port act. -/
theorem State.nextAct_off {s : State} {u : Nat} {rest : List Act}
    (due : (s.agenda = [] ∧ rest = [] ∧ u = s.cur) ∨ s.agenda = .issue u :: rest) (off : s.mod.powered = false) :
    s.nextAct = .off := by
  rcases due with ⟨empty, -, -⟩ | issues
  · simp only [State.nextAct, empty, off, if_false, Bool.false_eq_true]
  · simp only [State.nextAct, issues, off, if_false, Bool.false_eq_true]

/-- An event that is due is run as it stands while the module is powered. -/
theorem State.nextAct_event {s : State} {i : Instr} {rest : List Act} (due : s.agenda = .event i :: rest)
    (on : s.mod.powered = true) : s.nextAct = .run i { s with agenda := rest } := by
  simp only [State.nextAct, due, on, if_true]
  split <;> rfl

/-- The word at the place of the team whose turn has come, in the state `z` in which it acts, is what the step runs. -/
theorem step_of_fetched {s z : State} {u : Nat} {rest : List Act} {x : W32}
    (due : (s.agenda = [] ∧ rest = [] ∧ u = s.cur) ∨ s.agenda = .issue u :: rest) (on : s.mod.powered = true)
    (hz : z = { (State.turn { s with agenda := rest } u).1 with cur := (State.turn { s with agenda := rest } u).2 })
    (runs : Runs z) (hx : z.fetchWord z.cur z.team.flow.pos.pc = .ok x) :
    step s = exec (fetched x) (z.fetchFill z.cur z.team.flow.pos.pc) := by
  have act : s.nextAct = .run (fetched x) (z.fetchFill z.cur z.team.flow.pos.pc) :=
    (State.nextAct_portAct due on).trans ((congrArg State.teamAct hz.symm).trans (State.teamAct_runs runs hx))
  unfold step
  rw [act]

/-- A team's own turn it is where no team of its port comes before it, or it is not ready itself. -/
theorem State.turn_own {y : State} {u : Nat} (h : (y.portFree u).rivals u = [] ∨ (y.portFree u).issuesNow u = false) :
    y.turn u = (y.portFree u, u) := by
  rcases h with alone | waits
  · simp only [State.turn, alone]
  · simp only [State.turn, waits, Bool.false_eq_true, if_false]
    split <;> rfl

/-- A team that comes first and is ready takes the turn of one that is ready too. -/
theorem State.turn_rival {y : State} {u v : Nat} (ready : (y.portFree u).issuesNow u = true)
    (first : (y.portFree u).issuesNow v = true) (head : ((y.portFree u).rivals u).head? = some v) :
    y.turn u = (y.portFree u, v) := by
  obtain ⟨l, hl⟩ : ∃ l, (y.portFree u).rivals u = v :: l := List.head?_eq_some_iff.mp head
  simp only [State.turn, hl, ready, if_true, State.offer, first]

/-- Settles O2: what moves next is the port of the slot that is due, or the event. -/
theorem stepRuns : Obligations.StepRuns := by
  unfold Obligations.StepRuns
  intro s u v rest i x e y free z pc due
  refine ⟨fun hd on runs hx hi => ?_, fun hd on runs hx he => ?_, State.turn_own, State.turn_rival, fun hd on => ?_,
    fun l hd => ?_, fun hd off => ?_⟩
  · have word : fetched x = i := by simp only [fetched, hi]
    have run := step_of_fetched hd on (rfl : z = _) runs hx
    rw [word] at run
    exact run
  · have word : fetched x = .wordNotAnInstruction x := by simp only [fetched, he]
    have run := step_of_fetched hd on (rfl : z = _) runs hx
    rw [word] at run
    exact run
  · unfold step
    rw [State.nextAct_event hd on]
  · unfold step State.nextAct
    rw [hd]
  · unfold step
    rw [State.nextAct_off hd off]

/-- Settles O3: each word is decoded by evaluation. -/
theorem decodeWords : Obligations.DecodeWords := by
  unfold Obligations.DecodeWords
  refine ⟨?_, ?_, ?_, ?_, ?_, ?_, ?_, ?_, ?_, ?_, ?_, ?_, ?_, ?_, ?_, ?_, ?_, ?_, ?_⟩ <;> decide

/-! ### A store whose own sector turns bad

The list behind `State.bad` need not be canonical: where it names a key twice, `SMap.set` to the default drops the first entry
only, and the second becomes visible. A store that marks its sector dirty and good then makes the sector a bad one. -/

/-- A store of two elements in one sector of line 0x1000. -/
def twoElems : StoreReq :=
  { id := 5, line := 0x1000, elems := [{ lane := 0, off := 0, size := 4 }, { lane := 1, off := 4, size := 4 }] }

/-- The sector's key is named twice, first as good. Die 0 logs its errors in a ring of no capacity at 0x100000, whose count of drops
is not at its end. -/
def hiddenBad : State :=
  { cores := ⟨[(0, { tracker := [twoElems] })]⟩, bad := ⟨[(l2Key 0x100, false), (l2Key 0x100, true)]⟩,
    dies := ⟨[(0, { errLog := 0x100000 })]⟩, mem := ⟨[(0x100008, 0)]⟩ }

/-- Nothing that a read of the map finds is bad. -/
theorem hiddenBad_good (sec : Nat) : hiddenBad.badSector sec = false := by
  have good (k : Nat) : hiddenBad.bad.get k = false := by
    show (if l2Key 0x100 = k then false else if l2Key 0x100 = k then true else false) = false
    split <;> rfl
  simp only [State.badSector, State.badCopy, good, Bool.false_and, Bool.or_false]

/-- A sector whose copy is bad and dirty is a bad sector. -/
theorem State.badSector_of_dirty {s : State} {sec : Nat} (hb : s.bad.get (l2Key sec) = true) (hd : s.sectorBit sec 1 = true) :
    s.badSector sec = true := by
  simp only [State.badSector, State.badCopy, hb, hd, Bool.or_true, Bool.and_true, Bool.true_or]

/-- A write that covers no whole sector records an error where its one sector is bad. -/
theorem State.storeSectors_bad {s : State} {pa n sec : Nat} (hs : sectorsOf pa n = [sec]) (hc : 16 * sec < canonPA pa ∨ canonPA pa + n < 16 * sec + 16)
    (hb : s.badSector sec = true) : s.storeSectors pa n = s.dramError (16 * sec) none none := by
  have part : (decide (canonPA pa ≤ 16 * sec) && decide (16 * sec + 16 ≤ canonPA pa + n)) = false := by
    rw [Bool.and_eq_false_iff, decide_eq_false_iff_not, decide_eq_false_iff_not]
    omega
  simp only [State.storeSectors, hs, List.foldl_cons, List.foldl_nil, part, hb, Bool.not_true, Bool.or_false, Bool.false_eq_true, if_false]

/-- Where no context exists, no watchpoint is tested. -/
theorem State.homeWrite_unwatched {s : State} {pa : Nat} {l : List Byte} (who : Who) (h : (s.putHome pa l).ctxs.entries = []) :
    s.homeWrite pa l who = s.putHome pa l := by
  simp only [State.homeWrite, State.watchTest, h, List.foldl_nil]

/-- The state between the two elements. -/
def hiddenBadSeen : State := hiddenBad.begin_.putHome 0x1000 (leBytes 4 0)

theorem hiddenBadSeen_bad : hiddenBadSeen.badSector 0x100 = true :=
  State.badSector_of_dirty (by decide +kernel) (by decide +kernel)

/-- The second element's write meets the bad sector. -/
theorem hiddenBadSeen_putHome :
    hiddenBadSeen.putHome 0x1004 (leBytes 4 0) = (hiddenBadSeen.dramError (16 * 0x100) none none).setBytes 0x1004 (leBytes 4 0) := by
  unfold State.putHome
  rw [State.storeSectors_bad (s := hiddenBadSeen) (sec := 0x100) (by decide) (.inr (by decide)) hiddenBadSeen_bad]

/-- The error ring counts a drop. -/
theorem hiddenBadSeen_drop :
    ((hiddenBadSeen.dramError (16 * 0x100) none none).setBytes 0x1004 (leBytes 4 0)).byteAt 0x100008 = 1 := by
  decide +kernel

/-- What the store makes of memory: the two elements' writes. -/
theorem hiddenBad_stores (who : Who) :
    (hiddenBad.begin_.coverSectors 0x1000 twoElems.elems).performStores 0x1000 who twoElems.elems =
      hiddenBadSeen.putHome 0x1004 (leBytes 4 0) := by
  have first : hiddenBad.begin_.homeWrite 0x1000 (leBytes 4 0) who = hiddenBadSeen := State.homeWrite_unwatched who (by decide +kernel)
  have none_ : (hiddenBadSeen.putHome 0x1004 (leBytes 4 0)).ctxs.entries = [] := by
    rw [hiddenBadSeen_putHome]
    decide +kernel
  have second := State.homeWrite_unwatched (s := hiddenBadSeen) who none_
  have covers : hiddenBad.begin_.coverSectors 0x1000 twoElems.elems = hiddenBad.begin_ := rfl
  rw [covers]
  show (hiddenBad.begin_.homeWrite 0x1000 (leBytes 4 0) who).homeWrite 0x1004 (leBytes 4 0) who = _
  rw [first, second]

/-- What a release record becomes changes no byte. -/
theorem State.byteAt_releaseUpdate (s : State) (line : Nat) (who : Who) (rel atomic : Bool) (a : Nat) :
    (s.releaseUpdate line who rel atomic).byteAt a = s.byteAt a := by
  unfold State.releaseUpdate State.putRelease
  split <;> rfl

theorem State.storeHome_unchecked {s : State} {line : Nat} {va : W64} {es : List Elem} {who : Who} {rc done : Bool}
    (hc : who.checks rc = false) (ho : s.stashOwner line = none) :
    s.storeHome line va es who rc done = ((s.coverSectors line es).performStores line who es).releaseUpdate line who false false := by
  simp only [State.storeHome, State.writeLine, hc, ho, Bool.false_eq_true, if_false]

/-- Refutes O7: memory's bad sectors are any list here. In `hiddenBad` no sector is bad, and the first element's write, which marks its
sector good, uncovers a second entry of the list; the second element's write then counts an error at 0x100008, a byte of no element. -/
theorem not_storeFrame : ¬ Obligations.StoreFrame := by
  unfold Obligations.StoreFrame
  intro h
  obtain ⟨t, run, -, other, -⟩ := h 0 5 twoElems hiddenBad rfl (by decide +kernel) rfl rfl rfl rfl rfl nofun hiddenBad_good
  have home := State.trackerHome_store (z := hiddenBad.begin_) (r := twoElems) (core := 0) (id := 5) rfl (by decide +kernel) rfl rfl nofun rfl nofun
  have ran : t = hiddenBad.begin_.trackerHome 0 5 := by
    rw [exec_storeAtHome] at run
    exact (Host.Outcome.next.inj run).symm
  have kept : t.byteAt 0x100008 = hiddenBad.byteAt 0x100008 := other _ (by decide)
  have counted : t.byteAt 0x100008 = 1 := by
    rw [ran, home, State.storeHome_unchecked rfl (by decide +kernel)]
    show (State.releaseUpdate _ _ _ _ _).byteAt _ = _
    rw [State.byteAt_releaseUpdate]
    exact (congrArg (State.byteAt · 0x100008) (hiddenBad_stores _)).trans
      ((congrArg (State.byteAt · 0x100008) hiddenBadSeen_putHome).trans hiddenBadSeen_drop)
  have zero : hiddenBad.byteAt 0x100008 = 0 := by decide
  exact absurd (counted.symm.trans (kept.trans zero)) (by decide)

end Sys2Proof.Machine
end

section
/-! PROOFS. Every step keeps memory in canonical form -/

namespace Sys2Proof.Machine

open Sys2Proof.Safety

/-! ### Canonical memory of what an operation answers

Each predicate says that the state which an answer carries has its memory in canonical form. They are inductive, so that no check of
a proof runs the operation; the lemmas after them take the state out of an answer. For an operation `f` of the model, `f_wf` says that
what `f` answers has canonical memory where the states that it is given have. -/

/-- An outcome that has a state where it succeeds. -/
inductive wfOk {ε : Type} : Except ε State → Prop
  | ok {s} : Memory.wf s → wfOk (.ok s)
  | error {e : ε} : wfOk (.error e)

/-- An outcome that has a state either way. -/
inductive wfExcept {α : Type} : Except (State × α) State → Prop
  | ok {s} : Memory.wf s → wfExcept (.ok s)
  | error {s} {a : α} : Memory.wf s → wfExcept (.error (s, a))

inductive wfSome : Option State → Prop
  | some {s} : Memory.wf s → wfSome (some s)
  | none : wfSome none

def wfFst {α : Type} (x : State × α) : Prop := Memory.wf x.1
def RaceOut.wf (o : RaceOut) : Prop := Memory.wf o.st

inductive Eff.wf : Eff → Prop
  | next {s} : Memory.wf s → (Eff.next s).wf
  | seam {s} {d} : Memory.wf s → (Eff.seam s d).wf
  | seamTrap {s} {r} : Memory.wf s → (Eff.seamTrap s r).wf
  | go {a x} : wfOk x → (Eff.go a x).wf
  | hold {s} {r} : Memory.wf s → (Eff.hold s r).wf
  | trap {s} {r} : Memory.wf s → (Eff.trap s r).wf
  | placed {s} : Memory.wf s → (Eff.placed s).wf
  | placedSeam {s} : Memory.wf s → (Eff.placedSeam s).wf

inductive wfOut : Out → Prop
  | next {s} : Memory.wf s → wfOut (.next s)
  | fault {r} : wfOut (.fault r)
  | refused {r} : wfOut (.refused r)

inductive Eng.wf {α : Type} : Eng α → Prop
  | ok {s} {a} : Memory.wf s → (Eng.ok a s).wf
  | wait {s} : Memory.wf s → (Eng.wait s).wf
  | fault {s} {f} : Memory.wf s → (Eng.fault f s).wf

inductive KvTarget.wf : KvTarget → Prop
  | at_ {s} {a} : Memory.wf s → (KvTarget.at_ a s).wf
  | wait {s} : Memory.wf s → (KvTarget.wait s).wf
  | fail {c} : (KvTarget.fail c).wf

inductive Todo.wf : Todo → Prop
  | done {s} : Memory.wf s → (Todo.done s).wf
  | run {s} {i} : Memory.wf s → (Todo.run i s).wf
  | off : Todo.off.wf

inductive Cmd.wf : Cmd → Prop
  | pending {s} : Memory.wf s → (Cmd.pending s).wf
  | done {s} {x y} : Memory.wf s → (Cmd.done s x y).wf

section
variable {s : State}

theorem wfSome.of_some {x : Option State} (h : wfSome x) (e : x = .some s) : Memory.wf s := by
  subst e; obtain ⟨h⟩ := h; exact h

theorem wfExcept.of_ok {α : Type} {x : Except (State × α) State} (h : wfExcept x) (e : x = .ok s) : Memory.wf s := by
  subst e; obtain ⟨h⟩ := h; exact h

theorem wfExcept.of_error {α : Type} {a : α} {x : Except (State × α) State} (h : wfExcept x) (e : x = .error (s, a)) : Memory.wf s := by
  subst e; cases h; assumption

theorem wfFst.of_mk {α : Type} {a : α} {x : State × α} (h : wfFst x) (e : x = (s, a)) : Memory.wf s := by
  subst e; exact h

theorem Eff.wf.of_next {x : Eff} (h : x.wf) (e : x = .next s) : Memory.wf s := by
  subst e; obtain ⟨h⟩ := h; exact h

theorem Eff.wf.of_seam {x : Eff} {d : RegSet} (h : x.wf) (e : x = .seam s d) : Memory.wf s := by
  subst e; cases h; assumption

theorem Eff.wf.of_hold {x : Eff} {r : Nat} (h : x.wf) (e : x = .hold s r) : Memory.wf s := by
  subst e; cases h; assumption

theorem wfOut.of_next {x : Out} (h : wfOut x) (e : x = .next s) : Memory.wf s := by
  subst e; obtain ⟨h⟩ := h; exact h

theorem Eng.wf.of_ok {α : Type} {a : α} {x : Eng α} (h : x.wf) (e : x = .ok a s) : Memory.wf s := by
  subst e; cases h; assumption

theorem Eng.wf.of_wait {α : Type} {x : Eng α} (h : x.wf) (e : x = .wait s) : Memory.wf s := by
  subst e; cases h; assumption

theorem Eng.wf.of_fault {α : Type} {f : EFault} {x : Eng α} (h : x.wf) (e : x = .fault f s) : Memory.wf s := by
  subst e; cases h; assumption

theorem KvTarget.wf.of_at {a : Nat} {x : KvTarget} (h : x.wf) (e : x = .at_ a s) : Memory.wf s := by
  subst e; cases h; assumption

theorem KvTarget.wf.of_wait {x : KvTarget} (h : x.wf) (e : x = .wait s) : Memory.wf s := by
  subst e; cases h; assumption

theorem Todo.wf.of_done {x : Todo} (h : x.wf) (e : x = .done s) : Memory.wf s := by
  subst e; cases h; assumption

theorem Todo.wf.of_run {i : Instr} {x : Todo} (h : x.wf) (e : x = .run i s) : Memory.wf s := by
  subst e; cases h; assumption

theorem Cmd.wf.of_pending {x : Cmd} (h : x.wf) (e : x = .pending s) : Memory.wf s := by
  subst e; cases h; assumption

theorem Cmd.wf.of_done {a b : Nat} {x : Cmd} (h : x.wf) (e : x = .done s a b) : Memory.wf s := by
  subst e; cases h; assumption

theorem wfSome_iff {x : Option State} : wfSome x ↔ ∀ s, x = .some s → Memory.wf s := by
  refine ⟨fun h _ e => h.of_some e, fun h => ?_⟩
  cases x with
  | none => exact .none
  | some s => exact .some (h s rfl)

theorem getD_wf {o : Option State} (ho : wfSome o) (h : Memory.wf s) : Memory.wf (o.getD s) := by
  cases ho with
  | none => exact h
  | some ho => exact ho

end

/-- What both branches of a choice have, the choice has. -/
theorem keeps_ite {α : Type} {P : α → Prop} {c : Prop} [Decidable c] {a b : α} (ha : P a) (hb : P b) : P (if c then a else b) := by
  split
  · exact ha
  · exact hb

section
variable {c : Prop} [Decidable c]

theorem Memory.wf_ite {s t : State} (hs : Memory.wf s) (ht : Memory.wf t) : Memory.wf (if c then s else t) := keeps_ite hs ht
theorem Eff.wf_ite {x y : Eff} (hx : x.wf) (hy : y.wf) : (if c then x else y).wf := keeps_ite hx hy
theorem Eng.wf_ite {α : Type} {x y : Eng α} (hx : x.wf) (hy : y.wf) : (if c then x else y).wf := keeps_ite hx hy
theorem Cmd.wf_ite {x y : Cmd} (hx : x.wf) (hy : y.wf) : (if c then x else y).wf := keeps_ite hx hy
theorem wfOut_ite {x y : Out} (hx : wfOut x) (hy : wfOut y) : wfOut (if c then x else y) := keeps_ite hx hy
theorem wfFst_ite {α : Type} {x y : State × α} (hx : wfFst x) (hy : wfFst y) : wfFst (if c then x else y) := keeps_ite hx hy
theorem wfSome_ite {x y : Option State} (hx : wfSome x) (hy : wfSome y) : wfSome (if c then x else y) := keeps_ite hx hy
theorem RaceOut.wf_ite {x y : RaceOut} (hx : x.wf) (hy : y.wf) : (if c then x else y).wf := keeps_ite hx hy

end

/-- What a fold starts with and every step keeps, it ends with. -/
theorem foldl_keeps {α β : Type} {P : β → Prop} {f : β → α → β} (hf : ∀ s a, P s → P (f s a)) (l : List α) (s : β)
    (h : P s) : P (l.foldl f s) := by
  induction l generalizing s with
  | nil => exact h
  | cons a r ih => exact ih _ (hf s a h)

/-! ### Machine/Access -/

theorem State.setTeam_wf {s t} (h : Memory.wf s) : Memory.wf (s.setTeam t) := h

theorem State.putTeam_wf {s uid t} (h : Memory.wf s) : Memory.wf (s.putTeam uid t) := h

theorem State.modTeam_wf {s uid f} (h : Memory.wf s) : Memory.wf (s.modTeam uid f) := h

theorem State.modCore_wf {s k f} (h : Memory.wf s) : Memory.wf (s.modCore k f) := h

theorem State.modDie_wf {s k f} (h : Memory.wf s) : Memory.wf (s.modDie k f) := h

theorem State.putWg_wf {s k w} (h : Memory.wf s) : Memory.wf (s.putWg k w) := h

theorem State.modWg_wf {s k f} (h : Memory.wf s) : Memory.wf (s.modWg k f) := h

theorem State.putGrid_wf {s k g} (h : Memory.wf s) : Memory.wf (s.putGrid k g) := h

theorem State.modGrid_wf {s k f} (h : Memory.wf s) : Memory.wf (s.modGrid k f) := h

theorem State.putCtx_wf {s k c} (h : Memory.wf s) : Memory.wf (s.putCtx k c) := h

theorem State.modCtx_wf {s k f} (h : Memory.wf s) : Memory.wf (s.modCtx k f) := h

theorem State.putCopy_wf {s k c} (h : Memory.wf s) : Memory.wf (s.putCopy k c) := h

theorem State.putColl_wf {s k c} (h : Memory.wf s) : Memory.wf (s.putColl k c) := h

theorem State.tick_wf {s die} (h : Memory.wf s) : Memory.wf (s.tick die) := h

theorem State.portFree_wf {s uid} (h : Memory.wf s) : Memory.wf (s.portFree uid) := by
  unfold State.portFree
  dsimp only
  split <;> exact h

theorem State.issued_wf {s uid clocks} (h : Memory.wf s) : Memory.wf (s.issued uid clocks) := h

theorem State.leaveWaits_wf {s uid} (h : Memory.wf s) : Memory.wf (s.leaveWaits uid) := by
  unfold State.leaveWaits
  dsimp only
  split <;> exact h

theorem State.withRegs_wf {s f} (h : Memory.wf s) : Memory.wf (s.withRegs f) := h

/-! ### Machine/Memory -/

theorem State.fillTlb_wf {s core ctx l} (h : Memory.wf s) : Memory.wf (s.fillTlb core ctx l) := by
  induction l generalizing s with
  | nil => exact h
  | cons va rest ih =>
    unfold State.fillTlb
    dsimp only
    split
    · exact ih h
    · exact ih h

theorem State.fillKv_wf {s core ctx d l} (h : Memory.wf s) : Memory.wf (s.fillKv core ctx d l) := by
  induction l generalizing s with
  | nil => exact h
  | cons va rest ih =>
    unfold State.fillKv
    dsimp only
    split
    · exact ih h
    · exact ih h

/-! ### Machine/Home -/

theorem State.wake_wf {s core line} (h : Memory.wf s) : Memory.wf (s.wake core line) := by
  unfold State.wake
  refine foldl_wf (fun _ _ h1 => ?_) _ _ h
  exact h1

theorem State.giveBack_wf {s line} (h : Memory.wf s) : Memory.wf (s.giveBack line) := by
  unfold State.giveBack
  split
  · exact h
  · refine State.modWg_wf ?_
    refine foldl_wf (fun _ _ h1 => ?_) _ _ h
    split
    · exact State.setBytes_wf _ _ _ h1
    · exact h1

theorem State.dropCopies_wf {s line} (h : Memory.wf s) : Memory.wf (s.dropCopies line) := h

theorem State.claim_wf {s line} (h : Memory.wf s) : Memory.wf (s.claim line) :=
  State.dropCopies_wf (State.giveBack_wf h)

theorem State.homeNum_wf {s pa n x} (h : Memory.wf s) : Memory.wf (s.homeNum pa n x) :=
  State.setNum_wf _ _ _ _ (State.claim_wf h)

theorem State.homeBytes_wf {s pa l} (h : Memory.wf s) : Memory.wf (s.homeBytes pa l) := by
  unfold State.homeBytes
  refine State.setBytes_wf _ _ _ ?_
  refine foldl_wf (fun _ _ h1 => ?_) _ _ h
  exact State.claim_wf h1

theorem State.raise_wf {s v} (h : Memory.wf s) : Memory.wf (s.raise v) := h

theorem State.ringDrop_wf {s base} (h : Memory.wf s) : Memory.wf (s.ringDrop base) :=
  State.homeNum_wf h

theorem State.ringAdd_wf {s base rec vector} (h : Memory.wf s) : Memory.wf (s.ringAdd base rec vector) :=
  State.raise_wf (State.homeNum_wf (State.homeBytes_wf h))

theorem State.ringPut_wf {s base rec vector} (h : Memory.wf s) : wfFst (s.ringPut base rec vector) := by
  unfold State.ringPut
  split
  · exact h
  · split
    · exact State.ringDrop_wf h
    · exact State.ringAdd_wf h

theorem State.setSector_wf {s sec dirty} (h : Memory.wf s) : Memory.wf (s.setSector sec dirty) := h

theorem State.fillSectors_wf {s pa n} (h : Memory.wf s) : Memory.wf (s.fillSectors pa n) := by
  unfold State.fillSectors
  refine foldl_wf (fun _ _ h1 => ?_) _ _ h
  split <;> exact h1

theorem State.errRecord_wf {s pa unit die uid ctx} (h : Memory.wf s) : Memory.wf (s.errRecord pa unit die uid ctx) := by
  unfold State.errRecord
  dsimp only
  split
  · exact State.ringPut_wf (State.ringPut_wf h)
  · exact State.ringPut_wf h

theorem State.reportLost_wf {s line} (h : Memory.wf s) : Memory.wf (s.reportLost line) := by
  unfold State.reportLost
  split
  · exact h
  · split
    · exact h
    · refine foldl_wf (fun _ _ h1 => ?_) _ _ h
      dsimp only
      split
      · exact State.ringPut_wf h1
      · exact h1

theorem State.handBack_wf {s line} (h : Memory.wf s) : Memory.wf (s.handBack line) :=
  State.giveBack_wf (State.reportLost_wf h)

theorem State.mended_wf {s key} (h : Memory.wf s) : Memory.wf (s.mended key) := h

theorem State.dramError_wf {s pa uid ctx} (h : Memory.wf s) : Memory.wf (s.dramError pa uid ctx) :=
  State.errRecord_wf h

theorem State.mendTlb_wf {s core ctx uid l} (h : Memory.wf s) : Memory.wf (s.mendTlb core ctx uid l) := by
  induction l generalizing s with
  | nil => exact h
  | cons va rest ih =>
    refine ih ?_
    split
    · exact State.errRecord_wf h
    · exact h

theorem State.fillCaches_wf {s core ctx uid l} (h : Memory.wf s) : Memory.wf (s.fillCaches core ctx uid l) := by
  unfold State.fillCaches
  dsimp only
  split
  · exact State.fillTlb_wf (Memory.wf_ite h (State.mendTlb_wf h))
  · exact State.fillKv_wf (State.fillTlb_wf (Memory.wf_ite h (State.mendTlb_wf h)))

theorem State.storeSectors_wf {s pa n} (h : Memory.wf s) : Memory.wf (s.storeSectors pa n) := by
  unfold State.storeSectors
  refine foldl_wf (fun _ _ h1 => ?_) _ _ h
  split
  · exact h1
  · exact State.dramError_wf h1

theorem State.setCk_wf {s line c} (h : Memory.wf s) : Memory.wf (s.setCk line c) := h

theorem State.journalPut_wf {s w line store} (h : Memory.wf s) : Memory.wf (s.journalPut w line store) := h

theorem State.miss_wf {s w summarised unplaced} (h : Memory.wf s) : Memory.wf (s.miss w summarised unplaced) := by
  unfold State.miss
  dsimp only
  split <;> exact h

theorem RaceOut.entry_wf {o r e store summary} (h : RaceOut.wf o) : RaceOut.wf (RaceOut.entry o r e store summary) := by
  unfold RaceOut.entry
  dsimp only
  split
  · split
    · exact State.miss_wf h
    · exact h
  · split
    · split
      · exact State.miss_wf h
      · exact h
    · split
      · split
        · exact State.miss_wf h
        · exact h
      · split
        · exact State.miss_wf h
        · exact h
      · exact State.miss_wf (Memory.wf_ite (State.miss_wf h) h)
      · exact State.ringPut_wf (Memory.wf_ite (State.miss_wf h) h)

theorem State.mendCk_wf {s line} (h : Memory.wf s) : Memory.wf (s.mendCk line) := by
  unfold State.mendCk
  split
  · exact h
  · dsimp only
    split
    · exact h
    · exact State.setCk_wf (State.setSector_wf (State.dramError_wf h))

theorem State.raceCheck_wf {s0 r early} (h : Memory.wf s0) : RaceOut.wf (s0.raceCheck r early) := by
  unfold State.raceCheck
  refine foldl_keeps (P := RaceOut.wf) (fun _ _ h1 => ?_) _ _ (RaceOut.entry_wf (RaceOut.entry_wf (State.mendCk_wf h)))
  exact RaceOut.entry_wf h1

theorem State.raceUpdate_wf {s r es wrote} (h : Memory.wf s) : Memory.wf (s.raceUpdate r es wrote) :=
  State.setCk_wf (Memory.wf_ite (State.journalPut_wf (Memory.wf_ite h h)) (Memory.wf_ite h h))

theorem State.putRelease_wf {s line r} (h : Memory.wf s) : Memory.wf (s.putRelease line r) := by
  unfold State.putRelease
  split <;> exact h

theorem State.releaseUpdate_wf {s line w rel atomic} (h : Memory.wf s) : Memory.wf (s.releaseUpdate line w rel atomic) :=
  State.putRelease_wf h

theorem State.acquire1_wf {s uid a} (h : Memory.wf s) : Memory.wf (s.acquire1 uid a) := by
  unfold State.acquire1
  dsimp only
  refine Memory.wf_ite ?_ ?_
  · exact h
  · split <;> exact h

theorem State.acquire_wf {s uid r} (h : Memory.wf s) : Memory.wf (s.acquire uid r) := by
  unfold State.acquire
  dsimp only
  split
  · refine State.modTeam_wf ?_
    refine foldl_wf (fun _ _ h1 => ?_) _ _ h
    exact State.acquire1_wf h1
  · refine foldl_wf (fun _ _ h1 => ?_) _ _ h
    exact State.acquire1_wf h1

theorem State.fire_wf {s ctx k w new_ pa who} (h : Memory.wf s) : Memory.wf (s.fire ctx k w new_ pa who) := by
  unfold State.fire
  dsimp only
  split
  · split <;> exact h
  · exact State.ringPut_wf h

theorem State.watchTest_wf {before after pa size who} (hafter : Memory.wf after) :
    Memory.wf (State.watchTest before after pa size who) := by
  unfold State.watchTest
  refine foldl_wf (fun _ _ h1 => ?_) _ _ hafter
  refine foldl_wf (fun _ _ h2 => ?_) _ _ h1
  dsimp only
  split
  · exact h2
  · split
    · exact h2
    · split
      · exact h2
      · split
        · exact State.fire_wf h2
        · exact h2

theorem State.putHome_wf {s pa bytes} (h : Memory.wf s) : Memory.wf (s.putHome pa bytes) :=
  State.setBytes_wf _ _ _ (State.storeSectors_wf h)

theorem State.homeWrite_wf {s pa bytes who} (h : Memory.wf s) : Memory.wf (s.homeWrite pa bytes who) :=
  State.watchTest_wf (State.putHome_wf h)

theorem State.kvSetCount_wf {s d n x} (h : Memory.wf s) : Memory.wf (s.kvSetCount d n x) :=
  State.homeNum_wf h

theorem State.kvPush_wf {s d n} (h : Memory.wf s) : Memory.wf (s.kvPush d n) := by
  unfold State.kvPush
  refine Memory.wf_ite ?_ ?_
  · exact State.modDie_wf h
  · exact State.homeNum_wf (State.homeNum_wf h)

theorem State.kvDrop_wf {s d n} (h : Memory.wf s) : wfFst (s.kvDrop d n) := by
  unfold State.kvDrop
  dsimp only
  split
  · exact State.kvPush_wf (State.kvSetCount_wf h)
  · exact State.kvSetCount_wf h

theorem State.kvSetEntry_wf {s ctx d ea x} (h : Memory.wf s) : Memory.wf (s.kvSetEntry ctx d ea x) :=
  State.homeNum_wf h

theorem State.kvStep_wf {s d o who} (h : Memory.wf s) : Memory.wf (s.kvStep d o who) := by
  have hs (l : List Nat) : Memory.wf (l.foldl (fun s l => (s.reportLost l).claim l) s) := by
    refine foldl_wf (fun _ _ h1 => ?_) _ _ h
    exact State.claim_wf (State.reportLost_wf h1)
  have hd : Memory.wf (s.kvDrop d o.old).1 := State.kvDrop_wf h
  unfold State.kvStep
  refine Memory.wf_ite ?_ (Memory.wf_ite ?_ (Memory.wf_ite ?_ hd))
  · have hw {a : Nat} {b : List Byte} {l : List Nat} : Memory.wf ((l.foldl (fun s l => (s.reportLost l).claim l) s).homeWrite a b who) :=
      State.homeWrite_wf (hs l)
    exact hw
  · have h1 : Memory.wf (s.kvSetCount d o.new 1) := State.kvSetCount_wf h
    exact h1
  · have h2 : Memory.wf (s.kvSetEntry o.ctx d o.entry (2 ^ 63 + o.new)) := State.kvSetEntry_wf h
    exact h2

theorem State.kvForWrite_wf {s ctx va who} (h : Memory.wf s) : KvTarget.wf (s.kvForWrite ctx va who) := by
  unfold State.kvForWrite
  split
  · exact .fail
  · dsimp only
    split
    · exact .wait (State.kvStep_wf h)
    · split
      · exact .at_ h
      · split
        · exact .fail
        · exact .wait (State.homeNum_wf h)

theorem State.performAtomics_wf {s line op who l} (h : Memory.wf s) : wfFst (s.performAtomics line op who l) := by
  induction l generalizing s with
  | nil => exact h
  | cons e rest ih =>
    refine ih (s := Prod.fst _) ?_
    split
    · exact h
    · exact State.homeWrite_wf h

theorem State.coverSectors_wf {s line es} (h : Memory.wf s) : Memory.wf (s.coverSectors line es) := by
  unfold State.coverSectors
  refine foldl_wf (fun _ _ h1 => ?_) _ _ h
  split <;> exact h1

theorem State.performStores_wf {s line who l} (h : Memory.wf s) : Memory.wf (s.performStores line who l) := by
  induction l generalizing s with
  | nil => exact h
  | cons e rest ih => exact ih (State.homeWrite_wf h)

/-! ### Machine/Ops -/

theorem State.keepLine_wf {s uid va} (h : Memory.wf s) : Memory.wf (s.keepLine uid va) := by
  unfold State.keepLine
  split
  · exact h
  · refine State.putTeam_wf ?_
    split
    · exact h
    · split
      · exact h
      · exact State.modCore_wf (State.handBack_wf h)

theorem State.fetchFill_wf {s uid va} (h : Memory.wf s) : Memory.wf (s.fetchFill uid va) := by
  unfold State.fetchFill
  refine State.modTeam_wf ?_
  exact State.keepLine_wf (State.keepLine_wf (State.fillCaches_wf h))

theorem State.fetchFailed_wf {s uid va f} (h : Memory.wf s) : Memory.wf (s.fetchFailed uid va f) := by
  unfold State.fetchFailed
  dsimp only
  split
  · split
    · exact State.dramError_wf h
    · exact h
  · exact h

theorem State.dropRequests_wf {s uid} (h : Memory.wf s) : Memory.wf (s.dropRequests uid) :=
  State.modCore_wf (State.leaveWaits_wf h)

theorem State.rollback_wf {s uid save} (h : Memory.wf s) : wfSome (s.rollback uid save) := by
  unfold State.rollback
  dsimp only
  split
  · exact .none
  · exact .some (State.putTeam_wf (State.dropRequests_wf h))

theorem State.writeFault_wf {s ctx f} (h : Memory.wf s) : wfFst (s.writeFault ctx f) := by
  unfold State.writeFault
  dsimp only
  split
  · exact h
  · exact State.ringPut_wf h

theorem State.flushFaults_wf {s ctx} (h : Memory.wf s) : Memory.wf (s.flushFaults ctx) := by
  unfold State.flushFaults
  refine State.modCtx_wf ?_
  refine foldl_keeps (P := wfFst) (fun _ _ h1 => ?_) _ _ h
  split
  · exact h1
  · exact State.writeFault_wf h1

theorem State.reportFault_wf {s0 ctx va kind level loc die} (h : Memory.wf s0) :
    Memory.wf (s0.reportFault ctx va kind level loc die) := by
  unfold State.reportFault
  dsimp only
  split
  · refine foldl_wf (fun _ _ h1 => ?_) _ _ (State.putCtx_wf (State.flushFaults_wf h))
    split
    · split
      · exact State.homeNum_wf h1
      · exact h1
    · exact h1
  · exact State.modCtx_wf (State.writeFault_wf (State.flushFaults_wf h))

theorem State.holdFault_wf {s ctx f uid} (h : Memory.wf s) : Memory.wf (s.holdFault ctx f uid) := by
  unfold State.holdFault
  split
  · exact State.reportFault_wf h
  · exact h

theorem State.stopGrid_wf {s grid} (h : Memory.wf s) : Memory.wf (s.stopGrid grid) := h

theorem State.traceTrap_wf {s uid r} (h : Memory.wf s) : Memory.wf (s.traceTrap uid r) := by
  unfold State.traceTrap
  dsimp only
  split <;> exact h

theorem State.endGrid_wf {s uid r handler} (h : Memory.wf s) : Memory.wf (s.endGrid uid r handler) :=
  State.modGrid_wf (State.stopGrid_wf (State.traceTrap_wf (State.ringPut_wf h)))

theorem State.haltAtSeam_wf {s uid} (h : Memory.wf s) : Memory.wf (s.haltAtSeam uid) := by
  unfold State.haltAtSeam
  dsimp only
  split <;> exact h

theorem State.makeReplayable_wf {s uid kind level va} (h : Memory.wf s) : Memory.wf (s.makeReplayable uid kind level va) :=
  State.reportFault_wf h

theorem State.enterTrap_wf {s uid r} (h : Memory.wf s) : Memory.wf (s.enterTrap uid r) := by
  unfold State.enterTrap
  dsimp only
  split
  · split
    · exact State.haltAtSeam_wf (State.traceTrap_wf (State.putTeam_wf (State.reportFault_wf h)))
    · exact State.makeReplayable_wf h
  · split
    · exact State.endGrid_wf h
    · split
      · split
        · exact State.makeReplayable_wf (State.putTeam_wf (State.fetchFailed_wf h))
        · exact State.endGrid_wf (State.fetchFailed_wf h)
      · split
        · exact State.haltAtSeam_wf (State.traceTrap_wf h)
        · exact State.endGrid_wf h

theorem State.takeTrap_wf {s uid r} (h : Memory.wf s) : Memory.wf (s.takeTrap uid r) := by
  unfold State.takeTrap
  dsimp only
  split
  · split
    next s1 e =>
      have h1 : Memory.wf s1 := (State.rollback_wf h).of_some e
      exact State.enterTrap_wf h1
    · exact h
  · split
    · split
      · exact State.enterTrap_wf h
      · exact h
    · exact State.enterTrap_wf h

theorem State.afterSeam_wf {s uid} (h : Memory.wf s) : Memory.wf (s.afterSeam uid) := by
  unfold State.afterSeam
  dsimp only
  split
  · exact State.takeTrap_wf h
  · exact State.haltAtSeam_wf h

theorem State.stalled_wf {s reason} (h : Memory.wf s) : Memory.wf (s.stalled reason) := h

theorem State.finish_wf {s k} (h : Memory.wf s) : Memory.wf (s.finish k) := h

theorem State.transfer_wf {s target k} (h : Memory.wf s) : Memory.wf (s.transfer target k) := h

theorem State.seamHere_wf {s dests} (h : Memory.wf s) : Memory.wf (s.seamHere dests) :=
  State.afterSeam_wf h

theorem State.settle_wf {s0 w k a} (h : Memory.wf s0) (ha : Eff.wf a) : Memory.wf (s0.settle w k a) := by
  cases ha with
  | next ha => exact State.finish_wf ha
  | seam ha => exact State.seamHere_wf (State.finish_wf ha)
  | seamTrap ha => exact State.takeTrap_wf (State.setTeam_wf (State.finish_wf ha))
  | go hx =>
    cases hx with
    | error => exact State.takeTrap_wf h
    | ok ha => exact State.transfer_wf ha
  | hold ha => exact Memory.wf_ite (State.stalled_wf ha) (State.issued_wf (State.stalled_wf ha))
  | trap ha => exact Memory.wf_ite (State.takeTrap_wf (State.finish_wf ha)) (State.takeTrap_wf ha)
  | placed ha => exact ha
  | placedSeam ha => exact State.seamHere_wf ha

theorem State.runWord_wf {s0 i eff} (h : Memory.wf s0) (heff : ∀ y0 t1, Memory.wf t1 → Eff.wf (eff y0 t1)) :
    wfOut (s0.runWord i eff) := by
  unfold State.runWord
  dsimp only
  split
  · exact .next (State.tick_wf (State.takeTrap_wf h))
  · split
    · exact .next (State.tick_wf (State.takeTrap_wf (State.fetchFailed_wf h)))
    · split
      · exact .next (State.tick_wf (State.takeTrap_wf h))
      · split
        · exact .next (State.tick_wf (State.takeTrap_wf h))
        · split
          · exact .next (State.tick_wf (State.takeTrap_wf (State.mended_wf (State.errRecord_wf h))))
          · refine wfOut_ite ?_ ?_
            · exact .next h
            · exact .next (State.tick_wf (State.settle_wf h (heff _ _ h)))

theorem State.event_wf {s f} (h : Memory.wf s) (hf : ∀ t0, Memory.wf t0 → Memory.wf (f t0)) : wfOut (s.event f) :=
  .next (hf _ h)

/-! ### Machine/Operands -/

theorem Wd.scalar_wf {w s d a b k t op} (h : Memory.wf s) : Eff.wf (Wd.scalar w s d a b k t op) :=
  .next h

theorem Wd.intWord_wf {w s d a b k t op} (h : Memory.wf s) : Eff.wf (Wd.intWord w s d a b k t op) :=
  .next h

theorem Wd.intWord1_wf {w s d a t op} (h : Memory.wf s) : Eff.wf (Wd.intWord1 w s d a t op) :=
  .next h

theorem Wd.fltWord_wf {w s d a b k t op} (h : Memory.wf s) : Eff.wf (Wd.fltWord w s d a b k t op) :=
  .next h

theorem Wd.fltWord1_wf {w s d a t op} (h : Memory.wf s) : Eff.wf (Wd.fltWord1 w s d a t op) :=
  .next h

/-! ### Machine/Coherence -/

theorem State.writeSectors_wf {s line bytes dirty} (h : Memory.wf s) : Memory.wf (s.writeSectors line bytes dirty) := by
  unfold State.writeSectors
  refine foldl_wf (fun _ _ h1 => ?_) _ _ h
  split
  · exact State.putHome_wf h1
  · exact h1

theorem State.recallLine_wf {s0 wg range k} (h : Memory.wf s0) : Memory.wf (s0.recallLine wg range k) :=
  State.modWg_wf (State.writeSectors_wf (State.reportLost_wf h))

theorem State.observe_wf {s uid l} (h : Memory.wf s) : Memory.wf (s.observe uid l) := by
  unfold State.observe
  split <;> exact h

theorem State.observeAll_wf {s uid} (h : Memory.wf s) : Memory.wf (s.observeAll uid) := h

theorem State.noteRace_wf {s uid lineVa es o} (h : Memory.wf s) : Memory.wf (s.noteRace uid lineVa es o) := by
  unfold State.noteRace
  split
  · exact h
  · dsimp only
    split <;> exact h

theorem State.writeLine_wf {s line who es} (h : Memory.wf s) : Memory.wf (s.writeLine line who es) := by
  unfold State.writeLine
  split
  · refine foldl_wf (fun _ _ h1 => ?_) _ _ h
    exact State.watchTest_wf h1
  · exact State.performStores_wf (State.coverSectors_wf h)

theorem State.storeHome_wf {s line va es who rc done} (h : Memory.wf s) : Memory.wf (s.storeHome line va es who rc done) := by
  have ho {c : Bool} {r : RReq} : RaceOut.wf (if c then { st := s } else s.raceCheck r []) := RaceOut.wf_ite h (State.raceCheck_wf h)
  unfold State.storeHome
  refine Memory.wf_ite ?_ (State.releaseUpdate_wf (State.writeLine_wf h))
  refine Memory.wf_ite ?_ (State.releaseUpdate_wf ?_)
  all_goals exact Memory.wf_ite ho (State.raceUpdate_wf (State.writeLine_wf ho))

theorem State.atomicHome_wf {s line va es op who rel rc done} (h :
    Memory.wf s) :
    wfFst (s.atomicHome line va es op who rel rc done) := by
  have hp {c : Bool} {r : RReq} : wfFst ((if c then (s.raceCheck r []).st else s).performAtomics line op who es) :=
    State.performAtomics_wf (Memory.wf_ite (State.raceCheck_wf h) h)
  refine Memory.wf_ite (State.releaseUpdate_wf ?_) ?_
  all_goals exact Memory.wf_ite (State.raceUpdate_wf hp) hp

theorem State.writeTarget_wf {s kv ctx line va who} (h : Memory.wf s) : KvTarget.wf (s.writeTarget kv ctx line va who) := by
  have hk : KvTarget.wf (s.kvForWrite ctx va who) := State.kvForWrite_wf h
  unfold State.writeTarget
  split
  · split
    next e => exact .at_ (hk.of_at e)
    · exact hk
  · exact .at_ h

theorem State.pendRead_wf {s r rr} (h : Memory.wf s) : Memory.wf (s.pendRead r rr) := by
  unfold State.pendRead
  dsimp only
  refine Memory.wf_ite ?_ ?_ <;> exact h

theorem State.atomicError_wf {s r who e} (h : Memory.wf s) : Memory.wf (s.atomicError r who e) :=
  State.modTeam_wf (State.dramError_wf h)

theorem State.trackerHome_wf {s core id} (h : Memory.wf s) : Memory.wf (s.trackerHome core id) := by
  have hb {r : StoreReq} {who : Who} {x : Option Elem} : Memory.wf (match x with | some e => s.atomicError r who e | none => s) := by
    split
    · exact State.atomicError_wf h
    · exact h
  unfold State.trackerHome
  dsimp only
  split
  · exact h
  · split
    · exact h
    · split
      · split
        · exact h
        · exact State.modCore_wf (State.noteRace_wf (RaceOut.wf_ite (State.raceCheck_wf h) h))
      · refine Memory.wf_ite (State.modCore_wf hb) ?_
        split
        · exact State.modTeam_wf hb
        next e => exact (State.writeTarget_wf hb).of_wait e
        next s1 e =>
          have h1 : Memory.wf s1 := (State.writeTarget_wf hb).of_at e
          split
          · refine State.modCore_wf (State.storeHome_wf ?_)
            split <;> exact h1
          · exact State.modCore_wf (State.pendRead_wf (State.atomicHome_wf (State.fillSectors_wf (State.putRelease_wf h1))))

theorem State.mendL1_wf {s core line uid ctx} (h : Memory.wf s) : Memory.wf (s.mendL1 core line uid ctx) := by
  unfold State.mendL1
  split
  · exact State.modCore_wf (State.mended_wf (State.errRecord_wf h))
  · exact h

theorem State.mendStash_wf {s line uid ctx} (h : Memory.wf s) : Memory.wf (s.mendStash line uid ctx) := by
  unfold State.mendStash
  split
  · exact h
  · split
    · exact h
    · dsimp only
      split
      · exact h
      · refine State.modWg_wf ?_
        refine foldl_wf (fun _ _ h1 => ?_) _ _ h
        split
        · exact State.mended_wf (State.errRecord_wf h1)
        · exact h1

theorem State.loadHome_wf {s uid w k p q} (h : Memory.wf s) : Memory.wf (s.loadHome uid w k p q) := by
  have hr {r : RelRec} : Memory.wf (s.putRelease p.line r) := State.putRelease_wf h
  have hc {r : RelRec} {es : List CkEntry} :
      Memory.wf (if w.who.race = 1 then s.putRelease p.line r else ((s.putRelease p.line r).raceCheck q es).st) :=
    Memory.wf_ite hr (State.raceCheck_wf hr)
  unfold State.loadHome
  refine State.modTeam_wf (State.observe_wf (Memory.wf_ite (State.modCore_wf ?_) ?_))
  all_goals
    refine Memory.wf_ite ?_ (State.fillSectors_wf ?_)
    all_goals exact Memory.wf_ite (State.raceUpdate_wf hc) hr

theorem State.partHome_wf {s uid id k atomic} (h : Memory.wf s) : Memory.wf (s.partHome uid id k atomic) := by
  have hm {c core line ctx line' ctx'} : Memory.wf (if c = true then s else (s.mendL1 core line uid ctx).mendStash line' uid ctx') :=
    Memory.wf_ite h (State.mendStash_wf (State.mendL1_wf h))
  unfold State.partHome
  dsimp only
  split
  · exact h
  · split
    · exact h
    · split
      · exact h
      · split
        · exact State.modTeam_wf (State.noteRace_wf (State.raceCheck_wf h))
        · split
          · exact h
          · split
            · exact State.modTeam_wf (State.errRecord_wf hm)
            · split
              · exact State.loadHome_wf hm
              · split
                · exact State.modTeam_wf hm
                next e => exact (State.writeTarget_wf hm).of_wait e
                next s1 e =>
                  have h1 : Memory.wf s1 := (State.writeTarget_wf hm).of_at e
                  have ha {line rr line' va es op who rel rc done} :
                      wfFst (((s1.putRelease line rr).fillSectors line' 128).atomicHome line va es op who rel rc done) :=
                    State.atomicHome_wf (State.fillSectors_wf (State.putRelease_wf h1))
                  exact State.modTeam_wf (Memory.wf_ite (State.observeAll_wf ha) ha)

theorem State.addStores_wf {s w parts op rel who seq held fin pass} (h : Memory.wf s) :
    Memory.wf (s.addStores w parts op rel who seq held fin pass) := by
  unfold State.addStores
  refine foldl_wf (fun _ _ h1 => ?_) _ _ h
  dsimp only
  split
  · exact h1
  · exact State.wake_wf h1

theorem State.acceptPass_wf {s uid seq pass} (h : Memory.wf s) : Memory.wf (s.acceptPass uid seq pass) := by
  unfold State.acceptPass
  refine foldl_wf (fun _ _ h1 => ?_) _ _ h
  exact State.wake_wf h1

theorem State.outstanding_wf {s w lw seam} (h : Memory.wf s) : Eff.wf (s.outstanding w lw seam) := by
  unfold State.outstanding
  dsimp only
  split
  · split
    · exact .seam h
    · exact .next h
  · exact .next h

theorem State.issuePass_wf {s v pass lines} (h : Memory.wf s) : Memory.wf (s.issuePass v pass lines) := by
  unfold State.issuePass
  dsimp only
  split
  · split
    · refine foldl_wf (fun _ _ h1 => ?_) _ _ (State.issued_wf (State.modTeam_wf (State.leaveWaits_wf h)))
      exact State.wake_wf h1
    · exact State.issued_wf (State.modTeam_wf (State.leaveWaits_wf h))
  · exact State.issued_wf (State.modTeam_wf (State.leaveWaits_wf h))

theorem State.wordGoes_wf {s w v done} (h : Memory.wf s) (hdone : ∀ t0, Memory.wf t0 → Eff.wf (done t0)) :
    Eff.wf (s.wordGoes w v done) := by
  unfold State.wordGoes
  split
  · exact .hold h
  · split
    · exact .hold h
    · split
      · exact hdone _ h
      · exact .trap h

theorem State.issueNext_wf {s w v done} (h : Memory.wf s) (hdone : ∀ t0, Memory.wf t0 → Eff.wf (done t0)) :
    Eff.wf (s.issueNext w v done) := by
  unfold State.issueNext
  split
  · exact State.wordGoes_wf h hdone
  · dsimp only
    split
    · exact .hold h
    · exact State.wordGoes_wf (State.issuePass_wf h) hdone

theorem State.openPass_wf {s w lw pass lines} (h : Memory.wf s) : Memory.wf (s.openPass w lw pass lines) :=
  State.setTeam_wf (State.issuePass_wf h)

theorem State.issueWord_wf {s w parts lw done} (h : Memory.wf s) (hdone : ∀ t0, Memory.wf t0 → Eff.wf (done t0)) :
    Eff.wf (s.issueWord w parts lw done) := by
  unfold State.issueWord
  split
  · split
    · exact hdone _ h
    · exact State.issueNext_wf h hdone
  · split
    · exact State.outstanding_wf h
    · dsimp only
      split
      · exact .hold h
      · exact State.wordGoes_wf (State.openPass_wf h) hdone

theorem State.storesGo_wf {s w seq fin done} (h : Memory.wf s) (hdone : ∀ t0, Memory.wf t0 → Eff.wf (done t0)) :
    Eff.wf (s.storesGo w seq fin done) := by
  unfold State.storesGo
  dsimp only
  split
  · split
    · exact .hold h
    · exact .trap h
  · split
    · exact .hold h
    · split
      · exact .hold h
      · split
        · exact .hold h
        · split
          · exact .hold h
          · exact hdone _ h

theorem State.storesNext_wf {s w seq fin done} (h : Memory.wf s) (hdone : ∀ t0, Memory.wf t0 → Eff.wf (done t0)) :
    Eff.wf (s.storesNext w seq fin done) := by
  unfold State.storesNext
  split
  · exact State.storesGo_wf h hdone
  · dsimp only
    split
    · exact .hold h
    · exact State.storesGo_wf (State.acceptPass_wf (State.leaveWaits_wf h)) hdone

theorem State.openStorePass_wf {s w parts op rel who held fin pass} (h : Memory.wf s) :
    Memory.wf (s.openStorePass w parts op rel who held fin pass) :=
  State.setTeam_wf (State.addStores_wf (State.leaveWaits_wf h))

theorem State.issueStores_wf {s w parts op rel who fin done} (h : Memory.wf s) (hdone : ∀ t0, Memory.wf t0 → Eff.wf (done t0)) :
    Eff.wf (s.issueStores w parts op rel who fin done) := by
  unfold State.issueStores
  split
  · exact State.storesNext_wf h hdone
  · split
    · exact hdone _ h
    · dsimp only
      split
      · exact .hold h
      · split
        · exact .hold (State.setTeam_wf (State.openStorePass_wf h))
        · exact hdone _ (State.openStorePass_wf h)

theorem State.gatherWord_wf {s w parts lw done} (h : Memory.wf s) (hdone : ∀ t0 y1, Memory.wf t0 → Eff.wf (done t0 y1)) :
    Eff.wf (s.gatherWord w parts lw done) := by
  unfold State.gatherWord
  split
  · split
    · exact .hold h
    · split
      · exact State.issueNext_wf h (fun _ h1 => .hold h1)
      · split
        · split
          · exact .trap h
          · exact .hold h
        · split
          · exact .trap h
          · exact .hold h
        · split
          · exact hdone _ _ h
          · exact .hold h
  · split
    · exact .hold h
    · dsimp only
      split
      · exact .hold h
      · exact .hold (State.openPass_wf h)

theorem State.tokenAck_wf {s id path} (h : Memory.wf s) : Memory.wf (s.tokenAck id path) := by
  unfold State.tokenAck
  split
  · exact h
  · split <;> exact h

/-! ### Machine/Stash -/

theorem State.fillLine_wf {s0 wg r k line} (h : Memory.wf s0) : Memory.wf (s0.fillLine wg r k line) := by
  unfold State.fillLine
  refine State.modWg_wf ?_
  refine State.modCore_wf ?_
  refine State.fillSectors_wf ?_
  refine foldl_wf (fun _ _ h1 => ?_) _ _ h
  exact h1

theorem State.fillLines_wf {s wg l} (h : Memory.wf s) : Memory.wf (s.fillLines wg l) := by
  unfold State.fillLines
  refine foldl_wf (fun _ _ h1 => ?_) _ _ h
  split
  · exact State.fillLine_wf h1
  · exact h1

theorem State.stashTrap_wf {s w wg parts who store} (h : Memory.wf s) : wfFst (s.stashTrap w wg parts who store) := by
  unfold State.stashTrap
  split
  · exact h
  · dsimp only
    split
    · refine foldl_wf (fun _ _ h1 => ?_) _ _ h
      split
      · exact State.noteRace_wf (State.raceCheck_wf h1)
      · exact h1
    · refine State.setTeam_wf ?_
      refine foldl_wf (fun _ _ h1 => ?_) _ _ h
      split
      · exact State.noteRace_wf (State.raceCheck_wf h1)
      · exact h1

theorem State.stashWrite_wf {s wg line off l who} (h : Memory.wf s) : Memory.wf (s.stashWrite wg line off l who) := by
  unfold State.stashWrite
  dsimp only
  split
  · exact State.watchTest_wf h
  · exact h

theorem State.stashPerform_wf {s wg p who} (h : Memory.wf s) : Memory.wf (s.stashPerform wg p who) := by
  have ho {c : Bool} {r : RReq} : RaceOut.wf (if c then s.raceCheck r [] else { st := s }) := RaceOut.wf_ite (State.raceCheck_wf h) h
  unfold State.stashPerform
  refine Memory.wf_ite (State.wake_wf (State.releaseUpdate_wf ?_)) ?_
  all_goals
    refine Memory.wf_ite (State.raceUpdate_wf ?_) ?_
    all_goals
      refine foldl_wf (fun _ _ h1 => State.stashWrite_wf h1) _ _ (Memory.wf_ite ho ?_)
      exact foldl_wf (fun _ _ h1 => Memory.wf_ite (State.mended_wf h1) h1) _ _ ho

theorem State.stashLoad_wf {s w reqs lw} (h : Memory.wf s) : Eff.wf (s.stashLoad w reqs lw) := by
  unfold State.stashLoad
  dsimp only
  split
  · exact .trap h
  · split
    · exact .hold h
    · split
      next s1 _ e =>
        have h1 : Memory.wf s1 := (State.stashTrap_wf (State.fillLines_wf h)).of_mk e
        exact .trap h1
      next s1 e =>
        have h1 : Memory.wf s1 := (State.stashTrap_wf (State.fillLines_wf h)).of_mk e
        exact State.outstanding_wf h1

theorem State.ownBlocks_wf {s wg who l} (h : Memory.wf s) : wfExcept (s.ownBlocks wg who l) := by
  induction l generalizing s with
  | nil => exact .ok h
  | cons a rest ih =>
    unfold State.ownBlocks
    split
    · exact ih h
    · dsimp only
      split
      · exact ih h
      · split
        · exact .error h
        next s1 e =>
          have h1 : Memory.wf s1 := (State.writeTarget_wf h).of_wait e
          exact .error h1
        next s1 e =>
          have h1 : Memory.wf s1 := (State.writeTarget_wf h).of_at e
          split
          · exact ih h1
          · exact .error (State.handBack_wf h1)

theorem State.stashPass_wf {s w l who done} (h : Memory.wf s) (hdone : ∀ t, Memory.wf t → Eff.wf (done t)) :
    Eff.wf (s.stashPass w l who done) := by
  have ho : wfExcept (s.ownBlocks s.team.wgKey who l) := State.ownBlocks_wf h
  unfold State.stashPass
  dsimp only
  split
  · exact .hold h
  · split
    next e => exact .hold (ho.of_error e)
    next e => exact .trap (ho.of_error e)
    next e =>
      refine hdone _ ?_
      refine foldl_wf (fun _ _ h1 => ?_) _ _ (State.fillLines_wf (ho.of_ok e))
      exact State.stashPerform_wf h1

theorem State.stashStores_wf {s w reqs} (h : Memory.wf s) : Eff.wf (s.stashStores w reqs) := by
  unfold State.stashStores
  dsimp only
  split
  · split
    · exact .next h
    · split
      · exact .trap h
      · refine State.stashPass_wf h (fun _ h1 => ?_)
        split
        · exact .next h1
        · exact .hold h1
  · split
    · exact .trap h
    · split
      next s1 e =>
        have h1 : Memory.wf s1 := (State.stashPass_wf h (fun _ h1 => .next h1)).of_next e
        split
        next s2 _ e =>
          have h2 : Memory.wf s2 := (State.stashTrap_wf h).of_mk e
          exact .trap h2
        next s2 e =>
          have h2 : Memory.wf s2 := (State.stashTrap_wf h).of_mk e
          refine State.stashPass_wf h2 (fun _ h3 => ?_)
          split
          · exact .next h3
          · exact .hold h3
      · exact State.stashPass_wf h (fun _ h1 => .next h1)

theorem State.refill_wf {s uid p} (h : Memory.wf s) : wfSome (s.refill uid p) := by
  unfold State.refill
  dsimp only
  split
  · exact .some h
  · split
    · exact .some h
    · split
      · exact .none
      · split
        · exact .some (State.fillLine_wf h)
        · exact .none

theorem State.stashPart_wf {s uid id k} (h : Memory.wf s) : Memory.wf (s.stashPart uid id k) := by
  unfold State.stashPart
  dsimp only
  split
  · exact h
  · split
    · exact h
    · split
      · exact h
      · split
        · exact h
        next s1 e =>
          have h1 : Memory.wf s1 := (State.refill_wf (State.mendStash_wf h)).of_some e
          have hu {c c' : Prop} [Decidable c] [Decidable c'] {r r' : RReq} {l es b} :
              Memory.wf (if c then State.raceUpdate (if c' then s1 else (s1.raceCheck r l).st) r' es b else s1) :=
            Memory.wf_ite (State.raceUpdate_wf (Memory.wf_ite h1 (State.raceCheck_wf h1))) h1
          split
          · exact State.modTeam_wf (State.errRecord_wf h1)
          · exact State.modTeam_wf (Memory.wf_ite (State.observe_wf (State.putRelease_wf hu)) hu)

theorem State.recall_wf {s core line} (h : Memory.wf s) : Memory.wf (s.recall core line) := by
  unfold State.recall
  split
  · exact h
  · split
    · exact h
    · exact State.recallLine_wf h

theorem State.backRange_wf {s die ctx wg n fuel k} (h : Memory.wf s) : wfFst (s.backRange die ctx wg n fuel k) := by
  induction fuel generalizing s k with
  | zero => exact h
  | succ fuel ih =>
    unfold State.backRange
    dsimp only
    split
    · exact h
    · split
      · exact ih h
      · split
        · exact h
        · exact ih (State.writeSectors_wf (State.reportLost_wf h))

theorem execStmap_wf {a b n s} (h : Memory.wf s) : wfOut (execStmap a b n s) := by
  unfold execStmap
  refine State.runWord_wf h (fun _ _ h1 => ?_)
  dsimp only
  split
  · exact .hold h1
  · split
    · exact .trap h1
    · split
      · exact .trap h1
      · split
        · exact .trap h1
        · split <;> exact .next h1

theorem State.flushRanges_wf {s t l} (h : Memory.wf s) : wfFst (s.flushRanges t l) := by
  induction l generalizing s with
  | nil => exact h
  | cons n rest ih =>
    unfold State.flushRanges
    split
    next s1 e =>
      have h1 : Memory.wf s1 := (State.backRange_wf h).of_mk e
      exact ih h1
    next s1 _ e =>
      have h1 : Memory.wf s1 := (State.backRange_wf h).of_mk e
      exact h1

theorem State.holdFlush_wf {s w f} (h : Memory.wf s) : Eff.wf (s.holdFlush w f) := by
  unfold State.holdFlush
  split
  · exact .hold (State.setTeam_wf (State.holdFault_wf h))
  · exact .trap h

theorem execStflush_wf {n s} (h : Memory.wf s) : wfOut (execStflush n s) := by
  unfold execStflush
  refine State.runWord_wf h (fun _ _ h1 => ?_)
  split
  · exact .hold h1
  · split
    · exact .hold h1
    · split
      next s2 e =>
        have h2 : Memory.wf s2 := (State.flushRanges_wf h1).of_mk e
        exact .next h2
      next s2 _ e =>
        have h2 : Memory.wf s2 := (State.flushRanges_wf h1).of_mk e
        exact State.holdFlush_wf h2

theorem execStunmap_wf {n s} (h : Memory.wf s) : wfOut (execStunmap n s) := by
  unfold execStunmap
  refine State.runWord_wf h (fun _ _ h1 => ?_)
  dsimp only
  split
  · exact .hold h1
  · exact .next h1
  · split
    · exact .hold h1
    · split
      next s2 _ e =>
        have h2 : Memory.wf s2 := (State.flushRanges_wf h1).of_mk e
        exact State.holdFlush_wf h2
      next s2 e =>
        have h2 : Memory.wf s2 := (State.flushRanges_wf h1).of_mk e
        split
        · exact .next h2
        · exact .hold h2

theorem execStqry_wf {d n s} (h : Memory.wf s) : wfOut (execStqry d n s) := by
  unfold execStqry
  refine State.runWord_wf h (fun _ _ h1 => ?_)
  dsimp only
  split
  · exact .hold h1
  · exact .next h1

/-! ### Machine/Loads -/

theorem State.issueLoad_wf {s w acc plain reqs lw} (h : Memory.wf s) : Eff.wf (s.issueLoad w acc plain reqs lw) := by
  unfold State.issueLoad
  dsimp only
  split
  · exact State.issueWord_wf h (fun _ h1 => .next h1)
  · split
    · exact .trap h
    · exact State.issueWord_wf (State.fillCaches_wf h) (fun _ h1 => .next h1)

theorem State.issueStore_wf {s w reqs done} (h : Memory.wf s) (hdone : ∀ t0, Memory.wf t0 → Eff.wf (done t0)) :
    Eff.wf (s.issueStore w reqs done) := by
  unfold State.issueStore
  dsimp only
  split
  · exact State.issueStores_wf h hdone
  · split
    · exact .trap h
    · exact State.issueStores_wf (State.fillCaches_wf h) hdone

theorem State.samplerKeep_wf {s core line} (h : Memory.wf s) : Memory.wf (s.samplerKeep core line) := h

theorem execPref_wf {a t n s} (h : Memory.wf s) : wfOut (execPref a t n s) := by
  unfold execPref
  refine State.runWord_wf h (fun _ _ h1 => ?_)
  refine .next ?_
  dsimp only
  split
  · refine foldl_wf (fun _ _ h2 => ?_) _ _ h1
    exact h2
  · split <;> exact h1

/-! ### Machine/Atomics -/

theorem State.startRelease_wf {s scope} (h : Memory.wf s) : wfFst (s.startRelease scope) := by
  unfold State.startRelease
  split <;> exact h

theorem State.mergePending_wf {s uid} (h : Memory.wf s) : Memory.wf (s.mergePending uid) := by
  unfold State.mergePending
  refine foldl_wf (fun _ _ h1 => ?_) _ _ h
  exact State.acquire_wf h1

theorem State.fenceEnd_wf {s ord} (h : Memory.wf s) : Eff.wf (s.fenceEnd ord) := by
  unfold State.fenceEnd
  refine .next ?_
  split
  · exact State.observeAll_wf (State.mergePending_wf h)
  · exact h

theorem State.fenceSmp_wf {s p o} (h : Memory.wf s) : Eff.wf (s.fenceSmp p o) := by
  unfold State.fenceSmp
  split <;> exact .hold h

theorem State.untilClock_wf {s clk} (h : Memory.wf s) : Memory.wf (s.untilClock clk) := by
  unfold State.untilClock
  dsimp only
  split <;> exact h

theorem execFence_wf {m p o s} (h : Memory.wf s) : wfOut (execFence m p o s) := by
  unfold execFence
  refine State.runWord_wf h (fun _ _ h1 => ?_)
  dsimp only
  split
  · split
    · exact .hold h1
    · split
      · exact State.fenceSmp_wf h1
      · exact State.fenceEnd_wf h1
  · split
    · exact .hold h1
    · exact State.fenceEnd_wf (State.untilClock_wf h1)
  · split
    · exact .hold h1
    · split
      · exact .hold (State.setTeam_wf (State.startRelease_wf h1))
      · split
        · exact State.fenceSmp_wf h1
        · exact State.fenceEnd_wf h1

theorem State.issueAtomic_wf {s w reqs op r p} (h : Memory.wf s) : Eff.wf (s.issueAtomic w reqs op r p) := by
  unfold State.issueAtomic
  dsimp only
  split
  · exact State.issueWord_wf h (fun _ h1 => .next h1)
  · split
    · exact .trap h
    · split
      · exact .hold h
      · refine State.issueWord_wf (wfFst_ite (State.startRelease_wf ?_) (State.fillCaches_wf h)) (fun _ h1 => .next h1)
        exact State.setTeam_wf (State.fillCaches_wf h)

theorem State.issueRed_wf {s w reqs op r p} (h : Memory.wf s) : Eff.wf (s.issueRed w reqs op r p) := by
  unfold State.issueRed
  dsimp only
  split
  · exact State.issueStores_wf h (fun _ h1 => .seam h1)
  · split
    · exact .hold h
    · split
      next s1 _ e =>
        have h1 : Memory.wf s1 := by
          refine Eff.wf.of_hold ?_ e
          split
          · exact .trap h
          · exact State.issueStores_wf (State.fillCaches_wf h) (fun _ h1 => .seam h1)
        split <;> exact .hold h1
      next s1 _ e =>
        have h1 : Memory.wf s1 := by
          refine Eff.wf.of_seam ?_ e
          split
          · exact .trap h
          · exact State.issueStores_wf (State.fillCaches_wf h) (fun _ h1 => .seam h1)
        exact .seam h1
      · split
        · exact .trap h
        · exact State.issueStores_wf (State.fillCaches_wf h) (fun _ h1 => .seam h1)
  · split
    · exact .trap h
    · split
      · split
        · exact .hold h
        · exact .hold (State.setTeam_wf (State.startRelease_wf h))
      · split
        · exact .trap h
        · exact State.issueStores_wf (State.fillCaches_wf h) (fun _ h1 => .seam h1)

/-! ### Machine/Engine -/

theorem Eng.bind_wf {α β : Type} {e : Eng α} {f : α → State → Eng β} (h : e.wf) (hf : ∀ x s, Memory.wf s → (f x s).wf) :
    (e.bind f).wf := by
  cases h with
  | ok h => exact hf _ _ h
  | wait h => exact .wait h
  | fault h => exact .fault h

theorem State.engReadLine_wf {s who die core va n} (h : Memory.wf s) : Eng.wf (s.engReadLine who die core va n) := by
  unfold State.engReadLine
  split
  · exact .fault h
  · split
    · exact .fault h
    · dsimp only
      refine Eng.wf_ite ?_ ?_
      · exact .wait h
      · refine Eng.wf_ite ?_ ?_
        · refine .fault ?_
          split
          · exact State.dramError_wf h
          · exact State.errRecord_wf h
        · split
          · exact .ok (State.raceUpdate_wf (State.raceCheck_wf (Memory.wf_ite h (State.fillSectors_wf h))))
          · refine .ok ?_
            split
            · exact h
            · exact State.fillSectors_wf h

theorem State.engReadAux_wf {s who die core fuel va n} (h : Memory.wf s) : Eng.wf (s.engReadAux who die core fuel va n) := by
  induction fuel generalizing s va n with
  | zero => exact .ok h
  | succ fuel ih =>
    unfold State.engReadAux
    split
    · exact .ok h
    · exact Eng.bind_wf (State.engReadLine_wf h) (fun _ _ h1 => Eng.bind_wf (ih h1) (fun _ _ h2 => .ok h2))

theorem State.engRead_wf {s who die core va n} (h : Memory.wf s) : Eng.wf (s.engRead who die core va n) :=
  State.engReadAux_wf h

theorem State.engWriteLine_wf {s who die va ps} (h : Memory.wf s) : Eng.wf (s.engWriteLine who die va ps) := by
  unfold State.engWriteLine
  dsimp only
  split
  · exact .fault h
  · split
    · exact .fault h
    · split
      · exact .wait h
      · split
        · exact .fault h
        next e => exact .wait ((State.writeTarget_wf h).of_wait e)
        next s1 e =>
          have h1 : Memory.wf s1 := (State.writeTarget_wf h).of_at e
          have hc {r : RReq} {c : Bool} : RaceOut.wf (if c then s1.raceCheck r [] else { st := s1 }) :=
            RaceOut.wf_ite (State.raceCheck_wf h1) h1
          refine Eng.wf_ite (.ok hc) (.ok ?_)
          refine State.releaseUpdate_wf (Memory.wf_ite (State.raceUpdate_wf ?_) ?_)
          all_goals
            refine foldl_wf (fun _ _ h2 => ?_) _ _ (State.coverSectors_wf hc)
            exact State.homeWrite_wf h2

theorem State.stashFill_wf {s uid ctx wg acc l} (h : Memory.wf s) : Eng.wf (s.stashFill uid ctx wg acc l) := by
  induction l generalizing s with
  | nil => exact .ok h
  | cons off rest ih =>
    unfold State.stashFill
    split
    · exact ih h
    · dsimp only
      split
      · exact ih h
      · split
        · exact .fault h
        · split
          · exact ih (State.fillLine_wf h)
          · exact .wait h

theorem State.engStashRead_wf {s who uid wg off n} (h : Memory.wf s) : Eng.wf (s.engStashRead who uid wg off n) := by
  unfold State.engStashRead
  refine Eng.bind_wf (State.stashFill_wf h) (fun _ _ h1 => ?_)
  split
  · exact .fault (State.errRecord_wf h1)
  · exact .ok h1

theorem State.stashTake_wf {s who uid wg off} (h : Memory.wf s) : Eng.wf (s.stashTake who uid wg off) := by
  unfold State.stashTake
  refine Eng.bind_wf (State.stashFill_wf h) (fun _ _ h1 => ?_)
  split
  · exact .ok h1
  · dsimp only
    split
    · exact .ok h1
    · split
      · exact .fault h1
      next s2 e =>
        have h2 : Memory.wf s2 := (State.writeTarget_wf h1).of_wait e
        exact .wait h2
      next _ s2 e =>
        have h2 : Memory.wf s2 := (State.writeTarget_wf h1).of_at e
        split
        · exact .ok h2
        · exact .wait (State.handBack_wf h2)

theorem State.engStashLine_wf {s who uid wg off l} (h : Memory.wf s) : Eng.wf (s.engStashLine who uid wg off l) :=
  Eng.bind_wf (State.stashTake_wf h) (fun _ _ h1 => .ok (State.stashPerform_wf h1))

theorem State.stashTakeAll_wf {s who uid wg l} (h : Memory.wf s) : Eng.wf (s.stashTakeAll who uid wg l) := by
  induction l generalizing s with
  | nil => exact .ok h
  | cons x rest ih =>
    exact Eng.bind_wf (State.stashTake_wf h) (fun _ _ h1 => Eng.bind_wf (ih h1) (fun _ _ h2 => .ok h2))

/-! ### Machine/Formats -/

theorem State.engScales_wf {s who die core f l} (h : Memory.wf s) : Eng.wf (s.engScales who die core f l) := by
  induction l generalizing s with
  | nil => exact .ok h
  | cons a rest ih => exact Eng.bind_wf (State.engRead_wf h) (fun _ _ h1 => Eng.bind_wf (ih h1) (fun _ _ h2 => .ok h2))

theorem State.engElems_wf {s who die core table idx f a first n} (h : Memory.wf s) :
    Eng.wf (s.engElems who die core table idx f a first n) := by
  unfold State.engElems
  dsimp only
  split
  · exact .fault h
  · refine Eng.bind_wf (State.engRead_wf h) (fun _ _ h1 => ?_)
    split
    · exact .ok h1
    · exact Eng.bind_wf (State.engScales_wf h1) (fun _ _ h2 => .ok h2)

/-! ### Machine/Sync -/

theorem State.modBar_wf {s t level num f} (h : Memory.wf s) : Memory.wf (s.modBar t level num f) := by
  unfold State.modBar
  split
  · exact h
  · split <;> exact h

theorem State.barDone_wf {s level num} (h : Memory.wf s) : Eff.wf (s.barDone level num) :=
  .seam h

theorem State.barWait_wf {s level num phase} (h : Memory.wf s) : Eff.wf (s.barWait level num phase) := by
  unfold State.barWait
  split
  · exact State.barDone_wf h
  · exact .hold h

theorem State.arrive_wf {s level num} (h : Memory.wf s) : wfFst (s.arrive level num) :=
  State.setTeam_wf (State.modBar_wf h)

theorem State.barArrive_wf {s w level num waits} (h : Memory.wf s) : Eff.wf (s.barArrive w level num waits) := by
  unfold State.barArrive
  dsimp only
  split
  · exact .trap h
  · split
    · exact State.barWait_wf h
    · split
      · exact .hold h
      · split
        · exact .hold h
        · split
          · exact State.barWait_wf (State.arrive_wf h)
          · exact .seam (State.arrive_wf h)
    · split
      · split
        · exact State.barWait_wf h
        · exact .seam h
      · split
        · exact .hold h
        · exact .hold (State.setTeam_wf (State.startRelease_wf h))

theorem execBarw_wf {l n s} (h : Memory.wf s) : wfOut (execBarw l n s) := by
  unfold execBarw
  refine State.runWord_wf h (fun _ _ h1 => ?_)
  split
  · exact .trap h1
  · dsimp only
    split
    · exact .seam h1
    · exact State.barWait_wf h1

theorem State.setBar_wf {s b a} (h : Memory.wf s) : Memory.wf (s.setBar b a) := by
  unfold State.setBar
  split <;> exact h

theorem execBarq_wf {d l n s} (h : Memory.wf s) : wfOut (execBarq d l n s) := by
  unfold execBarq
  refine State.runWord_wf h (fun _ _ h1 => ?_)
  dsimp only
  split
  · exact .trap h1
  · exact .next h1

theorem execBarrierPhaseCompletion_wf {r s} (h : Memory.wf s) : wfOut (execBarrierPhaseCompletion r s) := by
  unfold execBarrierPhaseCompletion
  refine State.event_wf h (fun _ h1 => ?_)
  dsimp only
  split
  · exact State.setBar_wf h1
  · exact h1

theorem execBarrierToken_wf {r u s} (h : Memory.wf s) : wfOut (execBarrierToken r u s) := by
  unfold execBarrierToken
  refine State.event_wf h (fun _ h1 => ?_)
  dsimp only
  split
  · exact h1
  · exact State.setBar_wf h1

theorem execWaitl_wf {a b wd s} (h : Memory.wf s) : wfOut (execWaitl a b wd s) := by
  unfold execWaitl
  refine State.runWord_wf h (fun _ _ h1 => ?_)
  dsimp only
  split
  · split
    · exact .hold h1
    · exact .next h1
  · refine State.gatherWord_wf h1 (fun _ _ h2 => ?_)
    refine Eff.wf_ite ?_ ?_
    · exact .next h2
    · split
      · exact .hold h2
      · exact .next h2
  · split
    · exact .trap h1
    · refine State.gatherWord_wf (Memory.wf_ite (State.fillCaches_wf h1) (State.setTeam_wf (State.fillCaches_wf h1))) (fun _ _ h2 => ?_)
      refine Eff.wf_ite ?_ ?_
      · exact .next h2
      · split
        · exact .hold h2
        · exact .next h2

theorem execWaitlTimeout_wf {u s} (h : Memory.wf s) : wfOut (execWaitlTimeout u s) := by
  unfold execWaitlTimeout
  refine State.event_wf h (fun _ h1 => ?_)
  split
  · split <;> exact h1
  · exact h1

/-! ### Machine/Matrix -/

theorem State.putSlice_wf {s core k x} (h : Memory.wf s) : Memory.wf (s.putSlice core k x) := h

theorem execMgang_wf {a s} (h : Memory.wf s) : wfOut (execMgang a s) := by
  unfold execMgang
  refine State.runWord_wf h (fun _ _ h1 => ?_)
  dsimp only
  split
  · split
    · exact .hold h1
    · split <;> exact .next h1
  · split
    · exact .trap h1
    · split
      · exact .next h1
      · split
        · exact .hold h1
        · exact .next h1

theorem State.clearStop_wf {s uid} (h : Memory.wf s) : Memory.wf (s.clearStop uid) := by
  unfold State.clearStop
  dsimp only
  split
  · exact h
  · split
    · exact h
    · split <;> exact h

theorem State.withSlice_wf {s w go} (h : Memory.wf s) (hgo : ∀ y0 y1, Eff.wf (go y0 y1)) : Eff.wf (s.withSlice w go) := by
  unfold State.withSlice
  split
  · exact .trap (State.clearStop_wf h)
  · split
    · exact .trap h
    · exact hgo _ _

theorem execMzero_wf {n s} (h : Memory.wf s) : wfOut (execMzero n s) := by
  unfold execMzero
  refine State.runWord_wf h (fun _ _ h1 => ?_)
  refine State.withSlice_wf h1 (fun _ _ => ?_)
  split
  · exact .hold h1
  · exact .next h1

theorem execMaccwr_wf {d a n s} (h : Memory.wf s) : wfOut (execMaccwr d a n s) := by
  unfold execMaccwr
  refine State.runWord_wf h (fun _ _ h1 => ?_)
  refine State.withSlice_wf h1 (fun _ _ => ?_)
  split
  · exact .hold h1
  · exact .next h1

theorem State.latchTrap_wf {s cause addr x} (h : Memory.wf s) : Memory.wf (s.latchTrap cause addr x) :=
  State.takeTrap_wf h

theorem State.latchGo_wf {s gang upto seqs x} (h : Memory.wf s) : Memory.wf (s.latchGo gang upto seqs x) := by
  unfold State.latchGo
  refine State.afterSeam_wf ?_
  refine State.putTeam_wf ?_
  split <;> exact h

theorem State.latchMeet_wf {s wg uid} (h : Memory.wf s) : Memory.wf (s.latchMeet wg uid) := by
  unfold State.latchMeet
  dsimp only
  split
  · exact h
  · split
    · refine foldl_wf (fun _ _ h1 => ?_) _ _ h
      exact State.latchTrap_wf h1
    · split
      · refine foldl_wf (fun _ _ h1 => ?_) _ _ h
        exact State.latchTrap_wf h1
      · split
        · exact h
        · split
          · refine foldl_wf (fun _ _ h1 => ?_) _ _ h
            exact State.latchTrap_wf h1
          · split
            · refine foldl_wf (fun _ _ h1 => ?_) _ _ h
              exact State.latchTrap_wf h1
            · refine foldl_wf (fun _ _ h1 => ?_) _ _ h
              exact State.latchGo_wf h1

theorem execMma_wf {a b n s} (h : Memory.wf s) : wfOut (execMma a b n s) := by
  unfold execMma
  refine State.runWord_wf h (fun _ _ h1 => ?_)
  split
  · exact .hold h1
  · refine State.withSlice_wf h1 (fun _ _ => ?_)
    dsimp only
    split
    · exact .hold h1
    · exact .placed (State.latchMeet_wf (State.afterSeam_wf h1))

theorem State.matB_wf {s o die core idx f n} (h : Memory.wf s) : Eng.wf (s.matB o die core idx f n) := by
  induction n with
  | zero => exact .ok h
  | succ k ih => exact Eng.bind_wf ih (fun _ _ h1 => Eng.bind_wf (State.engElems_wf h1) (fun _ _ h2 => .ok h2))

theorem State.gangOps_wf {s core gang n f} (h : Memory.wf s) : Memory.wf (s.gangOps core gang n f) := h

theorem State.matRowA_wf {s o x die core fa} (h : Memory.wf s) : Eng.wf (s.matRowA o x die core fa) := by
  unfold State.matRowA
  dsimp only
  split
  · exact State.engElems_wf h
  · split <;> exact .ok h

theorem State.accError_wf {s core k n row who} (h : Memory.wf s) : Memory.wf (s.accError core k n row who) :=
  State.mended_wf (State.errRecord_wf h)

theorem execMmaCompletion_wf {uid n s} (h : Memory.wf s) : wfOut (execMmaCompletion uid n s) := by
  unfold execMmaCompletion
  refine State.event_wf h (fun _ h1 => ?_)
  dsimp only
  split
  · exact h1
  · split
    · exact h1
    · split
      · split
        · exact State.gangOps_wf (State.holdFault_wf h1)
        · exact h1
        · split
          next _ s2 e =>
            have h2 : Memory.wf s2 := (State.matB_wf h1).of_ok e
            exact h2
          next s2 e =>
            have h2 : Memory.wf s2 := (State.matB_wf h1).of_wait e
            exact h2
          next _ s2 e =>
            have h2 : Memory.wf s2 := (State.matB_wf h1).of_fault e
            exact State.gangOps_wf (State.holdFault_wf h2)
      · split
        · exact State.putSlice_wf (State.holdFault_wf (State.accError_wf h1))
        · split
          · exact State.putSlice_wf (State.holdFault_wf h1)
          · split
            next _ s2 e =>
              have h2 : Memory.wf s2 := (State.matRowA_wf h1).of_ok e
              exact h2
            next s2 e =>
              have h2 : Memory.wf s2 := (State.matRowA_wf h1).of_wait e
              exact h2
            next _ s2 e =>
              have h2 : Memory.wf s2 := (State.matRowA_wf h1).of_fault e
              exact State.putSlice_wf (State.holdFault_wf h2)

theorem execMdrain_wf {a b f n k z r s} (h : Memory.wf s) : wfOut (execMdrain a b f n k z r s) := by
  unfold execMdrain
  refine State.runWord_wf h (fun _ _ h1 => ?_)
  refine State.withSlice_wf h1 (fun _ _ => ?_)
  dsimp only
  split
  · exact .trap h1
  · exact .next h1

theorem State.stashPiecesOf_wf {s who uid wg line ps} (h : Memory.wf s) : Eng.wf (s.stashPiecesOf who uid wg line ps) := by
  unfold State.stashPiecesOf
  refine foldl_keeps (P := Eng.wf) (fun _ _ h1 => ?_) _ _ (.ok h)
  exact Eng.bind_wf h1 (fun _ _ h2 => State.engStashLine_wf h2)

theorem State.drainStep_wf {s uid k w d} (h : Memory.wf s) : Eng.wf (s.drainStep uid k w d) := by
  unfold State.drainStep
  dsimp only
  split
  · exact .ok h
  · split
    · exact .ok h
    · refine Eng.bind_wf (Eng.wf_ite (State.stashPiecesOf_wf h) (State.engWriteLine_wf h)) (fun _ _ h1 => ?_)
      split <;> exact .ok h1

theorem State.drainScramble_wf {s uid w} (h : Memory.wf s) : Memory.wf (s.drainScramble uid w) := by
  unfold State.drainScramble
  refine foldl_wf (fun _ _ h1 => ?_) _ _ h
  split
  · exact h1
  · exact State.scramble_wf _ _ _ _ _ h1

theorem execMfmt_wf {a b s} (h : Memory.wf s) : wfOut (execMfmt a b s) := by
  unfold execMfmt
  refine State.runWord_wf h (fun _ _ h1 => ?_)
  dsimp only
  split
  · exact .trap h1
  · split
    · exact .hold h1
    · exact .next h1

/-! ### Machine/Copies -/

theorem State.startCopy_wf {s w c len} (h : Memory.wf s) : Eff.wf (s.startCopy w c len) := by
  unfold State.startCopy
  split
  · exact .trap h
  · split
    · exact .hold h
    · exact .next h

theorem execCpyb_wf {d s} (h : Memory.wf s) : wfOut (execCpyb d s) := by
  unfold execCpyb
  refine State.runWord_wf h (fun _ _ h1 => ?_)
  dsimp only
  split
  · exact .hold h1
  · exact .seam h1

theorem execCpyw_wf {a s} (h : Memory.wf s) : wfOut (execCpyw a s) := by
  unfold execCpyw
  refine State.runWord_wf h (fun _ _ h1 => ?_)
  dsimp only
  split
  · exact .hold h1
  · split
    · exact .trap h1
    · exact .next h1

theorem State.copySource_wf {s c l} (h : Memory.wf s) : Eng.wf (s.copySource c l) := by
  induction l generalizing s with
  | nil => exact .ok h
  | cons x rest ih =>
    refine Eng.bind_wf ?_ (fun _ _ h1 => Eng.bind_wf (ih h1) (fun _ _ h2 => .ok h2))
    split
    · exact State.engStashRead_wf h
    · exact State.engRead_wf h

theorem State.stopCopy_wf {s id c f} (h : Memory.wf s) : Memory.wf (s.stopCopy id c f) := by
  unfold State.stopCopy
  refine State.putCopy_wf ?_
  refine foldl_wf (fun _ _ h1 => ?_) _ _ h
  dsimp only
  split
  · exact h1
  · exact State.scramble_wf _ _ _ _ _ h1

theorem State.copyToStash_wf {s c line ps} (h : Memory.wf s) : Eng.wf (s.copyToStash c line ps) := by
  unfold State.copyToStash
  refine foldl_keeps (P := Eng.wf) (fun _ _ h1 => ?_) _ _ (.ok h)
  exact Eng.bind_wf h1 (fun _ _ h2 => State.engStashLine_wf h2)

theorem State.copyLine_wf {s id line} (h : Memory.wf s) : Memory.wf (s.copyLine id line) := by
  unfold State.copyLine
  dsimp only
  split
  · exact h
  · split
    next _ s1 e =>
      have h1 : Memory.wf s1 := by
        refine Eng.wf.of_ok ?_ e
        refine Eng.bind_wf (State.copySource_wf h) (fun _ _ h1 => ?_)
        split
        · exact State.copyToStash_wf h1
        · exact State.engWriteLine_wf h1
      exact h1
    next s1 e =>
      have h1 : Memory.wf s1 := by
        refine Eng.wf.of_wait ?_ e
        refine Eng.bind_wf (State.copySource_wf h) (fun _ _ h1 => ?_)
        split
        · exact State.copyToStash_wf h1
        · exact State.engWriteLine_wf h1
      exact h1
    next _ s1 e =>
      have h1 : Memory.wf s1 := by
        refine Eng.wf.of_fault ?_ e
        refine Eng.bind_wf (State.copySource_wf h) (fun _ _ h1 => ?_)
        split
        · exact State.copyToStash_wf h1
        · exact State.engWriteLine_wf h1
      split
      · exact State.putCopy_wf (State.holdFault_wf h1)
      · exact State.stopCopy_wf h1

theorem execCopyCompletion_wf {id s} (h : Memory.wf s) : wfOut (execCopyCompletion id s) := by
  unfold execCopyCompletion
  refine State.event_wf h (fun _ h1 => ?_)
  dsimp only
  split
  · exact h1
  · split
    · refine foldl_wf (fun _ _ h2 => ?_) _ _ h1
      split
      · exact h2
      · exact State.scramble_wf _ _ _ _ _ h2
    · split <;> exact h1

/-! ### Machine/Streams -/

theorem State.putQueue_wf {s core k q} (h : Memory.wf s) : Memory.wf (s.putQueue core k q) := h

theorem State.unbindQueue_wf {s core k} (h : Memory.wf s) : Memory.wf (s.unbindQueue core k) := h

theorem State.streamExtras_wf {s w p table who va go} (h : Memory.wf s) (hgo : ∀ t0 y1 y2, Memory.wf t0 → Eff.wf (go t0 y1 y2)) :
    Eff.wf (s.streamExtras w p table who va go) := by
  unfold State.streamExtras
  dsimp only
  split
  next s1 e =>
    have h1 : Memory.wf s1 := Eng.wf.of_wait (Eng.wf_ite (State.engRead_wf h) (.ok h)) e
    exact .hold h1
  next _ s1 e =>
    have h1 : Memory.wf s1 := Eng.wf.of_fault (Eng.wf_ite (State.engRead_wf h) (.ok h)) e
    exact .trap h1
  next _ s1 e =>
    have h1 : Memory.wf s1 := Eng.wf.of_ok (Eng.wf_ite (State.engRead_wf h) (.ok h)) e
    split
    · exact .trap h1
    · exact hgo _ _ _ h1

theorem execStream_wf {d a s} (h : Memory.wf s) : wfOut (execStream d a s) := by
  unfold execStream
  refine State.runWord_wf h (fun _ _ h1 => ?_)
  dsimp only
  split
  · exact .trap h1
  · split
    · exact .trap h1
    · split
      · exact .trap h1
      · split
        · exact .hold h1
        · split
          next s2 e =>
            have h2 : Memory.wf s2 := (State.engRead_wf h1).of_wait e
            exact .hold h2
          next _ s2 e =>
            have h2 : Memory.wf s2 := (State.engRead_wf h1).of_fault e
            exact .trap h2
          next _ s2 e =>
            have h2 : Memory.wf s2 := (State.engRead_wf h1).of_ok e
            split
            · exact .trap h2
            · refine State.streamExtras_wf h2 (fun _ _ _ h3 => ?_)
              split
              · exact .hold h3
              · exact .seam h3

theorem State.streamBytes_wf {s core q p va n} (h : Memory.wf s) : Eng.wf (s.streamBytes core q p va n) := by
  unfold State.streamBytes
  refine Eng.bind_wf (State.engRead_wf h) (fun _ _ h1 => ?_)
  split <;> exact .ok h1

theorem State.streamInput_wf {s core q p j} (h : Memory.wf s) : Eng.wf (s.streamInput core q p j) := by
  unfold State.streamInput
  dsimp only
  split
  · exact Eng.bind_wf (State.streamBytes_wf h) (fun _ _ h1 => Eng.bind_wf (State.streamBytes_wf h1) (fun _ _ h2 => .ok h2))
  · split
    · exact Eng.bind_wf (State.streamBytes_wf h) (fun _ _ h1 => .ok h1)
    · split
      · exact .fault h
      · split
        · exact .fault h
        · split
          · exact .fault h
          · refine Eng.wf_ite ?_ ?_
            · exact .fault h
            · refine Eng.bind_wf (State.streamBytes_wf h) (fun _ _ h1 => ?_)
              split
              · exact .ok h1
              · split
                · exact .ok h1
                · exact Eng.bind_wf (State.engRead_wf h1) (fun _ _ h2 => .ok h2)

theorem State.streamOutput_wf {s core q p e} (h : Memory.wf s) : Eng.wf (s.streamOutput core q p e) :=
  Eng.bind_wf (State.streamInput_wf h) (fun _ _ h1 => .ok h1)

theorem State.streamFault_wf {s core k q e f} (h : Memory.wf s) : Memory.wf (s.streamFault core k q e f) := by
  unfold State.streamFault
  split
  · exact State.putQueue_wf (State.holdFault_wf h)
  · exact h

theorem State.streamEmit_wf {s core k p n} (h : Memory.wf s) : Memory.wf (s.streamEmit core k p n) := by
  induction n generalizing s with
  | zero => exact h
  | succ n ih =>
    have ho : Eng.wf (s.streamOutput core (s.queue core k) p (s.queue core k).next) := State.streamOutput_wf h
    unfold State.streamEmit
    dsimp only
    split
    · exact h
    · split
      · exact State.streamFault_wf h
      · split
        next e => exact ho.of_wait e
        next e => exact State.streamFault_wf (ho.of_fault e)
        next s1 e =>
          have h1 : Memory.wf s1 := ho.of_ok e
          exact ih (State.putQueue_wf h1)

theorem State.scatterLine_wf {s core k q p x} (h : Memory.wf s) : Memory.wf (s.scatterLine core k q p x) := by
  have hw {c who die a line ps} : Eng.wf (if p.dkind = 1 then s.copyToStash c line ps else s.engWriteLine who die a ps) :=
    Eng.wf_ite (State.copyToStash_wf h) (State.engWriteLine_wf h)
  unfold State.scatterLine
  dsimp only
  split
  next e => exact hw.of_wait e
  next e => exact State.putQueue_wf (hw.of_ok e)
  next e => exact State.streamFault_wf (hw.of_fault e)

theorem State.streamEnd_wf {s core k q p} (h : Memory.wf s) : Memory.wf (s.streamEnd core k q p) := by
  unfold State.streamEnd
  dsimp only
  split
  · split
    next s1 e =>
      have h1 : Memory.wf s1 := (State.engWriteLine_wf h).of_wait e
      exact h1
    next _ s1 e =>
      have h1 : Memory.wf s1 := (State.engWriteLine_wf h).of_ok e
      exact h1
    next _ s1 e =>
      have h1 : Memory.wf s1 := (State.engWriteLine_wf h).of_fault e
      exact State.streamFault_wf h1
  · exact h

theorem State.streamAbandon_wf {s core k q p} (h : Memory.wf s) : Memory.wf (s.streamAbandon core k q p) := by
  unfold State.streamAbandon
  refine State.unbindQueue_wf ?_
  split
  · refine foldl_wf (fun _ _ h1 => ?_) _ _ h
    exact State.scramble_wf _ _ _ _ _ h1
  · exact h

theorem State.streamPush_wf {s core k q} (h : Memory.wf s) : Memory.wf (s.streamPush core k q) := by
  unfold State.streamPush
  split
  · exact h
  · split
    · exact h
    · split <;> exact h

theorem execStreamEntryPush_wf {core k s} (h : Memory.wf s) : wfOut (execStreamEntryPush core k s) := by
  unfold execStreamEntryPush
  refine State.event_wf h (fun _ h1 => ?_)
  dsimp only
  split
  · exact h1
  · split
    · exact State.streamAbandon_wf h1
    · split
      · split <;> exact h1
      · split
        · exact h1
        · split
          · split
            · exact State.streamEnd_wf h1
            · exact State.scatterLine_wf h1
          · split
            · exact State.streamPush_wf h1
            · split
              · exact State.streamEnd_wf h1
              · split
                · exact h1
                · exact State.streamEmit_wf h1

theorem State.reportStream_wf {s w core k q} (h : Memory.wf s) : Eff.wf (s.reportStream w core k q) := by
  unfold State.reportStream
  split
  · split <;> exact .trap h
  · exact .trap h

theorem execQpop_wf {d a f s} (h : Memory.wf s) : wfOut (execQpop d a f s) := by
  unfold execQpop
  refine State.runWord_wf h (fun _ _ h1 => ?_)
  dsimp only
  split
  · exact .trap h1
  · split
    · exact State.outstanding_wf h1
    · split
      · exact .trap h1
      · split
        · exact State.reportStream_wf h1
        · exact .hold h1

theorem execQclose_wf {a s} (h : Memory.wf s) : wfOut (execQclose a s) := by
  unfold execQclose
  refine State.runWord_wf h (fun _ _ h1 => ?_)
  dsimp only
  split
  · exact .next h1
  · split
    · split
      · split
        · exact .next h1
        · exact .trap h1
      · exact .next h1
    · exact .hold h1

theorem execTideProbe_wf {core origin s} (h : Memory.wf s) : wfOut (execTideProbe core origin s) := by
  unfold execTideProbe
  refine State.event_wf h (fun _ h1 => ?_)
  dsimp only
  split <;> exact h1

theorem State.tideTrap_wf {s uid} (h : Memory.wf s) : Memory.wf (s.tideTrap uid) :=
  State.takeTrap_wf h

theorem execTideProbeReturn_wf {core n s} (h : Memory.wf s) : wfOut (execTideProbeReturn core n s) := by
  unfold execTideProbeReturn
  refine State.event_wf h (fun _ h1 => ?_)
  split
  · exact h1
  · dsimp only
    split
    · exact h1
    · split
      · exact h1
      · split
        · exact h1
        · split
          · refine foldl_wf (fun _ _ h2 => ?_) _ _ h1
            exact State.tideTrap_wf h2
          · exact h1

/-! ### Machine/Launch -/

theorem State.fwEvent_wf {s f} (h : Memory.wf s) (hf : ∀ t0, Memory.wf t0 → Memory.wf (f t0)) : wfOut (s.fwEvent f) :=
  .next (State.tick_wf (hf _ h))

theorem State.fwFault_wf {s ctx f} (h : Memory.wf s) : Memory.wf (s.fwFault ctx f) := by
  unfold State.fwFault
  split
  · exact State.reportFault_wf h
  · exact h

theorem State.pollDeps_wf {s ctx l} (h : Memory.wf s) : wfFst (s.pollDeps ctx l) := by
  induction l generalizing s with
  | nil => exact h
  | cons d rest ih =>
    unfold State.pollDeps
    split
    · exact ih h
    · exact ih (s := s) h
    · exact ih (s := s) h
    · exact ih (State.fwFault_wf h)

theorem State.pollGrid_wf {s grid} (h : Memory.wf s) : Memory.wf (s.pollGrid grid) := by
  unfold State.pollGrid
  dsimp only
  split
  · exact h
  · split
    · exact State.putGrid_wf (State.pollDeps_wf h)
    · split
      · exact State.putGrid_wf (State.pollDeps_wf h)
      · exact State.pollDeps_wf h

theorem State.pollCtx_wf {s ctx} (h : Memory.wf s) : Memory.wf (s.pollCtx ctx) := by
  unfold State.pollCtx
  refine foldl_wf (fun _ _ h1 => ?_) _ _ h
  exact State.pollGrid_wf h1

theorem State.takeRecords_wf {s ctx k n} (h : Memory.wf s) : Memory.wf (s.takeRecords ctx k n) := by
  induction n generalizing s with
  | zero => exact h
  | succ n ih => exact ih h

theorem execNotificationWrite_wf {ctx value s} (h : Memory.wf s) : wfOut (execNotificationWrite ctx value s) := by
  unfold execNotificationWrite
  refine State.fwEvent_wf h (fun _ h1 => ?_)
  dsimp only
  split
  · exact h1
  · exact State.pollCtx_wf (Memory.wf_ite h1 (State.takeRecords_wf h1))

theorem execLnch_wf {d a s} (h : Memory.wf s) : wfOut (execLnch d a s) := by
  unfold execLnch
  refine State.runWord_wf h (fun _ _ h1 => ?_)
  dsimp only
  split
  · exact .trap h1
  · split
    · exact .trap h1
    · split
      · split
        · exact .hold h1
        · split
          · exact .hold h1
          · split
            next s2 e =>
              have h2 : Memory.wf s2 := (State.engRead_wf h1).of_wait e
              exact .hold h2
            next _ s2 e =>
              have h2 : Memory.wf s2 := (State.engRead_wf h1).of_fault e
              exact .trap h2
            next _ s2 e =>
              have h2 : Memory.wf s2 := (State.engRead_wf h1).of_ok e
              exact .seam h2
      · split
        · exact .hold h1
        · exact .hold (State.setTeam_wf (State.startRelease_wf h1))

theorem execLaunchValidation_wf {grid s} (h : Memory.wf s) : wfOut (execLaunchValidation grid s) := by
  unfold execLaunchValidation
  refine State.fwEvent_wf h (fun _ h1 => ?_)
  dsimp only
  split <;> exact h1

theorem State.writeTable_wf {s grid l} (h : Memory.wf s) : Memory.wf (s.writeTable grid l) := by
  induction l generalizing s with
  | nil => exact h
  | cons e rest ih =>
    unfold State.writeTable
    dsimp only
    split
    · exact h
    · exact ih h

theorem execGridStart_wf {grid s} (h : Memory.wf s) : wfOut (execGridStart grid s) := by
  unfold execGridStart
  refine State.fwEvent_wf h (fun _ h1 => ?_)
  dsimp only
  split
  · exact h1
  · split
    · exact State.writeTable_wf h1
    · split
      · exact State.writeTable_wf h1
      · exact h1

theorem State.nextEpoch_wf {s} (h : Memory.wf s) : wfSome (s.nextEpoch) := by
  unfold State.nextEpoch
  dsimp only
  split
  · split
    · exact .some h
    · exact .none
  · exact .some h

theorem State.takeWays_wf {s core ways} (h : Memory.wf s) : Memory.wf (s.takeWays core ways) := by
  unfold State.takeWays
  split
  · exact h
  · refine foldl_wf (fun _ _ h1 => ?_) _ _ h
    exact State.wake_wf h1

theorem State.bindTeam_wf {s grid wg idx uid succ} (h : Memory.wf s) : wfSome (s.bindTeam grid wg idx uid succ) := by
  unfold State.bindTeam
  dsimp only
  split
  · exact .none
  next s1 e =>
    have h1 : Memory.wf s1 := wfSome.of_some (wfSome_ite (State.nextEpoch_wf h) (.some h)) e
    exact .some h1

theorem State.bindTeams_wf {s grid wg succ i l} (h : Memory.wf s) : wfSome (s.bindTeams grid wg succ i l) := by
  induction l generalizing s i with
  | nil => exact .some h
  | cons u rest ih =>
    unfold State.bindTeams
    split
    · exact .none
    next s1 e =>
      have h1 : Memory.wf s1 := (State.bindTeam_wf h).of_some e
      exact ih h1

theorem State.freeSlot_wf {s u} (h : Memory.wf s) : Memory.wf (s.freeSlot u) := h

theorem State.releaseHeld_wf {s grid} (h : Memory.wf s) : Memory.wf (s.releaseHeld grid) := by
  have hs : Memory.wf ((s.grids.get grid).heldWgs.foldl (fun s w => (s.heldSlots grid w).foldl State.freeSlot s) s) := by
    refine foldl_wf (fun _ _ h1 => ?_) _ _ h
    refine foldl_wf (fun _ _ h2 => ?_) _ _ h1
    exact h2
  exact hs

theorem State.queuesOut_wf {s ctx core mine} (h : Memory.wf s) : Memory.wf (s.queuesOut ctx core mine) := by
  unfold State.queuesOut
  refine foldl_wf (fun _ _ h1 => ?_) _ _ h
  dsimp only
  split <;> exact h1

theorem State.wgOut_wf {s ctx key} (h : Memory.wf s) : Memory.wf (s.wgOut ctx key) := by
  unfold State.wgOut
  refine foldl_wf (fun _ _ h1 => ?_) _ _ ?_
  · exact h1
  · refine State.modWg_wf ?_
    refine State.modCore_wf ?_
    refine foldl_wf (fun _ _ h1 => ?_) _ _ (State.queuesOut_wf h)
    dsimp only
    split
    · split <;> exact h1
    · exact h1

theorem State.withdrawWg_wf {s grid i} (h : Memory.wf s) : Memory.wf (s.withdrawWg grid i) := by
  unfold State.withdrawWg
  dsimp only
  split
  · exact State.wgOut_wf h
  · refine State.modGrid_wf ?_
    refine State.putWg_wf ?_
    refine State.modCore_wf ?_
    split
    · refine foldl_wf (fun _ _ h1 => ?_) _ _ h
      exact h1
    · refine State.modGrid_wf ?_
      refine foldl_wf (fun _ _ h1 => ?_) _ _ h
      exact h1

theorem State.withdraw_wf {s grid group} (h : Memory.wf s) : Memory.wf (s.withdraw grid group) := by
  unfold State.withdraw
  refine foldl_wf (fun _ _ h1 => ?_) _ _ h
  exact State.withdrawWg_wf h1

theorem State.bindWg_wf {s core rec0 pred} (h : Memory.wf s) : wfSome (s.bindWg core rec0 pred) := by
  unfold State.bindWg
  dsimp only
  split
  · exact .none
  next s1 e =>
    have h1 : Memory.wf s1 := (State.bindTeams_wf h).of_some e
    exact .some (State.modGrid_wf (State.putWg_wf (State.takeWays_wf h1)))

theorem execBindRecord_wf {core rec0 s} (h : Memory.wf s) : wfOut (execBindRecord core rec0 s) := by
  unfold execBindRecord
  refine State.fwEvent_wf h (fun _ h1 => ?_)
  dsimp only
  split
  · exact h1
  · refine Memory.wf_ite ?_ ?_
    · split
      · exact State.withdraw_wf h1
      · exact h1
    · split
      · exact h1
      next s2 e =>
        have h2 : Memory.wf s2 := (State.bindWg_wf h1).of_some e
        split
        · split
          · exact h1
          · exact State.withdraw_wf h1
        · split
          · exact h2
          · exact State.releaseHeld_wf h2

theorem execGroupStart_wf {grid group s} (h : Memory.wf s) : wfOut (execGroupStart grid group s) := by
  unfold execGroupStart
  refine State.fwEvent_wf h (fun _ h1 => ?_)
  dsimp only
  split
  · refine foldl_wf (fun _ _ h2 => ?_) _ _ h1
    exact h2
  · exact h1

theorem execTeamStart_wf {uid s} (h : Memory.wf s) : wfOut (execTeamStart uid s) := by
  unfold execTeamStart
  refine State.event_wf h (fun _ h1 => ?_)
  dsimp only
  split
  · exact h1
  · exact State.haltAtSeam_wf h1

theorem execRaceEpochAdvance_wf {s} (h : Memory.wf s) : wfOut (execRaceEpochAdvance s) := by
  refine State.fwEvent_wf h (fun s h1 => Memory.wf_ite ?_ h1)
  exact getD_wf (State.nextEpoch_wf h1) h1

/-! ### Machine/System -/

theorem execTrec_wf {a k s} (h : Memory.wf s) : wfOut (execTrec a k s) := by
  unfold execTrec
  refine State.runWord_wf h (fun _ _ h1 => ?_)
  dsimp only
  split <;> exact .next h1

theorem execIcinv_wf {a b p s} (h : Memory.wf s) : wfOut (execIcinv a b p s) := by
  unfold execIcinv
  refine State.runWord_wf h (fun _ _ h1 => ?_)
  split
  · split
    · exact .hold h1
    · exact .next h1
  · dsimp only
    split
    · exact .trap h1
    · exact .hold h1

theorem execRclr_wf {a b s} (h : Memory.wf s) : wfOut (execRclr a b s) := by
  unfold execRclr
  refine State.runWord_wf h (fun _ _ h1 => ?_)
  dsimp only
  split
  · exact .trap h1
  · split
    · exact .hold h1
    · refine .next ?_
      refine foldl_wf (fun _ _ h2 => ?_) _ _ h1
      exact h2

theorem State.kvReturn_wf {s d e} (h : Memory.wf s) : wfFst (s.kvReturn d e) :=
  State.kvDrop_wf h

theorem State.forkBlock_wf {s ctx d src dst blk} (h : Memory.wf s) : wfFst (s.forkBlock ctx d src dst blk) := by
  unfold State.forkBlock
  dsimp only
  split
  · exact h
  · split
    · exact State.kvReturn_wf (State.kvSetEntry_wf (Memory.wf_ite (State.kvSetCount_wf h) h))
    · exact State.kvSetEntry_wf (Memory.wf_ite (State.kvSetCount_wf h) h)

theorem State.freeBlock_wf {s ctx d seq blk} (h : Memory.wf s) : wfFst (s.freeBlock ctx d seq blk) := by
  unfold State.freeBlock
  dsimp only
  split
  · exact State.kvReturn_wf (State.kvSetEntry_wf h)
  · exact h

theorem State.kvWord_wf {s w d seqs x f} (h : Memory.wf s) (hf : ∀ y0 y1 t2, Memory.wf t2 → wfFst (f y0 y1 t2)) :
    Eff.wf (s.kvWord w d seqs x f) := by
  unfold State.kvWord
  dsimp only
  split
  · exact .trap h
  · split
    · exact .trap h
    · split
      · exact .trap h
      · split
        · exact .hold h
        · split
          · exact .hold (State.kvStep_wf h)
          · refine .next ?_
            refine State.withRegs_wf ?_
            refine foldl_keeps (P := wfFst) (fun _ _ h1 => ?_) _ _ h
            exact hf _ _ _ h1

/-! ### Machine/Collectives -/

theorem execColl_wf {d a s} (h : Memory.wf s) : wfOut (execColl d a s) := by
  unfold execColl
  refine State.runWord_wf h (fun _ _ h1 => ?_)
  dsimp only
  split
  · exact .trap h1
  · split
    · exact .trap h1
    · split
      · exact .hold h1
      · split
        next s2 e =>
          have h2 : Memory.wf s2 := (State.engRead_wf h1).of_wait e
          exact .hold h2
        next _ s2 e =>
          have h2 : Memory.wf s2 := (State.engRead_wf h1).of_fault e
          exact .trap h2
        next _ s2 e =>
          have h2 : Memory.wf s2 := (State.engRead_wf h1).of_ok e
          split
          · exact .trap h2
          · split
            · exact .trap h2
            · split
              · exact .hold h2
              · exact .seam h2

theorem execCollw_wf {d a tst s} (h : Memory.wf s) : wfOut (execCollw d a tst s) := by
  unfold execCollw
  refine State.runWord_wf h (fun _ _ h1 => ?_)
  dsimp only
  split
  · exact .next h1
  · split
    · exact .trap h1
    · split
      · exact .hold h1
      · exact .next h1

theorem State.collScramble_wf {s c} (h : Memory.wf s) : Memory.wf (s.collScramble c) :=
  State.scramble_wf _ _ _ _ _ h

theorem State.collEnd_wf {s id c status} (h : Memory.wf s) : Memory.wf (s.collEnd id c status) :=
  State.putColl_wf (State.collScramble_wf h)

theorem State.collFault_wf {s id c f} (h : Memory.wf s) : Memory.wf (s.collFault id c f) := by
  unfold State.collFault
  split
  · exact State.putColl_wf (State.holdFault_wf h)
  · exact State.putColl_wf (State.collScramble_wf h)

theorem State.collReduce_wf {s id c blocks} (h : Memory.wf s) : Memory.wf (s.collReduce id c blocks) := by
  have hr {who die a n a' n'} : Eng.wf ((s.engRead who die none a n).bind (fun src s =>
      (if c.wire = 0 then Eng.ok [] s else s.engRead who die none a' n').bind (fun res s => .ok (src, res) s))) :=
    Eng.bind_wf (State.engRead_wf h) (fun _ _ h1 => Eng.bind_wf (Eng.wf_ite (.ok h1) (State.engRead_wf h1)) (fun _ _ h2 => .ok h2))
  unfold State.collReduce
  dsimp only
  split
  next e => exact hr.of_wait e
  next e => exact State.collFault_wf (hr.of_fault e)
  next e => exact State.putColl_wf (hr.of_ok e)

theorem State.collPut_wf {s c x} (h : Memory.wf s) : Eng.wf (s.collPut c x) :=
  State.engWriteLine_wf h

theorem State.collResiduals_wf {s id c} (h : Memory.wf s) : Memory.wf (s.collResiduals id c) := by
  have hc : Eng.wf ((stashCuts c.res.toNat c.resNew).foldl (fun (e : Eng Unit) x => e.bind (fun _ s => s.collPut c x)) (.ok () s)) := by
    refine foldl_keeps (P := Eng.wf) (fun _ _ h1 => ?_) _ _ (.ok h)
    exact Eng.bind_wf h1 (fun _ _ h2 => State.collPut_wf h2)
  unfold State.collResiduals
  dsimp only
  split
  next e => exact State.putColl_wf (hc.of_ok e)
  · exact State.collFault_wf h
  · refine getD_wf (wfSome_iff.2 fun t ht => ?_) h
    obtain ⟨x, -, hx⟩ := List.exists_of_findSome?_eq_some ht
    split at hx
    next e => exact Option.some.inj hx ▸ (State.collPut_wf h).of_wait e
    · exact absurd hx nofun

theorem State.collWrite_wf {s id c l} (h : Memory.wf s) : Memory.wf (s.collWrite id c l) := by
  unfold State.collWrite
  dsimp only
  split
  · exact State.collResiduals_wf h
  · split
    next s1 e =>
      have h1 : Memory.wf s1 := (State.collPut_wf h).of_wait e
      exact h1
    next _ s1 e =>
      have h1 : Memory.wf s1 := (State.collPut_wf h).of_fault e
      exact State.collFault_wf h1
    next _ s1 e =>
      have h1 : Memory.wf s1 := (State.collPut_wf h).of_ok e
      exact h1

theorem execCollectiveCompletion_wf {id out s} (h : Memory.wf s) : wfOut (execCollectiveCompletion id out s) := by
  unfold execCollectiveCompletion
  refine State.event_wf h (fun _ h1 => ?_)
  dsimp only
  split
  · exact State.putColl_wf (Memory.wf_ite (State.collScramble_wf h1) h1)
  · split
    · exact h1
    · split
      · split
        · exact h1
        · split
          · exact State.collWrite_wf h1
          · split
            · exact h1
            · exact State.collReduce_wf h1
      · exact State.collEnd_wf h1
      · exact State.collEnd_wf h1
      · exact State.collEnd_wf h1
      · exact State.collEnd_wf h1

theorem execCollectiveTimeout_wf {id s} (h : Memory.wf s) : wfOut (execCollectiveTimeout id s) := by
  unfold execCollectiveTimeout
  refine State.event_wf h (fun _ h1 => ?_)
  dsimp only
  refine Memory.wf_ite ?_ ?_
  · exact State.collEnd_wf h1
  · exact h1

theorem State.freezeColl_wf {s id} (h : Memory.wf s) : Memory.wf (s.freezeColl id) := by
  unfold State.freezeColl
  dsimp only
  split <;> exact h

theorem State.thawColl_wf {s id} (h : Memory.wf s) : Memory.wf (s.thawColl id) := by
  unfold State.thawColl
  dsimp only
  split <;> exact h

theorem execCollectiveResume_wf {id s} (h : Memory.wf s) : wfOut (execCollectiveResume id s) := by
  unfold execCollectiveResume
  refine State.event_wf h (fun _ h1 => ?_)
  split
  · exact h1
  · exact State.thawColl_wf h1

theorem execHaltLimitExpiry_wf {id s} (h : Memory.wf s) : wfOut (execHaltLimitExpiry id s) := by
  unfold execHaltLimitExpiry
  refine State.fwEvent_wf h (fun _ h1 => ?_)
  dsimp only
  split
  · exact State.collEnd_wf h1
  · exact h1

/-! ### Machine/Control -/

theorem execClause_wf {wait a b l s} (h : Memory.wf s) : wfOut (execClause wait a b l s) := by
  unfold execClause
  refine State.runWord_wf h (fun _ _ h1 => ?_)
  dsimp only
  split
  · exact .placed h1
  · exact .hold h1

theorem regTransfer_wf {w s target after} (h : Memory.wf s) (hafter : Memory.wf after) : Eff.wf (regTransfer w s target after) := by
  unfold regTransfer
  split
  · exact .trap h
  · exact .go (.ok hafter)

theorem execBrc_wf {r c o s} (h : Memory.wf s) : wfOut (execBrc r c o s) := by
  unfold execBrc
  refine State.runWord_wf h (fun _ _ h1 => ?_)
  split
  · exact .go (.ok h1)
  · exact .next h1

theorem execMarkj_wf {o s} (h : Memory.wf s) : wfOut (execMarkj o s) := by
  unfold execMarkj
  refine State.runWord_wf h (fun _ _ h1 => ?_)
  split
  · exact .trap h1
  · exact .next h1

theorem execBrd_wf {m p o s} (h : Memory.wf s) : wfOut (execBrd m p o s) := by
  unfold execBrd
  refine State.runWord_wf h (fun _ _ h1 => ?_)
  dsimp only
  refine Eff.wf_ite ?_ ?_
  · exact .next h1
  · refine Eff.wf_ite ?_ ?_
    · exact .go (.ok h1)
    · refine .go ?_
      split
      · exact .error
      · exact .ok h1

theorem joinTop_wf {w s} (h : Memory.wf s) : Eff.wf (joinTop w s) := by
  unfold joinTop
  split
  · exact .trap h
  · exact .go (.ok h)

theorem execEnter_wf {i s} (h : Memory.wf s) : wfOut (execEnter i s) := by
  unfold execEnter
  refine State.runWord_wf h (fun _ _ h1 => ?_)
  dsimp only
  split
  · exact .seamTrap h1
  · exact .seam h1

theorem execLeave_wf {s} (h : Memory.wf s) : wfOut (execLeave s) := by
  unfold execLeave
  refine State.runWord_wf h (fun _ _ h1 => ?_)
  split
  · exact .seam h1
  · split
    · exact .trap h1
    · exact .seam h1

theorem execContset_wf {a s} (h : Memory.wf s) : wfOut (execContset a s) := by
  unfold execContset
  refine State.runWord_wf h (fun _ _ h1 => ?_)
  dsimp only
  split
  · exact .trap h1
  · split
    · exact .trap h1
    · split <;> exact .next h1

theorem execCresume_wf {s} (h : Memory.wf s) : wfOut (execCresume s) := by
  unfold execCresume
  refine State.runWord_wf h (fun _ _ h1 => ?_)
  split
  · exact .hold h1
  · split
    · exact .placedSeam h1
    · exact .hold h1

/-! ### Machine/Regroup -/

theorem execRegroup_wf {d a b n g s} (h : Memory.wf s) : wfOut (execRegroup d a b n g s) := by
  unfold execRegroup
  refine State.runWord_wf h (fun _ _ h1 => ?_)
  split
  · exact .hold h1
  · dsimp only
    split
    · exact .trap h1
    · exact .hold h1

theorem State.rgTrap_wf {s u} (h : Memory.wf s) : Memory.wf (s.rgTrap u) :=
  State.takeTrap_wf h

theorem State.rgRelease_wf {s d b n k list u} (h : Memory.wf s) : Memory.wf (s.rgRelease d b n k list u) :=
  State.afterSeam_wf h

theorem execRegroupExchange_wf {wg mask s} (h : Memory.wf s) : wfOut (execRegroupExchange wg mask s) := by
  unfold execRegroupExchange
  refine State.event_wf h (fun _ h1 => ?_)
  dsimp only
  split
  · exact h1
  · split
    · exact h1
    · split
      · refine foldl_wf (fun _ _ h2 => ?_) _ _ h1
        exact State.rgTrap_wf h2
      · refine foldl_wf (fun _ _ h2 => ?_) _ _ h1
        exact State.rgRelease_wf h2

theorem State.rgAbandon_wf {s uid} (h : Memory.wf s) : Memory.wf (s.rgAbandon uid) := by
  unfold State.rgAbandon
  refine foldl_wf (fun _ _ h1 => ?_) _ _ h
  exact State.rgTrap_wf h1

/-! ### Machine/Retire -/

theorem State.closePorts_wf {s wg} (h : Memory.wf s) : Memory.wf (s.closePorts wg) := by
  unfold State.closePorts
  refine foldl_wf (fun _ _ h1 => ?_) _ _ h
  dsimp only
  split
  · split <;> exact h1
  · exact h1

theorem State.giveAll_wf {s key} (h : Memory.wf s) : Memory.wf (s.giveAll key) := by
  unfold State.giveAll
  refine foldl_wf (fun _ _ h1 => ?_) _ _ h
  refine foldl_wf (fun _ _ h2 => ?_) _ _ h1
  split
  · exact h2
  · exact State.recallLine_wf h2

theorem State.endWg_wf {s0 key} (h : Memory.wf s0) : Memory.wf (s0.endWg key) := by
  unfold State.endWg
  dsimp only
  refine Memory.wf_ite ?_ ?_
  · refine State.putWg_wf ?_
    refine State.modCore_wf ?_
    refine Memory.wf_ite ?_ ?_
    · exact State.putGrid_wf (State.closePorts_wf (State.giveAll_wf h))
    · refine foldl_wf (fun _ _ h1 => ?_) _ _ (State.putGrid_wf (State.closePorts_wf (State.giveAll_wf h)))
      exact h1
  · refine State.releaseHeld_wf ?_
    refine State.putWg_wf ?_
    refine State.modCore_wf ?_
    refine Memory.wf_ite ?_ ?_
    · exact State.putGrid_wf (State.closePorts_wf (State.giveAll_wf h))
    · refine foldl_wf (fun _ _ h1 => ?_) _ _ (State.putGrid_wf (State.closePorts_wf (State.giveAll_wf h)))
      exact h1

theorem State.freeSlice_wf {s uid} (h : Memory.wf s) : Memory.wf (s.freeSlice uid) := by
  unfold State.freeSlice
  split <;> exact h

theorem State.latchAbandon_wf {s uid} (h : Memory.wf s) : Memory.wf (s.latchAbandon uid) := by
  unfold State.latchAbandon
  refine foldl_wf (fun _ _ h1 => ?_) _ _ h
  exact State.latchTrap_wf h1

theorem State.retire_wf {s0 uid} (h : Memory.wf s0) : Memory.wf (s0.retire uid) := by
  unfold State.retire
  dsimp only
  split
  · exact State.endWg_wf (State.latchAbandon_wf (State.rgAbandon_wf (State.modWg_wf (State.freeSlice_wf h))))
  · exact State.latchAbandon_wf (State.rgAbandon_wf (State.modWg_wf (State.freeSlice_wf h)))

theorem execExit_wf {s} (h : Memory.wf s) : wfOut (execExit s) := by
  unfold execExit
  refine State.runWord_wf h (fun _ _ h1 => ?_)
  split
  · exact .go (.ok h1)
  · split
    · exact .hold h1
    · split
      · exact .trap (State.clearStop_wf h1)
      · split
        · split
          · exact .hold h1
          · split
            next s2 e =>
              have h2 : Memory.wf s2 := (State.flushRanges_wf h1).of_mk e
              exact .placed (State.retire_wf h2)
            next s2 _ e =>
              have h2 : Memory.wf s2 := (State.flushRanges_wf h1).of_mk e
              exact State.holdFlush_wf h2
        · exact .placed (State.retire_wf h1)

theorem State.discardTeam_wf {s u} (h : Memory.wf s) : Memory.wf (s.discardTeam u) :=
  State.freeSlot_wf (State.freeSlice_wf (State.dropRequests_wf h))

theorem State.forgetGrid_wf {s grid} (h : Memory.wf s) : Memory.wf (s.forgetGrid grid) := by
  unfold State.forgetGrid
  refine State.releaseHeld_wf ?_
  refine foldl_wf (fun _ _ h1 => ?_) _ _ ?_
  · split
    · dsimp only
      split
      · refine foldl_wf (fun _ _ h2 => ?_) _ _ h1
        exact State.scramble_wf _ _ _ _ _ h2
      · exact h1
    · exact h1
  · refine foldl_wf (fun _ _ h1 => ?_) _ _ h
    refine State.putWg_wf ?_
    split
    · exact h1
    · refine State.modCore_wf ?_
      refine foldl_wf (fun _ _ h2 => ?_) _ _ h1
      exact State.discardTeam_wf h2

theorem State.unmapGrid_wf {s grid} (h : Memory.wf s) : Memory.wf (s.unmapGrid grid) := by
  unfold State.unmapGrid
  refine foldl_wf (fun _ _ h1 => ?_) _ _ h
  exact State.modWg_wf (State.giveAll_wf h1)

theorem State.class3_wf {s ctx cause detail addr} (h : Memory.wf s) : Memory.wf (s.class3 ctx cause detail addr) :=
  State.ringPut_wf h

theorem State.partialRecord_wf {s g} (h : Memory.wf s) : Memory.wf (s.partialRecord g) := by
  unfold State.partialRecord
  dsimp only
  split
  · exact h
  · exact State.raise_wf (State.homeBytes_wf h)

theorem State.endOfGrid_wf {s grid} (h : Memory.wf s) : Memory.wf (s.endOfGrid grid) := by
  have hf : Memory.wf ((s.forgetGrid grid).modGrid grid (fun g => { g with phase := .done, bound := [], carried := [] })) :=
    State.modGrid_wf (State.forgetGrid_wf h)
  unfold State.endOfGrid
  exact State.pollCtx_wf (Memory.wf_ite (State.modCtx_wf hf) hf)

theorem State.complete_wf {s grid} (h : Memory.wf s) : Memory.wf (s.complete grid) := by
  have hp {c : Prop} [Decidable c] {g} : Memory.wf (if c then s.partialRecord g else s) := Memory.wf_ite (State.partialRecord_wf h) h
  unfold State.complete
  dsimp only
  split
  · exact State.endOfGrid_wf hp
  · split
    · exact State.endOfGrid_wf (State.class3_wf hp)
    · split
      · split
        · exact State.fwFault_wf hp
        · exact State.endOfGrid_wf (State.class3_wf hp)
      · refine Memory.wf_ite (State.endOfGrid_wf (State.class3_wf hp)) ?_
        split
        · exact State.endOfGrid_wf (State.class3_wf hp)
        next e => exact (State.writeTarget_wf hp).of_wait e
        next s1 e =>
          have h1 : Memory.wf s1 := (State.writeTarget_wf hp).of_at e
          exact State.endOfGrid_wf (State.putRelease_wf (State.homeBytes_wf h1))

theorem execGridCompletion_wf {grid s} (h : Memory.wf s) : wfOut (execGridCompletion grid s) := by
  unfold execGridCompletion
  refine State.fwEvent_wf h (fun _ h1 => ?_)
  dsimp only
  split
  · exact h1
  · split
    · split
      · exact State.complete_wf h1
      · exact h1
    · split
      · split
        · exact h1
        · split
          · exact State.complete_wf h1
          · exact h1
      · split
        · exact State.complete_wf (State.unmapGrid_wf h1)
        · exact h1

theorem State.strand_wf {s uid} (h : Memory.wf s) : Memory.wf (s.strand uid) := by
  unfold State.strand
  dsimp only
  split
  · exact h
  next s1 e =>
    have h1 : Memory.wf s1 := (State.rollback_wf (State.putTeam_wf h)).of_some e
    refine Memory.wf_ite (State.endWg_wf ?_) ?_
    all_goals exact State.modWg_wf (State.modGrid_wf (State.discardTeam_wf (State.modCore_wf h1)))

theorem State.endStreams_wf {s grid} (h : Memory.wf s) : Memory.wf (s.endStreams grid) := by
  unfold State.endStreams
  refine foldl_wf (fun _ _ h1 => ?_) _ _ h
  refine foldl_wf (fun _ _ h2 => ?_) _ _ h1
  dsimp only
  split
  · exact State.streamAbandon_wf h2
  · exact h2

theorem State.endDrains_wf {s grid} (h : Memory.wf s) : Memory.wf (s.endDrains grid) := by
  unfold State.endDrains
  refine foldl_wf (fun _ _ h1 => ?_) _ _ h
  refine foldl_wf (fun _ _ h2 => ?_) _ _ h1
  split
  · exact State.drainScramble_wf h2
  · exact h2

theorem State.forceReset_wf {s ctx} (h : Memory.wf s) : Memory.wf (s.forceReset ctx) := by
  unfold State.forceReset
  refine State.modCtx_wf ?_
  refine foldl_wf (fun _ _ h1 => ?_) _ _ h
  exact State.putGrid_wf (State.forgetGrid_wf (State.endStreams_wf (State.stopGrid_wf (State.endDrains_wf (State.unmapGrid_wf h1)))))

/-! ### Machine/Traversal -/

theorem State.readNode_wf {s k node} (h : Memory.wf s) : Eng.wf (s.readNode k node) := by
  unfold State.readNode
  dsimp only
  split
  · exact .fault h
  · refine Eng.bind_wf (State.engReadLine_wf h) (fun _ _ h1 => ?_)
    split
    · exact .ok h1
    · exact .fault h1

theorem State.readSpill_wf {s k p} (h : Memory.wf s) : Eng.wf (s.readSpill k p) := by
  unfold State.readSpill
  dsimp only
  split
  · exact .fault h
  · split
    · exact .fault h
    · exact Eng.bind_wf (State.engReadLine_wf h) (fun _ _ h1 => .ok h1)

theorem State.writeSpill_wf {s k p x} (h : Memory.wf s) : Eng.wf (s.writeSpill k p x) :=
  State.engWriteLine_wf h

theorem State.pushAll_wf {s k x l} (h : Memory.wf s) : Eng.wf (s.pushAll k x l) := by
  induction l generalizing s x with
  | nil => exact .ok h
  | cons e rest ih =>
    unfold State.pushAll
    split
    · exact .fault h
    · dsimp only
      split
      · exact Eng.bind_wf (State.writeSpill_wf h) (fun _ _ h1 => ih h1)
      · exact ih h

theorem State.trPop_wf {s k x} (h : Memory.wf s) : Eng.wf (s.trPop k x) := by
  unfold State.trPop
  split
  · exact .ok h
  · refine Eng.bind_wf ?_ (fun _ _ h1 => Eng.bind_wf (State.readNode_wf h1) (fun _ _ h2 => ?_))
    · exact Eng.wf_ite (Eng.bind_wf (State.readSpill_wf h) (fun _ _ h1 => .ok h1)) (.ok h)
    · dsimp only
      split <;> exact .ok h2

theorem State.trNode_wf {s k x} (h : Memory.wf s) : Eng.wf (s.trNode k x) := by
  unfold State.trNode
  refine Eng.bind_wf (State.readNode_wf h) (fun _ _ h1 => ?_)
  split
  · exact .ok h1
  · exact Eng.bind_wf (State.pushAll_wf h1) (fun _ _ h2 => .ok h2)

theorem State.leafStep_wf {s k w x size} (h : Memory.wf s) : Eng.wf (s.leafStep k w x size) := by
  unfold State.leafStep
  dsimp only
  split
  · split
    next _ s1 e =>
      have h1 : Memory.wf s1 := (State.engReadLine_wf h).of_ok e
      exact .ok h1
    next s1 e =>
      have h1 : Memory.wf s1 := (State.engReadLine_wf h).of_wait e
      exact .wait h1
    next _ s1 e =>
      have h1 : Memory.wf s1 := (State.engReadLine_wf h).of_fault e
      exact .fault h1
  · exact .ok h

theorem State.walkStep_wf {s k w x} (h : Memory.wf s) : Eng.wf (s.walkStep k w x) := by
  unfold State.walkStep
  split
  · exact Eng.bind_wf (State.trPop_wf h) (fun _ _ h1 => .ok h1)
  · split
    · exact Eng.bind_wf (State.trNode_wf h) (fun _ _ h1 => .ok h1)
    · split
      · refine Eng.bind_wf (State.leafStep_wf h) (fun _ _ h1 => ?_)
        split
        · exact .ok h1
        · split
          · exact .fault h1
          · exact .ok h1
      · refine Eng.bind_wf (State.leafStep_wf h) (fun _ _ h1 => ?_)
        split <;> exact .ok h1

theorem State.travPart_wf {s uid id k} (h : Memory.wf s) : Memory.wf (s.travPart uid id k) := by
  unfold State.travPart
  dsimp only
  split
  · exact h
  · split
    · exact h
    · split
      · exact h
      · split
        next s1 e =>
          have h1 : Memory.wf s1 := (State.walkStep_wf h).of_wait e
          exact h1
        next _ _ _ _ s1 e =>
          have h1 : Memory.wf s1 := (State.walkStep_wf h).of_ok e
          exact h1
        next _ s1 e =>
          have h1 : Memory.wf s1 := (State.walkStep_wf h).of_fault e
          split
          · exact State.modTeam_wf (State.reportFault_wf h1)
          · exact h1

theorem State.trgetPart_wf {s uid id k} (h : Memory.wf s) : Memory.wf (s.trgetPart uid id k) := by
  unfold State.trgetPart
  dsimp only
  split
  · exact h
  · split
    · exact h
    · split
      · exact h
      · split
        next s1 e =>
          have h1 : Memory.wf s1 := (State.engRead_wf h).of_wait e
          exact h1
        next _ s1 e =>
          have h1 : Memory.wf s1 := (State.engRead_wf h).of_ok e
          exact h1
        next _ s1 e =>
          have h1 : Memory.wf s1 := (State.engRead_wf h).of_fault e
          exact h1

theorem State.issueWalk_wf {s w kind d root lanes} (h : Memory.wf s) : Eff.wf (s.issueWalk w kind d root lanes) := by
  unfold State.issueWalk
  dsimp only
  refine Eff.wf_ite ?_ ?_
  · exact .seam h
  · refine Eff.wf_ite ?_ ?_
    · exact .hold h
    · exact State.outstanding_wf h

theorem execTrace_wf {d a b f s} (h : Memory.wf s) : wfOut (execTrace d a b f s) := by
  unfold execTrace
  refine State.runWord_wf h (fun _ _ h1 => ?_)
  dsimp only
  split
  · exact .hold h1
  · split
    · exact .trap h1
    · split
      · exact .trap h1
      · split
        · exact .trap h1
        · split
          · exact .trap h1
          · exact State.issueWalk_wf h1

theorem execTrres_wf {d f s} (h : Memory.wf s) : wfOut (execTrres d f s) := by
  unfold execTrres
  refine State.runWord_wf h (fun _ _ h1 => ?_)
  dsimp only
  split
  · exact .hold h1
  · split
    · exact .trap h1
    · exact State.issueWalk_wf h1

theorem execTrget_wf {d f k s} (h : Memory.wf s) : wfOut (execTrget d f k s) := by
  unfold execTrget
  refine State.runWord_wf h (fun _ _ h1 => ?_)
  dsimp only
  split
  · exact .hold h1
  · split
    · split
      · exact .trap h1
      · exact State.outstanding_wf h1
    · exact State.outstanding_wf h1

theorem execTrhit_wf {d a s} (h : Memory.wf s) : wfOut (execTrhit d a s) := by
  unfold execTrhit
  refine State.runWord_wf h (fun _ _ h1 => ?_)
  split
  · exact .hold h1
  · refine .next ?_
    refine foldl_wf (fun _ _ h2 => ?_) _ _ h1
    dsimp only
    split <;> exact h2

theorem State.passReading_wf {s w extra} (h : Memory.wf s) : Eff.wf (s.passReading w extra) :=
  .placed h

theorem execTrsave_wf {a b p x s} (h : Memory.wf s) : wfOut (execTrsave a b p x s) := by
  unfold execTrsave
  refine State.runWord_wf h (fun _ _ h1 => ?_)
  dsimp only
  split
  · exact .hold h1
  · split
    · exact State.issueStores_wf h1 (fun _ h2 => State.passReading_wf h2)
    · refine Eff.wf_ite ?_ ?_
      · exact .trap h1
      · split
        · exact .trap h1
        · exact State.issueStores_wf (State.fillCaches_wf h1) (fun _ h2 => State.passReading_wf h2)

theorem State.readAreas_wf {s l} (h : Memory.wf s) : Eng.wf (s.readAreas l) := by
  induction l generalizing s with
  | nil => exact .ok h
  | cons x rest ih =>
    have hr : Eng.wf (s.readSpill x.1 x.2.2) := State.readSpill_wf h
    unfold State.readAreas
    split
    next e => exact .wait (hr.of_wait e)
    next e => exact .ok (hr.of_fault e)
    next e => exact Eng.bind_wf (ih (hr.of_ok e)) (fun _ _ h2 => .ok h2)

theorem State.checkAreas_wf {s ks l} (h : Memory.wf s) : Eng.wf (s.checkAreas ks l) := by
  induction l generalizing s with
  | nil => exact .ok h
  | cons x rest ih =>
    unfold State.checkAreas
    dsimp only
    split
    · exact .ok h
    · split
      · exact .ok h
      · split
        · exact .ok h
        next s1 e =>
          have h1 : Memory.wf s1 := (State.writeTarget_wf h).of_wait e
          exact .wait h1
        next s1 e =>
          have h1 : Memory.wf s1 := (State.writeTarget_wf h).of_at e
          exact ih h1

theorem State.writeAreas_wf {s ks l} (h : Memory.wf s) : Eng.wf (s.writeAreas ks l) := by
  induction l generalizing s with
  | nil => exact .ok h
  | cons x rest ih => exact Eng.bind_wf (State.writeSpill_wf h) (fun _ _ h1 => ih h1)

theorem State.putRecords_wf {s p recs pay} (h : Memory.wf s) : Memory.wf (s.putRecords p recs pay) := by
  unfold State.putRecords
  refine foldl_wf (fun _ _ h1 => ?_) _ _ h
  dsimp only
  split <;> exact h1

theorem State.loadRecords_wf {s s0 w p x recs vaOf area pay} (h : Memory.wf s) (hs0 : Memory.wf s0) :
    Eff.wf (s.loadRecords s0 w p x recs vaOf area pay) := by
  unfold State.loadRecords
  dsimp only
  split
  · exact .trap h
  · split
    · exact .hold hs0
    · split
      next s1 e =>
        have h1 : Memory.wf s1 := (State.readAreas_wf h).of_wait e
        exact .hold hs0
      next _ s1 e =>
        have h1 : Memory.wf s1 := (State.readAreas_wf h).of_fault e
        exact .trap h1
      next _ s1 e =>
        have h1 : Memory.wf s1 := (State.readAreas_wf h).of_ok e
        exact .trap h1
      next _ s1 e =>
        have h1 : Memory.wf s1 := (State.readAreas_wf h).of_ok e
        refine Eff.wf_ite ?_ ?_
        · exact .trap h1
        · refine Eff.wf_ite ?_ ?_
          · exact .trap h1
          · split
            next s2 e =>
              have h2 : Memory.wf s2 := (State.checkAreas_wf h1).of_wait e
              exact .hold h2
            next _ s2 e =>
              have h2 : Memory.wf s2 := (State.checkAreas_wf h1).of_fault e
              exact .trap h2
            next _ s2 e =>
              have h2 : Memory.wf s2 := (State.checkAreas_wf h1).of_ok e
              exact .trap h2
            next s2 e =>
              have h2 : Memory.wf s2 := (State.checkAreas_wf h1).of_ok e
              split
              next s3 e =>
                have h3 : Memory.wf s3 := (State.writeAreas_wf h2).of_wait e
                exact .hold hs0
              next _ s3 e =>
                have h3 : Memory.wf s3 := (State.writeAreas_wf h2).of_fault e
                exact .trap h3
              next _ s3 e =>
                have h3 : Memory.wf s3 := (State.writeAreas_wf h2).of_ok e
                exact .placed (State.finish_wf (Memory.wf_ite (State.setTeam_wf (State.putRecords_wf h3)) (State.putRecords_wf h3)))

theorem execTrload_wf {d a b p i x s} (h : Memory.wf s) : wfOut (execTrload d a b p i x s) := by
  unfold execTrload
  refine State.runWord_wf h (fun _ _ h1 => ?_)
  dsimp only
  split
  · exact .hold h1
  · split
    · refine State.gatherWord_wf h1 (fun _ _ h2 => ?_)
      split
      · refine Eff.wf_ite ?_ ?_
        · exact State.loadRecords_wf h2 h1
        · split
          · exact .trap h2
          · exact State.gatherWord_wf h2 (fun _ _ h3 => State.loadRecords_wf h3 h1)
      · exact State.loadRecords_wf h2 h1
    · split
      · exact .next h1
      · split
        · exact .trap h1
        · refine State.gatherWord_wf (State.fillCaches_wf h1) (fun _ _ h2 => ?_)
          refine Eff.wf_ite ?_ ?_
          · exact State.loadRecords_wf h2 h2
          · split
            · exact .trap h2
            · exact State.gatherWord_wf h2 (fun _ _ h3 => State.loadRecords_wf h3 h2)

/-! ### Machine/Debug -/

theorem execStallAccountClock_wf {core port s} (h : Memory.wf s) : wfOut (execStallAccountClock core port s) := by
  unfold execStallAccountClock
  refine State.event_wf h (fun _ h1 => ?_)
  refine foldl_wf (fun _ _ h2 => ?_) _ _ ?_
  · exact h2
  · refine State.modDie_wf ?_
    split
    · exact h1
    · split
      · split <;> exact h1
      · exact h1

theorem execTeamPromotion_wf {uid s} (h : Memory.wf s) : wfOut (execTeamPromotion uid s) := by
  unfold execTeamPromotion
  refine State.event_wf h (fun _ h1 => ?_)
  dsimp only
  split <;> exact h1

theorem execTraceSample_wf {core port s} (h : Memory.wf s) : wfOut (execTraceSample core port s) := by
  unfold execTraceSample
  refine State.event_wf h (fun _ h1 => ?_)
  dsimp only
  split
  · exact h1
  · split <;> exact h1

theorem execWringerFrame_wf {die s} (h : Memory.wf s) : wfOut (execWringerFrame die s) := by
  unfold execWringerFrame
  refine State.event_wf h (fun _ h1 => ?_)
  dsimp only
  split
  · exact h1
  · split
    · split
      · exact State.raise_wf (State.modDie_wf (State.homeNum_wf h1))
      · exact State.modDie_wf (State.homeNum_wf h1)
    · exact State.modDie_wf (State.homeNum_wf (State.homeBytes_wf h1))

/-! ### Machine/Preempt -/

theorem execPreemptionDecision_wf {ctx cores s} (h : Memory.wf s) : wfOut (execPreemptionDecision ctx cores s) := by
  unfold execPreemptionDecision
  refine State.fwEvent_wf h (fun _ h1 => ?_)
  dsimp only
  split <;> exact h1

theorem execDrainDeadline_wf {ctx die s} (h : Memory.wf s) : wfOut (execDrainDeadline ctx die s) := by
  unfold execDrainDeadline
  refine State.fwEvent_wf h (fun _ h1 => ?_)
  dsimp only
  split
  · split
    · exact h1
    · split
      · split
        · exact State.forceReset_wf h1
        · exact h1
      · exact h1
  · exact h1

theorem State.writeRecords_wf {s a l} (h : Memory.wf s) : Memory.wf (s.writeRecords a l) := by
  induction l generalizing s a with
  | nil => exact h
  | cons u rest ih => exact ih (foldl_wf (fun _ _ h1 => State.homeBytes_wf h1) _ _ h)

theorem State.writeImages_wf {s a l} (h : Memory.wf s) : Memory.wf (s.writeImages a l) := by
  induction l generalizing s a with
  | nil => exact h
  | cons key rest ih => exact ih (State.homeBytes_wf h)

theorem State.writeArea_wf {s ctx base core uids wgs} (h : Memory.wf s) : Memory.wf (s.writeArea ctx base core uids wgs) := by
  unfold State.writeArea
  refine State.homeBytes_wf ?_
  refine foldl_wf (fun _ _ h1 => ?_) _ _ ?_
  · exact State.homeBytes_wf h1
  · refine State.homeBytes_wf ?_
    refine State.writeImages_wf ?_
    refine State.homeBytes_wf ?_
    refine foldl_wf (fun _ _ h1 => ?_) _ _ (State.homeBytes_wf h)
    exact State.writeRecords_wf h1

theorem State.rollAll_wf {s l} (h : Memory.wf s) : wfSome (s.rollAll l) := by
  induction l generalizing s with
  | nil => exact .some h
  | cons u rest ih =>
    unfold State.rollAll
    split
    · split
      next s1 e =>
        have h1 : Memory.wf s1 := (State.rollback_wf h).of_some e
        exact ih h1
      · exact .none
    · exact ih h

theorem State.cleanStash_wf {s key} (h : Memory.wf s) : Memory.wf (s.cleanStash key) := by
  unfold State.cleanStash
  refine foldl_wf (fun _ _ h1 => ?_) _ _ h
  refine foldl_wf (fun _ _ h2 => ?_) _ _ h1
  split
  · exact h2
  · exact State.recallLine_wf h2

theorem State.saveCore_wf {s ctx core} (h : Memory.wf s) : wfSome (s.saveCore ctx core) := by
  unfold State.saveCore
  dsimp only
  split
  · exact .none
  next s1 e =>
    have h1 : Memory.wf s1 := (State.rollAll_wf h).of_some e
    refine .some ?_
    refine State.queuesOut_wf ?_
    refine foldl_wf (fun _ _ h2 => ?_) _ _ ?_
    · exact h2
    · refine foldl_wf (fun _ _ h2 => ?_) _ _ ?_
      · exact State.wgOut_wf h2
      · refine State.writeArea_wf ?_
        refine foldl_wf (fun _ _ h2 => ?_) _ _ h1
        exact State.cleanStash_wf h2

theorem State.saveCores_wf {s ctx l} (h : Memory.wf s) : wfSome (s.saveCores ctx l) := by
  induction l generalizing s with
  | nil => exact .some h
  | cons k rest ih =>
    unfold State.saveCores
    split
    · exact .none
    next s1 e =>
      have h1 : Memory.wf s1 := (State.saveCore_wf h).of_some e
      exact ih h1

theorem execSaveComplete_wf {ctx die s} (h : Memory.wf s) : wfOut (execSaveComplete ctx die s) := by
  unfold execSaveComplete
  refine State.fwEvent_wf h (fun _ h1 => ?_)
  dsimp only
  split
  · split
    · exact h1
    · split
      · exact State.forceReset_wf h1
      · split
        · exact h1
        next s2 e =>
          have h2 : Memory.wf s2 := (State.saveCores_wf h1).of_some e
          exact h2
  · exact h1

theorem execSaveDeadline_wf {ctx s} (h : Memory.wf s) : wfOut (execSaveDeadline ctx s) := by
  unfold execSaveDeadline
  refine State.fwEvent_wf h (fun _ h1 => ?_)
  dsimp only
  split
  · split
    · exact State.forceReset_wf h1
    · exact h1
  · exact h1

theorem State.queueBack_wf {s ctx core key k} (h : Memory.wf s) : Memory.wf (s.queueBack ctx core key k) := by
  unfold State.queueBack
  split
  · exact h
  · split
    · exact h
    · split <;> exact h

theorem State.sliceBack_wf {s ctx core uids k} (h : Memory.wf s) : Memory.wf (s.sliceBack ctx core uids k) := by
  unfold State.sliceBack
  split
  · exact h
  · split
    · exact h
    · split
      · exact h
      · split <;> exact h

theorem State.streamsBack_wf {s ctx core} (h : Memory.wf s) : Memory.wf (s.streamsBack ctx core) := by
  unfold State.streamsBack
  refine foldl_wf (fun _ _ h1 => ?_) _ _ h
  dsimp only
  split
  · exact h1
  · split
    · exact h1
    · split <;> exact h1

theorem State.allBack_wf {s ctx} (h : Memory.wf s) : Memory.wf (s.allBack ctx) := by
  unfold State.allBack
  split <;> exact h

theorem State.teamsBack_wf {s ctx uids} (h : Memory.wf s) : Memory.wf (s.teamsBack ctx uids) := by
  unfold State.teamsBack
  refine foldl_wf (fun _ _ h1 => ?_) _ _ h
  split
  · exact State.haltAtSeam_wf h1
  · exact h1

theorem State.wgBack_wf {s ctx core key uids hold} (h : Memory.wf s) : Memory.wf (s.wgBack ctx core key uids hold) := by
  unfold State.wgBack
  refine State.modWg_wf ?_
  refine foldl_wf (fun _ _ h1 => ?_) _ _ ?_
  · exact State.sliceBack_wf h1
  · refine foldl_wf (fun _ _ h1 => ?_) _ _ (State.takeWays_wf (State.teamsBack_wf h))
    exact State.queueBack_wf h1

theorem execContextRestore_wf {core rec0 s} (h : Memory.wf s) : wfOut (execContextRestore core rec0 s) := by
  unfold execContextRestore
  refine State.fwEvent_wf h (fun _ h1 => ?_)
  dsimp only
  refine Memory.wf_ite ?_ ?_
  · exact h1
  · split
    · exact State.allBack_wf (State.streamsBack_wf h1)
    · split
      · split
        · exact State.allBack_wf (State.teamsBack_wf (State.streamsBack_wf h1))
        · exact State.streamsBack_wf h1
      · split
        · exact State.allBack_wf (State.streamsBack_wf h1)
        · split
          · split
            · exact State.withdraw_wf (State.streamsBack_wf h1)
            · exact State.streamsBack_wf h1
          · split
            · exact State.allBack_wf (State.wgBack_wf (State.streamsBack_wf h1))
            · exact State.streamsBack_wf h1

/-! ### Machine/Host -/

theorem execHostAccess_wf {addr bytes write s} (h : Memory.wf s) : wfOut (execHostAccess addr bytes write s) := by
  unfold execHostAccess
  refine State.event_wf h (fun _ h1 => ?_)
  dsimp only
  split
  · exact h1
  · split
    · exact State.fillSectors_wf (State.handBack_wf h1)
    · refine foldl_wf (fun _ _ h2 => ?_) _ _ (State.putRelease_wf (State.homeBytes_wf (State.storeSectors_wf (State.handBack_wf h1))))
      exact State.flushFaults_wf h2

theorem execTimeSyncExchange_wf {die reading bound s} (h : Memory.wf s) : wfOut (execTimeSyncExchange die reading bound s) := by
  unfold execTimeSyncExchange
  refine State.event_wf h (fun _ h1 => ?_)
  dsimp only
  split <;> exact h1

theorem execDomainTimeExchange_wf {_slew bound locked s} (h : Memory.wf s) : wfOut (execDomainTimeExchange _slew bound locked s) := by
  unfold execDomainTimeExchange
  refine State.event_wf h (fun _ h1 => ?_)
  split <;> exact h1

theorem State.crossing_wf {s die other} (h : Memory.wf s) : Memory.wf (s.crossing die other) := by
  unfold State.crossing
  refine foldl_wf (fun _ _ h1 => ?_) _ _ h
  refine foldl_wf (fun _ _ h2 => ?_) _ _ h1
  split
  · exact h2
  · dsimp only
    split
    · exact State.modCore_wf (Memory.wf_ite (State.trackerHome_wf h2) h2)
    · split
      · exact State.trackerHome_wf h2
      · exact h2

theorem execShorelineLinkFailure_wf {a b s} (h : Memory.wf s) : wfOut (execShorelineLinkFailure a b s) := by
  refine State.event_wf h (fun s h1 => Memory.wf_ite h1 ?_)
  have hc : Memory.wf ((s.crossing a b).crossing b a) := State.crossing_wf (State.crossing_wf h1)
  generalize (s.crossing a b).crossing b a = t at hc ⊢
  exact hc

theorem execFabricRouteLoss_wf {m s} (h : Memory.wf s) : wfOut (execFabricRouteLoss m s) := by
  unfold execFabricRouteLoss
  refine State.event_wf h (fun _ h1 => ?_)
  split <;> exact h1

theorem State.cmdDone_wf {s status data} (h : Memory.wf s) : Memory.wf (s.cmdDone status data) :=
  State.raise_wf (State.homeBytes_wf h)

theorem State.command_wf {s op f} (h : Memory.wf s) (hf : ∀ t0 y1, Memory.wf t0 → Cmd.wf (f t0 y1)) : Memory.wf (s.command op f) := by
  unfold State.command
  dsimp only
  split
  · exact h
  · split
    · exact State.cmdDone_wf h
    · split
      · exact State.cmdDone_wf h
      · split
        · exact h
        · split
          next s1 e =>
            have h1 : Memory.wf s1 := (hf _ _ h).of_pending e
            exact h1
          next s1 _ _ e =>
            have h1 : Memory.wf s1 := (hf _ _ h).of_done e
            exact State.cmdDone_wf h1

theorem State.onCtx_wf {s l f} (h : Memory.wf s) (hf : ∀ t0 y1 y2, Memory.wf t0 → Cmd.wf (f t0 y1 y2)) : Cmd.wf (s.onCtx l f) := by
  unfold State.onCtx
  dsimp only
  split
  · exact .done h
  · exact hf _ _ _ h

theorem State.nameRing_wf {s base} (h : Memory.wf s) : Memory.wf (s.nameRing base) := by
  unfold State.nameRing
  split <;> exact h

theorem execStart_wf {s} (h : Memory.wf s) : wfOut (execStart s) := by
  unfold execStart
  refine State.fwEvent_wf h (fun _ h1 => ?_)
  refine State.command_wf h1 (fun _ _ h2 => ?_)
  dsimp only
  split
  · exact .done h2
  · split
    · exact .done h2
    · split
      · exact .done h2
      · refine .done ?_
        refine foldl_wf (fun _ _ h3 => ?_) _ _ h2
        exact State.nameRing_wf h3

theorem execCtxnew_wf {s} (h : Memory.wf s) : wfOut (execCtxnew s) := by
  unfold execCtxnew
  refine State.fwEvent_wf h (fun _ h1 => ?_)
  refine State.command_wf h1 (fun _ _ h2 => ?_)
  dsimp only
  split
  · exact .done h2
  · split
    · exact .done h2
    · refine .done ?_
      refine State.putCtx_wf ?_
      refine foldl_wf (fun _ _ h3 => ?_) _ _ h2
      exact State.nameRing_wf h3

theorem execCtxfree_wf {s} (h : Memory.wf s) : wfOut (execCtxfree s) := by
  unfold execCtxfree
  refine State.fwEvent_wf h (fun _ h1 => ?_)
  refine State.command_wf h1 (fun _ _ h2 => ?_)
  refine State.onCtx_wf h2 (fun _ _ _ h3 => ?_)
  split
  · exact .done h3
  · split
    · exact .done h3
    · refine Cmd.wf_ite ?_ ?_
      · exact .pending h3
      · exact .pending (State.forceReset_wf h3)

theorem execQreg_wf {s} (h : Memory.wf s) : wfOut (execQreg s) := by
  unfold execQreg
  refine State.fwEvent_wf h (fun _ h1 => ?_)
  refine State.command_wf h1 (fun _ _ h2 => ?_)
  refine State.onCtx_wf h2 (fun _ _ _ h3 => ?_)
  dsimp only
  split <;> exact .done h3

theorem execInval_wf {s} (h : Memory.wf s) : wfOut (execInval s) := by
  unfold execInval
  refine State.fwEvent_wf h (fun _ h1 => ?_)
  refine State.command_wf h1 (fun _ _ h2 => ?_)
  refine State.onCtx_wf h2 (fun _ _ _ h3 => ?_)
  dsimp only
  refine Cmd.wf_ite ?_ ?_
  · exact .pending h3
  · exact .done h3

theorem execResident_wf {s} (h : Memory.wf s) : wfOut (execResident s) := by
  unfold execResident
  refine State.fwEvent_wf h (fun _ h1 => ?_)
  refine State.command_wf h1 (fun _ _ h2 => ?_)
  refine State.onCtx_wf h2 (fun _ _ _ h3 => ?_)
  refine .done ?_
  refine foldl_wf (fun _ _ h4 => ?_) _ _ (State.flushFaults_wf h3)
  split
  · exact State.haltAtSeam_wf h4
  · exact h4

theorem State.haltHeld_wf {s uid} (h : Memory.wf s) : Memory.wf (s.haltHeld uid) := by
  unfold State.haltHeld
  split
  · exact h
  · split
    · exact h
    next s1 e =>
      have h1 : Memory.wf s1 := (State.rollback_wf h).of_some e
      exact h1

theorem execHalt_wf {s} (h : Memory.wf s) : wfOut (execHalt s) := by
  unfold execHalt
  refine State.fwEvent_wf h (fun _ h1 => ?_)
  refine State.command_wf h1 (fun _ _ h2 => ?_)
  refine State.onCtx_wf h2 (fun _ _ _ h3 => ?_)
  dsimp only
  refine Cmd.wf_ite ?_ ?_
  · refine .pending ?_
    refine foldl_wf (fun _ _ h4 => ?_) _ _ ?_
    · exact State.haltHeld_wf h4
    · split
      · exact h3
      · refine foldl_wf (fun _ _ h4 => ?_) _ _ h3
        exact State.freezeColl_wf h4
  · refine .done ?_
    refine foldl_wf (fun _ _ h4 => ?_) _ _ ?_
    · exact State.haltHeld_wf h4
    · split
      · exact h3
      · refine foldl_wf (fun _ _ h4 => ?_) _ _ h3
        exact State.freezeColl_wf h4

theorem execRelease_wf {s} (h : Memory.wf s) : wfOut (execRelease s) := by
  unfold execRelease
  refine State.fwEvent_wf h (fun _ h1 => ?_)
  refine State.command_wf h1 (fun _ _ h2 => ?_)
  refine State.onCtx_wf h2 (fun _ _ _ h3 => ?_)
  split
  · exact .done h3
  · refine .done ?_
    refine foldl_wf (fun _ _ h4 => ?_) _ _ h3
    exact State.thawColl_wf h4

theorem execGroup_wf {s} (h : Memory.wf s) : wfOut (execGroup s) := by
  unfold execGroup
  refine State.fwEvent_wf h (fun _ h1 => ?_)
  refine State.command_wf h1 (fun _ _ h2 => ?_)
  refine State.onCtx_wf h2 (fun _ _ _ h3 => ?_)
  dsimp only
  split <;> exact .done h3

theorem execKeyload_wf {s} (h : Memory.wf s) : wfOut (execKeyload s) := by
  unfold execKeyload
  refine State.fwEvent_wf h (fun _ h1 => ?_)
  refine State.command_wf h1 (fun _ _ h2 => ?_)
  dsimp only
  split
  · exact .done h2
  · split <;> exact .done h2

theorem execSinkrst_wf {s} (h : Memory.wf s) : wfOut (execSinkrst s) := by
  unfold execSinkrst
  refine State.fwEvent_wf h (fun _ h1 => ?_)
  refine State.command_wf h1 (fun _ _ h2 => ?_)
  dsimp only
  split <;> exact .done h2

theorem execResync_wf {s} (h : Memory.wf s) : wfOut (execResync s) := by
  refine State.fwEvent_wf h (fun s h1 => ?_)
  have hb : Memory.wf (s.homeBytes s.hub.mbox (s.syncHead ++ (List.range 256).flatMap s.syncCtx)) := State.homeBytes_wf h1
  generalize s.homeBytes s.hub.mbox (s.syncHead ++ (List.range 256).flatMap s.syncCtx) = t at hb ⊢
  exact hb

/-! ### Machine/Lanes -/

theorem execVvote_wf {d a k s} (h : Memory.wf s) : wfOut (execVvote d a k s) := by
  unfold execVvote
  refine State.runWord_wf h (fun _ _ h1 => ?_)
  refine .next ?_
  dsimp only
  split
  · exact h1
  · split
    · exact h1
    · split <;> exact h1

/-! ### Machine/LightField -/

theorem State.stashNoted_wf {s wg parts who} (h : Memory.wf s) : Memory.wf (s.stashNoted wg parts who) := by
  unfold State.stashNoted
  refine foldl_wf (fun _ _ h1 => ?_) _ _ h
  dsimp only
  split
  · exact State.setTeam_wf (State.putRelease_wf (Memory.wf_ite (State.raceUpdate_wf (Memory.wf_ite h1 (State.raceCheck_wf h1))) h1))
  · split
    · exact State.raceUpdate_wf (Memory.wf_ite h1 (State.raceCheck_wf h1))
    · exact h1

theorem State.stashNow_wf {s w reqs go} (h : Memory.wf s) (hgo : ∀ t0 y1, Memory.wf t0 → Eff.wf (go t0 y1)) :
    Eff.wf (s.stashNow w reqs go) := by
  unfold State.stashNow
  dsimp only
  split
  · exact .trap h
  · split
    · refine .hold ?_
      refine foldl_wf (fun _ _ h1 => ?_) _ _ h
      exact State.mendStash_wf h1
    · split
      next s1 _ e =>
        have h1 : Memory.wf s1 := by
          refine wfFst.of_mk ?_ e
          refine State.stashTrap_wf ?_
          refine State.fillLines_wf ?_
          refine foldl_wf (fun _ _ h1 => ?_) _ _ h
          exact State.mendStash_wf h1
        exact .trap h1
      next s1 e =>
        have h1 : Memory.wf s1 := by
          refine wfFst.of_mk ?_ e
          refine State.stashTrap_wf ?_
          refine State.fillLines_wf ?_
          refine foldl_wf (fun _ _ h1 => ?_) _ _ h
          exact State.mendStash_wf h1
        split
        · exact .trap (State.errRecord_wf h1)
        · exact hgo _ _ (State.stashNoted_wf h1)

theorem State.spanWaits_wf {s} (h : Memory.wf s) : Memory.wf (s.spanWaits) := h

theorem State.spanTake_wf {s w} (h : Memory.wf s) : Memory.wf (s.spanTake w) :=
  State.modCore_wf (State.leaveWaits_wf h)

theorem State.spanWord_wf {s w go} (h : Memory.wf s) (hgo : ∀ t, Memory.wf t → Eff.wf (go t)) : Eff.wf (s.spanWord w go) := by
  have hg : Eff.wf (go s) := hgo s h
  unfold State.spanWord
  split
  · exact .hold (State.spanWaits_wf h)
  · split
    next e => exact .next (State.spanTake_wf (hg.of_next e))
    next e => exact .seam (State.spanTake_wf (hg.of_seam e))
    · exact hg

theorem execLfset_wf {a b c s} (h : Memory.wf s) : wfOut (execLfset a b c s) := by
  unfold execLfset
  refine State.runWord_wf h (fun _ _ h1 => ?_)
  dsimp only
  split
  · exact .trap h1
  · exact State.stashNow_wf h1 (fun _ _ h2 => .next h2)

theorem execLfint_wf {d a b o l s} (h : Memory.wf s) : wfOut (execLfint d a b o l s) := by
  unfold execLfint
  refine State.runWord_wf h (fun _ _ h1 => ?_)
  refine State.spanWord_wf h1 (fun _ h2 => ?_)
  dsimp only
  split
  · split <;> exact .next h2
  · refine State.stashNow_wf h2 (fun _ _ h3 => ?_)
    split <;> exact .next h3

theorem execLfz_wf {d a wr s} (h : Memory.wf s) : wfOut (execLfz d a wr s) := by
  unfold execLfz
  refine State.runWord_wf h (fun _ _ h1 => ?_)
  dsimp only
  split
  · exact State.gatherWord_wf h1 (fun _ _ h2 => .seam h2)
  · split
    · exact .trap h1
    · split
      · exact .seam h1
      · exact State.gatherWord_wf (State.fillCaches_wf h1) (fun _ _ h2 => .seam h2)

theorem execLfout_wf {d a b c z s} (h : Memory.wf s) : wfOut (execLfout d a b c z s) := by
  unfold execLfout
  refine State.runWord_wf h (fun _ _ h1 => ?_)
  dsimp only
  split
  · exact State.issueStores_wf h1 (fun _ h2 => .seam h2)
  · split
    · exact .trap h1
    · exact State.issueStores_wf (State.fillCaches_wf h1) (fun _ h2 => .seam h2)

theorem execQmerge_wf {d a b s} (h : Memory.wf s) : wfOut (execQmerge d a b s) := by
  unfold execQmerge
  refine State.runWord_wf h (fun _ _ h1 => ?_)
  refine State.spanWord_wf h1 (fun _ h2 => ?_)
  dsimp only
  split
  · exact .trap h2
  · refine State.stashNow_wf h2 (fun _ _ h3 => ?_)
    split
    · exact .seam h3
    · split
      · exact .seam h3
      · split <;> exact .seam h3

theorem State.meshWrite_wf {s s0 w d off l verts tris bits} (h : Memory.wf s) (hs0 : Memory.wf s0) :
    Eff.wf (s.meshWrite s0 w d off l verts tris bits) := by
  unfold State.meshWrite
  dsimp only
  split
  · exact .hold hs0
  · split
    next s1 e =>
      have h1 : Memory.wf s1 := (State.stashTakeAll_wf h).of_wait e
      exact .hold h1
    next _ s1 e =>
      have h1 : Memory.wf s1 := (State.stashTakeAll_wf h).of_fault e
      exact .trap h1
    next _ s1 e =>
      have h1 : Memory.wf s1 := (State.stashTakeAll_wf h).of_ok e
      split
      next s2 _ e =>
        have h2 : Memory.wf s2 := (State.stashTrap_wf h1).of_mk e
        exact .trap h2
      next s2 e =>
        have h2 : Memory.wf s2 := (State.stashTrap_wf h1).of_mk e
        refine .next ?_
        refine State.withRegs_wf ?_
        refine foldl_wf (fun _ _ h3 => ?_) _ _ h2
        exact State.stashPerform_wf h3

theorem execMshdec_wf {d a b s} (h : Memory.wf s) : wfOut (execMshdec d a b s) := by
  unfold execMshdec
  refine State.runWord_wf h (fun _ _ h1 => ?_)
  dsimp only
  split
  · refine State.gatherWord_wf h1 (fun _ _ h2 => ?_)
    split
    · split
      · exact .trap h2
      · exact State.gatherWord_wf (State.fillCaches_wf h2) (fun _ _ h3 => .hold h3)
    · exact .trap h2
    · exact State.meshWrite_wf h2 h1
  · split
    · exact .trap h1
    · split
      · exact .trap h1
      · split
        · exact .trap h1
        · split
          · exact .trap h1
          · exact State.gatherWord_wf (State.fillCaches_wf h1) (fun _ _ h2 => .hold h2)

/-! ### Machine/Sampler -/

theorem State.mendSampler_wf {s core line uid ctx} (h : Memory.wf s) : Memory.wf (s.mendSampler core line uid ctx) := by
  unfold State.mendSampler
  split
  · exact State.modCore_wf (State.mended_wf (State.errRecord_wf h))
  · exact h

theorem State.samplerPart_wf {s0 uid id k} (h : Memory.wf s0) : Memory.wf (s0.samplerPart uid id k) := by
  have hm {c : Bool} {core line ctx} :
      Memory.wf (if c then (s0.mendSampler core line uid ctx).handBack line else s0.mendSampler core line uid ctx) :=
    Memory.wf_ite (State.handBack_wf (State.mendSampler_wf h)) (State.mendSampler_wf h)
  unfold State.samplerPart
  dsimp only
  split
  · exact h
  · split
    · exact h
    · split
      · exact h
      · split
        · exact State.modTeam_wf (State.dramError_wf hm)
        · refine State.modTeam_wf (Memory.wf_ite ?_ (State.fillSectors_wf ?_))
          all_goals exact Memory.wf_ite (State.samplerKeep_wf hm) hm

theorem State.withImage_wf {s w va go} (h : Memory.wf s) (hgo : ∀ y0, Eff.wf (go y0)) : Eff.wf (s.withImage w va go) := by
  unfold State.withImage
  split
  · exact State.issueWord_wf h (fun _ h1 => .next h1)
  · split
    · exact .trap h
    · split
      · exact .trap h
      · split
        · exact .trap (State.dramError_wf h)
        · split
          · exact .trap h
          · exact hgo _

theorem State.issueSampler_wf {s w reqs lw} (h : Memory.wf s) : Eff.wf (s.issueSampler w reqs lw) := by
  unfold State.issueSampler
  split
  · exact State.issueWord_wf h (fun _ h1 => .next h1)
  · split
    · exact .trap h
    · exact State.issueWord_wf (State.fillCaches_wf h) (fun _ h1 => .next h1)

/-! ### Machine/Requests -/

theorem execStoreAtHome_wf {src s} (h : Memory.wf s) : wfOut (execStoreAtHome src s) := by
  unfold execStoreAtHome
  refine State.event_wf h (fun _ h1 => ?_)
  split
  · exact State.trackerHome_wf h1
  · exact State.copyLine_wf h1

theorem execLoadAtHome_wf {uid id k s} (h : Memory.wf s) : wfOut (execLoadAtHome uid id k s) := by
  unfold execLoadAtHome
  refine State.event_wf h (fun _ h1 => ?_)
  split
  · exact h1
  · split
    · exact State.stashPart_wf h1
    · exact State.samplerPart_wf h1
    · exact State.travPart_wf h1
    · exact State.travPart_wf h1
    · exact State.trgetPart_wf h1
    · exact State.partHome_wf h1

theorem execAtomicAtHome_wf {src s} (h : Memory.wf s) : wfOut (execAtomicAtHome src s) := by
  unfold execAtomicAtHome
  refine State.event_wf h (fun _ h1 => ?_)
  split
  · exact State.partHome_wf h1
  · exact State.trackerHome_wf h1

theorem execSamplerInvalidation_wf {wave core s} (h : Memory.wf s) : wfOut (execSamplerInvalidation wave core s) := by
  unfold execSamplerInvalidation
  refine State.event_wf h (fun _ h1 => ?_)
  split
  · exact h1
  · split <;> exact h1

theorem execInstructionCacheInvalidation_wf {wave core s} (h : Memory.wf s) : wfOut (execInstructionCacheInvalidation wave core s) := by
  unfold execInstructionCacheInvalidation
  refine State.event_wf h (fun _ h1 => ?_)
  split
  · exact h1
  · split
    · exact h1
    · split <;> exact h1

theorem execWatchReport_wf {id s} (h : Memory.wf s) : wfOut (execWatchReport id s) := by
  unfold execWatchReport
  refine State.event_wf h (fun _ h1 => ?_)
  split
  · exact h1
  · dsimp only
    split <;> exact h1

theorem State.afterCompletion_wf {s uid} (h : Memory.wf s) : Memory.wf (s.afterCompletion uid) := by
  unfold State.afterCompletion
  dsimp only
  split
  · exact h
  · split
    · exact State.afterSeam_wf h
    · split
      · exact h
      · exact State.afterSeam_wf (State.putTeam_wf (State.dropRequests_wf h))

theorem State.wordTrap_wf {s uid w cause detail lane addr aux cls} (h : Memory.wf s) :
    Memory.wf (s.wordTrap uid w cause detail lane addr aux cls) :=
  State.takeTrap_wf h

theorem State.teach_wf {s uid seq rs} (h : Memory.wf s) : Memory.wf (s.teach uid seq rs) := by
  unfold State.teach
  split <;> exact h

theorem State.mergeWord_wf {s uid w} (h : Memory.wf s) : Memory.wf (s.mergeWord uid w) := by
  unfold State.mergeWord
  split
  · refine State.teach_wf ?_
    refine foldl_wf (fun _ _ h1 => ?_) _ _ h
    exact State.acquire_wf h1
  · exact h

theorem State.completeWord_wf {s uid w seam} (h : Memory.wf s) : Memory.wf (s.completeWord uid w seam) := by
  unfold State.completeWord
  dsimp only
  split
  · exact State.putTeam_wf (State.mergeWord_wf h)
  · split
    · exact State.putTeam_wf (State.mergeWord_wf h)
    · exact State.afterCompletion_wf (State.putTeam_wf (State.mergeWord_wf h))

theorem State.completeLoad_wf {s uid w} (h : Memory.wf s) : Memory.wf (s.completeLoad uid w) := by
  unfold State.completeLoad
  split
  · exact h
  · split
    · exact State.wordTrap_wf h
    · exact State.completeWord_wf h

theorem State.completeWalk_wf {s uid w} (h : Memory.wf s) : Memory.wf (s.completeWalk uid w) := by
  unfold State.completeWalk
  split
  · exact h
  · dsimp only
    split
    · exact State.completeWord_wf h
    · exact State.wordTrap_wf h

theorem State.stopReport_wf {s uid w f} (h : Memory.wf s) : Memory.wf (s.stopReport uid w f) :=
  State.wordTrap_wf (State.modTeam_wf (State.clearStop_wf h))

theorem State.accTrap_wf {s uid k w n row} (h : Memory.wf s) : Memory.wf (s.accTrap uid k w n row) :=
  State.wordTrap_wf (State.modTeam_wf (State.accError_wf h))

theorem State.completeMaccrd_wf {s uid w} (h : Memory.wf s) : Memory.wf (s.completeMaccrd uid w) := by
  unfold State.completeMaccrd
  split
  · exact h
  · split
    · exact State.stopReport_wf h
    · split
      · dsimp only
        split
        · exact State.accTrap_wf h
        · exact State.completeWord_wf h
      · exact h

theorem State.endDrain_wf {s uid k w d} (h : Memory.wf s) : Memory.wf (s.endDrain uid k w d) := by
  unfold State.endDrain
  split
  · exact State.accTrap_wf h
  · exact State.completeWord_wf h

theorem State.completeDrain_wf {s uid w} (h : Memory.wf s) : Memory.wf (s.completeDrain uid w) := by
  unfold State.completeDrain
  dsimp only
  split
  · exact h
  · split
    · exact State.stopReport_wf h
    · split
      next s1 e =>
        have h1 : Memory.wf s1 := (State.drainStep_wf h).of_wait e
        exact h1
      next _ s1 e =>
        have h1 : Memory.wf s1 := (State.drainStep_wf h).of_ok e
        split
        · exact State.endDrain_wf h1
        · exact h1
      next _ s1 e =>
        have h1 : Memory.wf s1 := (State.drainStep_wf h).of_fault e
        split
        · exact State.modTeam_wf (State.holdFault_wf h1)
        · exact State.wordTrap_wf h1
    · exact h

theorem execLongLatencyCompletion_wf {uid id s} (h : Memory.wf s) : wfOut (execLongLatencyCompletion uid id s) := by
  unfold execLongLatencyCompletion
  refine State.event_wf h (fun _ h1 => ?_)
  dsimp only
  split
  · exact h1
  · split
    · exact State.modTeam_wf (Memory.wf_ite (State.drainScramble_wf h1) h1)
    · split
      · exact h1
      · exact State.completeWord_wf h1
      · exact State.completeMaccrd_wf h1
      · exact State.completeDrain_wf h1
      · exact State.completeWalk_wf h1
      · exact State.completeWalk_wf h1
      · exact State.completeLoad_wf h1

/-! ### Machine/Dispatch -/

theorem exec_wf {i : Instr} {s : State} (h : Memory.wf s) : wfOut (exec i s) := by
  cases i with unfold exec
  | clause => exact execClause_wf h
  | brc => exact execBrc_wf h
  | brd => exact execBrd_wf h
  | markj => exact execMarkj_wf h
  | enter => exact execEnter_wf h
  | trec => exact execTrec_wf h
  | icinv => exact execIcinv_wf h
  | rclr => exact execRclr_wf h
  | lnch => exact execLnch_wf h
  | contset => exact execContset_wf h
  | regroup => exact execRegroup_wf h
  | vvote => exact execVvote_wf h
  | fence => exact execFence_wf h
  | waitl => exact execWaitl_wf h
  | pref => exact execPref_wf h
  | stmap => exact execStmap_wf h
  | stflush => exact execStflush_wf h
  | stunmap => exact execStunmap_wf h
  | stqry => exact execStqry_wf h
  | cpyb => exact execCpyb_wf h
  | cpyw => exact execCpyw_wf h
  | barw => exact execBarw_wf h
  | barq => exact execBarq_wf h
  | stream => exact execStream_wf h
  | qpop => exact execQpop_wf h
  | qclose => exact execQclose_wf h
  | mgang => exact execMgang_wf h
  | mma => exact execMma_wf h
  | mdrain => exact execMdrain_wf h
  | mzero => exact execMzero_wf h
  | maccwr => exact execMaccwr_wf h
  | mfmt => exact execMfmt_wf h
  | lfset => exact execLfset_wf h
  | lfint => exact execLfint_wf h
  | lfz => exact execLfz_wf h
  | lfout => exact execLfout_wf h
  | mshdec => exact execMshdec_wf h
  | qmerge => exact execQmerge_wf h
  | trace => exact execTrace_wf h
  | trres => exact execTrres_wf h
  | trget => exact execTrget_wf h
  | trhit => exact execTrhit_wf h
  | trsave => exact execTrsave_wf h
  | trload => exact execTrload_wf h
  | coll => exact execColl_wf h
  | collw => exact execCollw_wf h
  | longLatencyCompletion => exact execLongLatencyCompletion_wf h
  | storeAtHome => exact execStoreAtHome_wf h
  | loadAtHome => exact execLoadAtHome_wf h
  | atomicAtHome => exact execAtomicAtHome_wf h
  | waitlTimeout => exact execWaitlTimeout_wf h
  | teamPromotion => exact execTeamPromotion_wf h
  | tideProbe => exact execTideProbe_wf h
  | tideProbeReturn => exact execTideProbeReturn_wf h
  | barrierPhaseCompletion => exact execBarrierPhaseCompletion_wf h
  | barrierToken => exact execBarrierToken_wf h
  | regroupExchange => exact execRegroupExchange_wf h
  | mmaCompletion => exact execMmaCompletion_wf h
  | streamEntryPush => exact execStreamEntryPush_wf h
  | copyCompletion => exact execCopyCompletion_wf h
  | collectiveCompletion => exact execCollectiveCompletion_wf h
  | collectiveTimeout => exact execCollectiveTimeout_wf h
  | collectiveResume => exact execCollectiveResume_wf h
  | haltLimitExpiry => exact execHaltLimitExpiry_wf h
  | notificationWrite => exact execNotificationWrite_wf h
  | launchValidation => exact execLaunchValidation_wf h
  | gridStart => exact execGridStart_wf h
  | bindRecord => exact execBindRecord_wf h
  | groupStart => exact execGroupStart_wf h
  | teamStart => exact execTeamStart_wf h
  | gridCompletion => exact execGridCompletion_wf h
  | preemptionDecision => exact execPreemptionDecision_wf h
  | drainDeadline => exact execDrainDeadline_wf h
  | saveComplete => exact execSaveComplete_wf h
  | saveDeadline => exact execSaveDeadline_wf h
  | contextRestore => exact execContextRestore_wf h
  | traceSample => exact execTraceSample_wf h
  | wringerFrame => exact execWringerFrame_wf h
  | timeSyncExchange => exact execTimeSyncExchange_wf h
  | domainTimeExchange => exact execDomainTimeExchange_wf h
  | hostAccess => exact execHostAccess_wf h
  | shorelineLinkFailure => exact execShorelineLinkFailure_wf h
  | fabricRouteLoss => exact execFabricRouteLoss_wf h
  | samplerInvalidation => exact execSamplerInvalidation_wf h
  | instructionCacheInvalidation => exact execInstructionCacheInvalidation_wf h
  | watchReport => exact execWatchReport_wf h
  | stallAccountClock => exact execStallAccountClock_wf h
  | exit => exact execExit_wf h
  | leave => exact execLeave_wf h
  | cresume => exact execCresume_wf h
  | raceEpochAdvance => exact execRaceEpochAdvance_wf h
  | resync => exact execResync_wf h
  | start => exact execStart_wf h
  | ctxnew => exact execCtxnew_wf h
  | ctxfree => exact execCtxfree_wf h
  | qreg => exact execQreg_wf h
  | inval => exact execInval_wf h
  | resident => exact execResident_wf h
  | halt => exact execHalt_wf h
  | release => exact execRelease_wf h
  | group => exact execGroup_wf h
  | keyload => exact execKeyload_wf h
  | sinkrst => exact execSinkrst_wf h
  | hintImm | hintSched | hintMod | hintSrc3 | hintGuard => exact State.runWord_wf h (fun _ _ h1 => .placed h1)
  | bra | call => exact State.runWord_wf h (fun _ _ h1 => .go (.ok h1))
  | callr | ret => exact State.runWord_wf h (fun _ _ h1 => regTransfer_wf h1 h1)
  | trap | wordNotAnInstruction | bkpt => exact State.runWord_wf h (fun _ _ h1 => .trap h1)
  | srd | swr | time | clk | scmp | sdiv | smovi | saddi | aadd | asub | ashl | amov | amovA | aset | avec | abase | astr | aoff
  | vcvti | vlane | vdiv | vcmp | fcmp | fcvt | cvti | cvtf | fclass | vshuf | vbcast | vscan | vred | mand | mor | mxor | mnot
  | mpop | mfirst | mtos | stom | qstat | mqry | lfqry | nop | yield | isync =>
    exact State.runWord_wf h (fun _ _ h1 => .next h1)
  | sadd | ssub | smul | smulh | sand | sor | sxor | ssel | sshl | sshr | ssar | smin | smax | smov =>
    exact State.runWord_wf h (fun _ _ h1 => Wd.scalar_wf h1)
  | vadd | vsub | vmul | vmulh | vmad | vsadd | vssub | vabsd | vand | vor | vxor | vandn | vshl | vshr | vsar | vrot | vmin | vmax
  | vsel | vmov | vbfe | vbfi =>
    exact State.runWord_wf h (fun _ _ h1 => Wd.intWord_wf h1)
  | vclz | vpop | vbrev => exact State.runWord_wf h (fun _ _ h1 => Wd.intWord1_wf h1)
  | fadd | fsub | fmul | ffma | fmin | fmax | fcpsgn | fdiv => exact State.runWord_wf h (fun _ _ h1 => Wd.fltWord_wf h1)
  | frnd | frcp | frsq | fsqrt | fexp2 | flog2 | fsin | fcos => exact State.runWord_wf h (fun _ _ h1 => Wd.fltWord1_wf h1)
  | vldg | sld => exact State.runWord_wf h (fun _ _ h1 => State.issueLoad_wf h1)
  | vstg | sst => exact State.runWord_wf h (fun _ _ h1 => State.issueStore_wf h1 (fun _ h2 => .next h2))
  | vlds => exact State.runWord_wf h (fun _ _ h1 => State.stashLoad_wf h1)
  | vsts => exact State.runWord_wf h (fun _ _ h1 => State.stashStores_wf h1)
  | atom | atom64 | atomf | atxXchg32 | atxCas32 | atxLd32 | atxXchg64 | atxCas64 | atxLd64 =>
    exact State.runWord_wf h (fun _ _ h1 => State.issueAtomic_wf h1)
  | tld => exact State.runWord_wf h (fun _ _ h1 => State.issueSampler_wf h1)
  | tex | texg => exact State.runWord_wf h (fun _ _ h1 => State.withImage_wf h1 (fun _ => State.issueSampler_wf h1))
  | tqry => exact State.runWord_wf h (fun _ _ h1 => State.withImage_wf h1 (fun _ => State.outstanding_wf h1))
  | cpy | cpy2d => exact State.runWord_wf h (fun _ _ h1 => State.startCopy_wf h1)
  | bar | bara => exact State.runWord_wf h (fun _ _ h1 => State.barArrive_wf h1)
  | maccrd => exact State.runWord_wf h (fun _ _ h1 => State.withSlice_wf h1 (fun _ _ => State.outstanding_wf h1))
  | lfspan => exact State.runWord_wf h (fun _ _ h1 => State.spanWord_wf h1 (fun _ h2 => .next h2))
  | kvfork => exact State.runWord_wf h (fun _ _ h1 => State.kvWord_wf h1 (fun _ _ _ h2 => State.forkBlock_wf h2))
  | kvfree => exact State.runWord_wf h (fun _ _ h1 => State.kvWord_wf h1 (fun _ _ _ h2 => State.freeBlock_wf h2))
  | red | atxSt32 | atxSt64 => exact State.runWord_wf h (fun _ _ h1 => State.issueRed_wf h1)
  | fenceToken | thermalThrottle | registerWrite | storeAcknowledgement | wakeWithoutNotice | dvfsClockChange | thermalShutdown =>
    exact State.event_wf h (fun _ h1 => h1)
  | fenceTokenAck => exact State.event_wf h (fun _ h1 => State.tokenAck_wf h1)
  | l1Invalidate => exact State.event_wf h (fun _ h1 => State.wake_wf h1)
  | stashRecall => exact State.event_wf h (fun _ h1 => State.recall_wf h1)
  | collectiveHalt => exact State.event_wf h (fun _ h1 => State.freezeColl_wf h1)
  | dependencePoll => exact State.fwEvent_wf h (fun _ h1 => State.pollGrid_wf h1)
  | moduleReset => exact State.event_wf h (fun t _ => State.resetMem_wf t)
  | join => exact State.runWord_wf h (fun _ _ h1 => joinTop_wf h1)
  | seam => exact State.runWord_wf h (fun _ _ h1 => .seam h1)
  | attest => exact State.fwEvent_wf h (fun _ h1 => State.command_wf h1 (fun _ _ h2 => .done (State.homeBytes_wf h2)))

/-! ### Machine/Fetch -/

theorem State.fetchTrap_wf {s0 f} (h : Memory.wf s0) : Memory.wf (s0.fetchTrap f) :=
  State.takeTrap_wf (State.fetchFailed_wf h)

theorem State.teamAct_wf {s} (h : Memory.wf s) : Todo.wf (s.teamAct) := by
  unfold State.teamAct
  dsimp only
  split
  · exact .done h
  · split
    · exact .done (State.strand_wf h)
    · split
      · exact .done (State.tick_wf (State.takeTrap_wf h))
      · split
        · exact .done (State.tick_wf (State.fetchTrap_wf h))
        · exact .run (State.fetchFill_wf h)

theorem State.acted_wf {s u} (h : Memory.wf s) : Memory.wf (s.acted u) := by
  have ha : Todo.wf ({ s with cur := u } : State).teamAct := State.teamAct_wf h
  unfold State.acted
  split
  next e => exact ha.of_done e
  next s1 e =>
    have h1 : Memory.wf s1 := ha.of_run e
    split
    next e' => exact (exec_wf h1).of_next e'
    · exact h1
  · exact h

theorem State.offer_wf {u l s} (h : Memory.wf s) : wfFst (State.offer u l s) := by
  induction l generalizing s with
  | nil => exact h
  | cons v rest ih =>
    unfold State.offer
    split
    · exact h
    · exact ih (State.acted_wf h)

theorem State.turn_wf {s0 u} (h : Memory.wf s0) : wfFst (s0.turn u) := by
  unfold State.turn
  dsimp only
  split
  · exact State.portFree_wf h
  · split
    · exact State.offer_wf (State.portFree_wf h)
    · exact State.portFree_wf h

theorem State.portAct_wf {s u} (h : Memory.wf s) : Todo.wf (s.portAct u) :=
  State.teamAct_wf (State.turn_wf h)

theorem State.nextAct_wf {s} (h : Memory.wf s) : Todo.wf (s.nextAct) := by
  unfold State.nextAct
  split
  · split
    · exact .run h
    · split
      · exact .run h
      · exact .off
  · split
    · exact State.portAct_wf h
    · exact .off
  · split
    · exact State.portAct_wf h
    · exact .off

/-! ### Machine/Step -/

theorem step_wf {s} (h : Memory.wf s) : wfOut (step s) := by
  unfold step
  split
  next s1 e =>
    have h1 : Memory.wf s1 := (State.nextAct_wf h).of_done e
    exact .next h1
  next _ s1 e =>
    have h1 : Memory.wf s1 := (State.nextAct_wf h).of_run e
    exact exec_wf h1
  · exact .fault

/-- Settles O5: memory changes only by `State.setByte` and by a module reset, each of which keeps the canonical form; every operation
of a step is built of such writes and of changes to other fields, and the lemmas above follow its definition. -/
theorem stepKeepsMemory : Obligations.StepKeepsMemory := by
  unfold Obligations.StepKeepsMemory
  intro s t h e
  exact (step_wf h).of_next e

end Sys2Proof.Machine
end
